-- ==== Sys2Proof/Word.lean ====
section
/-! DEFINITION. The word types of the FZ24K: what the manual treats as bits. -/

namespace Sys2Proof

/-- One byte of a core's data memory (R202). -/
abbrev Byte := BitVec 8
/-- A Tiller data register, and every 32-bit field of a register or frame (R202). -/
abbrev Word := BitVec 32
/-- A set-up register (R488). -/
abbrev Reg64 := BitVec 64
/-- A Tiller address or offset register, 18 bits (R202). -/
abbrev Ptr := BitVec 18
/-- A Tiller accumulator, Q10.62 in 72 bits (R202, R217). -/
abbrev Acc := BitVec 72
/-- A 48-byte value: a SHA-384 digest, TAG data (R115, R436). -/
abbrev Bits384 := BitVec 384

end Sys2Proof
end

