-- ==== Sys2Proof/Syntax.lean ====
section
/-! DEFINITION. The commands of the block: one constructor per row of spec/opcode_table.json, with what each
carries from outside (a register write, the bytes a host read returned, a measurement, a protocol message). -/

set_option maxRecDepth 8000

namespace Sys2Proof

/-- The two masts (R7): fore is mast 0, main is mast 1. -/
inductive MastId where | fore | main
deriving DecidableEq, Repr

/-- An access's width (R41, R489): the whole register, one 32-bit half of it, or any other width or alignment. -/
inductive Half where | whole | lo | hi | other
deriving DecidableEq, Repr

/-- A write to one set-up register by a mast's BAR (R41, R489). `v` holds the register's bits; a 32-bit write uses
its own half of them. -/
structure RegWr where
  mast : MastId
  half : Half
  v : BitVec 64
deriving DecidableEq, Repr

/-- A PTP label: seconds and nanoseconds (R307). -/
structure Stamp where
  sec : Nat
  ns : Nat
deriving DecidableEq, Repr

/-- A firmware image as it lies in a NOR slot (R436): header, body and signature block. -/
structure FwImage where
  bytes : List Byte
deriving DecidableEq, Repr

/-- A public key record (R434): the point's coordinates. -/
structure KeyRec where
  x : Nat
  y : Nat
deriving DecidableEq, Repr

/-- What USB4 link training found (R38, R39). -/
inductive LinkMode where | gen4 | gen3Dual | other
deriving DecidableEq, Repr

/-- One entry of the topology table (R148), with its eight neighbour fields. -/
structure TopoEntry where
  cell : Nat
  stage : Nat
  role : Nat
  plane : Nat
  invert : Bool
  ncount : Nat
  pos : Nat
  resvZero : Bool
  nbs : List Nat
deriving DecidableEq, Repr

/-- A topology table (R145, R146): its header, its entries, its length in bytes, and whether its CRC-32C is right. -/
structure TopoTable where
  magic : Nat
  version : Nat
  kind : Nat
  log2n : Nat
  cells : Nat
  spares : Nat
  resvZero : Bool
  crc : Nat
  crcOk : Bool
  len : Nat
  entries : List TopoEntry
deriving DecidableEq, Repr

/-- A context table entry (R72). -/
structure CtxEntry where
  profile : Nat
  winMask : BitVec 64
deriving DecidableEq, Repr

/-- A ring table entry (R73). -/
structure RingEntry where
  cmdBase : Nat
  cplBase : Nat
  cmdLog2 : Nat
  cplLog2 : Nat
  ctx : Nat
  cplTarget : Nat
  weight : Nat
  vector : Nat
  irqEn : Bool
  coalCount : Nat
  coalUs : Nat
  shapeRate : Nat
  shapeBurst : Nat
deriving DecidableEq, Repr

/-- A doorbell word as read (R76). -/
structure Doorbell where
  ring : Nat
  prod : Nat
  cons : Nat
deriving DecidableEq, Repr

/-- The header of a command descriptor (R80), and the slots that its opcode's fields name (R97). -/
structure Entry where
  opcode : Nat
  noCpl : Bool
  irq : Bool
  fence : Bool
  sheafId : Nat
  tag : Nat
  seq : Nat
  slots : List Nat
deriving DecidableEq, Repr

/-- A host-written slot as the FZ24K reads it (R96, R97): the owner byte, the header's KIND, LEN and CRC, the payload's
bytes, and whether the read met a PCIe error completion (R498). -/
structure SlotIn where
  ref : Nat
  owner : Nat
  kind : Nat
  len : Nat
  crc : Nat
  bytes : List Byte
  err : Bool
deriving DecidableEq, Repr

/-- A slot named to be written (R96): its reference, its owner byte as read, and a PCIe error completion. -/
structure SlotOut where
  ref : Nat
  owner : Nat
  err : Bool
deriving DecidableEq, Repr

/-- One entry of a PERMUTE port map (R116). -/
structure PortEnt where
  out : Nat
  resv : Nat
  valid : Bool
deriving DecidableEq, Repr

/-- A fast-drive target as an action or a solve names it (R113, R116, R239). -/
inductive Tgt where
  | bar
  | cross
  | code (c : Nat)
  /-- W cleared: the release of a pinned spare (R114). -/
  | clearW
deriving DecidableEq, Repr

/-- One cell change of a solve: the cell and the state it takes (R159). -/
structure CellSet where
  cell : Nat
  tgt : Tgt
deriving DecidableEq, Repr

/-- What a route solve, or the solve of a PLAN, found (R157 to R163). -/
inductive Solve where
  /-- A solve that kept every circuit the sheaf does not change; `us` is its length in started microseconds (R354). -/
  | preserving (sets : List CellSet) (us : Nat)
  /-- A full solve; the settings it reached (R159). -/
  | full (sets : List CellSet) (us : Nat)
  /-- A migration's solve of the shadow plane (R166). -/
  | migration (sets : List CellSet) (us : Nat)
  /-- A PLAN's result: moved input ports and cell entries (R163). -/
  | plan (moved : List Nat) (sets : List CellSet) (us : Nat)
  /-- The preserving solve failed and PRESERVE is set (R157). -/
  | needsRearrange (us : Nat)
  /-- No path avoids the fenced cells (R158). -/
  | fenced (us : Nat)
deriving DecidableEq, Repr

/-- A heater-code post in CODE_OUT's layout (R209). -/
structure PostIn where
  code : Nat
  slot : Nat
  tag : Nat
deriving DecidableEq, Repr

/-- A kernel image as its slot's payload holds it (R229): header, code, initial data and signature block. -/
structure KernelImage where
  bytes : List Byte
deriving DecidableEq, Repr

/-- How a Thresh pass measures a cell (R283). -/
inductive CalMethod where | sweep | dither | skipped
deriving DecidableEq, Repr

/-- One line of a pass plan (R282): the round of a swept cell, and the settings that lend light to it (R289). -/
structure PlanLine where
  cell : Nat
  round : Nat
  lend : List CellSet
deriving DecidableEq, Repr

/-- Why a converter dwells (R287). -/
inductive DwellUse where | sweep | offset | trim
deriving DecidableEq, Repr

/-- A PTP Sync (R312, R316, R317). -/
structure SyncMsg where
  domain : Nat
  logInterval : Int
  twoStep : Bool
  seq : Nat
  /-- originTimestamp, in ns. -/
  origin : Nat
  /-- correctionField, in 2^-16 ns. -/
  correction : Int
  /-- The message timestamp point's place in the beat in progress, in ns. -/
  ns : Nat
  /-- The servo's correction c of R312, before SLEW_MAX. -/
  corr : Int
deriving DecidableEq, Repr

/-- A received Announce (R316, R318): the grandmaster it names, and its rank under the profile's selection algorithm
(lower is better). -/
structure AnnounceMsg where
  domain : Nat
  logInterval : Int
  gm : BitVec 64
  rank : Nat
deriving DecidableEq, Repr

/-- The events a capture unit can take (R336). -/
inductive Cause where | trigIn | halyard | time | window | fault | host
deriving DecidableEq, Repr

/-- A subscriber stream's definition (R362). -/
structure StreamDef where
  port : Nat
  ipv6 : Bool
  ipfix : Bool
  vlanEn : Bool
  dscp : Nat
  weight : Nat
  dstMac : Nat
  dstUdp : Nat
  vlanTci : Nat
  dstIp : BitVec 128
  rate : Nat
  burst : Nat
  sel : BitVec 32
  period : Nat
  first : Nat
  count : Nat
  domain : Nat
deriving DecidableEq, Repr

/-- A received Ethernet frame, as far as R359 and R360 tell frames apart. -/
inductive EthFrame where | ptp | otherFrame | badFcs
deriving DecidableEq, Repr

/-- Unit kinds of the fault collector (R384). -/
inductive UnitKind where | cell | lane | converter | tile | core | cluster | hbm | sram | eth | ctx | strike
deriving DecidableEq, Repr

/-- A unit: its kind and index (R384). -/
structure FUnit where
  kind : UnitKind
  idx : Nat
deriving DecidableEq, Repr

/-- A fault report as it reaches a collector (R377), with the unit that its row of R378 fences. -/
structure FaultMsg where
  source : Nat
  sev : Nat
  unit : Nat
  detail : BitVec 32
  fence : Option FUnit
deriving DecidableEq, Repr

/-- The register of a Tiller operation (R219, R220): slot A or slot B. -/
inductive Slot where | a | b
deriving DecidableEq, Repr

/-- Addressing modes of a memory operation (R218). -/
inductive AMode where | off | postImm | postM | ring
deriving DecidableEq, Repr

/-- The fields of a memory operation (R219): D, P, MODE and IMM. -/
structure MemF where
  d : BitVec 6
  p : BitVec 3
  mode : AMode
  imm : BitVec 15
deriving DecidableEq, Repr

/-- The three-register fields of slot B (R220). -/
structure AluF where
  d : BitVec 6
  a : BitVec 6
  b : BitVec 6
  s : Bool
deriving DecidableEq, Repr

/-- Shift kinds of SHI (R220). -/
inductive ShKind where | shl | shr | shra
deriving DecidableEq, Repr

/-- What a read of an SRAM word finds (R449, R451): an error that is corrected, one that is not, or a poisoned word. -/
inductive SramFound where | corrected | uncorrectable | poisoned
deriving DecidableEq, Repr

/-- The commands. A descriptor's row names the command ring and RING_SEQ of the accepted descriptor it starts (R80). -/
inductive Instr where
  -- boot, link, recovery
  | poresetNRise (bootSel : BitVec 2)
  | poresetNFall
  | bootImageVerified (m : MastId)
  | usb4LinkTraining (m : MastId) (mode : LinkMode)
  | pcieTunnelEstablished (m : MastId)
  | pennantBootTimeout
  | ident (m : MastId)
  | load (m : MastId) (img : FwImage)
  | norWrite (m : MastId) (img : FwImage)
  | status (m : MastId)
  -- set-up and bring-up
  | setupRegisterWrite (off : Nat) (w : RegWr)
  | timNowSRead (m : MastId) (cycle : Nat)
  | fabTileEnWrite (w : RegWr)
  | topoLoad (m : MastId)
  | topoTableFetched (bytes : Option (List Byte))
  | power (m : MastId)
  | selfCalibrationDone (tile : Nat)
  | seedRestore (m : MastId)
  | seedRestoreDone
  | calFull (m : MastId)
  | loopArm (m : MastId)
  | stageReady
  -- host interface
  | pcieReset (m : MastId)
  | usb4LinkDown (m : MastId)
  | hifEnable (w : RegWr) (ctx0 : Option CtxEntry) (ring0 : Option RingEntry)
  | hifDisable (w : RegWr)
  | backlogDrop (m : MastId)
  | hifAddrWrite (off : Nat) (w : RegWr)
  | hifPollWrite (w : RegWr)
  | hostLoss
  | hostLossDrained
  | poll
  | summaryLineReturn (line : Option (BitVec 512)) (sweep : List Doorbell)
  | doorbellBurstReturn (dbs : List Doorbell) (spec : List (Nat × List (List Byte))) (bad : List Nat)
  | fetchGrant
  | descriptorFetchReturn (ring : Nat) (ents : List (List Byte)) (err : Bool)
  | coalescingTimeout (ring : Nat)
  | inflightTailExpiry (ring seq : Nat)
  | nop (ring seq : Nat)
  | badOpcode (ring seq : Nat)
  | ctxOpen (ring seq index : Nat) (ent : Option CtxEntry)
  | ctxRebind (ring seq index : Nat)
  | ctxRebindComplete (ring seq : Nat) (ent : Option CtxEntry) (rings : List (Nat × Option RingEntry))
  | ctxClose (ring seq index : Nat) (dbs : List Doorbell)
  | ctxCloseForce (ring seq index : Nat)
  | ctxCloseComplete (ring seq : Nat)
  | ringReg (ring seq index : Nat) (ent : Option RingEntry)
  | ringUnreg (ring seq index : Nat) (force : Bool)
  | ringUnregComplete (ring seq : Nat)
  | winCfgWrite (win : Nat) (w : RegWr)
  -- sheafs
  | sheafOpen (ring seq : Nat) (readAll baseNow presolved preserve reefFail : Bool) (baseEpoch : Nat)
  | sheafCommit (ring seq : Nat) (at_ : Option Stamp)
  | sheafAbort (ring seq : Nat)
  | connect (ring seq inp out : Nat)
  | disconnect (ring seq port : Nat) (side : Bool)
  | move (ring seq keep old new : Nat) (side : Bool)
  | assert (ring seq inp out : Nat)
  | setCell (ring seq cell mode code : Nat)
  | setLoop (ring seq cell : Nat) (tileScope : Bool) (param value : Nat)
  | setPark (ring seq cell : Nat) (tileScope : Bool) (code : Nat)
  | tag (ring seq : Nat) (data : Bits384)
  | permute (ring seq : Nat) (slot : SlotIn)
  | cells (ring seq : Nat) (slot : SlotIn)
  | mapRead (ring seq epoch : Nat) (slot : SlotOut)
  | mapReadDone (ring seq : Nat)
  | epochNow (ring seq : Nat)
  | scheduledDuePoint (ring sheafId : Nat)
  | scheduledDecisionBeat (ring sheafId : Nat)
  | sheafTurn
  | routeSolveDone (res : Solve)
  | migrationShadowSettled
  | decisionToStrike
  | stagingFrame (tile tsid : Nat)
  | armFrameSend
  | armFrame (tile : Nat) (crcOk : Bool)
  | stageAcknowledgement (tile : Nat)
  | stageRefusal (tile : Nat)
  | strikeWordSend
  | disarmFrame (tile tsid : Nat)
  | strikeWord (tile : Nat) (startOk crcOk : Bool) (tsid pennant : Nat)
  | strikeBeat
  | shadowRefreshDone (sets : List CellSet)
  | armedSheafTimeout (tile : Nat)
  | strikeMissReport (tile : Nat)
  | repairWordSend
  | strayStrikeReport (tile tsid : Nat)
  | fabStrikeWrite (w : RegWr)
  | topoSwap (ring seq : Nat) (slot : SlotIn)
  | topoSwapApply
  | plan (ring seq : Nat) (inSlot : SlotIn) (outSlot : SlotOut)
  | planeSwap (ring seq : Nat)
  | healStrikeTurn
  | driverCheck (tile : Nat) (readback : List (Nat × Nat))
  | driverMismatchReport (tile : Nat)
  -- beat, watch, monitor, loop, stays
  | beatBoundary
  | watchBoundary (vhtr : List Nat) (cond : List (Nat × Nat)) (limited : List Nat)
  | conversion (tile : Nat) (light : List Nat)
  | exitReport (tile : Nat)
  | lowPowerWake (tile : Nat)
  | fabMonTileWrite (tile : Nat) (w : RegWr)
  | sampleFrame (tile lane : Nat)
  | loopLaw (core slot : Nat)
  | heaterCodeFrame (core : Nat)
  | heaterCodeDeadline
  | flightRecordFrame
  | frameDropped
  | fabBudWrite (off : Nat) (w : RegWr)
  | allowanceSpent (resource cls unit : Nat)
  | stayFrameCrcFail (tile : Nat) (second : Bool) (frameType : Nat)
  -- the Tiller instruction set
  | noOperation (core : Nat) (slot : Slot)
  | ldW (core : Nat) (f : MemF)
  | ldH (core : Nat) (f : MemF)
  | ldHu (core : Nat) (f : MemF)
  | ldD (core : Nat) (f : MemF)
  | stW (core : Nat) (f : MemF)
  | stH (core : Nat) (f : MemF)
  | stD (core : Nat) (f : MemF)
  | ldA (core : Nat) (f : MemF)
  | stA (core : Nat) (f : MemF)
  | lds (core : Nat) (f : MemF)
  | sts (core : Nat) (f : MemF)
  | movip (core : Nat) (p : BitVec 3) (imm : BitVec 18)
  | addp (core : Nat) (pk pj : BitVec 3) (imm : BitVec 15)
  | movdp (core : Nat) (pk : BitVec 3) (dn : BitVec 6) (imm : BitVec 15)
  | movim (core : Nat) (mk : BitVec 3) (imm : BitVec 16)
  | mfs (core : Nat) (dn sr : BitVec 6)
  | mts (core : Nat) (dn sr : BitVec 6)
  | b (core : Nat) (off : BitVec 16)
  | beqz (core : Nat) (dn : BitVec 6) (off : BitVec 16)
  | bnez (core : Nat) (dn : BitVec 6) (off : BitVec 16)
  | bltz (core : Nat) (dn : BitVec 6) (off : BitVec 16)
  | bgez (core : Nat) (dn : BitVec 6) (off : BitVec 16)
  | bcnt (core : Nat) (off : BitVec 16)
  | call (core : Nat) (off : BitVec 16)
  | ret (core : Nat)
  | reti (core : Nat)
  | movlc (core : Nat) (imm : BitVec 16)
  | tapm (core : Nat) (ak : BitVec 2) (clr : Bool) (pd pc : BitVec 3)
  | wait (core : Nat)
  | waitResume (core : Nat)
  | ei (core : Nat) (e : Bool)
  | add (core : Nat) (f : AluF)
  | sub (core : Nat) (f : AluF)
  | and (core : Nat) (f : AluF)
  | or (core : Nat) (f : AluF)
  | xor (core : Nat) (f : AluF)
  | shl (core : Nat) (f : AluF)
  | shr (core : Nat) (f : AluF)
  | shra (core : Nat) (f : AluF)
  | min (core : Nat) (f : AluF)
  | max (core : Nat) (f : AluF)
  | zsel (core : Nat) (f : AluF)
  | mulh (core : Nat) (f : AluF)
  | divq (core : Nat) (f : AluF)
  | addi (core : Nat) (d a : BitVec 6) (imm : BitVec 12) (s : Bool)
  | shi (core : Nat) (d a : BitVec 6) (kind : ShKind) (amt : BitVec 5) (s : Bool)
  | movi (core : Nat) (d : BitVec 6) (imm : BitVec 16)
  | movhi (core : Nat) (d : BitVec 6) (imm : BitVec 16)
  | mac (core : Nat) (ak : BitVec 2) (x c : BitVec 6) (h neg clr : Bool)
  | mac2 (core : Nat) (pair : Bool) (x y c : BitVec 6) (neg clr : Bool)
  | narrow (core : Nat) (d : BitVec 6) (ak : BitVec 2) (sh : BitVec 5) (s : Bool)
  | mva (core : Nat) (d : BitVec 6) (ak part : BitVec 2)
  | mta (core : Nat) (d : BitVec 6) (ak part : BitVec 2)
  | rot (core : Nat) (abs : Bool) (k : BitVec 5)
  | illegalBundle (core : Nat) (bundle : BitVec 64)
  | interruptEntry (core : Nat)
  | kernelBudgetStop (core : Nat)
  | serviceContextRun (core : Nat) (cycles : Nat)
  | codeOut (core : Nat) (word : Word)
  | sqCons (core : Nat) (value : Word)
  | kernelLoad (ring seq : Nat) (slot : SlotIn) (handle : Nat)
  | kernelLoadDone (ring seq : Nat)
  | kernelBind (ring seq tile handle : Nat)
  | kernelBindApply (tile : Nat)
  | kernelDrop (ring seq handle : Nat)
  -- drive
  | slewStep (cell : Nat)
  | immediateWrite (cell : Nat) (tgt : Tgt) (pennant : Nat) (thresh crcOk : Bool)
  | parkNFall
  | parkNRise
  | parkRelease
  | gainTake (tile : Nat)
  | fabDrvTileWrite (tile : Nat) (w : RegWr)
  | heaterLimitReport (tile : Nat)
  -- calibration and the seed image
  | temperatureUpdate (sensors : List (List Int))
  | calPass (ring seq tiles : Nat) (ditherOnly shadow spares noTrim : Bool)
  | passStart
  | passPlanDone (plan : List PlanLine)
  | roundStart (tile : Nat) (again : List PlanLine)
  | threshPhaseEnd (tile : Nat)
  | dwell (tile conv : Nat) (use : DwellUse) (raw : List Nat) (ovr refOk : Bool)
  | ditherTimeout (cell : Nat)
  | applicationBoundary
  | calRead (ring seq first count : Nat) (slot : SlotOut)
  | calReadDone (ring seq : Nat)
  | seedSave (ring seq : Nat)
  | seedSnapshot
  | norEraseDone (m : MastId)
  | norPageProgramDone (m : MastId)
  -- time and Halyard
  | syncMessage (m : MastId) (port : Nat) (msg : SyncMsg)
  | followUp (m : MastId) (port seq origin : Nat) (correction corr : Int)
  | announceMessage (m : MastId) (port : Nat) (msg : AnnounceMsg)
  | delayReq (m : MastId) (port ns : Nat)
  | delayResp (m : MastId) (port seq received : Nat) (correction logInterval : Int)
  | announceReceiptTimeout (m : MastId)
  | holdoverEnd (m : MastId)
  | ppsInEdge (ns : Nat) (corr : Int)
  | ppsInLoss
  | timebaseStep
  | timCtlWrite (w : RegWr)
  | timSet (w : RegWr)
  | timPtpWrite (port : Nat) (w : RegWr)
  | ppsOutEnd
  | halyardClockLoss
  | halyardTriggerSymbol (sym : BitVec 16) (slot : Nat)
  | halyardTimeCode (sym : BitVec 16)
  | halyardSlot
  -- Glean
  | trigInRise (ns : Nat)
  | captureTimeEvent (unit : Nat)
  | capArm (ring seq unit causeEn startDiv thin first count pre post : Nat) (slot : SlotOut) (owners : List Nat)
      (nslots : Nat) (at_ : Stamp)
  | capFire (ring seq unit : Nat)
  | capCancel (ring seq unit : Nat)
  | triggerSettle (unit : Nat)
  | trigOutEnd
  | captureWatchRead (unit : Nat)
  | captureRateStep (unit : Nat)
  | captureStop (unit : Nat)
  | captureDrainEnd (unit : Nat)
  -- egress and counters
  | streamOpen (ring seq stream : Nat) (slot : SlotIn)
  | streamClose (ring seq stream : Nat)
  | streamCloseDrained (stream : Nat)
  | streamCloseTimeout (stream : Nat)
  | shapeSet (ring seq kind index rate burst weight : Nat)
  | packetCloseTimeout (stream : Nat)
  | portTransmit (port : Nat)
  | calendarTick
  | templateResend (stream : Nat)
  | bandwidthWindowEnd (m : MastId) (hbm : List (Nat × Nat))
  | counterSnap (ring seq : Nat) (slot : SlotOut) (clear : Bool)
  | counterSnapLatch
  | pmcSelWrite (k : Nat) (w : RegWr)
  | ethPortWrite (off : Nat) (w : RegWr)
  | ethFrameReceive (m : MastId) (port len : Nat) (f : EthFrame)
  | ethernetLinkLost (m : MastId) (port : Nat)
  | rsFecErrorLimit (m : MastId) (port codewords : Nat)
  -- faults and Winnow
  | faultReport (m : MastId) (reports : List FaultMsg)
  | faultVectorHoldoffEnd (m : MastId)
  | pcieErrorCompletion (kind index : Nat)
  | winnowTestStart (m : MastId)
  | winnowTestEnd (m : MastId) (u : FUnit) (seen : List Int)
  | winnowTestTimeout (m : MastId) (u : FUnit)
  | fltFenceCmd (w : RegWr)
  | fltFirstClr (w : RegWr)
  | fltPendWrite (i : Nat) (w : RegWr)
  -- the pennant
  | renewalSend
  | renewalFrame (tile : Nat)
  | renewalAck (tile : Nat)
  | leaseEnd (tile : Nat)
  | holderSelfStop
  | idleFrame (tile : Nat)
  | pennantClaim
  | claimFrame (tile : Nat)
  | claimReachTimeout (tile : Nat)
  | pennantSettlement
  | releaseFrame (tile : Nat)
  | handover (w : RegWr)
  | handoverBegin
  | handoverRelease
  | handoverWord
  | journalEntry
  | gaffMirror
  | mirrorAcknowledgement (ring seq : Nat)
  | penCtlWrite (w : RegWr)
  | penCtlSync
  | gaffLinkDown (peerHalted : Bool)
  | standbyRejoin
  -- power and heat
  | admissionSlot
  | domainAlive (domain : Nat)
  | tileEnabled (tile : Nat)
  | tileDisable (tile : Nat)
  | sprintLimit
  | sprintWaitEnd
  | hoverDwellEnd
  | junctionSample (tj : Int)
  | junctionWarningClear
  | thermalTrip
  | norHoldupEnd
  | thermalRestart (bootSel : BitVec 2)
  | pwrHtrWrite (w : RegWr)
  | pmbusPoll (replies : List (Nat × Option Nat))
  | pmbAlertNFall (replies : List (Nat × Option Nat))
  -- trust
  | receipt (ring seq epoch : Nat) (slot : SlotOut) (nonce : BitVec 256)
  | receiptSigned
  | identRead (ring seq : Nat) (slot : SlotOut)
  | keyProgram (ring seq : Nat) (slot : SlotIn)
  | keyRevoke (ring seq : Nat) (slot : SlotIn)
  -- memories, Yard, CRC
  | sramEccError (m : MastId) (bank word : Nat) (found : SramFound) (need : Option (Nat × Nat)) (written : List Nat)
  | sramBankCopyDone (m : MastId)
  | hbmEccError (m : MastId) (channel : Nat) (addr : BitVec 38) (uncorrectable : Bool)
  | hbmRebuildDone (m : MastId)
  | memoryScrub (m : MastId) (hbm : List (Nat × BitVec 38)) (sram : List Nat)
  | defaultTargetAccess (m : MastId) (master : Nat) (write : Bool) (addr : BitVec 38)
  | yrdErrClr (w : RegWr)
  | yardBypassSwitch (m : MastId) (fast : Bool)
  | init (m : MastId)
  | feedB (m : MastId) (v : BitVec 8)
  | feedH (m : MastId) (v : BitVec 16)
  | feedW (m : MastId) (v : BitVec 32)
  | result (m : MastId)
  | crcScanStart (m : MastId)
  | crcScanDone (m : MastId) (bytes : List Byte)
  | refclkLoss (m : MastId)
  | refclkReturn (m : MastId)
  | rcRegisterRead (off : Nat) (mast : MastId) (half : Half)
  | gaffLinkTrained
  | ethernetLinkUp (m : MastId) (port : Nat)
  | halyardClockLock (rate : Int)
  | powerFailure
deriving DecidableEq, Repr

end Sys2Proof
end

