-- ==== Sys2Proof/WellFormed.lean ====
section
/-! DEFINITION. Well-formed commands: operands within the ranges the manual gives their fields. -/

namespace Sys2Proof

/-- A memory operation's fields (R219): MODE 0b10 names m in IMM[14:12] and leaves IMM[11:0] zero. -/
def MemF.wf (f : MemF) : Bool := f.mode != .postM || f.imm.extractLsb' 0 12 == 0

/-- The special-register indices of R219. -/
def srOk (sr : BitVec 6) : Bool := sr.toNat ≤ 21

/-- S is zero where an operation does not use it (R220). -/
def AluF.noS (f : AluF) : Bool := !f.s

/-- A Tiller operation's own fields (R219, R220): even pairs, accumulator and special-register indices, unused S. -/
def Instr.opWf : Instr → Bool
  | .ldW _ f => f.wf
  | .ldH _ f => f.wf
  | .ldHu _ f => f.wf
  | .ldD _ f => f.wf && !f.d.getLsbD 0
  | .stW _ f => f.wf
  | .stH _ f => f.wf
  | .stD _ f => f.wf && !f.d.getLsbD 0
  | .ldA _ f => f.wf && f.d.toNat < 4
  | .stA _ f => f.wf && f.d.toNat < 4
  | .lds _ f => f.wf && srOk f.d
  | .sts _ f => f.wf && srOk f.d
  | .mfs _ _ sr => srOk sr
  | .mts _ _ sr => srOk sr
  | .and _ f => f.noS
  | .or _ f => f.noS
  | .xor _ f => f.noS
  | .shr _ f => f.noS
  | .shra _ f => f.noS
  | .min _ f => f.noS
  | .max _ f => f.noS
  | .zsel _ f => f.noS
  | .divq _ f => f.noS
  | .shi _ _ _ k _ s => k == .shl || !s
  | .mva _ _ _ part => part != 3
  | .mta _ _ _ part => part != 3
  | _ => true

/-- Operands that index, each with its exclusive bound: tiles 16, cells 24,576, lanes 1,536 (R8); cores 64, slots 384
(R202, R204); rings and contexts 4,096 (R65); windows 64 (R95); converters 48 (R259); streams 256 (R361); capture units 4
(R336); ports 2 (R359); counters 256 (R368); domains 48 (R414). A field a descriptor's own checks judge has no bound. -/
def Instr.bounds : Instr → List (Nat × Nat)
  | .selfCalibrationDone tile => [(tile, 16)]
  | .descriptorFetchReturn ring _ _ => [(ring, 4096)]
  | .coalescingTimeout ring => [(ring, 4096)]
  | .inflightTailExpiry ring _ => [(ring, 4096)]
  | .nop ring _ => [(ring, 4096)]
  | .badOpcode ring _ => [(ring, 4096)]
  | .ctxOpen ring _ index _ => [(ring, 4096), (index, 4096)]
  | .ctxRebind ring _ index => [(ring, 4096), (index, 4096)]
  | .ctxRebindComplete ring _ _ _ => [(ring, 4096)]
  | .ctxClose ring _ index _ => [(ring, 4096), (index, 4096)]
  | .ctxCloseForce ring _ index => [(ring, 4096), (index, 4096)]
  | .ctxCloseComplete ring _ => [(ring, 4096)]
  | .ringReg ring _ index _ => [(ring, 4096), (index, 4096)]
  | .ringUnreg ring _ index _ => [(ring, 4096), (index, 4096)]
  | .ringUnregComplete ring _ => [(ring, 4096)]
  | .winCfgWrite win _ => [(win, 64)]
  | .sheafOpen ring _ _ _ _ _ _ _ => [(ring, 4096)]
  | .sheafCommit ring _ _ => [(ring, 4096)]
  | .sheafAbort ring _ => [(ring, 4096)]
  | .connect ring _ _ _ => [(ring, 4096)]
  | .disconnect ring _ _ _ => [(ring, 4096)]
  | .move ring _ _ _ _ _ => [(ring, 4096)]
  | .assert ring _ _ _ => [(ring, 4096)]
  | .setCell ring _ _ _ _ => [(ring, 4096)]
  | .setLoop ring _ _ _ _ _ => [(ring, 4096)]
  | .setPark ring _ _ _ _ => [(ring, 4096)]
  | .tag ring _ _ => [(ring, 4096)]
  | .permute ring _ _ => [(ring, 4096)]
  | .cells ring _ _ => [(ring, 4096)]
  | .mapRead ring _ _ _ => [(ring, 4096)]
  | .mapReadDone ring _ => [(ring, 4096)]
  | .epochNow ring _ => [(ring, 4096)]
  | .scheduledDuePoint ring sheafId => [(ring, 4096), (sheafId, 65536)]
  | .scheduledDecisionBeat ring sheafId => [(ring, 4096), (sheafId, 65536)]
  | .stagingFrame tile _ => [(tile, 16)]
  | .armFrame tile _ => [(tile, 16)]
  | .stageAcknowledgement tile => [(tile, 16)]
  | .stageRefusal tile => [(tile, 16)]
  | .disarmFrame tile _ => [(tile, 16)]
  | .strikeWord tile _ _ _ _ => [(tile, 16)]
  | .armedSheafTimeout tile => [(tile, 16)]
  | .strikeMissReport tile => [(tile, 16)]
  | .strayStrikeReport tile _ => [(tile, 16)]
  | .topoSwap ring _ _ => [(ring, 4096)]
  | .plan ring _ _ _ => [(ring, 4096)]
  | .planeSwap ring _ => [(ring, 4096)]
  | .driverCheck tile _ => [(tile, 16)]
  | .driverMismatchReport tile => [(tile, 16)]
  | .conversion tile _ => [(tile, 16)]
  | .exitReport tile => [(tile, 16)]
  | .lowPowerWake tile => [(tile, 16)]
  | .fabMonTileWrite tile _ => [(tile, 16)]
  | .sampleFrame tile lane => [(tile, 16), (lane, 1536)]
  | .loopLaw core slot => [(core, 64), (slot, 384)]
  | .heaterCodeFrame core => [(core, 64)]
  | .stayFrameCrcFail tile _ _ => [(tile, 16)]
  | .noOperation core _ => [(core, 64)]
  | .ldW core _ => [(core, 64)]
  | .ldH core _ => [(core, 64)]
  | .ldHu core _ => [(core, 64)]
  | .ldD core _ => [(core, 64)]
  | .stW core _ => [(core, 64)]
  | .stH core _ => [(core, 64)]
  | .stD core _ => [(core, 64)]
  | .ldA core _ => [(core, 64)]
  | .stA core _ => [(core, 64)]
  | .lds core _ => [(core, 64)]
  | .sts core _ => [(core, 64)]
  | .movip core _ _ => [(core, 64)]
  | .addp core _ _ _ => [(core, 64)]
  | .movdp core _ _ _ => [(core, 64)]
  | .movim core _ _ => [(core, 64)]
  | .mfs core _ _ => [(core, 64)]
  | .mts core _ _ => [(core, 64)]
  | .b core _ => [(core, 64)]
  | .beqz core _ _ => [(core, 64)]
  | .bnez core _ _ => [(core, 64)]
  | .bltz core _ _ => [(core, 64)]
  | .bgez core _ _ => [(core, 64)]
  | .bcnt core _ => [(core, 64)]
  | .call core _ => [(core, 64)]
  | .ret core => [(core, 64)]
  | .reti core => [(core, 64)]
  | .movlc core _ => [(core, 64)]
  | .tapm core _ _ _ _ => [(core, 64)]
  | .wait core => [(core, 64)]
  | .waitResume core => [(core, 64)]
  | .ei core _ => [(core, 64)]
  | .add core _ => [(core, 64)]
  | .sub core _ => [(core, 64)]
  | .and core _ => [(core, 64)]
  | .or core _ => [(core, 64)]
  | .xor core _ => [(core, 64)]
  | .shl core _ => [(core, 64)]
  | .shr core _ => [(core, 64)]
  | .shra core _ => [(core, 64)]
  | .min core _ => [(core, 64)]
  | .max core _ => [(core, 64)]
  | .zsel core _ => [(core, 64)]
  | .mulh core _ => [(core, 64)]
  | .divq core _ => [(core, 64)]
  | .addi core _ _ _ _ => [(core, 64)]
  | .shi core _ _ _ _ _ => [(core, 64)]
  | .movi core _ _ => [(core, 64)]
  | .movhi core _ _ => [(core, 64)]
  | .mac core _ _ _ _ _ _ => [(core, 64)]
  | .mac2 core _ _ _ _ _ _ => [(core, 64)]
  | .narrow core _ _ _ _ => [(core, 64)]
  | .mva core _ _ _ => [(core, 64)]
  | .mta core _ _ _ => [(core, 64)]
  | .rot core _ _ => [(core, 64)]
  | .illegalBundle core _ => [(core, 64)]
  | .interruptEntry core => [(core, 64)]
  | .kernelBudgetStop core => [(core, 64)]
  | .serviceContextRun core _ => [(core, 64)]
  | .codeOut core _ => [(core, 64)]
  | .sqCons core _ => [(core, 64)]
  | .kernelLoad ring _ _ _ => [(ring, 4096)]
  | .kernelLoadDone ring _ => [(ring, 4096)]
  | .kernelBind ring _ tile _ => [(ring, 4096), (tile, 16)]
  | .kernelBindApply tile => [(tile, 16)]
  | .kernelDrop ring _ _ => [(ring, 4096)]
  | .slewStep cell => [(cell, 24576)]
  | .immediateWrite cell _ _ _ _ => [(cell, 24576)]
  | .gainTake tile => [(tile, 16)]
  | .fabDrvTileWrite tile _ => [(tile, 16)]
  | .heaterLimitReport tile => [(tile, 16)]
  | .calPass ring _ _ _ _ _ _ => [(ring, 4096)]
  | .roundStart tile _ => [(tile, 16)]
  | .threshPhaseEnd tile => [(tile, 16)]
  | .dwell tile conv _ _ _ _ => [(tile, 16), (conv, 48)]
  | .ditherTimeout cell => [(cell, 24576)]
  | .calRead ring _ _ _ _ => [(ring, 4096)]
  | .calReadDone ring _ => [(ring, 4096)]
  | .seedSave ring _ => [(ring, 4096)]
  | .syncMessage _ port _ => [(port, 2)]
  | .followUp _ port _ _ _ _ => [(port, 2)]
  | .announceMessage _ port _ => [(port, 2)]
  | .delayReq _ port _ => [(port, 2)]
  | .delayResp _ port _ _ _ _ => [(port, 2)]
  | .timPtpWrite port _ => [(port, 2)]
  | .captureTimeEvent unit => [(unit, 4)]
  | .capArm ring _ unit _ _ _ _ _ _ _ _ _ _ _ => [(ring, 4096), (unit, 4)]
  | .capFire ring _ unit => [(ring, 4096), (unit, 4)]
  | .capCancel ring _ unit => [(ring, 4096), (unit, 4)]
  | .triggerSettle unit => [(unit, 4)]
  | .captureWatchRead unit => [(unit, 4)]
  | .captureRateStep unit => [(unit, 4)]
  | .captureStop unit => [(unit, 4)]
  | .captureDrainEnd unit => [(unit, 4)]
  | .streamOpen ring _ _ _ => [(ring, 4096)]
  | .streamClose ring _ _ => [(ring, 4096)]
  | .streamCloseDrained stream => [(stream, 256)]
  | .streamCloseTimeout stream => [(stream, 256)]
  | .shapeSet ring _ _ _ _ _ _ => [(ring, 4096)]
  | .packetCloseTimeout stream => [(stream, 256)]
  | .portTransmit port => [(port, 2)]
  | .templateResend stream => [(stream, 256)]
  | .counterSnap ring _ _ _ => [(ring, 4096)]
  | .pmcSelWrite k _ => [(k, 256)]
  | .ethFrameReceive _ port _ _ => [(port, 2)]
  | .ethernetLinkLost _ port => [(port, 2)]
  | .rsFecErrorLimit _ port _ => [(port, 2)]
  | .fltPendWrite i _ => [(i, 4)]
  | .renewalFrame tile => [(tile, 16)]
  | .renewalAck tile => [(tile, 16)]
  | .leaseEnd tile => [(tile, 16)]
  | .idleFrame tile => [(tile, 16)]
  | .claimFrame tile => [(tile, 16)]
  | .claimReachTimeout tile => [(tile, 16)]
  | .releaseFrame tile => [(tile, 16)]
  | .mirrorAcknowledgement ring _ => [(ring, 4096)]
  | .domainAlive domain => [(domain, 48)]
  | .tileEnabled tile => [(tile, 16)]
  | .tileDisable tile => [(tile, 16)]
  | .receipt ring _ _ _ _ => [(ring, 4096)]
  | .identRead ring _ _ => [(ring, 4096)]
  | .keyProgram ring _ _ => [(ring, 4096)]
  | .keyRevoke ring _ _ => [(ring, 4096)]
  | .hbmEccError _ channel _ _ => [(channel, 32)]
  | .ethernetLinkUp _ port => [(port, 2)]
  | _ => []

/-- A well-formed command. -/
def Instr.wf (i : Instr) : Bool := i.opWf && i.bounds.all (fun e => e.1 < e.2)

end Sys2Proof
end

