-- ==== Sys2Proof/Decode.lean ====
section
/-! DEFINITION. Words. The opcode table gives its rows no bits; the one encoding the manual gives is that of the Tiller
slot words (R214, R219, R220), here as an encoder and a decoder that rejects everything else. -/

namespace Sys2Proof

/-- The table gives no row any bits, so no word spells a command. -/
def decodeTableWord (_nbits _w : Nat) : Option Instr := none

/-- A field of a slot word. -/
def fieldOf (w : BitVec 32) (lo n : Nat) : BitVec n := w.extractLsb' lo n

def amodeBits : AMode → BitVec 2
  | .off => 0 | .postImm => 1 | .postM => 2 | .ring => 3

def amodeOf (b : BitVec 2) : AMode :=
  match b.toNat with
  | 0 => .off
  | 1 => .postImm
  | 2 => .postM
  | _ => .ring

def bitOf (b : Bool) : BitVec 1 := BitVec.ofBool b

/-- The memory format (R219). -/
def encMem (op : BitVec 6) (f : MemF) : BitVec 32 := op ++ f.d ++ f.p ++ amodeBits f.mode ++ f.imm

def decMem (w : BitVec 32) : MemF := ⟨fieldOf w 20 6, fieldOf w 17 3, amodeOf (fieldOf w 15 2), fieldOf w 0 15⟩

/-- Branch format: dN in [25:20], OFF in [15:0] (R219). -/
def encBr (op dn : BitVec 6) (off : BitVec 16) : BitVec 32 := op ++ dn ++ (0 : BitVec 4) ++ off

/-- Three-register format: dD, dA, dB, S (R220). -/
def encAlu (op : BitVec 6) (f : AluF) : BitVec 32 := op ++ f.d ++ f.a ++ f.b ++ bitOf f.s ++ (0 : BitVec 7)

def decAlu (w : BitVec 32) : AluF := ⟨fieldOf w 20 6, fieldOf w 14 6, fieldOf w 8 6, w.getLsbD 7⟩

def shBits : ShKind → BitVec 2
  | .shl => 0 | .shr => 1 | .shra => 2

/-- The word of a slot-A operation (R219); `none` for any other command. -/
def encA : Instr → Option (BitVec 32)
  | .noOperation _ .a => some 0
  | .ldW _ f => some (encMem 0x01 f)
  | .ldH _ f => some (encMem 0x02 f)
  | .ldHu _ f => some (encMem 0x03 f)
  | .ldD _ f => some (encMem 0x04 f)
  | .stW _ f => some (encMem 0x05 f)
  | .stH _ f => some (encMem 0x06 f)
  | .stD _ f => some (encMem 0x07 f)
  | .ldA _ f => some (encMem 0x08 f)
  | .stA _ f => some (encMem 0x09 f)
  | .lds _ f => some (encMem 0x0A f)
  | .sts _ f => some (encMem 0x0B f)
  | .movip _ p imm => some ((0x10 : BitVec 6) ++ p ++ (0 : BitVec 5) ++ imm)
  | .addp _ pk pj imm => some ((0x11 : BitVec 6) ++ pk ++ pj ++ (0 : BitVec 5) ++ imm)
  | .movdp _ pk dn imm => some ((0x12 : BitVec 6) ++ pk ++ dn ++ (0 : BitVec 2) ++ imm)
  | .movim _ mk imm => some ((0x13 : BitVec 6) ++ mk ++ (0 : BitVec 7) ++ imm)
  | .mfs _ dn sr => some ((0x14 : BitVec 6) ++ dn ++ sr ++ (0 : BitVec 14))
  | .mts _ dn sr => some ((0x15 : BitVec 6) ++ dn ++ sr ++ (0 : BitVec 14))
  | .b _ off => some (encBr 0x18 0 off)
  | .beqz _ dn off => some (encBr 0x19 dn off)
  | .bnez _ dn off => some (encBr 0x1A dn off)
  | .bltz _ dn off => some (encBr 0x1B dn off)
  | .bgez _ dn off => some (encBr 0x1C dn off)
  | .bcnt _ off => some (encBr 0x1D 0 off)
  | .call _ off => some (encBr 0x1E 0 off)
  | .ret _ => some (encBr 0x1F 0 0)
  | .reti _ => some (encBr 0x20 0 0)
  | .movlc _ imm => some (encBr 0x21 0 imm)
  | .tapm _ ak clr pd pc => some ((0x22 : BitVec 6) ++ ak ++ bitOf clr ++ pd ++ pc ++ (0 : BitVec 17))
  | .wait _ => some (encBr 0x23 0 0)
  | .ei _ e => some ((0x24 : BitVec 6) ++ (0 : BitVec 25) ++ bitOf e)
  | _ => none

/-- The word of a slot-B operation (R220); `none` for any other command. -/
def encB : Instr → Option (BitVec 32)
  | .noOperation _ .b => some 0
  | .add _ f => some (encAlu 0x01 f)
  | .sub _ f => some (encAlu 0x02 f)
  | .and _ f => some (encAlu 0x03 f)
  | .or _ f => some (encAlu 0x04 f)
  | .xor _ f => some (encAlu 0x05 f)
  | .shl _ f => some (encAlu 0x06 f)
  | .shr _ f => some (encAlu 0x07 f)
  | .shra _ f => some (encAlu 0x08 f)
  | .min _ f => some (encAlu 0x09 f)
  | .max _ f => some (encAlu 0x0A f)
  | .zsel _ f => some (encAlu 0x0B f)
  | .mulh _ f => some (encAlu 0x0C f)
  | .divq _ f => some (encAlu 0x0D f)
  | .addi _ d a imm s => some ((0x10 : BitVec 6) ++ d ++ a ++ imm ++ bitOf s ++ (0 : BitVec 1))
  | .shi _ d a k amt s => some ((0x11 : BitVec 6) ++ d ++ a ++ shBits k ++ amt ++ bitOf s ++ (0 : BitVec 6))
  | .movi _ d imm => some ((0x12 : BitVec 6) ++ d ++ (0 : BitVec 4) ++ imm)
  | .movhi _ d imm => some ((0x13 : BitVec 6) ++ d ++ (0 : BitVec 4) ++ imm)
  | .mac _ ak x c h n clr =>
    some ((0x20 : BitVec 6) ++ ak ++ x ++ c ++ bitOf h ++ bitOf n ++ bitOf clr ++ (0 : BitVec 9))
  | .mac2 _ pair x y c n clr =>
    some ((0x21 : BitVec 6) ++ bitOf pair ++ x ++ y ++ c ++ bitOf n ++ bitOf clr ++ (0 : BitVec 5))
  | .narrow _ d ak sh s => some ((0x22 : BitVec 6) ++ d ++ ak ++ sh ++ bitOf s ++ (0 : BitVec 12))
  | .mva _ d ak part => some ((0x23 : BitVec 6) ++ d ++ ak ++ part ++ (0 : BitVec 16))
  | .mta _ d ak part => some ((0x24 : BitVec 6) ++ d ++ ak ++ part ++ (0 : BitVec 16))
  | .rot _ abs k => some ((0x30 : BitVec 6) ++ bitOf abs ++ (0 : BitVec 20) ++ k)
  | _ => none

/-- The operation that a slot-A word's opcode and fields name, before its unlisted fields are looked at. -/
def fieldsA (k : Nat) (w : BitVec 32) : Option Instr :=
  let p := fieldOf w 23 3
  let dn := fieldOf w 20 6
  let off := fieldOf w 0 16
  match (fieldOf w 26 6).toNat with
  | 0x00 => some (.noOperation k .a)
  | 0x01 => some (.ldW k (decMem w))
  | 0x02 => some (.ldH k (decMem w))
  | 0x03 => some (.ldHu k (decMem w))
  | 0x04 => some (.ldD k (decMem w))
  | 0x05 => some (.stW k (decMem w))
  | 0x06 => some (.stH k (decMem w))
  | 0x07 => some (.stD k (decMem w))
  | 0x08 => some (.ldA k (decMem w))
  | 0x09 => some (.stA k (decMem w))
  | 0x0A => some (.lds k (decMem w))
  | 0x0B => some (.sts k (decMem w))
  | 0x10 => some (.movip k p (fieldOf w 0 18))
  | 0x11 => some (.addp k p (fieldOf w 20 3) (fieldOf w 0 15))
  | 0x12 => some (.movdp k p (fieldOf w 17 6) (fieldOf w 0 15))
  | 0x13 => some (.movim k p off)
  | 0x14 => some (.mfs k dn (fieldOf w 14 6))
  | 0x15 => some (.mts k dn (fieldOf w 14 6))
  | 0x18 => some (.b k off)
  | 0x19 => some (.beqz k dn off)
  | 0x1A => some (.bnez k dn off)
  | 0x1B => some (.bltz k dn off)
  | 0x1C => some (.bgez k dn off)
  | 0x1D => some (.bcnt k off)
  | 0x1E => some (.call k off)
  | 0x1F => some (.ret k)
  | 0x20 => some (.reti k)
  | 0x21 => some (.movlc k off)
  | 0x22 => some (.tapm k (fieldOf w 24 2) (w.getLsbD 23) (fieldOf w 20 3) (fieldOf w 17 3))
  | 0x23 => some (.wait k)
  | 0x24 => some (.ei k (w.getLsbD 0))
  | _ => none

/-- The same of a slot-B word. -/
def fieldsB (k : Nat) (w : BitVec 32) : Option Instr :=
  let d := fieldOf w 20 6
  let a := fieldOf w 14 6
  match (fieldOf w 26 6).toNat with
  | 0x00 => some (.noOperation k .b)
  | 0x01 => some (.add k (decAlu w))
  | 0x02 => some (.sub k (decAlu w))
  | 0x03 => some (.and k (decAlu w))
  | 0x04 => some (.or k (decAlu w))
  | 0x05 => some (.xor k (decAlu w))
  | 0x06 => some (.shl k (decAlu w))
  | 0x07 => some (.shr k (decAlu w))
  | 0x08 => some (.shra k (decAlu w))
  | 0x09 => some (.min k (decAlu w))
  | 0x0A => some (.max k (decAlu w))
  | 0x0B => some (.zsel k (decAlu w))
  | 0x0C => some (.mulh k (decAlu w))
  | 0x0D => some (.divq k (decAlu w))
  | 0x10 => some (.addi k d a (fieldOf w 2 12) (w.getLsbD 1))
  | 0x11 => match (fieldOf w 12 2).toNat with
    | 0 => some (.shi k d a .shl (fieldOf w 7 5) (w.getLsbD 6))
    | 1 => some (.shi k d a .shr (fieldOf w 7 5) (w.getLsbD 6))
    | 2 => some (.shi k d a .shra (fieldOf w 7 5) (w.getLsbD 6))
    | _ => none
  | 0x12 => some (.movi k d (fieldOf w 0 16))
  | 0x13 => some (.movhi k d (fieldOf w 0 16))
  | 0x20 => some (.mac k (fieldOf w 24 2) (fieldOf w 18 6) (fieldOf w 12 6) (w.getLsbD 11) (w.getLsbD 10) (w.getLsbD 9))
  | 0x21 => some (.mac2 k (w.getLsbD 25) (fieldOf w 19 6) (fieldOf w 13 6) (fieldOf w 7 6) (w.getLsbD 6) (w.getLsbD 5))
  | 0x22 => some (.narrow k d (fieldOf w 18 2) (fieldOf w 13 5) (w.getLsbD 12))
  | 0x23 => some (.mva k d (fieldOf w 18 2) (fieldOf w 16 2))
  | 0x24 => some (.mta k d (fieldOf w 18 2) (fieldOf w 16 2))
  | 0x30 => some (.rot k (w.getLsbD 25) (fieldOf w 0 5))
  | _ => none

/-- Why a slot word is no operation's word. -/
inductive BadWord where
  /-- an unallotted opcode, or a field value its operation does not list (R219, R220) -/
  | opcode
  /-- a reserved special-register index, an odd pair, S where it is unused, or PART 3 (R219, R220, R224) -/
  | operand
  /-- a field not listed for the operation is not zero (R219) -/
  | unlisted
deriving DecidableEq, Repr

/-- Reading one slot's word: the operation, if it is well formed and its own encoding gives the word back. -/
def decWith (fields : BitVec 32 → Option Instr) (enc : Instr → Option (BitVec 32)) (w : BitVec 32) :
    Except BadWord Instr :=
  match fields w with
  | none => .error .opcode
  | some i => if !i.opWf then .error .operand else if enc i = some w then .ok i else .error .unlisted

/-- Slot A of core `k` (R219). -/
def decA (k : Nat) (w : BitVec 32) : Except BadWord Instr := decWith (fieldsA k) encA w

/-- Slot B of core `k` (R220). -/
def decB (k : Nat) (w : BitVec 32) : Except BadWord Instr := decWith (fieldsB k) encB w

/-- The two slot words of a bundle (R214): slot A is [31:0]. -/
def slotWordA (b : BitVec 64) : BitVec 32 := b.extractLsb' 0 32
def slotWordB (b : BitVec 64) : BitVec 32 := b.extractLsb' 32 32

/-- A branch of any kind (R222). -/
def Instr.isBranch : Instr → Bool
  | .b _ _ => true
  | .beqz _ _ _ => true
  | .bnez _ _ _ => true
  | .bltz _ _ _ => true
  | .bgez _ _ _ => true
  | .bcnt _ _ => true
  | .call _ _ => true
  | .ret _ => true
  | .reti _ => true
  | _ => false

/-- The accumulators that a slot-B operation names. -/
def Instr.accs : Instr → List (BitVec 2)
  | .mac _ ak _ _ _ _ _ => [ak]
  | .mac2 _ pair _ _ _ _ _ => if pair then [2, 3] else [0, 1]
  | .narrow _ _ ak _ _ => [ak]
  | .mva _ _ ak _ => [ak]
  | .mta _ _ ak _ => [ak]
  | _ => []

/-- R224's illegal bundles at an index of a kernel of `codeLen` bytes. `delay` says it is a delay bundle. A word whose
only fault is an unlisted field is not in R224's list. -/
def bundleIllegal (codeLen pc : Nat) (delay : Bool) (b : BitVec 64) : Bool :=
  let a := fieldsA 0 (slotWordA b)
  let s := fieldsB 0 (slotWordB b)
  let srBad := match a with
    | some (.lds _ f) => !srOk f.d
    | some (.sts _ f) => !srOk f.d
    | some (.mfs _ _ sr) => !srOk sr
    | some (.mts _ _ sr) => !srOk sr
    | _ => false
  let tap := match a, s with
    | some (.tapm _ _ _ _ _), some (.mac2 _ _ _ _ _ _ _) => true
    | some (.tapm _ ak _ _ _), some i => i.accs.contains ak
    | _, _ => false
  let opB := (fieldOf (slotWordB b) 26 6).toNat
  a.isNone || (s.isNone && opB != 0x11) || srBad || tap || (delay && (a.map Instr.isBranch).getD false) || codeLen ≤ 8 * pc

end Sys2Proof
end

