-- ==== Sys2Proof/Machine/Bytes.lean ====
section
/-! DEFINITION. Byte layouts: little-endian fields (R9) and the CRC-32C over bytes (R457). -/

namespace Sys2Proof.Machine

/-- `n` little-endian bytes of a number (R9). -/
def leBytes (n v : Nat) : List Byte := (List.range n).map (fun i => BitVec.ofNat 8 (v / 256 ^ i))

/-- `n` bytes in network order. -/
def beBytes (n v : Nat) : List Byte := (leBytes n v).reverse

/-- The number that bytes spell, the first least significant (R9). -/
def leNat : List Byte → Nat
  | [] => 0
  | b :: r => b.toNat + 256 * leNat r

/-- The field of `n` bytes at an offset. -/
def fieldAt (l : List Byte) (off n : Nat) : Nat := leNat ((l.drop off).take n)

/-- Are the `n` bytes at an offset all zero, as a reserved field is? -/
def zeroAt (l : List Byte) (off n : Nat) : Bool := ((l.drop off).take n).all (· == 0)

/-- The bytes of a layout: each field's width in bytes and its value, in order of offset. -/
def layout (fields : List (Nat × Nat)) : List Byte := fields.flatMap (fun f => leBytes f.1 f.2)

/-- One bit of the reflected CRC-32C (R457). -/
def crcBit (c : Word) : Word := if c.getLsbD 0 then (c >>> 1) ^^^ 0x82F63B78 else c >>> 1

/-- One byte fed into a CRC. -/
def crcByte (c : Word) (b : Byte) : Word :=
  crcBit (crcBit (crcBit (crcBit (crcBit (crcBit (crcBit (crcBit (c ^^^ b.setWidth 32))))))))

/-- The CRC-32C of a byte list. -/
def crc32c (l : List Byte) : Word := (l.foldl crcByte 0xFFFFFFFF) ^^^ 0xFFFFFFFF

end Sys2Proof.Machine
end

