-- ==== Sys2Proof/Machine/Layout.lean ====
section
/-! DEFINITION. What host memory holds, read from its bytes: descriptors (R80), slot payloads (R116, R145 to R148, R362, R439). -/

namespace Sys2Proof.Machine

/-- Bits `lo` to `lo + w - 1` of a field. -/
def bitsAt (v lo w : Nat) : Nat := v / 2 ^ lo % 2 ^ w

/-! ## Descriptors (R80, R96) -/

/-- The slots a descriptor names, by opcode: one reference, two for PLAN, NSLOTS consecutive ones for CAP_ARM (R96, R116, R141,
R155, R162, R231, R294, R341, R361, R373, R439, R442, R443). -/
def slotsNamed (op : Nat) (b : List Byte) : List Nat :=
  let at_ := fun (off : Nat) => fieldAt b off 4
  match op with
  | 0x1B | 0x1C | 0x30 | 0x63 | 0x71 | 0x72 | 0x73 | 0x80 => [at_ 16]
  | 0x41 | 0x60 => [at_ 20]
  | 0x1D | 0x70 => [at_ 24]
  | 0x31 => [at_ 16, at_ 20]
  | 0x50 => (List.range (Nat.min 4096 (fieldAt b 36 2))).map (at_ 32 + ·)
  | _ => []

/-- A 64-byte command-ring entry (R80). -/
def entryOf (b : List Byte) : Entry :=
  let op := fieldAt b 0 1
  let f := fieldAt b 1 1
  ⟨op, bitsAt f 0 1 == 1, bitsAt f 1 1 == 1, bitsAt f 2 1 == 1, fieldAt b 2 2, fieldAt b 4 4, fieldAt b 8 4, slotsNamed op b⟩

/-! ## Slot payloads -/

/-- A port-map entry, of 2 bytes (R116). -/
def portEntOf (v : Nat) : PortEnt := ⟨bitsAt v 0 11, bitsAt v 11 4, bitsAt v 15 1 == 1⟩

/-- A PERMUTE port map, one entry per input port (R116). -/
def portMapOf (b : List Byte) : List PortEnt := (List.range (b.length / 2)).map (fun i => portEntOf (fieldAt b (2 * i) 2))

/-- A CELLS list: cell, MODE and CODE of each entry (R116). -/
def cellListOf (b : List Byte) : List (Nat × Nat × Nat) :=
  (List.range (b.length / 4)).map (fun i =>
    let v := fieldAt b (4 * i + 2) 2
    (fieldAt b (4 * i) 2, bitsAt v 0 2, bitsAt v 2 12))

/-- Entry `i` of a topology table, of 24 bytes (R148). -/
def topoEntryOf (b : List Byte) : TopoEntry :=
  let f := fieldAt b 3 1
  ⟨fieldAt b 0 2, fieldAt b 2 1, bitsAt f 0 2, bitsAt f 2 1, bitsAt f 3 1 == 1, bitsAt f 4 4, fieldAt b 4 2, zeroAt b 6 2,
   (List.range 8).map (fun i => fieldAt b (8 + 2 * i) 2)⟩

/-- A topology table (R146); its CRC covers every byte, those of the field itself taken as zero. -/
def topoOf (b : List Byte) : TopoTable :=
  ⟨fieldAt b 0 4, fieldAt b 4 2, fieldAt b 6 1, fieldAt b 7 1, fieldAt b 8 2, fieldAt b 10 2, zeroAt b 12 48, fieldAt b 60 4,
   crc32c (b.take 60 ++ leBytes 4 0 ++ b.drop 64) == BitVec.ofNat 32 (fieldAt b 60 4), b.length,
   (List.range ((b.length - 64) / 24)).map (fun i => topoEntryOf ((b.drop (64 + 24 * i)).take 24))⟩

/-- A stream definition (R362). -/
def streamDefOf (b : List Byte) : StreamDef :=
  let f := fieldAt b 0 1
  ⟨bitsAt f 0 1, bitsAt f 1 1 == 1, bitsAt f 2 1 == 1, bitsAt f 3 1 == 1, bitsAt (fieldAt b 1 1) 0 6, fieldAt b 2 1,
   fieldAt b 4 6, fieldAt b 10 2, fieldAt b 12 2, BitVec.ofNat 128 (fieldAt b 16 16), fieldAt b 32 4, fieldAt b 36 4,
   BitVec.ofNat 32 (fieldAt b 40 4), fieldAt b 44 2, fieldAt b 48 2, fieldAt b 50 2, fieldAt b 52 4⟩

/-- Its reserved bits are zero (R362). -/
def streamResvZero (b : List Byte) : Bool :=
  fieldAt b 0 1 / 16 == 0 && fieldAt b 1 1 / 64 == 0 && zeroAt b 3 1 && zeroAt b 14 2 && zeroAt b 46 2 && zeroAt b 56 8

/-- A key record, of 96 bytes (R434). -/
def keyRecOf (b : List Byte) : KeyRec := ⟨fieldAt b 0 48, fieldAt b 48 48⟩

/-- Do a host-written payload's bytes match the CRC of their header (R96, R97)? -/
def crcOk (s : SlotIn) : Bool := crc32c s.bytes == BitVec.ofNat 32 s.crc

end Sys2Proof.Machine
end

