-- ==== Sys2Proof/Config.lean ====
section
/-! DEFINITION. What an implementation or a module fixes (factory values, part stepping, fitted surfaces) and the free
values: constants with no body, so that a statement about them holds whatever they are. -/

namespace Sys2Proof.Config

/-- Free values (assumption 3): the value drawn at count `n`, where the spec calls a result undefined and the device
goes on (R394, R395). -/
opaque freeNat (n : Nat) : Nat
/-- A free 64-bit value: a register write that breaks R10 acts as if this had been written to the reserved field's
register (R395). -/
opaque freeReg (n : Nat) : BitVec 64
/-- A free bit. -/
opaque freeBool (n : Nat) : Bool

/-- What quantity `q` holds when its exact value `x` lies outside its stated format and no rule names the outcome
(assumption 98). -/
opaque outside (q : Nat) (x : Int) : Int

/-- The public key records of the OTP key slots programmed at manufacture (R433, R434): X and Y. -/
opaque factoryKey (slot : Nat) : Nat × Nat
/-- Mast and tile die stepping codes, ID_PART[31:16] (R45, 'part'). -/
opaque stepping : BitVec 16
/-- ETH_MACp (R360, 'factory'). -/
opaque ethMac (mast port : Nat) : BitVec 48
/-- ETH_IPFIX.PEN (R367, 'factory'). -/
opaque ipfixPen : BitVec 32
/-- The device certificate's serial number (R441, R447, 'factory'). -/
opaque serial : BitVec 128
/-- A byte of a tile's factory trim block (R279, R297), and of one that a pass measured, fresh for each count drawn (R287). -/
opaque factoryTrims (tile i : Nat) : BitVec 8
opaque passTrims (n i : Nat) : BitVec 8
/-- Surface coefficient i of a tile, as binary32, where its OK cells fix no single least-squares fit (R298). -/
opaque seedSurface (seq tile i : Nat) : BitVec 32
/-- The enterprise-specific element of field i of the IPFIX template (R366, whose numbers no rule states). -/
opaque ipfixElement (i : Nat) : BitVec 15
/-- SCAN_OFS of tile t (R332) and SKEW of its converter k (R342): skew-correction terms. -/
opaque scanOfs (tile scan : Nat) : Nat
opaque skew (tile conv : Nat) : Int
/-- The identity key's private number, which nothing reads (R441). -/
opaque identityKey : Nat
/-- The per-message number of a signature, fresh for each count drawn (R435). -/
opaque signNonce (n : Nat) : Nat
/-- The certificates of IDENT_READ in DER: 0 the device's, 1 the product CA's (R442). -/
opaque certDer (i : Nat) : List (BitVec 8)

end Sys2Proof.Config
end

