-- ==== Sys2Proof/Machine/Ecdsa.lean ====
section
/-! DEFINITION. ECDSA over brainpoolP384r1 with SHA-384 (R433 to R435): the curve of RFC 5639, points in Jacobian coordinates. -/

namespace Sys2Proof.Machine

/-- The field's prime. -/
def ecP : Nat :=
  0x8CB91E82A3386D280F5D6F7E50E641DF152F7109ED5456B412B1DA197FB71123ACD3A729901D1A71874700133107EC53
/-- The curve is y² = x³ + ecA x + ecB. -/
def ecA : Nat :=
  0x7BC382C63D8C150C3C72080ACE05AFA0C2BEA28E4FB22787139165EFBA91F90F8AA5814A503AD4EB04A8C7DD22CE2826
def ecB : Nat :=
  0x04A8C7DD22CE28268B39B55416F0447C2FB77DE107DCD2A62E880EA53EEB62D57CB4390295DBC9943AB78696FA504C11
/-- The order n of the curve. -/
def ecN : Nat :=
  0x8CB91E82A3386D280F5D6F7E50E641DF152F7109ED5456B31F166E6CAC0425A7CF3AB6AF6B7FC3103B883202E9046565

/-- A point as X / Z² and Y / Z³; Z = 0 is the point at infinity. -/
structure EcPoint where
  X : Nat
  Y : Nat
  Z : Nat
deriving DecidableEq, Repr

/-- The base point. -/
def ecG : EcPoint :=
  ⟨0x1D1C64F068CF45FFA2A63A81B7C13F6B8847A3E77EF14FE3DB7FCAFE0CBD10E8E826E03436D646AAEF87B2E247D4AF1E,
   0x8ABE1D7520F9C2A45CB1EB8E95CFD55262B70B29FEEC5864E19C054FF99129280E4646217791811142820341263C5315, 1⟩

def subP (a b : Nat) : Nat := (a + (ecP - b % ecP)) % ecP

/-- Is (x, y) a point of the curve, its coordinates in the field (R434)? The point at infinity has no coordinates. -/
def onCurve (x y : Nat) : Bool :=
  x < ecP && y < ecP && y * y % ecP == (x * x * x + ecA * x + ecB) % ecP

def EcPoint.dbl (P : EcPoint) : EcPoint :=
  let yy := P.Y * P.Y % ecP
  let zz := P.Z * P.Z % ecP
  let s := 4 * P.X * yy % ecP
  let m := (3 * P.X * P.X + ecA * zz % ecP * zz) % ecP
  let x := subP (m * m) (2 * s)
  ⟨x, subP (m * subP s x) (8 * yy * yy), 2 * P.Y * P.Z % ecP⟩

def EcPoint.add (P Q : EcPoint) : EcPoint :=
  if P.Z = 0 then Q
  else if Q.Z = 0 then P
  else
    let zp := P.Z * P.Z % ecP
    let zq := Q.Z * Q.Z % ecP
    let u1 := P.X * zq % ecP
    let u2 := Q.X * zp % ecP
    let s1 := P.Y * Q.Z % ecP * zq % ecP
    let s2 := Q.Y * P.Z % ecP * zp % ecP
    if u1 = u2 then (if s1 = s2 then P.dbl else ⟨1, 1, 0⟩)
    else
      let h := subP u2 u1
      let r := subP s2 s1
      let hh := h * h % ecP
      let hhh := h * hh % ecP
      let v := u1 * hh % ecP
      let x := subP (r * r) (hhh + 2 * v)
      ⟨x, subP (r * subP v x) (s1 * hhh), h * P.Z % ecP * Q.Z % ecP⟩

/-- k times a point, over the low `n` bits of k. -/
def EcPoint.mul (P : EcPoint) : Nat → Nat → EcPoint
  | 0, _ => ⟨1, 1, 0⟩
  | n + 1, k =>
    let q := (EcPoint.mul P n (k / 2)).dbl
    if k % 2 = 1 then q.add P else q

/-- b to the power e modulo m, over the low `n` bits of e. -/
def powMod (m b : Nat) : Nat → Nat → Nat
  | 0, _ => 1 % m
  | n + 1, e =>
    let q := powMod m b n (e / 2)
    if e % 2 = 1 then q * q % m * b % m else q * q % m

/-- The inverse modulo a prime below 2^384. -/
def invMod (m a : Nat) : Nat := powMod m (a % m) 384 (m - 2)

/-- The affine x coordinate. -/
def EcPoint.x (P : EcPoint) : Nat := P.X * invMod ecP (P.Z * P.Z) % ecP

/-- The digest as an integer: its first byte most significant, all 384 bits of it, n having as many (R435). -/
def digestInt (msg : List Byte) : Nat := (sha384 msg).toNat

/-- Does (r, s) verify over a message with the key (x, y) (R435)? -/
def ecdsaOk (x y : Nat) (msg : List Byte) (r s : Nat) : Bool :=
  if 1 ≤ r && r < ecN && 1 ≤ s && s < ecN && onCurve x y then
    let w := invMod ecN s
    let P := (ecG.mul 384 (digestInt msg * w % ecN)).add ((⟨x, y, 1⟩ : EcPoint).mul 384 (r * w % ecN))
    P.Z != 0 && P.x % ecN == r
  else false

/-- The signature of a message with private key `d` and the per-message number `k` (R435). -/
def ecdsaSign (d k : Nat) (msg : List Byte) : Nat × Nat :=
  let r := (ecG.mul 384 k).x % ecN
  (r, invMod ecN k * ((digestInt msg + r * d) % ecN) % ecN)

end Sys2Proof.Machine

namespace Sys2Proof

open Sys2Proof.Machine

/-- A public key record's 96 bytes (R434). -/
def KeyRec.bytes (r : KeyRec) : List Byte := layout [(48, r.x), (48, r.y)]

/-- HASH of a record (R433). -/
def KeyRec.hash (r : KeyRec) : Bits384 := sha384 r.bytes

end Sys2Proof
end

