-- ==== Sys2Proof/Machine/State.lean ====
section
/-! DEFINITION. The state of the block as plain data, and its value right after reset. Each structure's docstring names
the chapter whose rules give its fields; notes/assumptions holds every value the spec does not give. -/

namespace Sys2Proof.Machine

/-- A sparse table: keys strictly rising, no entry equal to the table's default (see Machine/Tbl.lean). -/
abbrev Tbl (α : Type) := List (Nat × α)

/-- Bring-up stages (R49). -/
inductive Stage where | reset | boot | setup | topo | powered | seeded | arming | ready | halted
deriving DecidableEq, Repr

/-- FAB_BRING commands (R52). -/
inductive Bring where | topoLoad | power | seedRestore | calFull | loopArm
deriving DecidableEq, Repr

/-- Status codes (R12); `Status.code` gives the value. -/
inductive Status where
  | ok | conflict | needsRearrange | cellFenced | portInvalid | parked | reefHeld | sheafLimit | assertFailed
  | sheafUnknown | aborted | timeRange | mapEpoch | portBusy | paramInvalid
  | hostLost | mastChange | stageFail | tooLate | topoInvalid | badOpcode | ringStalled | slotOwner | payloadCrc
  | ctxClosed | badState | slotRange | kernelFormat | streamInvalid | ctxFenced | receiptRate | memLost
  | notPermitted | kernelSig | keyRefused
  | noLight | seedAbsent | seedMismatch | calPartial | seedPeer | calBusy
  | postClamp | capRange | capCancelled | capBusy | capGap
deriving DecidableEq, Repr

/-- A completion record (R84). -/
structure Record where
  opcode : Nat
  phase : Bool
  backlog : Bool
  timeValid : Bool
  status : Status
  tag : Nat
  seq : Nat
  cmdRing : Nat
  sheafId : Nat
  epoch : Nat
  time : Stamp
deriving DecidableEq, Repr

/-- Payloads the FZ24K writes into slots, by KIND: map read 0x0010, plan 0x0031, calibration 0x0041, capture 0x0050,
certificates 0x0071, counters 0x0063, receipt 0x0070; `unchanged` for a slot whose payload the FZ24K leaves as it is, with
the CRC that its header carries (R97). -/
inductive Payload where
  | unchanged (crc : Nat)
  | map (ports : Nat) (strike : Stamp) (ents : List Nat)
  | plan (epoch : Nat) (moved : List Nat) (sets : List CellSet)
  | calib (ents : List (List Nat))
  | capture (hdr : List Nat) (blocks : List (List Nat))
  | counters (hdr : List Nat) (wrap : List Nat) (counts : List Nat) (bw : List (Nat × Nat))
  | certs (ders : List (List Byte))
  | receipt (body : List Byte) (r s : Nat)
deriving DecidableEq, Repr

/-- The header of a slot the FZ24K writes (R96). -/
structure SlotHdr where
  owner : Nat
  incomplete : Bool
  crcBad : Bool
  truncated : Bool
  kind : Nat
  seq : Nat
  len : Nat
  crc : Nat
  epoch : Nat
  time : Stamp
  ringSeq : Nat
  cmdRing : Nat
  ctx : Nat
deriving DecidableEq, Repr

/-- A fault-log entry (R381). `kind`: 0 FAULT, 1 FENCE, 2 UNFENCE, 3 TRANSIENT, 4 LASTING, 5 HEAL. -/
structure LogEnt where
  source : Nat
  sev : Nat
  kind : Nat
  unit : Nat
  seq : Nat
  epoch : Nat
  time : Stamp
  info : BitVec 32
deriving DecidableEq, Repr

/-- Telemetry records of R363 by TYPE; `body` is the bytes of the record's body. The model's own types 0x100 and 0x101 stand for an
IPFIX data record and an IPFIX template record (R366), whose bytes are their whole. -/
structure TelRec where
  typ : Nat
  time : Stamp
  epoch : Nat
  body : List Byte
deriving DecidableEq, Repr

/-- Bytes of a record, its 24-byte header included (R364). -/
def TelRec.len (r : TelRec) : Nat := (if r.typ < 0x100 then 24 else 0) + r.body.length

/-- What leaves the block, in the order written. -/
inductive Out where
  /-- a completion record written to entry `index` of completion ring `cpl` (R84) -/
  | record (m : MastId) (cpl index addr : Nat) (r : Record)
  /-- a slot's header and payload, owner byte last (R97) -/
  | slot (m : MastId) (ref : Nat) (h : SlotHdr) (p : Payload)
  /-- an MSI-X message (R87, R383, R413) -/
  | msix (m : MastId) (vector : Nat)
  /-- a read of host memory issued (R25, R78, R81): 0 the summary line, 1 doorbell words, 2 command-ring entries, 5 the
  topology table, with its index, how many, and the host address -/
  | hostRead (m : MastId) (what index count addr : Nat)
  /-- a stream's Ethernet frame, from the destination MAC address to the end of the UDP payload; the link adds the FCS (R359, R364,
  R366) -/
  | packet (m : MastId) (port stream : Nat) (frame : List Byte)
  /-- a PTP Delay_Req (R315) -/
  | delayReq (m : MastId) (port seq : Nat) (correction : Int)
  /-- a Halyard symbol (R325) -/
  | symbol (s : BitVec 16)
  /-- an 8-byte reply of the recovery boot class, with what IDENT returns (R58) -/
  | reply (m : MastId) (st : Nat) (data : List Nat)
  /-- the value a register read returns (R11, R489) -/
  | regRead (m : MastId) (off : Nat) (v : Reg64)
  /-- the result of a CRC unit (R458, R459) -/
  | crc (m : MastId) (v : Word)
  /-- a Yard error response to a master; a read also carries zero data (R463) -/
  | yardError (m : MastId) (master : Nat) (write : Bool)
  /-- a stay frame sent to a tile: its type, the sender's pennant epoch, its sequence number, and what it names (R15, R16) -/
  | frame (m : MastId) (typ tile pennant seq : Nat) (data : List Nat)
  /-- a strike word or repair word on the strike line (R20) -/
  | strikeWord (m : MastId) (tsid pennant : Nat)
  /-- a PMBus STATUS_WORD read (R485) -/
  | pmbus (addr : Nat)
deriving DecidableEq, Repr

/-! ## Boot, keys, NOR (chapters 02, 17, 18) -/

/-- An OTP key slot (R433). -/
structure OtpSlot where
  hash : Bits384
  prog : Bool
  use : Bool
  revoked : Bool
deriving DecidableEq, Repr

/-- A key area copy (R456) as its bytes: a 64-byte header, then the record of slot s at 64 + 128 s. The two masts' copies are
read by Machine/Images.lean. -/
structure KeyArea where
  bytes : List Byte
deriving DecidableEq, Repr

/-- A record's place in a key area copy: 128 bytes, erased where no record is kept (assumption 113). -/
def keyPlace (r : Option KeyRec) : List Byte :=
  match r with
  | some k => k.bytes ++ List.replicate 32 0xFF
  | none => List.replicate 128 0xFF

/-- A key area copy over the places of its four records: MAGIC, SEQ and the CRC-32C of it all with CRC as zero (R456, R296). -/
def keyCopy (seq : Nat) (places : List Byte) : KeyArea :=
  let head := fun (crc : Nat) => layout [(4, 0x594B5A46), (4, 0), (4, seq), (48, 0), (4, crc)]
  ⟨head (crc32c (head 0 ++ places)).toNat ++ places⟩

/-- A seed image as its bytes (R296); Machine/SeedBytes.lean reads its fields. -/
structure SeedImage where
  bytes : List Byte
deriving DecidableEq, Repr

/-- A NOR write in progress (R299): the image and its slot, the next sector to erase and how many there are, the next page to
program and how many there are. Page 0 comes last. -/
structure NorJob where
  erased : Nat
  sectors : Nat
  page : Nat
  pages : Nat
  slot : Nat
  img : SeedImage
deriving DecidableEq, Repr

/-- A mast's NOR device (R455): slot contents. A firmware slot is `none` with no
image, a key area copy `none` while erased; a seed slot is its bytes. -/
structure Nor where
  fwA : Option FwImage
  fwB : Option FwImage
  seedA : List Byte
  seedB : List Byte
  keyA : Option KeyArea
  keyB : Option KeyArea
  job : Option NorJob
deriving DecidableEq, Repr

/-- Boot state of a mast (chapters 02, 17). `readyAt` is the beat of READY once every tile's loops are closed (R63). -/
structure Boot where
  stage : Stage
  status : Status
  busy : Option Bring
  bootSel : BitVec 2
  tries : List Nat
  recoveryClass : Bool
  running : Bool
  lastResult : Nat
  fwVersion : Nat
  fwSlot : Nat
  recovery : Bool
  fwKey : Nat
  fwMeas : Bits384
  riseBeat : Nat
  usb : Bool
  tunnel : Bool
  refclk : Bool
  readyAt : Option Nat
  usable : List Bool
  otp : List OtpSlot
  nor : Nor
deriving DecidableEq, Repr

/-! ## Host interface (chapter 03) -/

/-- A context (R72, R90, R446). -/
structure Ctx where
  profile : Nat
  winMask : BitVec 64
  fetchStop : Bool
  tokens : Nat
  refillBeat : Nat
deriving DecidableEq, Repr

/-- A registered ring index (R73, R76, R81, R86, R87, R354, R356). -/
structure Ring where
  ent : RingEntry
  hasCmd : Bool
  hasCpl : Bool
  next : Nat
  prod : Nat
  cons : Nat
  written : Nat
  reserved : Nat
  granted : Nat
  miss : Nat
  again : Bool
  stalled : Bool
  serveTo : Option Nat
  unsig : Nat
  firstUnsig : Option Nat
  weight : Nat
  F : Nat
  eligible : Bool
  rate : Nat
  burst : Nat
  newShape : Option (Nat × Nat)
  tokens : Nat
  refillAt : Nat
  wheel : Option Nat
deriving DecidableEq, Repr

/-- What an accepted descriptor waits for, beyond its own header (R402, R403, R91, R92). -/
inductive Wait where
  | none
  | drainCtx (k : Nat) (rebind : Bool)
  | drainRing (i : Nat)
deriving DecidableEq, Repr

/-- A key burn (R439, R440): a slot programmed with a record, or revoked. -/
inductive Burn where
  | program (slot : Nat) (key : KeyRec)
  | revoke (slot : Nat)
deriving DecidableEq, Repr

/-- A descriptor in flight (R68): its header, whether it has started (R83), the slots it holds (R97), what it waits
for, the beat at which its record was transmitted, its context's profile at acceptance (R75), and whether a host loss came
while it was in flight (R98, R99), and the key burn that the standby has yet to make (R439). -/
structure Desc where
  ring : Nat
  ent : Entry
  ctx : Nat
  cpl : Nat
  started : Bool
  slots : List Nat
  wait : Wait
  defer : Option Instr
  sentAt : Option Nat
  acceptedAt : Nat
  prof : Reg64
  lost : Bool
  burn : Option Burn
deriving DecidableEq, Repr

/-- A record kept for the backlog (R98, R99), with the completion ring it is held for and whether its descriptor has IRQ set
(R87), and the beat at which it was produced. -/
structure BackRec where
  cpl : Nat
  r : Record
  irq : Bool
  beat : Nat
deriving DecidableEq, Repr

/-- A slot on the held list (R98, R100), with its window's geometry. -/
structure HeldSlot where
  win : Nat
  slot : Nat
  base : Reg64
  cfg : Reg64
deriving DecidableEq, Repr

/-- Host-interface state of a mast (chapter 03, R354). -/
structure Hif where
  ctxs : Tbl (Option Ctx)
  rings : Tbl (Option Ring)
  V : Nat
  inflight : List Desc
  recent : List (Nat × Nat × Nat × Record × Bool)
  backlog : List BackRec
  lossMarks : List BackRec
  held : List HeldSlot
  sumCopy : BitVec 512
  sweep : Nat
  firstPoll : Bool
  running : Bool
  pollAt : Nat
  interval : Nat
  polled : Bool
  lossAt : Option (Nat × Nat)
  draining : Bool
  db : Tbl (Nat × Nat)
  winSeq : Tbl Nat
  winGeo : List (Nat × Reg64 × Reg64)
deriving DecidableEq, Repr

/-! ## Sheafs and the solver (chapters 04, 05) -/

/-- The actions of a sheaf, in descriptor order (R105, R112, R113). -/
inductive Act where
  | connect (inp out : Nat)
  | permute (map : List PortEnt)
  | disconnect (port : Nat) (side : Bool)
  | move (keep old new : Nat) (side : Bool)
  | assert (inp out : Nat)
  | setCell (cell : Nat) (tgt : Tgt)
  | release (cell : Nat)
  | setLoop (cell : Nat) (tileScope : Bool) (param value : Nat)
  | setPark (cell : Nat) (tileScope : Bool) (code : Nat)
deriving DecidableEq, Repr

/-- Phases of a sheaf (R119); DECIDED is the part of STAGED after the decision to strike. -/
inductive Phase where | open_ | bound | solving | staged | decided
deriving DecidableEq, Repr

/-- What takes a place in strike order: a sheaf (ring, SHEAF_ID), a PLANE_SWAP (ring, RING_SEQ) or the heal strike. -/
inductive SKey where
  | sheaf (ring id : Nat)
  | swap (ring seq : Nat)
  | heal
deriving DecidableEq, Repr

/-- A staged change as a tile holds it: a target, a park code, a loop parameter, or LIVE and EXPECT (R129, R268, R283). -/
inductive Change where
  | drive (lane : Nat) (tgt : Tgt)
  | park (lane : Nat) (code : Nat)
  | loop (lane : Nat) (param value : Nat)
  | marks (lane : Nat) (live : Bool) (expect : Nat)
deriving DecidableEq, Repr

/-- A tile's record of an arm frame (R131, R138): `state` 0 armed, 1 applied, 2 discarded. -/
structure Arm where
  tsid : Nat
  mask : Nat
  count : Nat
  crc : Word
  epoch : Nat
  strike : Stamp
  strikeBeat : Nat
  key : SKey
  seq : Nat
  tag : Nat
  ctx : Nat
  state : Nat
  armedAt : Nat
deriving DecidableEq, Repr

/-- What the turn, the solve and the strike of a sheaf have reached (R121 to R135, R157, R166): the tile sheaf id, the
working map, the cell changes as settings and per tile, the beat D and lead of its decision, acknowledgements; whether its changes move
the cell epoch (R169), REPAIR as its decision found it, and the arm frames under way to the tiles. `solveAt`: the beat from which the solve
runs, its payloads back in SRAM (R450). -/
structure SheafWork where
  tsid : Nat
  wmap : List (Nat × Nat)
  sets : List CellSet
  changes : Tbl (List Change)
  sent : Tbl Nat
  solved : Bool
  fullSolve : Bool
  migrate : Bool
  shadowAt : Option Nat
  D : Option Nat
  lead : Nat
  arms : Bool
  acks : List Nat
  refused : Bool
  word : Bool
  plane : Nat
  moves : Bool
  repair : Bool
  frames : Tbl (Option Arm)
  solveAt : Option Nat
deriving DecidableEq, Repr

/-- A sheaf from SHEAF_OPEN to its record, or a PLANE_SWAP or heal strike (R106 to R133). `pool` and `spill` are the bytes of its bulk
payloads in the SRAM pool and in the spill region of the HBM, `spillLost` that the latter are lost (R450, R454). -/
structure Sheaf where
  key : SKey
  ctx : Nat
  commit : Option Nat
  readAll : Bool
  baseNow : Bool
  presolved : Bool
  preserve : Bool
  reefFail : Bool
  base : Nat
  acts : List Act
  hasPermute : Bool
  cells : List (Nat × Tgt)
  tag : Bits384
  doomed : Option Status
  nPort : Nat
  nCell : Nat
  phase : Phase
  at_ : Option Stamp
  due : Bool
  work : SheafWork
  pool : Nat
  spill : Nat
  spillLost : Bool
deriving DecidableEq, Repr

/-- One strike in the journal (R140, R444): the epoch, its time, what it changed, and the sheaf's last TAG. -/
structure JournalEnt where
  epoch : Nat
  time : Stamp
  beat : Nat
  removed : List (Nat × Nat)
  added : List (Nat × Nat)
  tag : Bits384
deriving DecidableEq, Repr

/-- The loaded topology table (R145, R180): the table and each cell's tone. -/
structure Topo where
  table : TopoTable
  tones : Tbl Nat
deriving DecidableEq, Repr

/-- A map or calibration read in progress (R141, R294). -/
structure ReadJob where
  ring : Nat
  seq : Nat
  epoch : Nat
  first : Nat
  count : Nat
  map : List PortEnt
  data : Payload
  ready : Bool
deriving DecidableEq, Repr

/-- A PLAN in progress (R162): its slot, the map wanted, and the epoch, map and settings it plans against. -/
structure PlanJob where
  ring : Nat
  seq : Nat
  slot : Nat
  want : List (Nat × Nat)
  epoch : Nat
  map : List (Nat × Nat)
  settings : Tbl (Option Tgt)
  active : Nat
deriving DecidableEq, Repr

/-- A full solve made: its plane, map and fenced cells, and the states it gave (R159). -/
structure FullSolve where
  plane : Nat
  map : List (Nat × Nat)
  fenced : List Nat
  states : List (Nat × Option Bool)
deriving DecidableEq, Repr

/-- The sequencer and the solver (chapters 04, 05). `fulls` are the full solves made since the table was loaded; `lastRepair`
is REPAIR as the decision of the last strike found it (R143). -/
structure Fab where
  epoch : Nat
  strikeTime : Option Stamp
  lastStrike : Option Nat
  map : List (Nat × Nat)
  portEpoch : Tbl Nat
  sheafs : List Sheaf
  order : List SKey
  nextTsid : Nat
  lastTsid : Option (Nat × Nat)
  repair : Option (Nat × Nat)
  lastChanges : Tbl (List Change)
  journal : List JournalEnt
  snaps : List (Nat × List (Nat × Nat))
  topo : Option Topo
  topoErr : Nat
  topoErrEntry : Nat
  settings : Tbl (Option Tgt)
  pinned : List Nat
  active : Nat
  shadowBusy : Bool
  cellEpoch : Nat
  healCause : List (Nat × FUnit)
  missed : List Nat
  repaired : Bool
  lastRepair : Bool
  fulls : List FullSolve
  plans : List PlanJob
  reads : List ReadJob
  swap : Option (Nat × Nat × TopoTable)
deriving DecidableEq, Repr

/-! ## Tiller cores (chapter 07) -/

/-- Where a result lands (R219 to R221). Accumulator views: 0 as MAC, MAC2 and TAPM chain, 1 as NARROW and MVA read,
2 as ST.A reads. -/
inductive Dest where
  | d (n : Nat)
  | acc (view k : Nat)
  | accPart (view k part : Nat)
  | p (n : Nat)
  | m (n : Nat)
  | rb | lc | ipc | ist | stat | ie
  | sat | div0
deriving DecidableEq, Repr

/-- A result not yet landed (R221). -/
structure Landing where
  ready : Nat
  slot : Slot
  dest : Dest
  val : BitVec 72
deriving DecidableEq, Repr

/-- The kernel context's registers (R202, R219). -/
structure CoreRegs where
  d : Tbl Word
  a : Tbl Acc
  p : Tbl Ptr
  m : Tbl Ptr
  rb : BitVec 5
  lc : BitVec 16
  ipc : BitVec 13
  ist : BitVec 3
  stat : BitVec 2
  ie : Bool
deriving DecidableEq, Repr

/-- Why the kernel context is not issuing (R203, R209, R224, R228). `shipped`: the core runs the shipped law. -/
inductive RunState where | shipped | running | waiting | budget | stalled | stopped
deriving DecidableEq, Repr

/-- A Tiller core (chapter 07): registers, control, image parameters, data memory and the IO page. `br` and `tap` say what
slot A of the bundle being issued holds: a branch, a TAPM on an accumulator. `svc` stands for the registers and memories of the
service context, whose contents the spec does not give, and `spentSvc` for the cycles it charged to its own classes (R203,
R228). -/
structure Core where
  r : CoreRegs
  pc : Nat
  target : Option Nat
  delay : Bool
  br : Bool
  tap : Option Nat
  slotA : Bool
  cycle : Nat
  land : List Landing
  run : RunState
  codeLen : Nat
  entry : Nat
  handler : Option Nat
  stateBytes : Nat
  imem : List (BitVec 64)
  mem : List Host.Cell
  sqProd : Word
  sqCons : Word
  cls : Bool
  periodCnt : Word
  imask : BitVec 2
  ipend : BitVec 2
  paramSeq : Word
  late : Word
  posts : List PostIn
  spentLoop : Nat
  spentDither : Nat
  lateLogged : Bool
  tainted : Bool
  svc : Nat
  spentSvc : Tbl Nat
deriving DecidableEq, Repr

/-- Kernel handles and binds of a mast (R231, R232, R234). `ver` counts their changes, so that a mirror older than one is
told (R233). -/
structure Kern where
  ver : Nat
  handles : Tbl (Option KernelImage)
  bound : Tbl Nat
  pend : List (Nat × Nat × Nat × Nat × Nat)
  loading : List (Nat × Nat × Nat × KernelImage × SlotIn)
deriving DecidableEq, Repr

/-! ## Calibration (chapter 10) -/

/-- What started a pass (R280). -/
inductive PassFrom where | full | desc (ring seq : Nat) | temp
deriving DecidableEq, Repr

/-- One cell's part of a pass (R283, R288, R290): `since` is the beat from which a DITHER cell's samples count, `lend` what
lends light to a swept cell. Collected for the phase in progress: whether the cell was lit and any conversion over range, its
products r × q and its neighbours' (newest first, up to 17), the newest outputs; and the raw codes of its sweep on each arm. -/
structure PassCell where
  cell : Nat
  method : CalMethod
  round : Nat
  lend : List CellSet
  since : Option Nat
  outcome : Option Nat
  interrupted : Nat
  bias : Option Nat
  bar : Nat
  cross : Nat
  mgain : Nat × Nat
  mofs : Option Int × Option Int
  cSelf : Int
  cNb : List (Option Int)
  resid : Nat
  ext : Nat
  epsC : Int
  nbC : List (Option Int)
  gain : Bool
  lit : Bool
  ovr : Bool
  win : List Int
  nbWin : List (List Int)
  raw0 : List Nat
  raw1 : List Nat
  seen : Nat × Nat
deriving DecidableEq, Repr

/-- A pass's request: who, which tiles, which options (R280). -/
structure PassReq where
  src : PassFrom
  tiles : Nat
  ditherOnly : Bool
  shadow : Bool
  spares : Bool
  noTrim : Bool
deriving DecidableEq, Repr

/-- A running pass: per tile the round and phase in progress, the beats at which the round began and the phase ends, and how many
rounds have begun; the converters that have measured trims, and per converter the beat from which it may dwell again (R281 to
R293). -/
structure Pass where
  req : PassReq
  planned : Bool
  cells : List PassCell
  round : Tbl Nat
  roundBeat : Tbl Nat
  phase : Tbl Nat
  endBeat : Tbl Nat
  startBeat : Nat
  lastEnd : Nat
  begun : Tbl Nat
  trims : List Nat
  dwelt : Tbl Nat
deriving DecidableEq, Repr

/-- Calibration state of a mast (chapter 10). -/
structure CalSt where
  pass : Option Pass
  queue : List PassReq
  lastStatus : Status
  trig : Nat
  rounds : Nat
  epoch : Nat
  reads : List ReadJob
  save : Option (Nat × Nat)
  saved : Option Nat
deriving DecidableEq, Repr

/-! ## Time and Halyard (chapter 11) -/

/-- TIM_STS.STATE (R314). -/
inductive TimState where | freerun | acquiring | locked | holdover
deriving DecidableEq, Repr

/-- A two-step Sync that waits for its Follow_Up: its sequence number, ingress time in ps, and correction in 2^-16 ns (R315). -/
structure SyncWait where
  seq : Nat
  rx : Int
  correction : Int
deriving DecidableEq, Repr

/-- The timebase's discipline and the two PTP instances (R311 to R318). `acc`: the time past the label
of the beat in progress at the first timebase cycle in it, in units of 2^-38 ns (R307). Per port: the mean path delay and the last
master-to-slave delay, in ps, and the outstanding Delay_Req's sequence number and egress time (R317). -/
structure Tim where
  state : TimState
  port : Nat
  steps : Nat
  rate : Int
  hold : Int
  offset : Int
  mpd : Tbl Int
  gm : BitVec 64
  run : Nat
  hist : List Int
  step : Option (Int × Nat)
  setSec : Option Nat
  latchNs : Nat
  best : Tbl (Option (Nat × BitVec 64))
  annAt : Tbl (Nat × Int)
  syncs : Tbl (Option SyncWait)
  msd : Tbl (Option Int)
  reqLog : Tbl Int
  reqAt : Tbl Nat
  reqTx : Tbl (Option (Nat × Int))
  reqSeq : Tbl Nat
  gmAt : Option Nat
  ppsAt : Nat
  ppsOut : Option Nat
  fresh : Bool
  acc : Nat
deriving DecidableEq, Repr

/-- The Halyard follower and slot machinery (R322 to R328). `apply` is the time code to be taken at the next cycle. -/
structure Hal where
  lock : Bool
  timeOk : Bool
  chunks : List Nat
  prev : Option Nat
  apply : Option Stamp
  pend : List (Nat × Stamp)
deriving DecidableEq, Repr

/-! ## Glean (chapter 12) -/

/-- A flight-record cell record (R333). -/
structure CellRec where
  cell : Nat
  A : Nat
  B : Nat
  htr : Nat
  O : Nat
  mode : Nat
  flags : BitVec 13
  E : Nat
deriving DecidableEq, Repr

/-- A flight-record frame (R332). -/
structure Frame where
  time : Stamp
  beat : Nat
  gap : Bool
  epoch : Nat
  strikes : List Nat
  recs : List CellRec
deriving DecidableEq, Repr

/-- Capture-unit states (R350). -/
inductive UState where | idle | armed | running | draining
deriving DecidableEq, Repr

/-- A capture unit (R336 to R347). `owner` is its CAP_ARM descriptor; `events` the events received; `kept` the blocks
of the slot being filled. -/
structure Unit_ where
  state : UState
  owner : Option (Nat × Nat)
  causeEn : Nat
  startDiv : Nat
  thin : Nat
  first : Nat
  count : Nat
  pre : Nat
  post : Nat
  clamp : Bool
  at_ : Option Stamp
  slots : List Nat
  cap0 : Nat
  capN : Nat
  events : List (Cause × Nat × Stamp × Nat)
  halId : Nat
  cause : Nat
  trigBeat : Nat
  trigTime : Stamp
  trigEpoch : Nat
  div : Nat
  next : Int
  gap : Bool
  anyGap : Bool
  rateStep : Bool
  stepAt : Option Nat
  slotIx : Nat
  kept : List (List Nat)
  cancelled : Bool
deriving DecidableEq, Repr

/-- Glean (chapter 12). `cellDue`: the streams that are still to take CELL records, with the beat of the frame each takes them from
(R363). -/
structure Glean where
  recording : Bool
  startAt : Option Nat
  frames : List Frame
  build : Option Frame
  gap : Bool
  written : Bool
  strikes : List Nat
  epoch0 : Nat
  units : Tbl (Option Unit_)
  trigOut : Option Nat
  cellDue : List (Nat × Nat)
deriving DecidableEq, Repr

/-! ## Egress and counters (chapter 13) -/

/-- A closed or open packet of a stream (R365). -/
structure Packet where
  recs : List TelRec
  bytes : Nat
  openedAt : Nat
  closed : Bool
  closedAt : Stamp
deriving DecidableEq, Repr

/-- A subscriber stream (R361, R362, R365). `closing` holds the beat of its time limit and the STREAM_CLOSE that waits;
`stopAt` the watch boundary at which production stops. -/
structure Stream where
  defn : StreamDef
  owner : Nat
  from_ : Nat
  closing : Option (Nat × Option (Nat × Nat))
  stopAt : Option Nat
  eligible : Bool
  pkts : List Packet
  queued : Nat
  seq : Nat
  F : Nat
  weight : Nat
  rate : Nat
  burst : Nat
  newShape : Option (Nat × Nat)
  tokens : Nat
  refillAt : Nat
  wheel : Option Nat
  lost : Nat
  firstLost : Stamp
  tmplAt : Nat
deriving DecidableEq, Repr

/-- Egress, counters and bandwidth (chapter 13). -/
structure Egress where
  streams : Tbl (Option Stream)
  V : Tbl Nat
  link : Tbl Bool
  ctr : Tbl Nat
  wrap : List Nat
  gen : Nat
  selWritten : List Nat
  snap : List (Nat × Nat × Nat × Bool)
  bw : Tbl (Nat × Nat)
  bwEnd : Stamp
  bwNow : Tbl (Nat × Nat)
deriving DecidableEq, Repr

/-! ## Faults (chapter 14) -/

/-- A fence (R384, R387): the unit, whether it is LASTING, and the FAULT entry's source, beat label and epoch. -/
structure Fence where
  unit : FUnit
  lasting : Bool
  source : Nat
deriving DecidableEq, Repr

/-- A Winnow test running (R386, R387): its unit, when it started, its duration in beats, whether a check of it failed, and, for a
cell's dither re-measure, whether a sample had light and which of its last consecutive valid samples, up to 17 of them, have an r of
the sign of s. -/
structure Test where
  unit : FUnit
  start : Nat
  dur : Nat
  bad : Bool
  lit : Bool
  win : List Bool
deriving DecidableEq, Repr

/-- The fault collector and Winnow of a mast (chapter 14). -/
structure Flt where
  log : List LogEnt
  seq : Nat
  first : Option LogEnt
  fences : List Fence
  queue : List FUnit
  running : List Test
  hist : List (FUnit × Nat × Bool)
  irqAt : Option Nat
  irqPend : Bool
deriving DecidableEq, Repr

/-! ## The pennant (chapter 15) -/

/-- What an acceptance-journal entry shows (R401): a descriptor accepted, a record written, a record placed in the backlog, one
placed there again after a host loss, a slot put on the held list, a loss mark, a window's slots off the held list, backlog and
loss marks dropped. -/
inductive JEv where
  | accept (d : Desc)
  | record (cpl index : Nat) (r : Record) (irq : Bool)
  | back (b : BackRec)
  | late (b : BackRec)
  | held (h : HeldSlot)
  | loss (b : BackRec)
  | unheld (win : Nat)
  | dropped
deriving DecidableEq, Repr

/-- An acceptance-journal entry: its number and the beat at which the holder made it. -/
structure JEnt where
  seq : Nat
  beat : Nat
  ev : JEv
deriving DecidableEq, Repr

/-- A receipt waiting or being signed (R446). -/
structure RcptJob where
  ring : Nat
  seq : Nat
  epoch : Nat
  nonce : BitVec 256
deriving DecidableEq, Repr

/-- Heat and sprint state of a mast (R420 to R427): the level computed and the one acting, the dwell's updates, `jcool` the beat since
which TJ_MAX is at or below 98 °C, `form` true for pause, the beat a sprint started, boundaries of low demand, the end of the
sprint wait. -/
structure Pwr where
  level : Nat
  actLevel : Nat
  dwell : Option Nat
  rateMax : Int
  tj : Int
  jwarn : Bool
  jcool : Option Nat
  form : Bool
  sprint : Option Nat
  sprintLow : Nat
  waitUntil : Option Nat
  cappedPrev : Bool
  pmbAt : Option Nat
deriving DecidableEq, Repr

/-- Tile loop parameters in force (R193). -/
structure Par where
  period : Nat
  ditherAmp : Nat
  htrTau : Nat
  kappa : Nat
  lightFloor : Nat
  railFf : Nat
  railRef : Nat
  stepGain : Nat
  stepTau : Nat
deriving DecidableEq, Repr

/-- The loop state of one cell as the mirror carries it: F and the parameters (R22, R190, R193). -/
structure LoopMir where
  F : Int
  mode : Nat
  kp : Nat
  ki : Nat
  lo : Nat
  hi : Nat
  openCode : Nat
deriving DecidableEq, Repr

/-- The loop state of one tile as the mirror carries it: the tile's parameters, the changes that wait for their boundary, and
the cells; `dflt` is every lane not in `cells`. -/
structure MirTile where
  par : Par
  pend : List (Option Nat × Nat × Nat)
  dflt : LoopMir
  cells : Tbl LoopMir
deriving DecidableEq, Repr

/-- A command-lane frame that waits for its slot: its class, what it names, and immediate writes (lane, target, Thresh's own)
that it carries (R16). -/
structure LaneFrame where
  cls : Nat
  words : List Nat
  writes : List (Nat × Tgt × Bool)
deriving DecidableEq, Repr

/-- One direction of a stay link (R15, R16, R34): the next sequence number, the command-lane slots used in this watch, the slots
used in the beat `beat`, immediate writes received in that beat's open frame, the frames that wait in the order in which they
became ready, budgeted slots used in this watch by class, the types of frames sent again, and whether the command lane was used
up in the watch before. -/
structure StayDir where
  seq : Nat
  used : Nat
  beat : Nat
  inBeat : Nat
  writes : Nat
  wait : List LaneFrame
  spent : Tbl Nat
  again : List Nat
  late : Bool
deriving DecidableEq, Repr

/-- A mast's stay link to one tile, with the sending beat of a renewal dropped on it (R18). -/
structure Stay where
  down : StayDir
  up : StayDir
  gone : Option Nat
deriving DecidableEq, Repr

/-- The Tiller cycles already counted of those charged in this watch, by cluster and class (R369), what a mast's classes have used of
the HBM allowances in it, and the resource, class and unit of the allowances
reported used up (R34). -/
structure Budget where
  told : Tbl Nat
  hbm : Tbl Nat
  waits : List (Nat × Nat × Nat)
deriving DecidableEq, Repr

/-- The mirror of a watch as it travels over the gaff link (R22, R42, R401): what the holder held at the watch's end. -/
structure Snap where
  beat : Nat
  jseq : Nat
  regs : Tbl Reg64
  eff : Tbl Reg64
  stage : Stage
  status : Status
  busy : Option Bring
  hif : Hif
  fab : Fab
  cores : Tbl Core
  mir : Tbl (Option MirTile)
  kern : Kern
  cal : CalSt
  tim : Tim
  units : Tbl (Option Unit_)
  streams : Tbl (Option Stream)
  fences : List Fence
  sec : List RcptJob
  pwr : Pwr
deriving DecidableEq, Repr

/-- Pennant state of a mast (chapter 15). Holder: `acks` the lease ends acknowledged, `lastFull` and `sent` the last renewal
acknowledged by all and the last sent, `busy` the cause of a handover running, `hAt` its H, `released` its release frames and
word sent, `toSend` and `mirrorOut` what travels to the standby. Standby: `journal` and `mirrorBeat`, `snapBeat` what arrived
and of when, `seen` and `ended` the tiles whose idle frames show a lease or its end, `claimAt`, `accepted` and `arms` the claim
in progress, `announce` a PENNANT record due. -/
structure Pen where
  holder : Bool
  epoch : Nat
  holderIdx : Nat
  protect : Bool
  busy : Option Nat
  yielding : Bool
  hAt : Nat
  cause : Nat
  last : Stamp
  acks : Tbl Nat
  lastFull : Nat
  sent : Option Nat
  stopped : Bool
  journal : List JEnt
  toSend : List JEnt
  jseq : Nat
  mirrorOut : Option Snap
  mirrorBeat : Option Nat
  snapBeat : Nat
  gaff : Bool
  gaffUpAt : Nat
  gaffDownAt : Nat
  seen : List Nat
  ended : List Nat
  claimAt : Option Nat
  claimCause : Nat
  accepted : List Nat
  arms : List (Nat × Arm)
  released : Bool
  ctlSync : Option Reg64
  announce : Bool
  busyAt : Nat
  idle : Tbl (Nat × Nat)
  due : Bool
deriving DecidableEq, Repr

/-! ## Power, trust, memory (chapters 16, 17, 18) -/

/-- A scan request of the CRC engine (R459): requester, QoS, age and length. -/
structure ScanReq where
  master : Nat
  qos : Nat
  at_ : Nat
  len : Nat
deriving DecidableEq, Repr

/-- Memories and CRC units (chapter 18). The journal entries of epochs up to `lostTo` are lost,
`lostKern` are the handles whose image is lost from both copies; `calKept` is `some l`
once the calibration store has lost both copies: only the cells of `l` have been stored again since (R454). `poison` are the
poisoned SRAM words by bank (R451), `returning` the HBM channels that return to their placements at the next watch boundary
(R453). -/
structure Mem where
  spareFor : Option Nat
  poison : List (Nat × Nat)
  returning : List Nat
  copying : Option Nat
  restoring : Bool
  nearOk : Bool
  farOk : Bool
  rebuild : Bool
  bypass : Bool
  lostTo : Option Nat
  lostKern : List Nat
  calKept : Option (List Nat)
  crc : Word
  scans : List ScanReq
  scan : Option ScanReq
deriving DecidableEq, Repr

/-- A mast: both dies hold the same parts (R13). The holder's copy is live; the standby's is the mirror (R22, R401). `mir` is
the loop state of the tiles as the last mirror received has it. -/
structure Mast where
  boot : Boot
  regs : Tbl Reg64
  eff : Tbl Reg64
  hif : Hif
  fab : Fab
  cores : Tbl Core
  kern : Kern
  cal : CalSt
  tim : Tim
  hal : Hal
  gln : Glean
  eg : Egress
  flt : Flt
  pen : Pen
  pwr : Pwr
  sec : List RcptJob
  mem : Mem
  stays : Tbl Stay
  bud : Budget
  mir : Tbl (Option MirTile)
deriving DecidableEq, Repr

/-! ## Tiles and cells (chapters 06, 08, 09, 10) -/

/-- A cell's fast-drive channel (R238, R242): park code, target, W, output, next step beat, gain is the tile's. -/
structure Drive where
  P : Nat
  T : Nat
  W : Bool
  O : Nat
  step : Option Nat
  logical : Option Tgt
  live : Bool
deriving DecidableEq, Repr

/-- A cell's heater channel (R249 to R252). `next` is the next code with its priority: 0 ramp, 1 loop, 2 Thresh,
3 a fenced lane's; `overrun` says that the code for the next loop boundary did not come, `kept` that the one for this watch's
boundary did not. -/
structure Heat where
  inForce : Nat
  next : Option (Nat × Nat)
  applied : Nat
  capped : Bool
  G : Nat
  limit : Bool
  overrun : Bool
  arrived : Bool
  kept : Bool
deriving DecidableEq, Repr

/-- A cell's loop state and parameters (R184, R185, R192, R193). `win`: the last products r×q, newest first.
`first`: the cell has had no entry since its core took its kernel (R207). -/
structure Loop where
  mode : Nat
  kp : Nat
  ki : Nat
  lo : Nat
  hi : Nat
  openCode : Nat
  I : Nat
  F : Int
  win : List Int
  restart : Bool
  first : Bool
  computed : Bool
  tone : Nat
  dstep : Int
  dstepPrev : Int
deriving DecidableEq, Repr

/-- A corrected conversion with its flags (R206, R257). -/
structure Samp where
  code : Nat
  settle : Bool
  ovr : Bool
  raw : Nat
deriving DecidableEq, Repr

/-- A cell's monitor state (R262 to R270): arms 0 and 1. `s0`, `s1` are filter outputs, `h0`, `h1` corrected conversions,
newest first; `moving` is MOVING of the scan in progress (R206), `o` and `e` are O and E at the sample instant (R333). -/
structure Mon where
  expect : Nat
  s0 : Samp
  s1 : Samp
  h0 : List Samp
  h1 : List Samp
  out0 : Bool
  out1 : Bool
  run0 : Nat
  run1 : Nat
  fresh : Bool
  exit : Bool
  moving : Bool
  o : Nat
  e : Nat
deriving DecidableEq, Repr

/-- A cell's calibration (R277, R279). `mofs` in sixteenths of a raw LSB, `mgain` in Q2.14. -/
structure Cal where
  bar : Nat
  cross : Nat
  bias : Nat
  mofs0 : Int
  mofs1 : Int
  mgain0 : Nat
  mgain1 : Nat
  cSelf : Int
  cNb : List Int
  resid : Nat
  ext : Nat
  method : Nat
  outcome : Nat
deriving DecidableEq, Repr

/-- What a cell was at the start of a beat in which its effective target changed: E, O and the step beat, the window and its
flags, and what the change has added to DSTEP since. Several sources at one boundary make one change of E (R240). -/
structure Before where
  beat : Nat
  E : Nat
  O : Nat
  step : Option Nat
  delta : Int
  win : List Int
  restart : Bool
  moving : Bool
deriving DecidableEq, Repr

/-- A cell of a tile (R8): one lane. -/
structure Cell where
  drv : Drive
  htr : Heat
  lp : Loop
  mon : Mon
  cal : Cal
  before : Option Before
deriving DecidableEq, Repr

/-- A report a tile sends in its next command-lane frame (R16 class 3). -/
inductive Rep where
  | miss (tsid : Nat)
  | stray (tsid : Nat)
  | driver (lane code : Nat)
  | heater (lane code : Nat)
  | exit (lane arm value : Nat) (ovr : Bool) (at_ : Stamp)
deriving DecidableEq, Repr

/-- A staged sheaf on a tile (R129). `gap`: a staging frame of it was lost on the stay (R18). -/
structure StagedT where
  tsid : Nat
  gap : Bool
  changes : List Change
deriving DecidableEq, Repr

/-- The lease and strike machinery of a tile (R131 to R138, R396 to R399). -/
structure TileLink where
  pen : Nat
  leaseEnd : Nat
  released : Bool
  staged : List StagedT
  armed : Option Arm
  arms : List Arm
  applied : Option (Nat × Nat)
  reports : List Rep
  ack : Option (Nat × Bool)
deriving DecidableEq, Repr

/-- Converter state of a tile (R260 to R267, R273). `parkSeen`: the PARK_N condition of R189 holds for the scan in
progress; `parkHold`: since a park, some fast output has not yet reached its target at the start of a scan. -/
structure Conv where
  slot : Nat
  scanning : Bool
  loopScan : Bool
  scanBeat : Nat
  parkSeen : Bool
  parkHold : Bool
  lpNow : Bool
  lpReq : Option Bool
  awake : Bool
  pga : Nat
  filt : Nat
  marks : Tbl Nat
  filtMarks : Nat
  away : List Nat
  watching : List Nat
deriving DecidableEq, Repr

/-- A tile: `dflt` is every lane not in `cells`. `parkW` and `imm` are a PARK write and immediate writes (lane, target,
Thresh's own) that reach the channels at the next beat boundary (R239). `trims` is the trim block in
force, `none` for the factory's; `temp0` is the first temperature since the analogue domain came alive (R279). `loopDue`: a new holder has yet to load the loops, at
the tile's next loop-period boundary (R190). -/
structure Tile where
  enabled : Bool
  alive : Bool
  selfcal : Option Nat
  disabling : Bool
  link : TileLink
  parkLow : Bool
  parkRelease : Option Nat
  parkW : Option Nat
  imm : List (Nat × Tgt × Bool)
  gain : Bool
  gainReq : Option Bool
  par : Par
  pend : List (Option Nat × Nat × Nat)
  phase : Nat
  closed : Bool
  loopDue : Bool
  ramp : Nat
  railMv : Nat
  rs : Nat
  allow : Nat
  est : Nat
  cappedNow : Bool
  conv : Conv
  trims : Option (List Byte)
  temp : Int
  temp0 : Option Int
  tempRef : Int
  temps : List Int
  refDue : Bool
  uncal : Bool
  dflt : Cell
  cells : Tbl Cell
deriving DecidableEq, Repr

/-! ## The package -/

/-- Ordering code (R1). -/
inductive Part where | d16 | d8
deriving DecidableEq, Repr

/-- The always-on domain (R414 to R416, R428, R429, R432). `queue` holds requests by their lowest domain, `late` those of them
already reported; `waking` the admitted ones with the beat at which they are alive; `cool` counts samples below 90 °C since the
trip; `slotAt` is the earliest beat of the next slot. -/
structure AlwaysOn where
  on : BitVec 48
  queue : List Nat
  waking : List (Nat × Nat)
  trips : Nat
  last : Bool
  tripped : Option Nat
  norOn : Bool
  cool : Nat
  slotAt : Nat
  late : List Nat
deriving DecidableEq, Repr

/-- Pin levels (R480, R481) and the sequencer's view of PARK_N (R136). -/
structure Pins where
  poresetN : Bool
  parkN : Bool
  parkSeen : Bool
  riseBeat : Nat
  trigOut : Bool
  ppsOut : Bool
deriving DecidableEq, Repr

/-- Everything of the block but the queue. `beat` counts physical beat edges (R308); `now` is the label of the beat in
progress (R307); `lastWatch` is the beat of the last watch boundary; `free` counts free values drawn (assumption 3); `out` is what has left the block. -/
structure Dev where
  part : Part
  beat : Nat
  now : Stamp
  fore : Mast
  main : Mast
  tiles : Tbl Tile
  aon : AlwaysOn
  pins : Pins
  out : List Out
  free : Nat
  lastWatch : Option Nat
deriving DecidableEq, Repr

/-- The state: the queue of waiting commands, first in first out, and the block. -/
structure State where
  pending : List Instr
  dev : Dev
deriving DecidableEq, Repr

/-- Reasons a step stops with a fault. -/
inductive Fault where
  /-- Raised by SHEAF_OPEN when it reuses an open SHEAF_ID on its ring: R395 calls the result on the sheafs of that ring
  undefined and gives no effect. Safe: the model stops where the device goes on. -/
  | sheafIdReuse
deriving DecidableEq, Repr

/-- Reasons a command has no meaning. -/
inductive Refusal where
  /-- Raised by an arm of exec not modelled yet. Safe: nothing can be proved of it. -/
  | notModelled (mnemonic : String)
deriving DecidableEq, Repr

/-! ## Reset -/

/-- The record of a slot programmed at manufacture. -/
def factoryRec (slot : Nat) : KeyRec := ⟨(Config.factoryKey slot).1, (Config.factoryKey slot).2⟩

/-- OTP at shipment (R433): slots 0 and 1 are programmed firmware keys, 2 and 3 are blank. -/
def otpReset : List OtpSlot :=
  [⟨(factoryRec 0).hash, true, false, false⟩, ⟨(factoryRec 1).hash, true, false, false⟩,
   ⟨0, false, false, false⟩, ⟨0, false, false, false⟩]

/-- NOR at reset: no firmware or seed image (assumption 5); key area copy A holds the two programmed slots' records,
as R434 says each mast's NOR does. -/
def norReset : Nor :=
  ⟨none, none, [], [],
   some (keyCopy 0 (keyPlace (some (factoryRec 0)) ++ keyPlace (some (factoryRec 1)) ++ keyPlace none ++ keyPlace none)), none, none⟩

/-- Boot state under PORESET_N low (R49). -/
def bootReset : Boot :=
  ⟨.reset, .ok, none, 0, [], false, false, 0, 0, 0, false, 0, 0, 0, false, false, true, none,
   [false, false, false, false], otpReset, norReset⟩

def hifReset : Hif :=
  ⟨[], [], 0, [], [], [], [], [], 0, 0, true, false, 0, 5, false, none, false, [], [], []⟩

def fabReset : Fab :=
  { epoch := 0, strikeTime := none, lastStrike := none, map := [], portEpoch := [], sheafs := [], order := [],
    nextTsid := 0, lastTsid := none, repair := none, lastChanges := [], journal := [], snaps := [(0, [])], topo := none,
    topoErr := 0, topoErrEntry := 0, settings := [], pinned := [], active := 0,
    shadowBusy := false, cellEpoch := 0, healCause := [], missed := [], repaired := false, lastRepair := false, fulls := [], plans := [], reads := [],
    swap := none }

def calStReset : CalSt := ⟨none, [], .ok, 0, 0, 0, [], none, none⟩

def timReset : Tim :=
  { state := .freerun, port := 0, steps := 0, rate := 0, hold := 0, offset := 0, mpd := [], gm := 0, run := 0,
    hist := [], step := none, setSec := none, latchNs := 0, best := [], annAt := [], syncs := [], msd := [], reqLog := [],
    reqAt := [], reqTx := [], reqSeq := [], gmAt := none, ppsAt := 0, ppsOut := none, fresh := false, acc := 0 }

def halReset : Hal := ⟨false, false, [], none, none, []⟩

def gleanReset : Glean := ⟨false, none, [], none, false, true, [], 0, [], none, []⟩

def egressReset : Egress := ⟨[], [], [], [], [], 0, [], [], [], ⟨0, 0⟩, []⟩

def fltReset : Flt := ⟨[], 0, none, [], [], [], [], none, false⟩

def penReset : Pen :=
  { holder := false, epoch := 0, holderIdx := 0, protect := false, busy := none, yielding := false, hAt := 0, cause := 0
    last := ⟨0, 0⟩, acks := [], lastFull := 0, sent := none, stopped := false, journal := [], toSend := [], jseq := 0
    mirrorOut := none, mirrorBeat := none, snapBeat := 0, gaff := false, gaffUpAt := 0, gaffDownAt := 0, seen := [], ended := []
    claimAt := none, claimCause := 0, accepted := [], arms := [], released := false, ctlSync := none, announce := false
    busyAt := 0, idle := [], due := false }

def pwrReset : Pwr := ⟨0, 0, none, 0, 0, false, none, false, none, 0, none, false, none⟩

/-- Memories after reset (R453, R465): both copies valid, register slices bypassed, CRC state 0xFFFF_FFFF
(assumption 9). -/
def memReset : Mem := ⟨none, [], [], none, false, true, true, false, true, none, [], none, 0xFFFFFFFF, [], none⟩

/-- A stay link before any frame. -/
def stayReset : Stay :=
  ⟨⟨0, 0, 0, 0, 0, [], [], [], false⟩, ⟨0, 0, 0, 0, 0, [], [], [], false⟩, none⟩

def mastReset : Mast :=
  ⟨bootReset, [], [], hifReset, fabReset, [], ⟨0, [], [], [], []⟩, calStReset, timReset, halReset, gleanReset,
   egressReset, fltReset, penReset, pwrReset, [], memReset, [], ⟨[], [], []⟩, []⟩

/-- A cell before any write or calibration (R238, R193, R252, R279). -/
def cellReset : Cell :=
  { drv := ⟨0, 0, false, 0, none, none, false⟩
    htr := ⟨0, none, 0, false, 2000, false, false, false, false⟩
    lp := ⟨0, 0x1000, 0x0800, 1024, 64512, 0, 0, 0, [], true, false, false, 0, 0, 0⟩
    mon := ⟨0, ⟨0, false, false, 0⟩, ⟨0, false, false, 0⟩, [], [], false, false, 0, 0, false, false, false, 0, 0⟩
    cal := ⟨0, 0, 0, 0, 0, 16384, 16384, 0, [], 0xFFFF, 0, 0, 0⟩
    before := none }

def parReset : Par := ⟨1, 64, 150, 96000, 512, 1, 5000, 0x4000, 180⟩

/-- A tile with its domains off (R254). -/
def tileReset : Tile :=
  { enabled := false, alive := false, selfcal := none, disabling := false,
    link := ⟨0, 0, false, [], none, [], none, [], none⟩,
    parkLow := true, parkRelease := none, parkW := none, imm := [], gain := false, gainReq := none, par := parReset, pend := [], phase := 0,
    closed := false, loopDue := false, ramp := 0, railMv := 0, rs := 0x4000, allow := 0, est := 0, cappedNow := false,
    conv := ⟨0, false, false, 0, false, false, false, none, true, 0, 0, [], 0, [], []⟩,
    trims := none, temp := 0, temp0 := none, tempRef := 0, temps := [], refDue := false, uncal := true, dflt := cellReset, cells := [] }

def aonReset : AlwaysOn := ⟨0, [], [], 0, false, none, true, 0, 0, []⟩

/-- Pins at the levels their pulls give (R480); the sequencer sees PARK_N low. -/
def pinsReset : Pins := ⟨false, false, true, 0, false, false⟩

/-- The block under PORESET_N low, before anything has happened. -/
def devReset : Dev :=
  { part := .d16, beat := 0, now := ⟨0, 0⟩, fore := mastReset, main := mastReset, tiles := [], aon := aonReset,
    pins := pinsReset, out := [], free := 0, lastWatch := none }

/-- The state right after reset: an empty queue. -/
def State.reset : State := ⟨[], devReset⟩

end Sys2Proof.Machine
end

