-- ==== Sys2Proof/Machine/Tbl.lean ====
section
/-! DEFINITION. Sparse tables: lookup and the one update that keeps their canonical form. Register files, cells, and a
core's data memory are such tables. -/

namespace Sys2Proof.Machine

variable {α : Type}

/-- The value at a key, the default where the key is not listed. -/
def tget (dflt : α) : Tbl α → Nat → α
  | [], _ => dflt
  | (j, v) :: r, k => if j = k then v else tget dflt r k

/-- The table without a key. -/
def terase (t : Tbl α) (k : Nat) : Tbl α := t.filter (fun e => e.1 != k)

/-- A new key put in its place among rising keys. -/
def tinsert (k : Nat) (v : α) : Tbl α → Tbl α
  | [] => [(k, v)]
  | (j, w) :: r => if k < j then (k, v) :: (j, w) :: r else (j, w) :: tinsert k v r

/-- Writing a key: a value equal to the default removes the entry. -/
def tset [DecidableEq α] (dflt : α) (t : Tbl α) (k : Nat) (v : α) : Tbl α :=
  if v = dflt then terase t k else tinsert k v (terase t k)

/-- Updating a key from its value. -/
def tmod [DecidableEq α] (dflt : α) (t : Tbl α) (k : Nat) (f : α → α) : Tbl α :=
  tset dflt t k (f (tget dflt t k))

/-- Every value of a table changed, with its default. -/
def tmap [DecidableEq α] (f : α → α) (dflt : α) (t : Tbl α) : Tbl α :=
  t.foldr (fun e r => tset (f dflt) r e.1 (f e.2)) []

/-- The canonical form: keys strictly rising and no entry at the default. -/
def twf [DecidableEq α] (dflt : α) (t : Tbl α) : Bool :=
  t.all (fun e => decide (e.2 ≠ dflt)) && decide ((t.map Prod.fst).Pairwise (· < ·))

end Sys2Proof.Machine
end

