-- ==== Sys2Proof/Machine/Ops.lean ====
section
/-! DEFINITION. The named operations over the block: bit fields, time labels, masts, tiles, cells, outputs, free values. -/

namespace Sys2Proof.Machine

/-! ## Numbers and bits -/

/-- A field's bits as a mask. -/
def msk (lo w : Nat) : Reg64 := (BitVec.ofNat 64 (2 ^ w - 1)) <<< lo

/-- A field's value (R9). -/
def fld (r : Reg64) (lo w : Nat) : Nat := (r >>> lo).toNat % 2 ^ w

/-- A register with one field replaced. -/
def setFld (r : Reg64) (lo w v : Nat) : Reg64 := (r &&& ~~~ msk lo w) ||| ((BitVec.ofNat 64 v <<< lo) &&& msk lo w)

/-- One bit of a number. -/
def bit (n i : Nat) : Bool := n / 2 ^ i % 2 == 1

def b2n (b : Bool) : Nat := if b then 1 else 0

/-- A count that saturates at the top of its width. -/
def satAdd (w n k : Nat) : Nat := Nat.min (n + k) (2 ^ w - 1)

/-- a ÷ b rounded half up: floor(a/b + 1/2) (R216). -/
def rhuDiv (a : Int) (b : Nat) : Int := (2 * a + b) / (2 * (b : Int))

def clampI (lo hi x : Int) : Int := if x < lo then lo else if hi < x then hi else x

def clampN (lo hi : Nat) (x : Int) : Nat := (clampI lo hi x).toNat

/-- An exact result held in its format: outside it a free value of the format (assumption 98). `q` names the quantity. -/
def fitI (q : Nat) (lo hi x : Int) : Int := if lo ≤ x ∧ x ≤ hi then x else lo + Config.outside q x % (hi - lo + 1)

def fitN (q hi : Nat) (x : Int) : Nat := (fitI q 0 hi x).toNat

/-- A signed field of width w, two's complement. -/
def toField (w : Nat) (x : Int) : Nat := (x % (2 ^ w : Int)).toNat

/-- Bits of a number set to 1, below n. -/
def bitsOf (n width : Nat) : List Nat := (List.range width).filter (bit n)

/-- A list of numbers as a bit mask. -/
def maskOf (l : List Nat) : Nat := l.foldl (fun a i => if bit a i then a else a + 2 ^ i) 0

/-- Serial order of 32-bit sequence numbers (R299, R436): `a` is ahead of `b`. -/
def serialAfter (a b : Nat) : Bool := let k := (a + 2 ^ 32 - b % 2 ^ 32) % 2 ^ 32; decide (0 < k ∧ k < 2 ^ 31)

/-! ## Status codes (R12) -/

def Status.code : Status → Nat
  | .ok => 0x0000 | .conflict => 0x0101 | .needsRearrange => 0x0102 | .cellFenced => 0x0103 | .portInvalid => 0x0104
  | .parked => 0x0106 | .reefHeld => 0x0107 | .sheafLimit => 0x0108 | .assertFailed => 0x0109
  | .sheafUnknown => 0x010A | .aborted => 0x010B | .timeRange => 0x010C | .mapEpoch => 0x010D | .portBusy => 0x010E
  | .paramInvalid => 0x010F | .hostLost => 0x0201 | .mastChange => 0x0202 | .stageFail => 0x0203 | .tooLate => 0x0204
  | .topoInvalid => 0x0205 | .badOpcode => 0x0206 | .ringStalled => 0x0207 | .slotOwner => 0x0208
  | .payloadCrc => 0x0209 | .ctxClosed => 0x020A | .badState => 0x020B | .slotRange => 0x020C
  | .kernelFormat => 0x020D | .streamInvalid => 0x020E | .ctxFenced => 0x020F | .receiptRate => 0x0210
  | .memLost => 0x0211 | .notPermitted => 0x0301 | .kernelSig => 0x0302 | .keyRefused => 0x0303 | .noLight => 0x0401
  | .seedAbsent => 0x0402 | .seedMismatch => 0x0403 | .calPartial => 0x0404 | .seedPeer => 0x0405
  | .calBusy => 0x0406 | .postClamp => 0x0501 | .capRange => 0x0502 | .capCancelled => 0x0503 | .capBusy => 0x0504
  | .capGap => 0x0505

/-- STAGE's encoding (R49). -/
def Stage.code : Stage → Nat
  | .reset => 0 | .boot => 1 | .setup => 2 | .topo => 3 | .powered => 4 | .seeded => 5 | .arming => 6 | .ready => 7
  | .halted => 15

def TimState.code : TimState → Nat
  | .freerun => 0 | .acquiring => 1 | .locked => 2 | .holdover => 3

def ukCode : UnitKind → Nat
  | .cell => 0 | .lane => 1 | .converter => 2 | .tile => 3 | .core => 4 | .cluster => 5 | .hbm => 6 | .sram => 7
  | .eth => 8 | .ctx => 9 | .strike => 10

/-! ## Labels of time (R307) -/

/-- A label as records and slot headers carry it: the low 32 bits of the seconds (R84, R96). -/
def lowStamp (s : Stamp) : Stamp := ⟨s.sec % 2 ^ 32, s.ns⟩

def stampNs (s : Stamp) : Nat := s.sec * 1000000000 + s.ns

/-- The label of a total of nanoseconds; the seconds field has 48 bits (R307). -/
def stampOf (t : Nat) : Stamp := ⟨t / 1000000000 % 2 ^ 48, t % 1000000000⟩

/-- The next beat's label (R308): 100 ns on, carrying into the seconds field (R307). -/
def nextLabel (s : Stamp) : Stamp :=
  if s.ns + 100 < 1000000000 then ⟨s.sec, s.ns + 100⟩ else ⟨(s.sec + 1) % 2 ^ 48, 0⟩

/-- A label `n` nanoseconds later. -/
def stampPlus (s : Stamp) (n : Nat) : Stamp := stampOf (stampNs s + n)

/-- The beat boundary at or after a label (R124): the label rounded up to a multiple of 100 ns. -/
def roundUpBeat (s : Stamp) : Stamp := stampOf ((stampNs s + 99) / 100 * 100)

/-- The beat of the next watch boundary after the beat in progress (R24). -/
def Dev.nextWatch (d : Dev) : Nat := d.beat + (200 - d.now.ns % 20000 / 100)

/-! ## Masts -/

def midx : MastId → Nat
  | .fore => 0 | .main => 1

def peerOf : MastId → MastId
  | .fore => .main | .main => .fore

def Dev.mast (d : Dev) : MastId → Mast
  | .fore => d.fore | .main => d.main

def Dev.setMast (d : Dev) (m : MastId) (x : Mast) : Dev :=
  match m with
  | .fore => { d with fore := x }
  | .main => { d with main := x }

def Dev.onMast (d : Dev) (m : MastId) (f : Mast → Mast) : Dev := d.setMast m (f (d.mast m))

/-- The mast that holds the pennant (R7, R396). -/
def Dev.holder (d : Dev) : Option MastId :=
  if d.fore.pen.holder then some .fore else if d.main.pen.holder then some .main else none

/-- The holder while it serves: it has not stopped under R400, its REFCLK runs (R482) and its die is out of reset. -/
def Dev.serving (d : Dev) : Option MastId :=
  match d.holder with
  | none => none
  | some m => if (d.mast m).pen.stopped || !(d.mast m).boot.refclk || (d.mast m).boot.stage == .reset then none else some m

/-- An effect of the serving holder; nothing happens while no mast serves. -/
def Dev.act (d : Dev) (f : MastId → Dev) : Dev :=
  match d.serving with
  | none => d
  | some m => f m

/-- The mast is at stage SETUP or later: its BAR is reachable (R492). -/
def Dev.barUp (d : Dev) (m : MastId) : Bool :=
  let b := (d.mast m).boot
  b.tunnel && !(b.stage == .reset || b.stage == .boot || b.stage == .halted)

/-! ## Tiles and cells (R8) -/

def laneCount : Nat := 1536
def cellCount : Nat := 24576

def Dev.tile (d : Dev) (t : Nat) : Tile := tget tileReset d.tiles t

def Dev.setTile (d : Dev) (t : Nat) (x : Tile) : Dev := { d with tiles := tset tileReset d.tiles t x }

def Dev.onTile (d : Dev) (t : Nat) (f : Tile → Tile) : Dev := d.setTile t (f (d.tile t))

/-- Populated tile positions (R1, R2). -/
def Part.tiles : Part → Nat
  | .d16 => 16 | .d8 => 8

def Part.code : Part → Nat
  | .d16 => 0x2416 | .d8 => 0x2408

/-- Enabled tiles, ascending. -/
def Dev.enabledTiles (d : Dev) : List Nat := (List.range 16).filter (fun t => (d.tile t).enabled)

def Dev.onTiles (d : Dev) (ts : List Nat) (f : Nat → Tile → Tile) : Dev :=
  ts.foldl (fun d t => d.onTile t (f t)) d

def Tile.cell (x : Tile) (l : Nat) : Cell := tget x.dflt x.cells l

def Tile.setCell (x : Tile) (l : Nat) (c : Cell) : Tile := { x with cells := tset x.dflt x.cells l c }

def Tile.onCell (x : Tile) (l : Nat) (f : Cell → Cell) : Tile := x.setCell l (f (x.cell l))

/-- Every cell of a tile at once: the lanes not listed change together. -/
def Tile.mapCells (x : Tile) (f : Cell → Cell) : Tile := { x with dflt := f x.dflt, cells := tmap f x.dflt x.cells }

/-- The lanes that differ from the rest, with their cells. -/
def Tile.listed (x : Tile) : List (Nat × Cell) := x.cells

/-- A sum over every cell of a tile. -/
def Tile.sumCells (x : Tile) (f : Cell → Nat) : Nat :=
  (x.cells.map (fun e => f e.2)).sum + (laneCount - x.cells.length) * f x.dflt

/-- A property of every cell of a tile. -/
def Tile.allCells (x : Tile) (p : Cell → Bool) : Bool :=
  x.cells.all (fun e => p e.2) && (p x.dflt || laneCount ≤ x.cells.length)

def Dev.cell (d : Dev) (c : Nat) : Cell := (d.tile (c / laneCount)).cell (c % laneCount)

def Dev.onCell (d : Dev) (c : Nat) (f : Cell → Cell) : Dev :=
  d.onTile (c / laneCount) (fun x => x.onCell (c % laneCount) f)

def Tile.onDrv (x : Tile) (l : Nat) (f : Drive → Drive) : Tile := x.onCell l (fun c => { c with drv := f c.drv })

/-! ## Outputs and free values -/

def Dev.emit (d : Dev) (o : Out) : Dev := { d with out := d.out ++ [o] }

/-- Draw a free value (assumption 3). -/
def Dev.drawNat (d : Dev) (k : Nat → Dev → Dev) : Dev := k (Config.freeNat d.free) { d with free := d.free + 1 }

def Dev.drawReg (d : Dev) (k : Reg64 → Dev → Dev) : Dev := k (Config.freeReg d.free) { d with free := d.free + 1 }

def Dev.drawBool (d : Dev) (k : Bool → Dev → Dev) : Dev := k (Config.freeBool d.free) { d with free := d.free + 1 }

/-! ## State -/

/-- A command's effect on the block, the queue untouched. -/
def State.onDev (s : State) (f : Dev → Dev) : State := { s with dev := f s.dev }

/-- A meaning that always goes on. -/
def run (s : State) (f : Dev → Dev) : Host.Outcome State Fault Refusal := .next (s.onDev f)

/-- A fold of an effect over a list. -/
def Dev.each {α : Type} (d : Dev) (l : List α) (f : α → Dev → Dev) : Dev := l.foldl (fun d a => f a d) d

/-- An effect under a condition. -/
def Dev.when (d : Dev) (c : Bool) (f : Dev → Dev) : Dev := if c then f d else d

/-- The first element meeting a condition, updated. -/
def updFirst {α : Type} (p : α → Bool) (f : α → α) : List α → List α
  | [] => []
  | a :: r => if p a then f a :: r else a :: updFirst p f r

/-- An association list without a key. -/
def aerase {β : Type} (l : List (Nat × β)) (k : Nat) : List (Nat × β) := l.filter (fun e => e.1 != k)

end Sys2Proof.Machine
end

