-- ==== Sys2Proof/Machine/Law.lean ====
section
/-! DEFINITION. The arithmetic of the bias loop law (chapter 06): tones, references, the error, the PI step, the rail scale.
Transcendental functions are evaluated in fixed point at 2^60, far inside every rounding the rules ask for (assumption 15). -/

namespace Sys2Proof.Machine

/-- Scale of the fixed-point values below. -/
def S60 : Int := 1152921504606846976

/-- sin(2π j / 17) × 2^60 for j = 0 to 16. -/
def sinTab : List Int :=
  [0, 416483285307176736, 776718195120066949, 1032053008737895787,
   1148003344722530622, 1108909467696254878, 920051222378117899, 606934961297997783,
   211848770551862902, -211848770551862902, -606934961297997783, -920051222378117899,
   -1108909467696254878, -1148003344722530622, -1032053008737895787, -776718195120066949,
   -416483285307176736]

/-- sin(2π j / 17) × 2^60. -/
def sin17 (j : Nat) : Int := sinTab.getD (j % 17) 0

/-- cos(2π j / 17) × 2^60, from 1 - 2 sin²(π j / 17) with π j / 17 = 2π (j/2) / 17 and j/2 taken modulo 17. -/
def cos17 (j : Nat) : Int :=
  let h := sin17 (9 * j)
  S60 - rhuDiv (2 * h * h) S60.toNat

/-- e^(-y) × 2^60 for 0 ≤ y ≤ 1, y given × 2^60, by `n` terms of its series in Horner form. -/
def expSmall (y : Int) : Nat → Nat → Int
  | 0, _ => S60
  | n + 1, k => S60 - rhuDiv (y * expSmall y n (k + 1)) (k * S60.toNat)

def sqTimes : Nat → Int → Int
  | 0, x => x
  | n + 1, x => sqTimes n (rhuDiv (x * x) S60.toNat)

/-- e^(-num/den) × 2^60. -/
def expNeg (num den : Nat) : Int :=
  if den = 0 ∨ 64 * den < num then 0
  else sqTimes 6 (expSmall (rhuDiv ((num : Int) * S60) (64 * den)) 24 1)

/-- floor of the square root, by `n` Newton steps from above. -/
def sqrtN : Nat → Nat → Nat → Nat
  | 0, _, x => x
  | n + 1, a, x => let y := (x + a / x) / 2; if y < x then sqrtN n a y else x

def isqrt (a : Nat) : Nat := if a = 0 then 0 else sqrtN 200 a (2 ^ (Nat.log2 a / 2 + 1))

/-- The loop period in beats (R183): PERIOD × 20 µs. -/
def Par.beats (p : Par) : Nat := 200 * p.period

/-- G of R183 × 2^60 as real and imaginary parts, for harmonic m in conversion slot i. Beats are the unit of time: the
slot starts 2.5 i beats after the boundary. -/
def Par.G (p : Par) (m i : Nat) : Int × Int :=
  let a := expNeg p.beats p.htrTau
  let β := expNeg (5 * i) (2 * p.htrTau)
  let c := cos17 m
  let s := sin17 m
  let den := S60 * S60 - 2 * a * c + a * a
  let u := fun x : Int => rhuDiv ((S60 - a) * x * S60) den.toNat
  let re := u (c - a)
  let im := u (-s)
  (S60 - β + rhuDiv (β * re) S60.toNat, rhuDiv (β * im) S60.toNat)

/-- M of R183 × 2^60. -/
def magG (g : Int × Int) : Nat := isqrt (g.1 * g.1 + g.2 * g.2).toNat

/-- The reference q(n) as Q1.15 (R183), saturated at 32,767 (assumption 15). -/
def Par.ref (p : Par) (m i n : Nat) : Int :=
  let g := p.G m i
  let M := magG g
  clampI (-32768) 32767 (rhuDiv ((sin17 (m * n) * g.1 + cos17 (m * n) * g.2) * 32768) (M * S60.toNat))

/-- The tone's dither D(n) = round(A sin(2π m n / 17)) (R181). -/
def Par.dither (p : Par) (tone n : Nat) : Int := rhuDiv (p.ditherAmp * sin17 ((tone + 1) * n)) S60.toNat

/-- The monitor ratio r as Q1.31 (R178), saturated at the format's ends. -/
def monRatio (a b : Nat) : Int := clampI (-(2 ^ 31)) (2 ^ 31 - 1) (rhuDiv (((a : Int) - b) * 2 ^ 31) (a + b))

/-- ε in Q24.8 from s and the sum of the 17 products r q (R184): rounded half up, saturated. DITHER_AMP 0 gives 0 (R196). -/
def Par.eps (p : Par) (s : Int) (m i : Nat) (sum : Int) : Int :=
  let M := magG (p.G m i)
  let den := 17 * 2 ^ 46 * p.kappa * p.kappa * p.ditherAmp * M
  if den = 0 then 0
  else clampI (-(2 ^ 31 - 1)) (2 ^ 31 - 1) (rhuDiv (s * 256 * 2 * sum * 1000000000000000000 * S60) den)

/-- NORM of a CONST record (R210): (2/17) ÷ (κ² A M) as unsigned Q24.8; `none` where A is 0 and no value is stated. -/
def Par.norm (p : Par) (m i : Nat) : Option Nat :=
  let M := magG (p.G m i)
  let den := 17 * p.kappa * p.kappa * p.ditherAmp * M
  if den = 0 then none else some (fitN 2 (2 ^ 32 - 1) (rhuDiv (256 * 2 * 1000000000000000000 * S60) den))

/-- d of R185 as Q1.15. -/
def Par.decay (p : Par) : Int := rhuDiv (32768 * expNeg p.beats p.stepTau) S60.toNat

/-- RS of R185 as a fraction: RAIL_REF ÷ VHTR limited to 0.80 to 1.25, 1 when RAIL_FF is 0. -/
def Par.railScale (p : Par) (mv : Nat) : Int × Nat :=
  if p.railFf = 0 then (1, 1)
  else if 4 * p.railRef ≥ 5 * mv then (5, 4)
  else if 5 * p.railRef ≤ 4 * mv then (4, 5)
  else (p.railRef, mv)

/-- RS as unsigned Q2.14 (R200). -/
def Par.rsReg (p : Par) (mv : Nat) : Nat :=
  let r := p.railScale mv
  (rhuDiv (r.1 * 16384) r.2).toNat

/-- F of R185 in signed Q16.16: d F plus g times the crosstalk sum. `steps` is the sum of c × dstep in Q4.12. -/
def Par.nextF (p : Par) (F steps : Int) : Int :=
  fitI 1 (-(2 ^ 31)) (2 ^ 31 - 1) (rhuDiv (p.decay * F + 32 * (p.stepGain * steps)) 32768)

/-- One computation of R185: the new I and the code y(n + 1). -/
def piStep (p : Par) (mv kp ki lo0 hi0 inForce : Nat) (capped : Bool) (I : Nat) (F eps : Int) : Nat × Nat :=
  let lo := Nat.min lo0 hi0
  let hi := Nat.max lo0 hi0
  let held := (decide (0 < eps) && (decide (hi ≤ inForce) || capped)) || (decide (eps < 0) && decide (inForce ≤ lo))
  let I' := if held then I else clampN 0 (2 ^ 32 - 1) ((I : Int) + rhuDiv (ki * eps) 128)
  let v : Int := kp * eps + (I' + F) * 128
  let r := p.railScale mv
  (I', clampN lo hi (rhuDiv (r.1 * v) (8388608 * r.2)))

/-- A bumpless load (R190): the I for which the law's output with ε = 0 equals `code`; free where I cannot reach it. -/
def bumpless (p : Par) (mv code : Nat) (F : Int) : Nat :=
  let r := p.railScale mv
  fitN 6 (2 ^ 32 - 1) (rhuDiv ((code : Int) * 65536 * r.2) r.1.toNat - F)

end Sys2Proof.Machine
end

