-- ==== Sys2Proof/Machine/Regs.lean ====
section
/-! DEFINITION. The register file (chapter 20): types of fields, reset values, reads, writes, in-force values. -/

namespace Sys2Proof.Machine

/-- An array of registers: is `off` one of the `n` at `base` with this stride? -/
def inArr (off base stride n : Nat) : Bool := decide (base ≤ off ∧ off < base + stride * n ∧ (off - base) % stride = 0)

/-- The bits of a register by field type (R11). `ro` holds the named ro bits; every other bit is reserved. -/
structure RegInfo where
  rw : Reg64 := 0
  w1c : Reg64 := 0
  rc : Reg64 := 0
  wo : Reg64 := 0
  ro : Reg64 := 0
deriving DecidableEq, Repr

/-- Field types of every register of R493 to R497; `none` at a reserved offset (R41, R488). -/
def regInfo (off : Nat) : Option RegInfo :=
  match off with
  | 0x0000 => some { ro := msk 0 48 }
  | 0x0008 => some { ro := msk 0 34 }
  | 0x0010 => some { ro := msk 0 3, w1c := msk 3 1 }
  | 0x0018 => some { ro := msk 0 4 ||| msk 16 17 }
  | 0x1000 => some { rw := msk 0 1, wo := msk 1 1 }
  | 0x1008 => some { rw := msk 0 10 }
  | 0x1010 => some { rw := msk 0 64 }
  | 0x1018 => some { rw := msk 0 64 }
  | 0x1020 => some { rw := msk 0 64 }
  | 0x1028 => some { rw := msk 0 64 }
  | 0x1030 => some { ro := msk 0 15 ||| msk 16 15 ||| msk 32 1 ||| msk 34 1, w1c := msk 33 1 }
  | 0x4000 => some { rw := msk 0 64 }
  | 0x4008 => some { rw := msk 0 32 }
  | 0x4010 => some { rw := msk 0 16 }
  | 0x4020 => some { wo := msk 0 5 }
  | 0x4030 => some { rw := msk 0 7 ||| msk 8 1 }
  | 0x4038 => some { ro := msk 0 64 }
  | 0x4040 => some { ro := msk 0 11 ||| msk 16 9 ||| msk 32 2 }
  | 0x4048 => some { rc := msk 0 48 }
  | 0x4050 => some { ro := msk 0 47 }
  | 0x4058 => some { ro := msk 0 32 }
  | 0x4060 => some { rw := msk 0 2, ro := msk 8 3 }
  | 0x4068 => some { rc := msk 0 64 }
  | 0x4070 => some { ro := msk 0 64 }
  | 0x4400 => some { rw := msk 0 56 }
  | 0x4408 => some { rw := msk 0 56 }
  | 0x4410 => some { rw := msk 0 56 }
  | 0x4418 => some { w1c := msk 0 3 }
  | 0x4700 => some { rw := msk 0 2 ||| msk 8 16 }
  | 0x4708 => some { ro := msk 0 2 ||| msk 8 4 ||| msk 16 48 }
  | 0x4710 => some { ro := msk 0 64 }
  | 0x4718 => some { ro := msk 0 3 ||| msk 32 32 }
  | 0x4800 => some { rw := msk 0 7 }
  | 0x4808 => some { ro := msk 0 33, w1c := msk 33 1 }
  | 0x5000 => some { rw := msk 0 8 }
  | 0x5008 => some { rw := msk 0 56 }
  | 0x5010 => some { ro := msk 0 48 }
  | 0x5018 => some { ro := msk 0 32 }
  | 0x5020 => some { wo := msk 0 48 }
  | 0x5028 => some { ro := msk 0 4 ||| msk 8 8, rc := msk 16 16 }
  | 0x5030 => some { ro := msk 0 64 }
  | 0x5038 => some { ro := msk 0 64 }
  | 0x5040 => some { ro := msk 0 64 }
  | 0x5048 => some { rw := msk 0 7 ||| msk 8 8 ||| msk 32 32 }
  | 0x5050 => some { rw := msk 0 7 ||| msk 8 8 ||| msk 32 32 }
  | 0x5060 => some { rw := msk 0 5 }
  | 0x5068 => some { rw := msk 0 16 }
  | 0x5070 => some { ro := msk 0 2, rc := msk 16 32 }
  | 0x6080 => some { ro := msk 0 32, rw := msk 32 16 }
  | 0x7000 => some { rw := msk 0 5 }
  | 0x7008 => some { ro := msk 0 2 ||| msk 8 7 ||| msk 16 4, w1c := msk 2 1, rc := msk 32 32 }
  | 0x7010 => some { ro := msk 0 11 ||| msk 16 48 }
  | 0x7018 => some { wo := msk 0 1 }
  | 0x7020 => some { ro := msk 0 32 }
  | 0x7028 => some { rw := msk 0 32 }
  | 0x70C0 => some { wo := msk 0 4 ||| msk 8 16 }
  | 0x70C8 => some { ro := msk 0 31 ||| msk 32 32 }
  | 0x7F00 => some { ro := msk 0 64 }
  | 0x8000 => some { rw := msk 0 1 }
  | 0x8008 => some { rw := msk 0 40 }
  | 0x8010 => some { ro := msk 0 2 ||| msk 8 6, w1c := msk 2 1, rc := msk 16 32 }
  | 0x8018 => some { ro := msk 0 48 }
  | 0x8020 => some { ro := msk 0 64 }
  | 0x8028 => some { rw := msk 0 16, ro := msk 16 32 }
  | 0x8100 => some { rw := msk 0 1 }
  | 0x8108 => some { ro := msk 0 5 ||| msk 8 16 ||| msk 32 32 }
  | 0x8110 => some { ro := msk 0 17 }
  | 0x9000 => some { ro := msk 0 18 }
  | 0x9008 => some { rw := msk 0 16 }
  | 0x9010 => some { rc := msk 0 48, ro := msk 48 5 }
  | 0xA000 => some { rw := msk 0 3 }
  | 0xA008 => some { wo := msk 0 1 }
  | 0xA010 => some { ro := msk 0 3 ||| msk 5 3, w1c := msk 3 2, rc := msk 16 32 }
  | 0xA018 => some { ro := msk 0 64 }
  | 0xA020 => some { ro := msk 0 48 }
  | 0xA028 => some { ro := msk 0 32 }
  | 0xB000 => some { ro := msk 0 2 ||| msk 8 6 }
  | 0xB008 => some { ro := msk 0 38 }
  | 0xB010 => some { ro := msk 0 6, rc := msk 16 16 }
  | 0xB018 => some { wo := msk 0 1 }
  | 0xB020 => some { ro := msk 0 35 }
  | 0xB028 => some { rc := msk 0 64 }
  | 0xC000 => some { rw := msk 0 16 }
  | 0xC008 => some { ro := msk 0 32, w1c := msk 32 1 }
  | 0x3F800 => some { ro := msk 0 64 }
  | _ =>
    if inArr off 0x2000 32 64 then some { rw := msk 12 52, ro := msk 0 12 }
    else if inArr off 0x2008 32 64 then some { rw := msk 0 21 ||| msk 24 6 ||| msk 31 1 }
    else if inArr off 0x2010 32 64 then some { w1c := msk 0 1 }
    else if inArr off 0x3000 8 64 then some { rw := msk 0 10 ||| msk 16 11 ||| msk 32 11 }
    else if inArr off 0x4100 8 16 then some { ro := msk 0 3 ||| msk 8 5 ||| msk 16 32 }
    else if inArr off 0x4200 8 64 then some { rc := msk 0 64 }
    else if inArr off 0x4460 8 4 then some { ro := msk 0 50 }
    else if inArr off 0x4480 8 16 then some { ro := msk 0 3 ||| msk 4 4 }
    else if inArr off 0x4500 8 16 then some { rw := msk 0 12 ||| msk 16 1 ||| msk 20 20, ro := msk 17 2, w1c := msk 40 1 }
    else if inArr off 0x4580 8 16 then some { ro := msk 0 40, rc := msk 40 16 }
    else if inArr off 0x4600 8 16 then
      some { rw := msk 0 2 ||| msk 4 3 ||| msk 8 1 ||| msk 12 2 ||| msk 16 32, ro := msk 9 1, w1c := msk 10 1 }
    else if inArr off 0x4680 8 16 then some { rc := msk 0 32, ro := msk 32 2 }
    else if inArr off 0x4780 8 16 then some { ro := msk 0 32 ||| msk 48 1, rc := msk 32 16 }
    else if inArr off 0x4810 8 4 then some { ro := msk 0 2 ||| msk 8 6 ||| msk 16 4 ||| msk 32 32 }
    else if inArr off 0x6000 0x40 2 then some { rw := msk 0 1 ||| msk 16 14, ro := msk 1 1 }
    else if inArr off 0x6008 0x40 2 then some { rw := msk 0 48 }
    else if inArr off 0x6010 0x40 2 then some { rw := msk 0 32 }
    else if inArr off 0x6018 0x40 2 then some { rw := msk 0 64 }
    else if inArr off 0x6020 0x40 2 then some { rw := msk 0 64 }
    else if inArr off 0x6028 0x40 2 then some { rw := msk 0 16 }
    else if inArr off 0x6030 0x40 2 then some { rc := msk 0 64 }
    else if inArr off 0x6800 8 256 then some { ro := msk 0 2 ||| msk 16 16, rc := msk 32 32 }
    else if inArr off 0x7030 8 4 then some { ro := msk 0 64 }
    else if inArr off 0x7080 8 4 then some { w1c := msk 0 64 }
    else if inArr off 0x8140 8 16 then some { ro := msk 0 17 }
    else if inArr off 0x9040 8 6 then some { ro := msk 0 64 }
    else if inArr off 0x9080 8 2 then some { ro := msk 0 64 }
    else if inArr off 0xC800 8 256 then some { rw := msk 0 21 ||| msk 32 32 }
    else if inArr off 0x3F000 8 128 then some { rw := msk 0 64 }
    else none

/-- Reset values of the rw, w1c and rc fields (R493 to R496). MSI-X vectors reset masked (assumption 11). -/
def regReset (m : MastId) (off : Nat) : Reg64 :=
  match off with
  | 0x1008 => 5
  | 0x3000 => 0x000007FF000003FF
  | 0x4030 => 0x108
  | 0x4400 => 0x00040600000A143C
  | 0x4408 => 0x000A0005000F1432
  | 0x4410 => 0x000A050F320F0005
  | 0x4700 => 0x0F1E01
  | 0x4800 => 0x20
  | 0x5000 => 0x45
  | 0x5008 => 0x000403E800640064
  | 0x6000 => 0x05DC0000
  | 0x6040 => 0x05DC0000
  | 0x6008 => (Config.ethMac (midx m) 0).setWidth 64
  | 0x6048 => (Config.ethMac (midx m) 1).setWidth 64
  | 0x6028 => 0x4E44
  | 0x6068 => 0x4E44
  | 0x6080 => 600 <<< 32
  | 0x7000 => 0xA
  | 0x8000 => 1
  | 0x8008 => 0x177000EA60
  | 0x8100 => 1
  | 0x9008 => 0x40A
  | 0xA000 => 3
  | 0xC000 => 50
  | _ =>
    if inArr off 0x4500 8 16 then 0x00000001FFF00000
    else if inArr off 0x4600 8 16 then 0x0000FFFF00001000
    else if inArr off 0x3F008 16 64 then 1 <<< 32
    else 0

/-! ## Accepted and in-force values (R490, R491) -/

/-- The stored fields of a register: what was last accepted. -/
def Dev.reg (d : Dev) (m : MastId) (off : Nat) : Reg64 := tget (regReset m off) (d.mast m).regs off

def Dev.setReg (d : Dev) (m : MastId) (off : Nat) (v : Reg64) : Dev :=
  d.onMast m (fun x => { x with regs := tset (regReset m off) x.regs off v })

/-- The value in force of a register whose writes wait for a watch boundary. -/
def Dev.eff (d : Dev) (m : MastId) (off : Nat) : Reg64 := tget (regReset m off) (d.mast m).eff off

/-- A field in force. -/
def Dev.effF (d : Dev) (m : MastId) (off lo w : Nat) : Nat := fld (d.eff m off) lo w

def Dev.regF (d : Dev) (m : MastId) (off lo w : Nat) : Nat := fld (d.reg m off) lo w

def Dev.setRegF (d : Dev) (m : MastId) (off lo w v : Nat) : Dev := d.setReg m off (setFld (d.reg m off) lo w v)

/-- A w1c flag set by the device. -/
def Dev.flag (d : Dev) (m : MastId) (off b : Nat) : Dev := d.setRegF m off b 1 1

/-- A saturating count in a register advanced by `k`. -/
def Dev.count (d : Dev) (m : MastId) (off lo w k : Nat) : Dev := d.setRegF m off lo w (satAdd w (d.regF m off lo w) k)

/-- At a watch boundary every accepted value takes effect together (R491). -/
def Mast.latch (x : Mast) : Mast := { x with eff := x.regs }

/-! ## Writes -/

/-- The bits a write supplies (R489). -/
def halfMask : Half → Reg64
  | .whole => msk 0 64
  | .lo => msk 0 32
  | .hi => msk 32 32
  | .other => 0

/-- The value a write leaves for checking (R489): rw bits written or kept, w1c and wo bits as written or zero. -/
def merged (info : RegInfo) (old : Reg64) (w : RegWr) : Reg64 :=
  ((w.v &&& halfMask w.half) ||| (old &&& info.rw &&& ~~~ halfMask w.half)) &&&
    (info.rw ||| (info.w1c &&& halfMask w.half) ||| (info.wo &&& halfMask w.half))

/-- A non-zero write to reserved bits that no rule checks (R10, R395). -/
def reservedHit (info : RegInfo) (w : RegWr) : Bool :=
  (w.v &&& halfMask w.half &&& ~~~ (info.rw ||| info.w1c ||| info.rc ||| info.wo ||| info.ro)) != 0

/-- The write's bits: as given, or a free value where it breaks R10 (R395, assumption 3). -/
def Dev.wrBits (d : Dev) (info : RegInfo) (w : RegWr) (k : RegWr → Dev → Dev) : Dev :=
  if reservedHit info w then d.drawReg (fun v d => k { w with v := v } d) else k w d

/-- The stored value after a plain write: rw fields taken, w1c bits cleared where written 1, ro and rc fields kept (R11). -/
def plainWrite (info : RegInfo) (old v : Reg64) : Reg64 :=
  (v &&& info.rw) ||| (old &&& (info.rc ||| info.ro)) ||| (old &&& info.w1c &&& ~~~ v)

/-- The blocks a standby takes writes to (R42): FLT_, PEN_ and the MSI-X range, their reserved offsets with them (R41). -/
def standbyTakes (off : Nat) : Bool :=
  decide ((0x7000 ≤ off ∧ off < 0x8000) ∨ (0xA000 ≤ off ∧ off < 0xB000) ∨ (0x3F000 ≤ off ∧ off < 0x40000))

/-- An accepted write of ones to w1c bits clears them on the standby too, where its block is mirrored (R42). -/
def Dev.mirrorClear (d : Dev) (m : MastId) (off : Nat) (bits : Reg64) : Dev :=
  if (d.mast m).pen.gaff && !standbyTakes off && bits != 0 then
    d.setReg (peerOf m) off (d.reg (peerOf m) off &&& ~~~bits)
  else d

/-- A set-up write reaching a mast: nothing while its BAR is not reachable; ignored on the standby outside its blocks,
setting WR_IGN (R42); ignored at a reserved offset and at any width but 32 and 64 bits, naturally aligned (R41); otherwise `k` with
the whole register's written value. -/
def Dev.barWrite (d : Dev) (off : Nat) (w : RegWr) (k : MastId → RegInfo → Reg64 → Dev → Dev) : Dev :=
  if !d.barUp w.mast then d
  else if d.holder != some w.mast && !standbyTakes off then d.flag w.mast 0x0010 3
  else if w.half == .other then d
  else match regInfo off with
    | none => d
    | some info => d.wrBits info w (fun w d => k w.mast info (merged info (d.reg w.mast off) w) d)

end Sys2Proof.Machine
end

