-- ==== Sys2Proof/Machine/Wire.lean ====
section
/-! DEFINITION. The bytes that the FZ24K writes to host memory, little-endian (R9): completion records (R84), slot headers (R96),
slot payloads (R141, R163, R294, R332, R333, R342, R347, R373, R442, R445), and where records and descriptors lie (R66, R81). -/

namespace Sys2Proof.Machine

/-! ## Records and slot headers -/

/-- A completion record's 32 bytes (R84). -/
def Record.bytes (r : Record) : List Byte :=
  layout [(1, r.opcode), (1, b2n r.phase + 2 * b2n r.backlog + 4 * b2n r.timeValid), (2, r.status.code), (4, r.tag), (4, r.seq),
    (2, r.cmdRing), (2, r.sheafId), (8, r.epoch), (4, r.time.sec), (4, r.time.ns)]

/-- A slot header's 64 bytes (R96). -/
def SlotHdr.bytes (h : SlotHdr) : List Byte :=
  layout [(1, h.owner), (1, b2n h.incomplete + 2 * b2n h.crcBad + 4 * b2n h.truncated), (2, h.kind), (4, h.seq), (4, h.len),
    (4, h.crc), (8, h.epoch), (4, h.time.sec), (4, h.time.ns), (4, h.ringSeq), (2, h.cmdRing), (2, h.ctx), (24, 0)]

/-! ## Payloads -/

/-- Fields of given widths. -/
def fieldsOf (ws vs : List Nat) : List Byte := layout (ws.zip vs)

/-- A CELLS entry (R116). -/
def cellEntry (s : CellSet) : List Byte :=
  layout [(2, s.cell), (2, match s.tgt with
    | .bar => 0
    | .cross => 1
    | .code c => 2 + 4 * c
    | .clearW => 0)]

/-- A calibration entry (R294): BAR_CODE, CROSS_CODE, OUTCOME and METHOD, then RESID, EXT and HTR_BIAS. -/
def calibEntry (e : List Nat) : List Byte :=
  let f := fun i => e.getD i 0
  layout [(4, f 0 + 2 ^ 12 * f 1 + 2 ^ 24 * f 2 + 2 ^ 27 * f 3), (2, f 4), (2, f 5), (2, f 6), (2, 0)]

/-- A frame header (R332), from TIME_S, DIV and its flags, TIME_NS, EPOCH, STRIKES, NWATCH and the sixteen SCAN_OFS. -/
def headOut (h : List Nat) : List Byte :=
  fieldsOf ([6, 1, 1, 4, 8, 25, 3] ++ List.replicate 16 1) ((h.take 2) ++ [0] ++ (h.drop 2).take 20)

/-- The frame header that begins a capture block (R332), then its cell records (R333, R347). -/
def blockOut (b : List Nat) : List Byte := headOut b ++ (b.drop 22).flatMap (leBytes 2)

/-- The capture header (R342). -/
def captureHead (h : List Nat) : List Byte :=
  fieldsOf [1, 1, 1, 1, 2, 2, 4, 4, 1] (h.take 9) ++ leBytes 7 0 ++ fieldsOf [8, 4] ((h.drop 9).take 2) ++ leBytes 4 0 ++
    fieldsOf [8, 4] ((h.drop 11).take 2) ++ leBytes 12 0 ++ (h.drop 13).flatMap (leBytes 1)

/-- A payload's bytes; none for a slot whose payload stays as the host wrote it. -/
def Payload.bytes : Payload → List Byte
  | .unchanged _ => []
  | .map ports t ents => layout [(2, ports), (2, 0), (4, t.sec), (4, t.ns), (4, 0)] ++ ents.flatMap (leBytes 2)
  | .plan ep moved sets =>
    layout [(8, ep), (2, moved.length), (2, sets.length), (4, 0)] ++ moved.flatMap (leBytes 2) ++
      leBytes (moved.length % 2 * 2) 0 ++ sets.flatMap cellEntry
  | .calib ents => ents.flatMap calibEntry
  | .capture hdr blocks => (if hdr.isEmpty then [] else captureHead hdr) ++ blocks.flatMap blockOut
  | .counters hdr wrap counts bw =>
    fieldsOf [1, 1, 2, 4, 6, 2, 4, 4] [hdr.getD 0 0, 0, hdr.getD 1 0, hdr.getD 2 0, hdr.getD 3 0, 0, hdr.getD 4 0, 0] ++
      leBytes 32 (maskOf wrap) ++ counts.flatMap (leBytes 8) ++ bw.flatMap (fun e => leBytes 4 e.1 ++ leBytes 4 e.2)
  | .certs ders => leBytes 4 ders.length ++ ders.flatMap (fun c => leBytes 4 c.length) ++ ders.flatten
  | .receipt body r s => body ++ leBytes 48 r ++ leBytes 48 s

/-- The CRC field of a slot header (R96): over the LEN bytes written, or the host's own where its payload stays. -/
def Payload.crc (p : Payload) (len : Nat) : Nat :=
  match p with
  | .unchanged c => c
  | p => (crc32c (p.bytes.take len)).toNat

end Sys2Proof.Machine

namespace Sys2Proof

/-- Where the descriptor of a sequence lies: entry s mod 2^CMD_LOG2 (R81). -/
def RingEntry.cmdAddr (e : RingEntry) (seq : Nat) : Nat := e.cmdBase + 64 * (seq % 2 ^ e.cmdLog2)

/-- Where an entry of a completion ring lies (R66, R84). -/
def RingEntry.cplAddr (e : RingEntry) (ix : Nat) : Nat := e.cplBase + 32 * ix

end Sys2Proof
end

