-- ==== Sys2Proof/Machine/Records.lean ====
section
/-! DEFINITION. Counting, completion records, slots and descriptors in flight: what every descriptor's meaning shares
(chapters 03, 13). -/

namespace Sys2Proof.Machine

/-! ## Performance counters (R369 to R371) -/

/-- One counter advanced by `k` occurrences in a cycle, wrapping with its sticky WRAP bit (R370, R371). -/
def Mast.addCtr (x : Mast) (c k : Nat) : Mast :=
  let v := tget 0 x.eg.ctr c + k
  { x with eg := { x.eg with
      ctr := tset 0 x.eg.ctr c (v % 2 ^ 64)
      wrap := if 2 ^ 64 ≤ v && !x.eg.wrap.contains c then x.eg.wrap ++ [c] else x.eg.wrap } }

/-- The counters in force: index and PMC_SEL value. -/
def Mast.selected (x : Mast) : List (Nat × Reg64) :=
  (x.eff.filter (fun e => inArr e.1 0xC800 8 256)).map (fun e => ((e.1 - 0xC800) / 8, e.2))

/-- An event of `k` occurrences in one cycle, at the instances given (R369, R370). -/
def Dev.pmc (d : Dev) (m : MastId) (ev : Nat) (insts : List Nat) (k : Nat) : Dev :=
  d.onMast m (fun x => x.selected.foldl (fun x e =>
    if fld e.2 0 12 == ev && insts.contains (fld e.2 12 8) then
      if fld e.2 20 1 == 0 then x.addCtr e.1 k
      else if fld e.2 32 32 < k then x.addCtr e.1 1 else x
    else x) x)

/-- A level event held at `v` over `n` cycles (R370). -/
def Dev.pmcLevel (d : Dev) (m : MastId) (ev : Nat) (inst v n : Nat) : Dev :=
  d.onMast m (fun x => x.selected.foldl (fun x e =>
    if fld e.2 0 12 == ev && fld e.2 12 8 == inst then
      if fld e.2 20 1 == 0 then x.addCtr e.1 (v * n)
      else if fld e.2 32 32 < v then x.addCtr e.1 n else x
    else x) x)

/-! ## What moves (R369, R374) -/

/-- Bytes counted towards a bandwidth entry of R374, outbound and inbound. -/
def Dev.moved (d : Dev) (m : MastId) (e out inn : Nat) : Dev :=
  d.onMast m (fun x => { x with eg := { x.eg with
    bwNow := let v := tget (0, 0) x.eg.bwNow e; tset (0, 0) x.eg.bwNow e (v.1 + out, v.2 + inn) } })

/-- Bytes of host memory read, and written. -/
def Dev.hostIn (d : Dev) (m : MastId) (n : Nat) : Dev := (d.pmc m 0x060 [0] n).moved m 48 0 n
def Dev.hostOut (d : Dev) (m : MastId) (n : Nat) : Dev := (d.pmc m 0x061 [0] n).moved m 48 n 0

/-- A stay slot carries data: 80 bytes. -/
def Dev.staySlot (d : Dev) (m : MastId) (t : Nat) (up : Bool) : Dev :=
  (d.pmc m (if up then 0x041 else 0x040) [t] 1).moved m t (if up then 0 else 80) (if up then 80 else 0)

/-! ## Interrupts (R40, R87) -/

/-- Signal an MSI-X vector; a masked vector sets its pending bit instead (assumption 11). -/
def Dev.msix (d : Dev) (m : MastId) (v : Nat) : Dev :=
  if d.regF m (0x3F008 + 16 * v) 32 1 == 1 then d.setRegF m 0x3F800 v 1 1 else d.emit (.msix m v)

/-! ## Rings, contexts, windows -/

def Dev.hif (d : Dev) (m : MastId) : Hif := (d.mast m).hif

def Dev.onHif (d : Dev) (m : MastId) (f : Hif → Hif) : Dev := d.onMast m (fun x => { x with hif := f x.hif })

def Dev.ring (d : Dev) (m : MastId) (i : Nat) : Option Ring := tget none (d.hif m).rings i

def Dev.setRing (d : Dev) (m : MastId) (i : Nat) (r : Option Ring) : Dev :=
  d.onHif m (fun h => { h with rings := tset none h.rings i r })

def Dev.onRing (d : Dev) (m : MastId) (i : Nat) (f : Ring → Ring) : Dev :=
  match d.ring m i with
  | none => d
  | some r => d.setRing m i (some (f r))

def Dev.ctx (d : Dev) (m : MastId) (k : Nat) : Option Ctx := tget none (d.hif m).ctxs k

def Dev.setCtx (d : Dev) (m : MastId) (k : Nat) (c : Option Ctx) : Dev :=
  d.onHif m (fun h => { h with ctxs := tset none h.ctxs k c })

/-- The rings a context owns. -/
def Dev.ringsOf (d : Dev) (m : MastId) (k : Nat) : List Nat :=
  (d.hif m).rings.filterMap (fun e => match e.2 with
    | some r => if r.ent.ctx == k then some e.1 else none
    | none => none)

def Dev.isFenced (d : Dev) (m : MastId) (u : FUnit) : Bool := (d.mast m).flt.fences.any (fun f => f.unit == u)

/-- HIF_CTL.EN. -/
def Dev.hifEn (d : Dev) (m : MastId) : Bool := d.regF m 0x1000 0 1 == 1

/-- A permission of R74 by bit, in the profile in force at acceptance (R75); context 0 holds all (R67). -/
def Desc.perm (x : Desc) (b : Nat) : Bool := x.ctx == 0 || x.prof.getLsbD b

/-- PORT_LO to PORT_HI (R74); context 0 may name every port (R67, assumption 12). -/
def Desc.ports (x : Desc) : Nat × Nat := if x.ctx == 0 then (0, 2047) else (fld x.prof 16 11, fld x.prof 32 11)

def refWin (r : Nat) : Nat := r / 2 ^ 20 % 64
def refSlot (r : Nat) : Nat := r % 2 ^ 20
def winCfg (w : Nat) : Nat := 0x2008 + 32 * w
def winBase (w : Nat) : Nat := 0x2000 + 32 * w

/-- A window's slot size in bytes and its slot count (R95). -/
def Dev.slotSize (d : Dev) (m : MastId) (w : Nat) : Nat := 2 ^ d.regF m (winCfg w) 24 6
def Dev.slotCount (d : Dev) (m : MastId) (w : Nat) : Nat := d.regF m (winCfg w) 0 21 * 4096 / d.slotSize m w

/-- The first two checks of R96 on a context's slot reference; `none` where it passes. -/
def Dev.refBad (d : Dev) (m : MastId) (k ref : Nat) : Option Status :=
  let w := refWin ref
  let masked := k != 0 && (match d.ctx m k with | some c => !c.winMask.getLsbD w | none => true)
  if masked then some .notPermitted
  else if d.regF m (winCfg w) 31 1 == 0 || d.slotCount m w ≤ refSlot ref then some .slotRange
  else none

/-- Does another descriptor in flight hold the slot? -/
def Dev.slotTaken (d : Dev) (m : MastId) (x : Desc) (ref : Nat) : Bool :=
  (d.hif m).inflight.any (fun y => !(y.ring == x.ring && y.ent.seq == x.ent.seq) && y.slots.contains ref)

/-- The checks of R96 on a descriptor's slot reference with the owner byte as read; `none` where it passes. -/
def Dev.slotBad (d : Dev) (m : MastId) (x : Desc) (ref owner : Nat) : Option Status :=
  (d.refBad m x.ctx ref).or (if owner != 2 || d.slotTaken m x ref then some .slotOwner else none)

/-! ## Descriptors in flight (R68, R83) -/

def Desc.is (x : Desc) (ring seq : Nat) : Bool := x.ring == ring && x.ent.seq == seq && x.sentAt.isNone

def Dev.findDesc (d : Dev) (m : MastId) (ring seq : Nat) : Option Desc := (d.hif m).inflight.find? (·.is ring seq)

def Dev.onDesc (d : Dev) (m : MastId) (ring seq : Nat) (f : Desc → Desc) : Dev :=
  d.onHif m (fun h => { h with inflight := updFirst (·.is ring seq) f h.inflight })

/-- May the descriptor start (R83)? A FENCE descriptor waits for every earlier one of its ring to complete; none starts
before an earlier FENCE descriptor has. -/
def Dev.mayStart (d : Dev) (m : MastId) (ring seq : Nat) (fence : Bool) : Bool :=
  let before := ((d.hif m).inflight.takeWhile (fun x => !x.is ring seq)).filter (fun x => x.ring == ring && x.sentAt.isNone)
  if fence then before.isEmpty else before.all (fun x => x.started || !x.ent.fence)

/-- The descriptor that a row starts: accepted on the serving mast, of the row's opcode, not started, free of fences. -/
def Dev.startable (d : Dev) (ring seq op : Nat) : Option (MastId × Desc) :=
  match d.serving with
  | none => none
  | some m => match d.findDesc m ring seq with
    | none => none
    | some x => if x.ent.opcode == op && !x.started && d.mayStart m ring seq x.ent.fence then some (m, x) else none

/-- Start a descriptor and run its effect; nothing happens where it is not startable (assumption 13). -/
def Dev.start (d : Dev) (ring seq op : Nat) (k : MastId → Desc → Dev → Dev) : Dev :=
  match d.startable ring seq op with
  | none => d
  | some (m, x) => k m x (d.onDesc m ring seq (fun x => { x with started := true }))

/-! ## Completion records (R84 to R87, R97 to R99) -/

/-- The holder sends an acceptance-journal entry (R401). -/
def Dev.pushJournal (d : Dev) (m : MastId) (j : JEv) : Dev :=
  d.onMast m (fun x => { x with pen := { x.pen with toSend := x.pen.toSend ++ [⟨x.pen.jseq, d.beat, j⟩], jseq := x.pen.jseq + 1 } })

/-- Signal a completion ring's vector and start its coalescing afresh (R87). -/
def Dev.signalRing (d : Dev) (m : MastId) (i : Nat) : Dev :=
  match d.ring m i with
  | none => d
  | some r => (d.msix m r.ent.vector).onRing m i (fun r => { r with unsig := 0, firstUnsig := none })

/-- Write a record to a registered completion ring (R84, R87). -/
def Dev.putRecord (d : Dev) (m : MastId) (i : Nat) (g : Ring) (r : Record) (irq : Bool) : Dev :=
  let size := 2 ^ g.ent.cplLog2
  let ix := g.written % size
  let r := { r with phase := g.written / size % 2 == 0 }
  let d := (d.emit (.record m i ix (g.ent.cplAddr ix) r)).pushJournal m (.record i ix r irq)
  let d := d.onHif m (fun h => { h with recent := h.recent ++ [(d.beat, i, ix, r, irq)] })
  let now := d.beat
  let d := d.onRing m i (fun q =>
    { q with written := q.written + 1, unsig := q.unsig + 1, firstUnsig := q.firstUnsig.or (some now) })
  let d := d.pmc m 0x012 [0] 1
  let d := d.hostOut m 32
  if g.ent.irqEn && (irq || Nat.max 1 g.ent.coalCount ≤ g.unsig + 1) then d.signalRing m i else d

/-- Can a record of a context go to completion ring `i` now (R98, R384)? -/
def Dev.cplOpen (d : Dev) (m : MastId) (i ctx : Nat) : Bool :=
  match d.ring m i with
  | some g => g.hasCpl && d.hifEn m && !d.isFenced m ⟨.ctx, ctx⟩
  | none => false

/-- A record placed in the backlog, and the journal told (R99, R401). -/
def Dev.toBacklog (d : Dev) (m : MastId) (b : BackRec) : Dev :=
  (d.pushJournal m (.back b)).onHif m (fun h => { h with backlog := h.backlog ++ [b] })

/-- Deliver a record: to its completion ring while that is registered, else to the backlog (R98, R99). A context that is
fenced sends its records to the backlog (R384). -/
def Dev.deliver (d : Dev) (m : MastId) (i ctx : Nat) (r : Record) (irq back : Bool) : Dev :=
  let r := { r with backlog := back }
  match d.ring m i with
  | some g =>
    if d.cplOpen m i ctx then d.putRecord m i g r irq
    else d.toBacklog m ⟨i, r, irq, d.beat⟩
  | none => d.toBacklog m ⟨i, r, irq, d.beat⟩

/-- The record of a descriptor (R84, R85). -/
def mkRecord (x : Desc) (st : Status) (ep : Nat) (tm : Option Stamp) : Record :=
  { opcode := x.ent.opcode, phase := false, backlog := false, timeValid := tm.isSome, status := st, tag := x.ent.tag,
    seq := x.ent.seq, cmdRing := x.ring, sheafId := x.ent.sheafId, epoch := ep, time := lowStamp (tm.getD ⟨0, 0⟩) }

/-- Retire a descriptor: its reservation is released (one from before a host loss went with its registration); with a record it stays in flight until its 2 µs tail ends. -/
def Dev.retire (d : Dev) (m : MastId) (x : Desc) (sent : Bool) : Dev :=
  let d := if x.lost then d else d.onRing m x.cpl (fun q => { q with reserved := q.reserved - 1 })
  if sent then d.onDesc m x.ring x.ent.seq (fun y => { y with sentAt := some d.beat, slots := [], wait := .none, defer := none })
  else d.onHif m (fun h => { h with inflight := h.inflight.filter (fun y => !y.is x.ring x.ent.seq) })

/-! ## Slots (R96, R97) -/

/-- A descriptor's own fields changed while its record is not yet out. -/
def Dev.onSlots (d : Dev) (m : MastId) (x : Desc) (f : List Nat → List Nat) : Dev :=
  d.onDesc m x.ring x.ent.seq (fun y => { y with slots := f y.slots })

/-- A slot given back to the host, owner byte last; the header's SEQ counts per window enable. -/
def Dev.giveSlot (d : Dev) (m : MastId) (x : Desc) (ref kind len ep : Nat) (crcBad trunc inc : Bool) (p : Payload) : Dev :=
  let w := refWin ref
  let sq := tget 0 (d.hif m).winSeq w
  let hdr : SlotHdr := ⟨1, inc, crcBad, trunc, kind, sq % 2 ^ 32, len, p.crc len, ep, lowStamp d.now, x.ent.seq, x.ring, x.ctx⟩
  let d := (d.emit (.slot m ref hdr p)).hostOut m (64 + len)
  (d.onHif m (fun h => { h with winSeq := tset 0 h.winSeq w (sq + 1) })).onSlots m x (fun l => l.filter (· != ref))

/-- A descriptor holds a slot it names (R97). -/
def Dev.holdSlot (d : Dev) (m : MastId) (x : Desc) (ref : Nat) : Dev :=
  d.onSlots m x (fun l => if l.contains ref then l else l ++ [ref])

/-- A slot that fails R96's checks is none the descriptor holds. -/
def Dev.unhold (d : Dev) (m : MastId) (x : Desc) (ref : Nat) : Dev := d.onSlots m x (fun l => l.filter (· != ref))

/-- Settle, with the owner byte as read, whether a descriptor holds a slot, before checks that stand ahead of R96's. -/
def Dev.settleHold (d : Dev) (m : MastId) (x : Desc) (ref owner : Nat) (err : Bool) : Dev :=
  if err || (d.slotBad m x ref owner).isSome then d.unhold m x ref else d.holdSlot m x ref

/-- The slots that a descriptor holds from its acceptance (R97): those it names that pass R96 as far as the mast knows. -/
def Dev.slotsFrom (d : Dev) (m : MastId) (x : Desc) : List Nat :=
  x.ent.slots.filter (fun r => (d.refBad m x.ctx r).isNone && !d.slotTaken m x r)

/-- The slots a completing descriptor still holds go back (R97). DESIGN CHOICE (assumption 102): with INCOMPLETE set, KIND and
LEN 0 and the payload as it is. -/
def Dev.returnSlots (d : Dev) (m : MastId) (x : Desc) : Dev :=
  match d.findDesc m x.ring x.ent.seq with
  | none => d
  | some y => if y.lost then d else d.each y.slots (fun r d => d.giveSlot m x r 0 0 0 false false true (.unchanged 0))

/-- Hand a host-written slot back with its payload unchanged. -/
def Dev.returnIn (d : Dev) (m : MastId) (x : Desc) (s : SlotIn) (crcBad : Bool) : Dev :=
  d.giveSlot m x s.ref s.kind s.len 0 crcBad false false (.unchanged s.crc)

/-- A payload written into a held slot, cut at the slot's end (R141), with TRUNCATED set. -/
def Dev.writeOut (d : Dev) (m : MastId) (x : Desc) (ref kind len ep : Nat) (p : Payload) : Dev :=
  let room := d.slotSize m (refWin ref) - 64
  d.giveSlot m x ref kind (Nat.min len room) ep false (room < len) false p

/-! ## Completion (R85, R97) -/

/-- Complete a descriptor with a status, an epoch and a strike time (R85), every slot it holds returned first (R97). Its record
is written unless the status is OK and NO_CPL is set, which the backlog and `always` override (R80, R99, R107). -/
def Dev.completeAt (d : Dev) (m : MastId) (x : Desc) (st : Status) (ep : Nat) (tm : Option Stamp) (always : Bool) : Dev :=
  let d := d.returnSlots m x
  let live := d.cplOpen m x.cpl x.ctx && !x.lost
  if st == .ok && x.ent.noCpl && !always && live then d.retire m x false
  else (d.deliver m x.cpl x.ctx (mkRecord x st ep tm) x.ent.irq x.lost).retire m x (d.cplOpen m x.cpl x.ctx)

/-- Complete with the current epoch and no strike time. -/
def Dev.complete (d : Dev) (m : MastId) (x : Desc) (st : Status) : Dev :=
  d.completeAt m x st (d.mast m).fab.epoch none false

/-- Run under a permission; without it the descriptor completes with NOT_PERMITTED and does nothing else (R75). -/
def Dev.need (d : Dev) (m : MastId) (x : Desc) (b : Nat) (k : Dev → Dev) : Dev :=
  if x.perm b then k d else (d.onSlots m x (fun _ => [])).complete m x .notPermitted

/-- Start a descriptor with a lasting effect (R402): while PROTECTED is 1 its effect waits for the standby's
acknowledgement, which runs it. -/
def Dev.startLasting (d : Dev) (ring seq op : Nat) (i : Instr) (k : MastId → Desc → Dev → Dev) : Dev :=
  d.start ring seq op (fun m x d =>
    if (d.mast m).pen.protect then d.onDesc m ring seq (fun y => { y with defer := some i }) else k m x d)

/-! ## Losses (R454) and scans (R459) -/

/-- Is the journal entry of an epoch lost (R454)? -/
def Dev.epochLost (d : Dev) (m : MastId) (e : Nat) : Bool :=
  match (d.mast m).mem.lostTo with
  | some n => e ≤ n
  | none => false

/-- Is the calibration of some of the cells lost (R454)? -/
def Dev.calLost (d : Dev) (m : MastId) (cells : List Nat) : Bool :=
  match (d.mast m).mem.calKept with
  | some l => cells.any (fun c => !l.contains c)
  | none => false

/-- A scan of `len` bytes requested of the CRC engine, which holds 16 requests (R459). -/
def Dev.queueScan (d : Dev) (m : MastId) (master qos len : Nat) : Dev :=
  d.onMast m (fun x => if x.mem.scans.length < 16 then
    { x with mem := { x.mem with scans := x.mem.scans ++ [⟨master, qos, d.beat, len⟩] } } else x)

end Sys2Proof.Machine
end

