-- ==== Sys2Proof/Machine/Stay.lean ====
section
/-! DEFINITION. Stay links and budgets: frame slots, the command lane, the shares of a watch, what waits for a slot, the loop
state as the mirror carries it (R15 to R19, R22, R33 to R37, R193). -/

namespace Sys2Proof.Machine

/-- Does the tile take frames of this mast: alive, enabled, of its pennant epoch? -/
def Dev.takes (d : Dev) (m : MastId) (t : Nat) : Bool :=
  let x := d.tile t
  x.alive && x.enabled && x.link.pen == (d.mast m).pen.epoch

/-- A tile's lease for its pennant epoch is running (R396). -/
def Tile.leaseRuns (x : Tile) (beat : Nat) : Bool := beat < x.link.leaseEnd

/-- The mast whose set-up registers and fences a tile is served under. -/
def Dev.server (d : Dev) : MastId := d.holder.getD .fore

/-! ## Budgets per watch (R33 to R35) -/

/-- The budgeted capacity of a resource per watch: 0 Tiller cycles of a cluster, 1 slots of a stay in one direction, 2 HBM
transfers of a mast (R33). -/
def capacity : Nat → Nat
  | 0 => 384000
  | 1 => 1600
  | _ => 360000

/-- A class's allowance for the watch (R33, R36); classes by their index in the order of R35. -/
def Dev.budget (d : Dev) (m : MastId) (res cls : Nat) : Nat := capacity res * d.effF m (0x4400 + 8 * res) (8 * cls) 8 / 100

def Dev.onBud (d : Dev) (m : MastId) (f : Budget → Budget) : Dev := d.onMast m (fun x => { x with bud := f x.bud })

/-- Does a class wait for the next watch, its allowance of a unit of a resource reported used up (R34)? -/
def Dev.waits (d : Dev) (m : MastId) (res cls unit : Nat) : Bool := (d.mast m).bud.waits.contains (res, cls, unit)

/-- The transfers of the `j`-th of `k` channels in rotation, of `n` that begin at transfer `s` of a round: a channel takes four of 64
bytes, a granule, in each turn (R452). -/
def granules (n s k j : Nat) : Nat :=
  let upTo := fun (e : Nat) => e / (4 * k) * 4 + Nat.min 4 (e % (4 * k) - 4 * j)
  upTo (s + n) - upTo s

/-- `n` HBM transfers counted on the channels they use (R369, R374, R452): granules in rotation over every unfenced channel. Where
they begin is a free value. -/
def Dev.hbmMoved (d : Dev) (m : MastId) (write : Bool) (n : Nat) : Dev :=
  let live := (List.range 32).filter (fun c => !d.isFenced m ⟨.hbm, c⟩)
  let s := Config.freeNat d.free % (4 * live.length)
  let d := ({ d with free := d.free + 1 } : Dev)
  d.each live.zipIdx (fun e d =>
    let b := granules n s live.length e.2
    (d.pmc m 0x050 [e.1] b).moved m (16 + e.1) (if write then 64 * b else 0) (if write then 0 else 64 * b))

/-- A class makes `n` HBM transfers, or waits for the next watch where its allowance does not reach; work of more than a whole
allowance takes all of one (R33, R34; assumption 108). -/
def Dev.hbmGo (d : Dev) (m : MastId) (cls n : Nat) (f : Dev → Dev) : Dev :=
  let room := d.budget m 2 cls
  let used := tget 0 (d.mast m).bud.hbm cls
  let need := Nat.min n room
  if d.waits m 2 cls 0 || room < used + need || need == 0 then d
  else f ((d.onBud m (fun b => { b with hbm := tset 0 b.hbm cls (used + need) })).hbmMoved m (cls == 3) n)

/-! ## Frame slots (R15, R16) -/

def Dev.stay (d : Dev) (m : MastId) (t : Nat) : Stay := tget stayReset (d.mast m).stays t

def Dev.onStay (d : Dev) (m : MastId) (t : Nat) (f : Stay → Stay) : Dev :=
  d.onMast m (fun x => { x with stays := tset stayReset x.stays t (f (tget stayReset x.stays t)) })

/-- Command-lane slots of one direction in a watch, and slots of all kinds in a beat (R15, R16). -/
def laneSlots : Nat := 400
def beatSlots : Nat := 10

/-- The direction in the beat in progress: a new beat has all its slots. -/
def StayDir.now (x : StayDir) (beat : Nat) : StayDir :=
  if x.beat == beat then x else { x with beat := beat, inBeat := 0, writes := 0 }

/-- Is there a slot for a command-lane frame now (R16)? -/
def StayDir.cmdFree (x : StayDir) (beat : Nat) : Bool := x.used < laneSlots && (x.now beat).inBeat < beatSlots

/-- A command-lane frame takes a slot. -/
def StayDir.cmdUse (x : StayDir) (beat : Nat) : StayDir :=
  let x := x.now beat
  { x with used := x.used + 1, inBeat := x.inBeat + 1, seq := x.seq + 1 }

/-- Is there a slot for a budgeted frame of a class whose allowance is `a`: command-lane frames that may leave go first (R16,
R34)? -/
def StayDir.budFree (x : StayDir) (beat a cls : Nat) : Bool :=
  (x.now beat).inBeat < beatSlots && tget 0 x.spent cls < a && (x.wait.isEmpty || laneSlots ≤ x.used)

/-- A budgeted frame takes a slot. -/
def StayDir.budUse (x : StayDir) (beat cls : Nat) : StayDir :=
  let x := x.now beat
  { x with inBeat := x.inBeat + 1, seq := x.seq + 1, spent := tset 0 x.spent cls (tget 0 x.spent cls + 1) }

/-- A watch begins: every slot is free again, and frames that wait keep their places (R16, R34). -/
def StayDir.watch (x : StayDir) : StayDir := { x with used := 0, spent := [], late := laneSlots ≤ x.used }

/-! ## The command lane from mast to tile (R16, R17) -/

/-- May a waiting frame be the next? The arm frame of a sheaf leaves after every staging frame of that sheaf. -/
def laneReady (l : List LaneFrame) (x : LaneFrame) : Bool :=
  !(x.cls == 1 && x.words.getD 1 0 == 1 && l.any (fun y => y.cls == 4 && y.words.head? == x.words.head?))

/-- The frame to leave next: the lowest class, and within it the first to become ready (R16). -/
def nextFrame (l : List LaneFrame) : Option LaneFrame :=
  [1, 2, 3, 4, 5].findSome? (fun c => l.find? (fun x => x.cls == c && laneReady l x))

/-- A frame leaves for its tile. The immediate writes that it carries reach the tile before the next beat boundary; one whose
pennant epoch or lease has gone takes none (R32, R241, R398). -/
def Dev.leave (d : Dev) (m : MastId) (t : Nat) (f : LaneFrame) : Dev :=
  let seq := (d.stay m t).down.seq
  let now := d.beat
  let d := d.onStay m t (fun s => { s with down := { s.down.cmdUse now with wait := s.down.wait.erase f } })
  let d := (d.emit (.frame m f.cls t (d.mast m).pen.epoch seq f.words)).staySlot m t false
  if f.writes.isEmpty || !d.takes m t || !(d.tile t).leaseRuns now then d
  else d.onTile t (fun x => { x with imm := x.imm ++ f.writes })

/-- Frames that wait leave while slots are free. -/
def Dev.pump (m : MastId) (t : Nat) : Nat → Dev → Dev
  | 0, d => d
  | n + 1, d => match nextFrame (d.stay m t).down.wait with
    | none => d
    | some f => if (d.stay m t).down.cmdFree d.beat then Dev.pump m t n (d.leave m t f) else d

/-- A command-lane frame becomes ready on a stay. -/
def Dev.command (d : Dev) (m : MastId) (t cls : Nat) (words : List Nat) (writes : List (Nat × Tgt × Bool)) : Dev :=
  Dev.pump m t beatSlots (d.onStay m t (fun s => { s with down := { s.down with wait := s.down.wait ++ [⟨cls, words, writes⟩] } }))

/-- Does a frame still wait on a stay? -/
def Dev.waiting (d : Dev) (m : MastId) (t cls : Nat) (words : List Nat) : Bool :=
  (d.stay m t).down.wait.any (fun f => f.cls == cls && f.words == words)

/-- Waiting frames that a condition names are withdrawn. -/
def Dev.unlane (d : Dev) (m : MastId) (t : Nat) (p : LaneFrame → Bool) : Dev :=
  d.onStay m t (fun s => { s with down := { s.down with wait := s.down.wait.filter (fun f => !p f) } })

/-- Frames of 16 immediate writes each. -/
def writeFrames : Nat → List (Nat × Tgt × Bool) → List (List (Nat × Tgt × Bool))
  | 0, _ => []
  | n + 1, l => if l.isEmpty then [] else l.take 16 :: writeFrames n (l.drop 16)

/-- Immediate writes (cell, target, Thresh's own) become ready for their tiles (class 5 of R16). -/
def Dev.writes (d : Dev) (m : MastId) (ws : List (Nat × Tgt × Bool)) : Dev :=
  d.each (List.range 16) (fun t d =>
    let mine := (ws.filter (fun w : Nat × Tgt × Bool => w.1 / laneCount == t)).map (fun w => (w.1 % laneCount, w.2))
    d.each (writeFrames mine.length mine) (fun l d => d.command m t 5 [] l))

/-- Does an immediate write that a tile receives fill a slot, and is one free: 16 fit in a frame? -/
def StayDir.writeFree (x : StayDir) (beat : Nat) : Bool := (x.now beat).writes % 16 != 0 || x.cmdFree beat

def StayDir.writeUse (x : StayDir) (beat : Nat) : StayDir :=
  let x := x.now beat
  let x := if x.writes % 16 == 0 then x.cmdUse beat else x
  { x with writes := x.writes + 1 }

/-- Every stay of a mast goes on at a beat boundary. -/
def Dev.pumpAll (d : Dev) (m : MastId) : Dev :=
  d.each (((d.mast m).stays.filter (fun e : Nat × Stay => !e.2.down.wait.isEmpty)).map Prod.fst) (fun t d => Dev.pump m t beatSlots d)

/-- Slots and allowances of a watch that begins (R34). -/
def Dev.stayWatch (d : Dev) (m : MastId) : Dev :=
  (d.onMast m (fun x => { x with
    stays := tmap (fun s : Stay => { s with down := s.down.watch, up := s.up.watch }) stayReset x.stays, bud := ⟨[], [], []⟩ })).pumpAll m

/-! ## From tile to mast, and budgeted frames -/

/-- Frames of a lower class wait on the tile: a stage acknowledgement or refusal, a renewal acknowledgement. -/
def Dev.upBelow (d : Dev) (m : MastId) (t cls : Nat) : Bool :=
  let x := d.tile t
  (1 < cls && x.link.ack.isSome) ||
    (2 < cls && (d.mast m).pen.sent.any (fun b => x.link.leaseEnd == b + 1000 && tget 0 (d.mast m).pen.acks t != b + 1000))

/-- A command-lane frame of the tile arrives at the mast, if a slot is free for it; one that waited for this watch keeps its
place in class order (R16). -/
def Dev.upGo (d : Dev) (m : MastId) (t cls : Nat) (f : Dev → Dev) : Dev :=
  let now := d.beat
  let x := (d.stay m t).up
  if !x.cmdFree now || (x.late && d.upBelow m t cls) then d
  else f ((d.onStay m t (fun s => { s with up := s.up.cmdUse now })).staySlot m t true)

/-- A frame of the loop-service class crosses a stay, where its allowance and the slots of the beat let it (R34); `up` from
the tile. -/
def Dev.carry (d : Dev) (m : MastId) (t : Nat) (up : Bool) (f : Dev → Dev) : Dev :=
  let now := d.beat
  let s := d.stay m t
  let x := if up then s.up else s.down
  if d.waits m 1 0 t || !x.budFree now (d.budget m 1 0) 0 then d
  else
    let d := d.onStay m t (fun s => if up then { s with up := s.up.budUse now 0 } else { s with down := s.down.budUse now 0 })
    f (d.staySlot m t up)

/-! ## The loop state as mirrored (R22, R30, R193) -/

def Loop.mirror (l : Loop) : LoopMir := ⟨l.F, l.mode, l.kp, l.ki, l.lo, l.hi, l.openCode⟩

/-- PERIOD waits on the tile itself (R182, R195); every other change that waits is mirrored with the parameters. -/
def Tile.mirror (x : Tile) : MirTile :=
  ⟨x.par, x.pend.filter (fun e => e.2.1 != 1), x.dflt.lp.mirror,
    x.cells.foldr (fun e r => tset x.dflt.lp.mirror r e.1 e.2.lp.mirror) []⟩

def MirTile.cell (x : MirTile) (l : Nat) : LoopMir := tget x.dflt x.cells l

/-- A cell's F and parameters as the mirror has them. -/
def Loop.take (l : Loop) (g : LoopMir) : Loop :=
  { l with F := g.F, mode := g.mode, kp := g.kp, ki := g.ki, lo := g.lo, hi := g.hi, openCode := g.openCode }

end Sys2Proof.Machine
end

