-- ==== Sys2Proof/Machine/Paths.lean ====
section
/-! DEFINITION. The connection map, the paths that settings give it, and which routings a solve may answer (R102, R140, R149, R150,
R157 to R166, R173). -/

namespace Sys2Proof.Machine

/-! ## The table in force -/

def Fab.entry? (f : Fab) (c : Nat) : Option TopoEntry :=
  match f.topo with
  | none => none
  | some t => t.table.entries.find? (fun e => e.cell == c)

def Fab.kind (f : Fab) : Nat := match f.topo with | some t => t.table.kind | none => 0

/-- N, the number of ports (R146). -/
def Fab.ports (f : Fab) : Nat := match f.topo with | some t => 2 ^ t.table.log2n | none => 0

/-- An edge cell of a TWIN_BENES table (R150). -/
def isEdge (e : TopoEntry) : Bool := e.role == 0 && 0xFE ≤ e.stage

/-! ## The connection map -/

/-- The output an input is joined to (R102). -/
def mapOut (map : List (Nat × Nat)) (p : Nat) : Option Nat := (map.find? (fun c => c.1 == p)).map Prod.snd

/-- The input joined to an output. -/
def mapIn (map : List (Nat × Nat)) (q : Nat) : Option Nat := (map.find? (fun c => c.2 == q)).map Prod.fst

/-- A connection made, in ascending input order. -/
def mapPut (map : List (Nat × Nat)) (p q : Nat) : List (Nat × Nat) := tinsert p q map

/-- A connection removed by its input. -/
def mapCut (map : List (Nat × Nat)) (p : Nat) : List (Nat × Nat) := map.filter (fun c => c.1 != p)

/-- The map of a PERMUTE's port map. -/
def mapOfPorts (ents : List PortEnt) : List (Nat × Nat) :=
  ents.zipIdx.filterMap (fun (e : PortEnt × Nat) => if e.1.valid then some (e.2, e.1.out) else none)

/-- The map of a past epoch, by undoing the journal (R140, R141). -/
def Fab.mapAt (f : Fab) (epoch : Nat) : List (Nat × Nat) :=
  (f.journal.reverse.takeWhile (fun j => epoch < j.epoch)).foldl (fun map j =>
    j.removed.foldl (fun map c => mapPut map c.1 c.2) (map.filter (fun c => !j.added.contains c))) f.map

/-- The time of a strike in the journal; none for epoch 0. -/
def Fab.strikeOf (f : Fab) (epoch : Nat) : Option Stamp :=
  (f.journal.find? (fun j => j.epoch == epoch)).map JournalEnt.time

/-! ## Paths (R149, R150, R159) -/

/-- A cell on a path, with the output arm by which the light leaves it. -/
abbrev Hop := Nat × Nat

/-- The path through a Beneš network of 2^k ports, at stage `s` and position `o`, from its input `x`: the network output and
the hops. `st` gives the cell at a stage and position and whether it is in CROSS. -/
def walk (st : Nat → Nat → Option (Nat × Bool)) : Nat → Nat → Nat → Nat → Option (Nat × List Hop)
  | 0, _, _, _ => none
  | 1, s, o, x =>
    match st s o with
    | some (c, cr) => let b := if cr then 1 - x else x; some (b, [(c, b)])
    | none => none
  | n + 2, s, o, x =>
    match st s (o + x / 2) with
    | none => none
    | some (c, cr) =>
      let b := if cr then 1 - x % 2 else x % 2
      match walk st (n + 1) (s + 1) (o + b * 2 ^ n) (x / 2) with
      | none => none
      | some (y, hops) =>
        match st (s + 2 * (n + 1)) (o + y) with
        | none => none
        | some (c', cr') =>
          let b' := if cr' then 1 - b else b
          some (2 * y + b', (c, b) :: hops ++ [(c', b')])

/-- The solver's choice for each cell. -/
abbrev Settings := Nat → Option Tgt

/-- The choices in force with some replaced. -/
def Fab.choices (f : Fab) (sets : List CellSet) : Settings := fun c =>
  match sets.find? (fun (s : CellSet) => s.cell == c) with
  | some s => some s.tgt
  | none => tget none f.settings c

/-- The cell of a fabric position. -/
def Fab.cellAt (f : Fab) (plane stage pos : Nat) : Option Nat :=
  match f.topo with
  | none => none
  | some t => (t.table.entries.find? (fun e : TopoEntry =>
      e.role == 0 && e.stage == stage && e.pos == pos && (t.table.kind != 2 || isEdge e || e.plane == plane))).map
        (fun e : TopoEntry => e.cell)

/-- Does a choice put the cell in CROSS? None where it is no logical state. -/
def crossOf : Option Tgt → Option Bool
  | some .bar => some false
  | some .cross => some true
  | _ => none

/-- The path inside one plane from its input `p`. -/
def Fab.inner (f : Fab) (g : Settings) (plane p : Nat) : Option (Nat × List Hop) :=
  let k := match f.topo with | some t => t.table.log2n | none => 0
  walk (fun s o => match f.cellAt plane s o with
    | some c => (crossOf (g c)).map (fun x => (c, x))
    | none => none) k 0 0 p

/-- The whole path of the light entering input port `p`: its output port and its hops, edge cells included. -/
def Fab.path (f : Fab) (g : Settings) (p : Nat) : Option (Nat × List Hop) :=
  if f.kind == 2 then
    match f.cellAt 0 0xFE p with
    | none => none
    | some e => match crossOf (g e) with
      | none => none
      | some x => match f.inner g (b2n x) p with
        | none => none
        | some (q, hops) => match f.cellAt 0 0xFF q with
          | none => none
          | some o => if crossOf (g o) == some x then some (q, (e, b2n x) :: hops ++ [(o, 0)]) else none
  else f.inner g 0 p

/-- Do the settings carry every connection, over no cell that meets `bad`? -/
def Fab.routes (f : Fab) (g : Settings) (bad : Nat → Bool) (map : List (Nat × Nat)) : Bool :=
  map.all (fun c => match f.path g c.1 with
    | some (q, hops) => q == c.2 && hops.all (fun h => !bad h.1)
    | none => false)

/-- Does one plane route every connection, over no cell that meets `bad`? -/
def Fab.routesIn (f : Fab) (g : Settings) (bad : Nat → Bool) (plane : Nat) (map : List (Nat × Nat)) : Bool :=
  map.all (fun c => match f.inner g plane c.1 with
    | some (q, hops) => q == c.2 && hops.all (fun h => !bad h.1)
    | none => false)

/-- Unconnected inputs paired with unconnected outputs, both ascending (R159). -/
def completion (n : Nat) (map : List (Nat × Nat)) : List (Nat × Nat) :=
  ((List.range n).filter (fun p => (mapOut map p).isNone)).zip ((List.range n).filter (fun q => (mapIn map q).isNone))

/-- The plane that carries no light. -/
def Fab.shadow (f : Fab) : Nat := 1 - f.active

/-- Is the cell a Beneš cell of a plane? -/
def Fab.inPlane (f : Fab) (plane cell : Nat) : Bool :=
  match f.entry? cell with
  | some e => e.role == 0 && !isEdge e && e.plane == plane
  | none => false

/-- A fabric cell set to a logical state. -/
def Fab.plainSet (f : Fab) (s : CellSet) : Bool :=
  (crossOf (some s.tgt)).isSome && (match f.entry? s.cell with
    | some e => e.role == 0
    | none => false)

/-- Do the circuits of a map enter the fabric toward a plane, as their edge cells are set (R150)? -/
def Fab.onPlane (f : Fab) (g : Settings) (plane : Nat) (map : List (Nat × Nat)) : Bool :=
  f.kind != 2 || map.all (fun c => match f.cellAt 0 0xFE c.1 with
    | some e => crossOf (g e) == some (plane == 1)
    | none => false)

/-! ## Which routings exist (R157 to R159, R165, R173) -/

/-- Cells of a path with the state, CROSS or not, that it needs of each. -/
abbrev Way := List (Nat × Bool)

/-- Every way through a Beneš network of 2^k ports from input `x` to output `y` (R149): one for each choice of subnetworks. -/
def waysIn (st : Nat → Nat → Option Nat) : Nat → Nat → Nat → Nat → Nat → List Way
  | 0, _, _, _, _ => []
  | 1, s, o, x, y => match st s o with
    | some c => [[(c, x != y)]]
    | none => []
  | n + 2, s, o, x, y =>
    match st s (o + x / 2), st (s + 2 * (n + 1)) (o + y / 2) with
    | some c, some c' => [0, 1].flatMap (fun b =>
        (waysIn st (n + 1) (s + 1) (o + b * 2 ^ n) (x / 2) (y / 2)).map (fun w => (c, x % 2 != b) :: w ++ [(c', y % 2 != b)]))
    | _, _ => []

/-- Every way of a connection through one plane; with `edges`, its edge cells too (R150). -/
def Fab.ways (f : Fab) (plane : Nat) (edges : Bool) (c : Nat × Nat) : List Way :=
  let ws := waysIn (f.cellAt plane) (match f.topo with | some t => t.table.log2n | none => 0) 0 0 c.1 c.2
  if edges && f.kind == 2 then
    match f.cellAt 0 0xFE c.1, f.cellAt 0 0xFF c.2 with
    | some e, some o => ws.map (fun w => (e, plane == 1) :: w ++ [(o, plane == 1)])
    | _, _ => []
  else ws

/-- Can the connections be routed together, over ways that agree with the cells already taken? Those marked avoid every cell
that meets `bad`. -/
def canRoute (ways : Nat × Nat → List Way) (bad : Nat → Bool) : List ((Nat × Nat) × Bool) → Way → Bool
  | [], _ => true
  | (c, strict) :: r, taken =>
    (ways c).any (fun w => w.all (fun h => !(strict && bad h.1) && taken.all (fun q => q.1 != h.1 || q.2 == h.2)) &&
      canRoute ways bad r (taken ++ w))

/-- The cells that the paths of some connections hold, in the settings given. -/
def heldBy (g : Settings) (path : Nat → Option (Nat × List Hop)) (map : List (Nat × Nat)) : Way :=
  map.flatMap (fun c => match path c.1 with
    | some (_, hops) => hops.map (fun h => (h.1, crossOf (g h.1) == some true))
    | none => [])

/-- Is there a preserving solve: the circuits that stay keep their paths, and the others find paths (R157)? -/
def Fab.canKeep (f : Fab) (bad : Nat → Bool) (stay fresh : List (Nat × Nat)) : Bool :=
  let g := f.choices []
  canRoute (f.ways f.active true) bad (fresh.map (fun c => (c, true))) (heldBy g (f.path g) stay)

/-- Is there a full solve of a plane (R158, R159): every circuit avoids the fenced cells, and the map's completion is routed? -/
def Fab.canFull (f : Fab) (bad : Nat → Bool) (plane : Nat) (edges : Bool) (map : List (Nat × Nat)) : Bool :=
  canRoute (f.ways plane edges) bad (map.map (fun c => (c, true)) ++ (completion f.ports map).map (fun c => (c, false))) []

/-- The circuits of a map that the shadow carries already, over no fenced cell (R165). -/
def Fab.shadowStays (f : Fab) (bad : Nat → Bool) (map : List (Nat × Nat)) : List (Nat × Nat) :=
  map.filter (fun c => f.routesIn (f.choices []) bad f.shadow [c])

/-- Is there a preserving solve of the shadow for a map (R165)? -/
def Fab.canKeepShadow (f : Fab) (bad : Nat → Bool) (map : List (Nat × Nat)) : Bool :=
  let g := f.choices []
  let stay := f.shadowStays bad map
  canRoute (f.ways f.shadow false) bad ((map.filter (fun c => !stay.contains c)).map (fun c => (c, true)))
    (heldBy g (f.inner g f.shadow) stay)

/-! ## What a solve may answer (R157 to R159, R162, R165, R173) -/

/-- The cells of some circuits' paths. -/
def Fab.cellsOf (f : Fab) (g : Settings) (map : List (Nat × Nat)) : List Nat :=
  map.flatMap (fun c => match f.path g c.1 with
    | some (_, hops) => hops.map Prod.fst
    | none => [])

/-- A preserving solve (R157 to R159): the circuits that stay keep their paths, the fresh ones are routed on the active plane
over no cell that meets `bad`, and only cells on the fresh paths are set. -/
def Fab.preserves (f : Fab) (bad : Nat → Bool) (stay fresh : List (Nat × Nat)) (sets : List CellSet) : Bool :=
  let g0 := f.choices []
  let g := f.choices sets
  let on := f.cellsOf g fresh
  sets.all (fun (s : CellSet) => f.plainSet s && on.contains s.cell) && f.routes g bad fresh && f.onPlane g f.active fresh &&
    stay.all (fun c => f.path g0 c.1 == f.path g c.1)

/-- A full solve of a BENES fabric (R159): it routes the working map over no fenced cell, and the pairs that complete it. -/
def Fab.fullySolves (f : Fab) (bad : Nat → Bool) (map : List (Nat × Nat)) (sets : List CellSet) : Bool :=
  let g := f.choices sets
  sets.all f.plainSet && f.routes g bad map && f.routes g (fun _ => false) (completion f.ports map)

/-- A solve of the shadow plane for a map (R165, R166). -/
def Fab.shadowSolves (f : Fab) (bad : Nat → Bool) (map : List (Nat × Nat)) (sets : List CellSet) : Bool :=
  let g := f.choices sets
  sets.all (fun (s : CellSet) => f.plainSet s && f.inPlane f.shadow s.cell) && f.routesIn g bad f.shadow map

/-- A full solve of the shadow, its completion routed too (R159, R166). -/
def Fab.shadowFull (f : Fab) (bad : Nat → Bool) (map : List (Nat × Nat)) (sets : List CellSet) : Bool :=
  f.shadowSolves bad map sets && f.routesIn (f.choices sets) (fun _ => false) f.shadow (completion f.ports map)

/-- A shadow refresh (R165): a preserving solve where there is one, else a full solve, else one over fenced cells. -/
def Fab.refreshes (f : Fab) (bad : Nat → Bool) (map : List (Nat × Nat)) (sets : List CellSet) : Bool :=
  if f.canKeepShadow bad map then
    let g0 := f.choices []
    let g := f.choices sets
    let stay := f.shadowStays bad map
    let fresh := map.filter (fun c => !stay.contains c)
    let on := fresh.flatMap (fun c => match f.inner g f.shadow c.1 with
      | some (_, hops) => hops.map Prod.fst
      | none => [])
    f.shadowSolves bad map sets && sets.all (fun (s : CellSet) => on.contains s.cell) &&
      stay.all (fun c => f.inner g0 f.shadow c.1 == f.inner g f.shadow c.1)
  else if f.canFull bad f.shadow false map then f.shadowFull bad map sets
  else f.shadowFull (fun _ => false) map sets

/-- The states that a full solve gives the cells of a plane. -/
def Fab.fullStates (f : Fab) (plane : Nat) (sets : List CellSet) : List (Nat × Option Bool) :=
  match f.topo with
  | none => []
  | some t => (t.table.entries.filter (fun e : TopoEntry => e.role == 0 && !isEdge e && (f.kind != 2 || e.plane == plane))).map
      (fun e : TopoEntry => (e.cell, crossOf (f.choices sets e.cell)))

/-- The fenced cells of a plane. -/
def Fab.fencedIn (f : Fab) (bad : Nat → Bool) (plane : Nat) : List Nat :=
  (f.fullStates plane []).filterMap (fun e => if bad e.1 then some e.1 else none)

/-- The same map and fenced cells always give a full solve the same settings (R159). -/
def Fab.asBefore (f : Fab) (bad : Nat → Bool) (plane : Nat) (map : List (Nat × Nat)) (sets : List CellSet) : Bool :=
  f.fulls.all (fun r => r.plane != plane || r.map != map || r.fenced != f.fencedIn bad plane || r.states == f.fullStates plane sets)

/-- A full solve is kept in mind. -/
def Fab.recall (f : Fab) (bad : Nat → Bool) (plane : Nat) (map : List (Nat × Nat)) (sets : List CellSet) : Fab :=
  let r : FullSolve := ⟨plane, map, f.fencedIn bad plane, f.fullStates plane sets⟩
  if f.fulls.contains r then f else { f with fulls := f.fulls ++ [r] }

/-! ### Looping chains (R162) -/

/-- A circuit inside a network: its input, output, and the subnetworks it takes, outermost first. -/
structure Trail where
  inp : Nat
  out : Nat
  subs : List Nat
deriving DecidableEq, Repr

/-- The connections reached from some by sharing first-stage or last-stage cells, in `n` rounds. -/
def chainFrom (all : List Trail) : Nat → List Trail → List Trail
  | 0, l => l
  | n + 1, l => chainFrom all n (all.filter (fun a => l.any (fun b => a.inp / 2 == b.inp / 2 || a.out / 2 == b.out / 2)))

/-- Do only circuits on the looping chains that start at changed connections leave their subnetworks, at every level? -/
def chainsOnly : Nat → List Trail → List Trail → Bool
  | 0, _, _ => true
  | n + 1, old, new =>
    let changed := new.filter (fun a => !old.any (fun b => a.inp == b.inp && a.out == b.out))
    let chain := chainFrom new new.length changed
    let sub := fun (l : List Trail) (b : Nat) => (l.filter (fun a => a.subs.headD 0 == b)).map (fun a => (⟨a.inp / 2, a.out / 2, a.subs.drop 1⟩ : Trail))
    new.all (fun a => chain.contains a || old.any (fun b => a.inp == b.inp && a.out == b.out && a.subs.headD 0 == b.subs.headD 0)) &&
      [0, 1].all (fun b => chainsOnly n (sub old b) (sub new b))

/-- The trails of a map's circuits in a plane. -/
def Fab.trails (f : Fab) (g : Settings) (map : List (Nat × Nat)) : List Trail :=
  map.map (fun c => ⟨c.1, c.2, match f.inner g f.active c.1 with
    | some (_, hops) => (hops.take (hops.length / 2)).map Prod.snd
    | none => []⟩)

/-- The kept circuits whose path a plan changes, ascending (R163). -/
def Fab.movedBy (f : Fab) (map : List (Nat × Nat)) (sets : List CellSet) : List Nat :=
  (map.filter (fun c => f.map.contains c && f.path (f.choices []) c.1 != f.path (f.choices sets) c.1)).map Prod.fst

/-- May a plan answer so (R162)? It routes the wanted map on the active plane over no fenced cell; where every circuit can keep
its path none moves, and else only those on looping chains do. -/
def Fab.plans? (f : Fab) (bad : Nat → Bool) (map : List (Nat × Nat)) (moved : List Nat) (sets : List CellSet) : Bool :=
  let g := f.choices sets
  let stay := map.filter f.map.contains
  sets.all f.plainSet && f.routes g bad map && f.onPlane g f.active map && moved == f.movedBy map sets &&
    (!f.canKeep bad stay (map.filter (fun c => !f.map.contains c)) || moved.isEmpty) &&
    chainsOnly (match f.topo with | some t => t.table.log2n - 1 | none => 0) (f.trails (f.choices []) f.map) (f.trails g map)

/-- The edge cells that put every circuit of a map on a plane (R166 step 3). -/
def Fab.edgeSets (f : Fab) (plane : Nat) (map : List (Nat × Nat)) : List CellSet :=
  map.flatMap (fun c =>
    ([f.cellAt 0 0xFE c.1, f.cellAt 0 0xFF c.2].filterMap id).map (fun e => (⟨e, if plane == 1 then .cross else .bar⟩ : CellSet)))

/-- A map of free connections (R395: TOPO_SWAP with the map not empty). -/
def freeMap (n free : Nat) : List (Nat × Nat) :=
  (List.range n).foldl (fun map p =>
    let q := Config.freeNat (free + 2 * p) % n
    if Config.freeBool (free + 2 * p + 1) && (mapIn map q).isNone then mapPut map p q else map) []

end Sys2Proof.Machine
end

