-- ==== Sys2Proof/Machine/Events.lean ====
section
/-! DEFINITION. Events and their readers: telemetry records (R363 to R365), Glean events (R336, R339), sheaf aborts
(R119), fault reports, fences and Winnow queueing (R379 to R390). -/

namespace Sys2Proof.Machine

def Dev.fab (d : Dev) (m : MastId) : Fab := (d.mast m).fab

def Dev.onFab (d : Dev) (m : MastId) (f : Fab → Fab) : Dev := d.onMast m (fun x => { x with fab := f x.fab })

def Dev.flt (d : Dev) (m : MastId) : Flt := (d.mast m).flt

def Dev.onFlt (d : Dev) (m : MastId) (f : Flt → Flt) : Dev := d.onMast m (fun x => { x with flt := f x.flt })

def Dev.onPen (d : Dev) (m : MastId) (f : Pen → Pen) : Dev := d.onMast m (fun x => { x with pen := f x.pen })

def Dev.onEg (d : Dev) (m : MastId) (f : Egress → Egress) : Dev := d.onMast m (fun x => { x with eg := f x.eg })

def Dev.onGln (d : Dev) (m : MastId) (f : Glean → Glean) : Dev := d.onMast m (fun x => { x with gln := f x.gln })

def Dev.onBoot (d : Dev) (m : MastId) (f : Boot → Boot) : Dev := d.onMast m (fun x => { x with boot := f x.boot })

/-! ## Telemetry (R363 to R365) -/

/-- A stamp as dateTimeNanoseconds has it (R366): 32 bits of seconds since 1900 and 32 of fraction (PRESUMED from RFC 7011, the
timebase's seconds taken as they are; assumption 111). -/
def ntpTime (t : Stamp) : Nat := (t.sec + 2208988800) % 2 ^ 32 * 2 ^ 32 + t.ns * 2 ^ 32 / 1000000000

def Dev.stream (d : Dev) (m : MastId) (s : Nat) : Option Stream := tget none (d.mast m).eg.streams s

def Dev.setStream (d : Dev) (m : MastId) (s : Nat) (x : Option Stream) : Dev :=
  d.onEg m (fun e => { e with streams := tset none e.streams s x })

/-- Bytes of a packet before its records: IP, UDP and the packet header of R362 and R364, or IPFIX's message and set
headers (R366, RFC 7011). -/
def pktHead (s : StreamDef) : Nat := (if s.ipv6 then 40 else 20) + 8 + (if s.ipfix then 20 else 28)

/-- Frame bytes from destination MAC to FCS of `n` bytes of IP (R365). -/
def frameBytes (s : StreamDef) (n : Nat) : Nat := n + (if s.vlanEn then 22 else 18)

/-- A packet closes, if it has not (R364, R365). -/
def Packet.close (p : Packet) (now : Stamp) : Packet := if p.closed then p else { p with closed := true, closedAt := now }

/-- A record put into a stream's open packet, or into a new one where the frame would exceed the MTU (R365). -/
def Stream.put (x : Stream) (mtu beat : Nat) (now : Stamp) (r : TelRec) : Stream :=
  let x := { x with queued := x.queued + r.len }
  match x.pkts.getLast? with
  | some p =>
    if !p.closed && pktHead x.defn + p.bytes + r.len ≤ mtu then
      { x with pkts := x.pkts.dropLast ++ [{ p with recs := p.recs ++ [r], bytes := p.bytes + r.len }] }
    else { x with pkts := x.pkts.dropLast ++ [p.close now, ⟨[r], r.len, beat, false, now⟩] }
  | none => { x with pkts := [⟨[r], r.len, beat, false, now⟩] }

/-- Queue a record on one stream: dropped whole where the 64 KiB queue has no room or the port is fenced; the next one
that fits follows a DROP record (R365, R384). -/
def Dev.queueTel (d : Dev) (m : MastId) (s : Nat) (r : TelRec) : Dev :=
  match d.stream m s with
  | none => d
  | some x =>
    let port := x.defn.port
    let mtu := d.regF m (0x6000 + 0x40 * port) 16 14
    let drop : TelRec := ⟨0x0B, r.time, r.epoch, layout [(4, x.lost), (4, x.firstLost.ns), (6, x.firstLost.sec)]⟩
    let need := r.len + (if x.lost == 0 then 0 else 38)
    if d.isFenced m ⟨.eth, port⟩ || 65536 < x.queued + need then
      ((d.setStream m s (some { x with lost := x.lost + 1, firstLost := if x.lost == 0 then r.time else x.firstLost })).count
        m (0x6800 + 8 * s) 32 32 1).pmc m 0x081 [s] 1
    else
      let x := if x.lost == 0 then x else { x.put mtu d.beat d.now drop with lost := 0 }
      d.setStream m s (some (x.put mtu d.beat d.now r))

/-- Does the stream produce records at a beat (R361)? -/
def Stream.produces (x : Stream) (beat : Nat) : Bool :=
  x.from_ ≤ beat && (match x.stopAt with
    | some b => beat < b
    | none => true)

/-- A record for every open stream whose SEL holds the bit (R363). -/
def Dev.tel (d : Dev) (m : MastId) (sel : Nat) (r : TelRec) : Dev :=
  ((d.mast m).eg.streams.map Prod.fst).foldl (fun d s => match d.stream m s with
    | some x => if x.defn.sel.getLsbD sel && !x.defn.ipfix && x.produces d.beat then d.queueTel m s r else d
    | none => d) d

/-! ## Glean events (R336, R339) -/

/-- The beat that contains an instant gone by. -/
def Dev.beatOf (d : Dev) (t : Stamp) : Nat := d.beat - (stampNs d.now / 100 - stampNs t / 100)

/-- The epoch in force at a beat. -/
def Fab.epochAt (f : Fab) (b : Nat) : Nat := f.epoch - (f.journal.filter (fun j => b < j.beat)).length

def causeBit : Cause → Nat
  | .trigIn => 0 | .halyard => 1 | .time => 2 | .window => 3 | .fault => 4 | .host => 5

/-- HAL_SEND's bit for a cause (R348). -/
def halBit : Cause → Option Nat
  | .trigIn => some 0 | .time => some 1 | .window => some 2 | .fault => some 3 | _ => none

/-- An event offered to every armed unit that enables its cause; WINDOW only within the unit's range. -/
def Dev.gleanEvent (d : Dev) (m : MastId) (c : Cause) (beat : Nat) (t : Stamp) (cell : Option Nat) (hal : Nat) : Dev :=
  let send := match halBit c with
    | some b => fld (d.eff m 0x4800) 0 4 / 2 ^ b % 2 == 1 && d.regF m 0x5060 0 1 == 1
    | none => false
  let d := d.onGln m (fun g => { g with units := g.units.map (fun e => match e.2 with
    | some u =>
      let inRange := match cell with
        | some k => u.first ≤ k && k < u.first + u.count
        | none => true
      if u.state == .armed && bit u.causeEn (causeBit c) && inRange then
        (e.1, some { u with events := u.events ++ [(c, beat, t, hal)] })
      else e
    | none => e) })
  let seen := d.beat
  if send then d.onMast m (fun x => { x with hal := { x.hal with pend := x.hal.pend ++ [(seen, t)] } }) else d

/-! ## Sheaf aborts (R119) -/

def Sheaf.decided (x : Sheaf) : Bool := x.phase == .decided

/-- The ring and sequence of the descriptor whose record ends the sheaf. -/
def Sheaf.owner (x : Sheaf) : Option (Nat × Nat) :=
  match x.key, x.commit with
  | .sheaf r _, some q => some (r, q)
  | .swap r q, _ => some (r, q)
  | _, _ => none

def Dev.findSheaf (d : Dev) (m : MastId) (k : SKey) : Option Sheaf := (d.fab m).sheafs.find? (fun x => x.key == k)

def Dev.onSheaf (d : Dev) (m : MastId) (k : SKey) (f : Sheaf → Sheaf) : Dev :=
  d.onFab m (fun x => { x with sheafs := updFirst (fun y => y.key == k) f x.sheafs })

/-- The command ring of a sheaf or plane swap. -/
def SKey.ring : SKey → Nat
  | .sheaf r _ => r
  | .swap r _ => r
  | .heal => 65536

def SKey.isSheaf : SKey → Bool
  | .sheaf _ _ => true
  | _ => false

/-- Bound sheafs take their place in strike order: those not scheduled, or past their due point, once every sheaf of their
ring committed before has its place (R120, R125). `sheafs` lists committed sheafs in the order of their commits. -/
def placeAll (order : List SKey) (waiting : List Nat) : List Sheaf → List SKey
  | [] => order
  | x :: r =>
    if x.phase == .open_ || order.contains x.key then placeAll order waiting r
    else if (x.at_.isNone || x.due) && !waiting.contains x.key.ring then placeAll (order ++ [x.key]) waiting r
    else placeAll order (x.key.ring :: waiting) r

def Fab.place (f : Fab) : Fab := { f with order := placeAll f.order [] f.sheafs }

/-- Take a sheaf out of the mast and of strike order. -/
def Dev.dropSheaf (d : Dev) (m : MastId) (k : SKey) : Dev :=
  d.onFab m (fun x =>
    ({ x with sheafs := x.sheafs.filter (fun y => y.key != k), order := x.order.filter (· != k) } : Fab).place)

/-- The staged tiles (R130): enabled tiles that the mast has not fenced as TILE. -/
def Dev.stagedTiles (d : Dev) (m : MastId) : List Nat := d.enabledTiles.filter (fun t => !d.isFenced m ⟨.tile, t⟩)

/-- Cell changes a staged change counts for: LIVE and EXPECT ride along (R129). -/
def Change.size : Change → Nat
  | .drive _ _ => 1
  | .park l _ => if l < laneCount then 1 else laneCount
  | .loop l _ _ => if l < laneCount then 1 else laneCount
  | .marks _ _ _ => 0

def sizeOf (cs : List Change) : Nat := (cs.map Change.size).sum

/-- Is the sheaf wholly staged on a tile? Tile `t` of `sent` holds one more than the cell changes sent. -/
def SheafWork.stagedOn (w : SheafWork) (t : Nat) : Bool :=
  let n := tget 0 w.sent t
  n != 0 && sizeOf (tget [] w.changes t) < n

/-- Staging is complete on every staged tile. -/
def Dev.stagingDone (d : Dev) (m : MastId) (y : Sheaf) : Bool :=
  y.work.solved && (d.stagedTiles m).all y.work.stagedOn

/-- A sheaf that every staged tile now holds is STAGED (R119). -/
def Dev.restage (d : Dev) (m : MastId) : Dev :=
  d.each ((d.fab m).sheafs.filter (fun y => y.phase == .solving && d.stagingDone m y)) (fun y d =>
    d.onSheaf m y.key (fun y => { y with phase := .staged }))

/-- Disarm frames to every staged tile of a sheaf some of whose staging has been sent (R132). -/
def Dev.disarm (d : Dev) (m : MastId) (w : SheafWork) : Dev :=
  let d := d.each (List.range 16) (fun t d => d.unlane m t (fun f => (f.cls == 1 || f.cls == 4) && f.words.head? == some w.tsid))
  if !w.solved then d else d.each (d.stagedTiles m) (fun t d => d.command m t 1 [w.tsid, 0] [])

/-- The INST values of PMC event ABORTED that count a status (R369). -/
def abortInst (st : Status) : List Nat :=
  let c := st.code
  if c / 256 == 1 && c % 256 < 0x80 then [0, c % 256] else if c / 256 == 2 then [0, 0x80 + c % 256] else [0]

/-- Abort a sheaf: its record carries the status and the current epoch (R119); a migration's abort refreshes the shadow
(R166). -/
def Dev.abortSheaf (d : Dev) (m : MastId) (k : SKey) (st : Status) : Dev :=
  match d.findSheaf m k with
  | none => d
  | some x =>
    let d := d.dropSheaf m k
    let d := d.disarm m x.work
    let d := if x.work.migrate && x.key.isSheaf then d.onFab m (fun f => { f with shadowBusy := true }) else d
    let d := d.pmc m 0x021 (abortInst st) 1
    match x.owner with
    | none => d
    | some (r, q) => match d.findDesc m r q with
      | none => d
      | some y => d.completeAt m y st (d.fab m).epoch none true

/-- Abort every sheaf of the mast that meets a condition. -/
def Dev.abortWhere (d : Dev) (m : MastId) (p : Sheaf → Bool) (st : Status) : Dev :=
  (((d.fab m).sheafs.filter p).map Sheaf.key).foldl (fun d k => d.abortSheaf m k st) d

/-! ## Units (R384, R388) -/

/-- Does converter 48t + k serve the cell (R259)? -/
def convServes (u c : Nat) : Bool :=
  c / laneCount == u / 48 && (c % laneCount) % 24 == u % 48 / 2

/-- Is a cell fenced as CELL by a unit (R384)? -/
def UnitCovers (u : FUnit) (c : Nat) : Bool :=
  match u.kind with
  | .cell => u.idx == c
  | .lane => u.idx == c
  | .converter => convServes u.idx c
  | .tile => c / laneCount == u.idx
  | _ => false

/-- Is a cell fenced on this mast? -/
def Dev.cellFenced (d : Dev) (m : MastId) (c : Nat) : Bool := (d.flt m).fences.any (fun f => UnitCovers f.unit c)

/-- The core that serves a cell (R23). -/
def coreOf (c : Nat) : Nat := 4 * (c / laneCount) + c % laneCount / 384

/-- Is the core or cluster of a core index fenced (R191)? -/
def Dev.coreFenced (d : Dev) (m : MastId) (k : Nat) : Bool :=
  d.isFenced m ⟨.core, k⟩ || d.isFenced m ⟨.cluster, k / 16⟩

/-- Tile of a tile-side unit. -/
def unitTile (u : FUnit) : Option Nat :=
  match u.kind with
  | .cell => some (u.idx / laneCount)
  | .lane => some (u.idx / laneCount)
  | .converter => some (u.idx / 48)
  | .tile => some u.idx
  | .strike => some u.idx
  | _ => none

/-- Containment of units (R388): a tile holds its converters, lanes and cells; a cluster its cores. -/
def contains (a b : FUnit) : Bool :=
  match a.kind, b.kind with
  | .tile, .cell => b.idx / laneCount == a.idx
  | .tile, .lane => b.idx / laneCount == a.idx
  | .tile, .converter => b.idx / 48 == a.idx
  | .cluster, .core => b.idx / 16 == a.idx
  | _, _ => false

def Dev.underTest (d : Dev) (m : MastId) (u : FUnit) : Bool :=
  (d.flt m).queue.contains u || (d.flt m).running.any (fun t => t.unit == u)

/-- Is the unit's own test running? -/
def Dev.testing (d : Dev) (m : MastId) (u : FUnit) : Bool := (d.flt m).running.any (fun t => t.unit == u)

/-- A check of the unit's own running test fails: that is its outcome, and no report (R388). -/
def Dev.testBad (d : Dev) (m : MastId) (u : FUnit) : Dev :=
  d.onFlt m (fun f => { f with running := f.running.map (fun t => if t.unit == u then { t with bad := true } else t) })

/-- Withdraw a unit's test, queued or running. -/
def Dev.withdraw (d : Dev) (m : MastId) (u : FUnit) : Dev :=
  d.onFlt m (fun f => { f with queue := f.queue.filter (· != u), running := f.running.filter (fun t => t.unit != u) })

/-! ## The log (R380, R381) -/

/-- The 32 bytes of a log entry (R381). -/
def LogEnt.bytes (e : LogEnt) (m : MastId) : List Byte :=
  layout [(1, e.source), (1, e.sev + 4 * midx m + 8 * e.kind), (2, e.unit), (4, e.seq), (8, e.epoch), (6, e.time.sec), (2, 0),
    (4, e.time.ns), (4, e.info.toNat)]

/-- Append an entry; a full ring overwrites the oldest and counts LOST. -/
def Dev.log (d : Dev) (m : MastId) (source sev kind unit : Nat) (ep : Nat) (t : Stamp) (info : BitVec 32) : Dev :=
  let full := 1024 ≤ (d.flt m).log.length
  let d := d.onFlt m (fun f => { f with
    log := (if full then f.log.drop 1 else f.log) ++ [⟨source, sev, kind, unit, f.seq, ep, t, info⟩]
    seq := (f.seq + 1) % 2 ^ 32 })
  if full then d.count m 0x7008 32 16 1 else d

/-- Append an entry of a kind other than FAULT, with its INFO flags (R381). -/
def Dev.logUnit (d : Dev) (m : MastId) (source kind : Nat) (u : FUnit) (flags : Nat) : Dev :=
  d.log m source 0 kind u.idx (d.fab m).epoch d.now (BitVec.ofNat 32 (ukCode u.kind + flags))

/-- Signal the fault vector, at most once per 10 µs (R383). -/
def Dev.faultIrq (d : Dev) (m : MastId) (sev : Nat) : Dev :=
  if d.regF m 0x7000 4 1 == 1 && d.regF m 0x7000 2 2 ≤ sev then
    match (d.flt m).irqAt with
    | some b => if b + 100 ≤ d.beat then (d.msix m 0).onFlt m (fun f => { f with irqAt := some d.beat, irqPend := false })
                else d.onFlt m (fun f => { f with irqPend := true })
    | none => (d.msix m 0).onFlt m (fun f => { f with irqAt := some d.beat })
  else d

/-- Record a FAULT entry with everything only FAULT entries do (R380, R382, R383). -/
def Dev.logFault (d : Dev) (m : MastId) (source sev unit : Nat) (detail : BitVec 32) : Dev :=
  let e : LogEnt := ⟨source, sev, 0, unit, (d.flt m).seq, (d.fab m).epoch, d.now, detail⟩
  let d := d.log m source sev 0 unit (d.fab m).epoch d.now detail
  let d := d.onFlt m (fun f => { f with first := f.first.or (some e) })
  let d := if d.regF m 0x7000 0 2 ≤ sev then d.setRegF m (0x7080 + 8 * (source / 64)) (source % 64) 1 1 else d
  let d := d.faultIrq m sev
  let d := d.pmc m 0x090 [sev] 1
  let d := if d.effF m 0x4800 4 2 ≤ sev then d.gleanEvent m .fault d.beat d.now none 0 else d
  d.tel m 3 ⟨0x04, d.now, (d.fab m).epoch, e.bytes m⟩

/-! ## Self-heal placement (R171 to R174) -/

/-- Work on a sheaf not begun, or discarded (R121). -/
def noWork : SheafWork := ⟨0, [], [], [], [], false, false, false, none, none, 0, false, [], false, false, 0, false, false, [], none⟩

/-- The work done on a sheaf not decided is discarded, to be done again at its turn (R121). -/
def Dev.undo (d : Dev) (m : MastId) (x : Sheaf) : Dev :=
  let d := d.disarm m x.work
  let d := if x.work.migrate && x.key.isSheaf then d.onFab m (fun f => { f with shadowBusy := true }) else d
  d.onSheaf m x.key (fun y => { y with phase := .bound, work := noWork })

/-- Put the heal strike at the front of strike order, behind a sheaf past its decision (R172). -/
def Dev.placeHeal (d : Dev) (m : MastId) (source : Nat) (unit : FUnit) : Dev :=
  let d := d.each ((d.fab m).sheafs.filter (fun x => x.key != .heal && (x.phase == .solving || x.phase == .staged)))
    (fun x d => d.undo m x)
  d.onFab m (fun f =>
    let f := { f with healCause := f.healCause ++ [(source, unit)] }
    if f.order.contains .heal then f
    else
      let dec := f.order.filter (fun k => f.sheafs.any (fun x => x.key == k && x.decided))
      { f with order := dec ++ [.heal] ++ f.order.filter (fun k => !dec.contains k) })

/-- Does a fence of the unit hit the cell (R171)? DEDUCED (assumption 107): a core's or cluster's fence hits the cells it
serves. -/
def healHits (u : FUnit) (c : Nat) : Bool :=
  UnitCovers u c || (u.kind == .core && coreOf c == u.idx) || (u.kind == .cluster && coreOf c / 16 == u.idx)

/-- A cell that no path of a heal may use (R158, R171). -/
def Dev.healBad (d : Dev) (m : MastId) (c : Nat) : Bool := d.cellFenced m c || d.coreFenced m (coreOf c)

/-- The shadow is to be refreshed (R174). DESIGN CHOICE (assumption 105): a migration not yet decided is done again, and one
decided strikes first, its own refresh following. -/
def Dev.staleShadow (d : Dev) (m : MastId) : Dev :=
  let moving := (d.fab m).sheafs.filter (fun y => y.work.migrate)
  if moving.any Sheaf.decided then d
  else (d.each moving (fun y d => d.undo m y)).onFab m (fun f => { f with shadowBusy := true })

/-- What follows a fence for the circuits it hits (R171 to R174): a heal strike where it is on a live circuit's path, a refresh
where it is in the shadow. -/
def Dev.healFor (d : Dev) (m : MastId) (u : FUnit) (source : Nat) : Dev :=
  let f := d.fab m
  let hit : List TopoEntry := match f.topo with
    | some t => t.table.entries.filter (fun e : TopoEntry => e.role == 0 && healHits u e.cell)
    | none => []
  let on := f.cellsOf (f.choices []) f.map
  let live := hit.filter (fun e => on.contains e.cell)
  let d := d.when (hit.any (fun e => f.kind == 2 && !isEdge e && e.plane != f.active)) (fun d => d.staleShadow m)
  if live.isEmpty then d
  else if d.effF m 0x4060 0 1 == 0 || (f.kind == 2 && live.all isEdge) then
    (d.count m 0x4068 48 16 1).logFault m 209 2 u.idx (BitVec.ofNat 32 ((live.map TopoEntry.cell).headD 0))
  else d.placeHeal m source u

/-! ## Rounds of a Thresh pass that an event reaches (R290, R292) -/

def Dev.onCal (d : Dev) (m : MastId) (f : CalSt → CalSt) : Dev := d.onMast m (fun x => { x with cal := f x.cal })

def Dev.onPass (d : Dev) (m : MastId) (f : Pass → Pass) : Dev := d.onCal m (fun c => { c with pass := c.pass.map f })

/-- Is the cell one of the round of its tile in progress, also where its own part has ended early? -/
def Pass.member (p : Pass) (c : PassCell) : Bool :=
  c.method == .sweep && c.round != 0 && tget 0 p.round (c.cell / laneCount) == c.round && tget 0 p.phase (c.cell / laneCount) != 0

/-- Is the cell being swept in the round of its tile in progress? -/
def Pass.active (p : Pass) (c : PassCell) : Bool := p.member c && c.outcome.isNone

/-- A cell of a pass and the cells that lend light to it. -/
def PassCell.all (c : PassCell) : List Nat := c.cell :: c.lend.map CellSet.cell

/-- Every cell that a round in progress has taken: the route solver treats each as differing from every state until it is written
back (R288; of the lenders, assumption 109). -/
def Dev.swept (d : Dev) (m : MastId) : List Nat :=
  match (d.mast m).cal.pass with
  | none => []
  | some p => (p.cells.filter p.member).flatMap PassCell.all

/-- The fast drives of cells that a pass took go back to the state the route solver holds, or to the park code where it holds
none (R288, R292; assumption 54). A tile fenced as TILE gets no immediate write (R130). -/
def Dev.writeBack (d : Dev) (m : MastId) (cells : List Nat) : Dev :=
  let ts := d.stagedTiles m
  d.writes m ((cells.filter (fun c => ts.contains (c / laneCount))).map (fun c =>
    (c, (tget none (d.fab m).settings c).getD (.code (d.cell c).drv.P), true)))

/-- The end of a round: each of its cells takes a bumpless load to its provisional bias, and what it took is written back. -/
def Dev.roundEnd (d : Dev) (m : MastId) (cells : List PassCell) : Dev :=
  let d := d.each cells (fun c d => match c.bias with
    | some b => d.onTile (c.cell / laneCount) (fun x => x.onCell (c.cell % laneCount) (fun z =>
        { z with lp := { z.lp with I := bumpless x.par x.railMv b z.lp.F } }))
    | none => d)
  d.writeBack m (cells.flatMap PassCell.all)

/-- Rounds with no cell left to measure end at once. -/
def Dev.shutRounds (d : Dev) (m : MastId) : Dev :=
  match (d.mast m).cal.pass with
  | none => d
  | some p =>
    let idle := (List.range 16).filter (fun t => tget 0 p.phase t != 0 && !p.cells.any (fun c => c.cell / laneCount == t && p.active c))
    let now := d.beat
    (d.roundEnd m (p.cells.filter (fun c => idle.contains (c.cell / laneCount) && p.member c))).onPass m (fun p =>
      idle.foldl (fun p t => { p with phase := tset 0 p.phase t 0, lastEnd := now }) p)

/-- Cells that leave their rounds early: their drives are written back, and what lent light to them, unless it lends to a cell
that stays. -/
def Dev.leaveRound (d : Dev) (m : MastId) (p : Pass) (gone : PassCell → Bool) : Dev :=
  let kept := (p.cells.filter (fun c => p.active c && !gone c)).flatMap PassCell.all
  d.writeBack m (((p.cells.filter (fun c => p.active c && gone c)).flatMap PassCell.all).filter (fun c => !kept.contains c))

/-- Interrupt the cells in a round that meet a condition, and those still waiting for their round that meet another: planned again
into a later round of its own once, final the second time (R292). -/
def Dev.interrupt (d : Dev) (m : MastId) (hit waiting : PassCell → Bool) : Dev :=
  match (d.mast m).cal.pass with
  | none => d
  | some p =>
    let struck := fun (c : PassCell) => if p.active c then hit c
      else c.method == .sweep && c.outcome.isNone && c.round != 0 && !p.member c && waiting c
    if !p.cells.any struck then d
    else
      let last := p.cells.foldl (fun n c => Nat.max n c.round) 0
      let again := p.cells.any (fun c => struck c && c.interrupted == 0)
      let d := (d.leaveRound m p hit).onPass m (fun p => { p with cells := p.cells.map (fun c =>
        if struck c then
          if 1 ≤ c.interrupted then { c with interrupted := 2, outcome := some 4 }
          else { c with interrupted := 1, round := last + 1 }
        else c) })
      (d.shutRounds m).onCal m (fun c => if again then { c with rounds := last + 1 } else c)

/-- A tile's offsets and trims are to be measured again, and its rounds in progress are interrupted (R292). -/
def Dev.remeasure (d : Dev) (m : MastId) (t : Nat) : Dev :=
  (d.interrupt m (fun c => c.cell / laneCount == t) (fun _ => false)).onPass m (fun p => { p with
    trims := p.trims.filter (fun u => u / 48 != t), begun := tset 0 p.begun t 0
    cells := p.cells.map (fun c => if c.cell / laneCount == t then { c with mofs := (none, none) } else c) })

/-- A covered cell that a fence reaches ends SKIPPED (R292). -/
def Dev.skipFenced (d : Dev) (m : MastId) (u : FUnit) : Dev :=
  match (d.mast m).cal.pass with
  | none => d
  | some p =>
    let hit := fun (c : PassCell) => c.outcome.isNone && UnitCovers u c.cell
    if !p.cells.any hit then d
    else
      let now := d.beat
      let d := (d.leaveRound m p hit).onPass m (fun p => { p with
        cells := p.cells.map (fun c => if hit c then { c with outcome := some 5 } else c), lastEnd := now })
      d.shutRounds m

/-- A slot that a host loss finds held: the geometry its window had at the loss goes on the held list (R98, R100). -/
def Dev.heldSlot (d : Dev) (m : MastId) (r : Nat) : HeldSlot :=
  match (d.hif m).winGeo.find? (fun g => g.1 == refWin r) with
  | some g => ⟨refWin r, refSlot r, g.2.1, g.2.2⟩
  | none => ⟨refWin r, refSlot r, d.reg m (winBase (refWin r)), d.reg m (winCfg (refWin r))⟩

def Dev.keepHeld (d : Dev) (m : MastId) (r : Nat) : Dev :=
  let h := d.heldSlot m r
  (d.onHif m (fun x => { x with held := x.held ++ [h] })).pushJournal m (.held h)

/-! ## Fences (R384) and reports (R378, R379, R388) -/

/-- A stack's copy becomes invalid; the flight record is to start empty (R384, R453). -/
def Dev.dropCopy (d : Dev) (m : MastId) (channel : Nat) : Dev :=
  (d.onMast m (fun x => { x with mem := { x.mem with
    nearOk := x.mem.nearOk && 16 ≤ channel, farOk := x.mem.farOk && channel < 16, rebuild := true } })).onGln m
      (fun g => { g with recording := false, frames := [], startAt := none, build := none })

/-- The channels that a TRANSIENT outcome gave back return to their placements, at a watch boundary (R453). -/
def Dev.channelsBack (d : Dev) (m : MastId) : Dev :=
  (d.each (d.mast m).mem.returning (fun c d => d.dropCopy m c)).onMast m (fun x => { x with mem := { x.mem with returning := [] } })

/-- An HBM channel is fenced: what both copies held is lost for good (R454). -/
def Dev.fenceHbm (d : Dev) (m : MastId) (channel : Nat) : Dev :=
  let d := d.dropCopy m channel
  let d := d.onMast m (fun x => { x with mem := { x.mem with returning := x.mem.returning.filter (· != channel) } })
  if (d.mast m).mem.nearOk || (d.mast m).mem.farOk then d
  else (d.onMast m (fun x => { x with mem := { x.mem with
    lostTo := some x.fab.epoch, lostKern := x.kern.handles.map Prod.fst, calKept := some [] } })).onFab m (fun f => { f with
      sheafs := f.sheafs.map (fun y => { y with spillLost := y.spillLost || y.spill != 0 }) })

/-- What a fence of each kind does at once (R384). -/
def Dev.fenceEffect (d : Dev) (m : MastId) (u : FUnit) (source : Nat) : Dev :=
  match u.kind with
  | .ctx =>
    let d := d.abortWhere m (fun x => x.key.isSheaf && x.ctx == u.idx && !x.decided) .ctxFenced
    let slots := ((d.hif m).inflight.filter (fun y => y.ctx == u.idx)).flatMap Desc.slots
    (d.each slots (fun r d => d.keepHeld m r)).onHif m (fun h => { h with
      inflight := h.inflight.map (fun y => if y.ctx == u.idx then { y with slots := [] } else y) })
  | .sram => d.onMast m (fun x => { x with mem := if x.mem.spareFor.isNone then { x.mem with spareFor := some u.idx, copying := some u.idx } else x.mem })
  | .hbm => d.fenceHbm m u.idx
  | .lane => (d.onCell u.idx (fun c => { c with htr := { c.htr with next := some (3, 0) } })).healFor m u source
  | .tile =>
    let yield_ := d.regF m 0xA000 0 1 == 1 && (d.mast m).pen.protect && d.holder == some m &&
      (d.mast (peerOf m)).pen.seen.contains u.idx && (d.mast m).pen.busy.isNone
    let d := if yield_ then d.onPen m (fun p => { p with busy := some 2, busyAt := d.beat }) else d
    ((d.unlane m u.idx (fun _ => true)).healFor m u source).restage m
  | .cell | .converter | .core | .cluster => d.healFor m u source
  | _ => d

/-- Fence a unit: FENCE entry and effects, unless it is fenced already. -/
def Dev.fence (d : Dev) (m : MastId) (u : FUnit) (source : Nat) : Dev :=
  if d.isFenced m u then d
  else
    let d := d.onFlt m (fun f => { f with fences := f.fences ++ [⟨u, false, source⟩] })
    ((d.logUnit m source 1 u 0).skipFenced m u).fenceEffect m u source

/-- Make a unit LASTING, with the flags of its entry (R387, R388). -/
def Dev.lasting (d : Dev) (m : MastId) (u : FUnit) (flags : Nat) : Dev :=
  let src := (((d.flt m).fences.find? (fun f => f.unit == u)).map Fence.source).getD 0
  let d := d.onFlt m (fun f => { f with fences := f.fences.map (fun x => if x.unit == u || contains u x.unit then { x with lasting := true } else x) })
  d.logUnit m src 4 u flags

/-- Is a unit LASTING, or contained in one that is (R388)? -/
def Dev.isLasting (d : Dev) (m : MastId) (u : FUnit) : Bool :=
  (d.flt m).fences.any (fun f => f.lasting && (f.unit == u || contains f.unit u))

/-- Errors on a unit within the last second that ended TRANSIENT (R388). -/
def Dev.recentErrors (d : Dev) (m : MastId) (u : FUnit) : Nat :=
  ((d.flt m).hist.filter (fun h => h.1 == u && h.2.2 && d.beat < h.2.1 + 10000000)).length

/-- Queue the Winnow test of a unit just reported, or classify it at once; the tests of what it contains are withdrawn (R386,
R388). -/
def Dev.classify (d : Dev) (m : MastId) (u : FUnit) : Dev :=
  let second := d.underTest m u
  let inner := (d.flt m).queue.any (fun v => contains v u) || (d.flt m).running.any (fun t => contains t.unit u)
  let sram2 := u.kind == .sram && (d.mast m).mem.spareFor != some u.idx
  let full := 64 ≤ (d.flt m).queue.length
  let third := 2 ≤ d.recentErrors m u
  let d := d.onFlt m (fun f => { f with
    hist := f.hist ++ [(u, d.beat, false)]
    queue := f.queue.filter (fun v => !contains u v)
    running := f.running.filter (fun t => !contains u t.unit) })
  if second then (d.withdraw m u).lasting m u 16
  else if u.kind == .ctx || sram2 then d.lasting m u 16
  else if inner then d
  else if third then d.lasting m u (16 + 128)
  else if full then d.lasting m u (16 + 64)
  else d.onFlt m (fun f => { f with queue := f.queue ++ [u] })

/-- A fault report reaching a mast's collector (R379, R388): suppressed, or recorded, its unit fenced and classified. -/
def Dev.report (d : Dev) (m : MastId) (source sev unit : Nat) (detail : BitVec 32) (fence : Option FUnit) : Dev :=
  match fence with
  | none => d.logFault m source sev unit detail
  | some u =>
    if d.isLasting m u then d.count m 0x7008 48 16 1
    else ((d.logFault m source sev unit detail).fence m u source).classify m u

/-- A host-memory read met a PCIe error completion (R498). -/
def Dev.pcieErr (d : Dev) (m : MastId) (kind index : Nat) : Dev :=
  d.report m 201 2 index (BitVec.ofNat 32 (index % 65536 + 65536 * kind)) (if kind == 0 then some ⟨.ctx, index⟩ else none)

/-! ## Slots named by descriptors (R96, R97, R498) -/

/-- Check the reference and owner of a slot and hold it (R96, R97). A descriptor that outlived a host loss holds none (R98). -/
def Dev.slotOut (d : Dev) (m : MastId) (x : Desc) (s : SlotOut) (fail : Status → Dev → Dev) (k : Dev → Dev) : Dev :=
  if x.lost then fail .hostLost d
  else if s.err then fail .memLost ((d.unhold m x s.ref).pcieErr m 0 x.ctx)
  else match d.slotBad m x s.ref s.owner with
    | some st => fail st ((d.unhold m x s.ref).hostIn m 64)
    | none => k ((d.holdSlot m x s.ref).hostIn m 64)

/-- The same for a host-written slot. -/
def Dev.slotHold (d : Dev) (m : MastId) (x : Desc) (s : SlotIn) (fail : Status → Dev → Dev) (k : Dev → Dev) : Dev :=
  d.slotOut m x ⟨s.ref, s.owner, s.err⟩ fail k

/-- Check a held slot's LEN and CRC before its payload is used (R97); a failure returns the slot. -/
def Dev.slotCheck (d : Dev) (m : MastId) (x : Desc) (s : SlotIn) (fail : Status → Dev → Dev) (k : Dev → Dev) : Dev :=
  if d.slotSize m (refWin s.ref) - 64 < s.len then fail .slotRange (d.returnIn m x s false)
  else
    let d := (d.hostIn m s.len).queueScan m 7 12 s.len
    if !crcOk s then fail .payloadCrc (d.returnIn m x s true) else k d

/-- Both: `k` runs with the slot held and its payload sound; each failure goes to `fail`. -/
def Dev.slotIn (d : Dev) (m : MastId) (x : Desc) (s : SlotIn) (fail : Status → Dev → Dev) (k : Dev → Dev) : Dev :=
  d.slotHold m x s fail (fun d => d.slotCheck m x s fail k)

end Sys2Proof.Machine
end

