-- ==== Sys2Proof/Machine/Flags.lean ====
section
/-! DEFINITION. Tiller arithmetic (R216, R217, R220): rounding, saturation, and the STAT flags each result raises. -/

namespace Sys2Proof.Machine

/-- A 32-bit result with the flags it sets: SAT and DIV0. -/
structure AluRes where
  val : Word
  sat : Bool
  div0 : Bool
deriving DecidableEq, Repr

/-- A result with no flag. -/
def pureRes (v : Word) : AluRes := ⟨v, false, false⟩

/-- A signed exact result narrowed to 32 bits: clamped with SAT where S is set and it is out of range, else wrapped
(R216). -/
def narrowTo (s : Bool) (x : Int) : AluRes :=
  if s && decide (x < -(2 ^ 31) ∨ 2 ^ 31 ≤ x) then
    ⟨if x < 0 then 0x80000000 else 0x7FFFFFFF, true, false⟩
  else pureRes (BitVec.ofInt 32 x)

/-- x ÷ 2^n rounded half up (R216). -/
def roundShift (x : Int) (n : Nat) : Int := rhuDiv x (2 ^ n)

/-- The low 5 bits of a shift amount (R220). -/
def shAmt (b : Word) : Nat := b.toNat % 32

def aluAdd (s : Bool) (a b : Word) : AluRes := narrowTo s (a.toInt + b.toInt)
def aluSub (s : Bool) (a b : Word) : AluRes := narrowTo s (a.toInt - b.toInt)
def aluShl (s : Bool) (a : Word) (n : Nat) : AluRes := narrowTo s (a.toInt * 2 ^ n)
def aluShr (a : Word) (n : Nat) : AluRes := pureRes (a >>> n)
def aluShra (a : Word) (n : Nat) : AluRes := pureRes (BitVec.ofInt 32 (roundShift a.toInt n))
def aluMin (a b : Word) : AluRes := pureRes (if a.toInt ≤ b.toInt then a else b)
def aluMax (a b : Word) : AluRes := pureRes (if a.toInt ≤ b.toInt then b else a)
def aluZsel (a b : Word) : AluRes := pureRes (if b = 0 then a else 0)

/-- MULH: round_half_up(dA × dB ÷ 2^31). -/
def aluMulh (s : Bool) (a b : Word) : AluRes := narrowTo s (roundShift (a.toInt * b.toInt) 31)

/-- DIVQ: round_half_up(2^31 × dA ÷ dB), saturating; a zero divisor sets DIV0. -/
def aluDivq (a b : Word) : AluRes :=
  if b = 0 then ⟨if 0 ≤ a.toInt then 0x7FFFFFFF else 0x80000000, false, true⟩
  else
    let q := if 0 < b.toInt then rhuDiv (2 ^ 31 * a.toInt) b.toNat else rhuDiv (-(2 ^ 31) * a.toInt) b.toInt.natAbs
    narrowTo true q

/-- A 16-bit operand of a multiply: the half of dC that H names (R220). -/
def halfOf (h : Bool) (c : Word) : BitVec 16 := if h then c.extractLsb' 16 16 else c.extractLsb' 0 16

/-- A product aligned to the accumulator's 62 fraction bits (R217): 46 fraction bits shifted up by 16. -/
def product (x : Word) (c : BitVec 16) : Acc := BitVec.ofInt 72 (x.toInt * c.toInt * 65536)

/-- One multiply-accumulate, wrapping modulo 2^72 (R217). -/
def macStep (clr neg : Bool) (a p : Acc) : Acc :=
  let base := if clr then 0 else a
  if neg then base - p else base + p

/-- NARROW: round_half_up(ak × 2^(31 + sh)) (R217); the accumulator's unit is 2^-62, so the shift is 31 - sh. -/
def narrowAcc (s : Bool) (a : Acc) (sh : BitVec 5) : AluRes :=
  narrowTo s (roundShift a.toInt (31 - sh.toInt).toNat)

/-- The part of an accumulator that MVA reads (R220). -/
def accPart (a : Acc) (part : Nat) : Word :=
  match part with
  | 0 => a.extractLsb' 0 32
  | 1 => a.extractLsb' 32 32
  | _ => (a.extractLsb' 64 8).signExtend 32

/-- An accumulator with one part written (MTA, R220); PART 2 takes the low 8 bits. -/
def setAccPart (a : Acc) (part : Nat) (v : Word) : Acc :=
  match part with
  | 0 => a.extractLsb' 32 40 ++ v
  | 1 => a.extractLsb' 64 8 ++ v ++ a.extractLsb' 0 32
  | _ => v.extractLsb' 0 8 ++ a.extractLsb' 0 64

end Sys2Proof.Machine
end

