-- ==== Sys2Proof/Machine/Operands.lean ====
section
/-! DEFINITION. A Tiller core's operands (R202 to R221): registers through the rotating window, data memory with the
CONST and IO pages, the addressing modes, results that land later, and the issue of one slot operation. -/

namespace Sys2Proof.Machine

/-- The registers as a bind leaves them (R232), and at PORESET_N (assumption 7). -/
def coreRegsReset : CoreRegs := ⟨[], [], [], [], 0, 0, 0, 0, 0, false⟩

/-- A core running the shipped law, with the IO page at its reset values (R211). -/
def coreReset : Core :=
  { r := coreRegsReset, pc := 0, target := none, delay := false, br := false, tap := none, slotA := false, cycle := 0,
    land := [], run := .shipped, codeLen := 0, entry := 0, handler := none, stateBytes := 0, imem := [],
    mem := [], sqProd := 0, sqCons := 0, cls := false, periodCnt := 0, imask := 0, ipend := 0, paramSeq := 0, late := 0,
    posts := [], spentLoop := 0, spentDither := 0, lateLogged := false, tainted := false, svc := 0, spentSvc := [] }

def Dev.core (d : Dev) (m : MastId) (k : Nat) : Core := tget coreReset (d.mast m).cores k

def Dev.setCore (d : Dev) (m : MastId) (k : Nat) (c : Core) : Dev :=
  d.onMast m (fun x => { x with cores := tset coreReset x.cores k c })

def Dev.onCore (d : Dev) (m : MastId) (k : Nat) (f : Core → Core) : Dev := d.setCore m k (f (d.core m k))

/-- The cell of a core's slot (R23). -/
def cellOf (k s : Nat) : Nat := k / 4 * laneCount + k % 4 * 384 + s

/-- Does the beat in progress begin a watch, or a loop period of a tile (R24, R309)? -/
def Dev.watchEdge (d : Dev) : Bool := d.now.ns % 20000 == 0
def Dev.loopEdge (d : Dev) (t : Nat) : Bool := d.now.ns % (20000 * (d.tile t).par.period) == 0

/-- The heater code in force becomes the output with ε = 0, and the window starts anew (R189, R190). -/
def Cell.bumpless (c : Cell) (p : Par) (mv code : Nat) (F : Int) : Cell :=
  { c with lp := { c.lp with I := Sys2Proof.Machine.bumpless p mv code F, F := F, win := [], restart := true } }

/-- A lane's comparators back in IN with no run (R270). -/
def Mon.fromIn (x : Mon) : Mon := { x with out0 := false, out1 := false, run0 := 0, run1 := 0 }

/-- A window restarted (R189). -/
def Cell.restart (c : Cell) : Cell := { c with lp := { c.lp with win := [], restart := true } }

/-- A report for the tile's next command-lane frame. -/
def Tile.say (x : Tile) (r : Rep) : Tile := { x with link := { x.link with reports := x.link.reports ++ [r] } }

/-- A heater's output in units of 1 mV ÷ 65,536, VHTR × code ÷ 65,536 (R236). -/
def heaterVolts (mv code : Nat) : Nat := mv * code

/-- Change each of a core's 384 cells (R23). -/
def Dev.onCoreCells (d : Dev) (k : Nat) (f : Tile → Cell → Cell) : Dev :=
  d.onTile (k / 4) (fun x => (List.range 384).foldl (fun y s => y.onCell (k % 4 * 384 + s) (f x)) x)

/-- Firmware rewrites a core's records or parameter block (R210, R211). -/
def Dev.rewrote (d : Dev) (m : MastId) (k : Nat) : Dev :=
  d.onCore m k (fun c => { c with paramSeq := c.paramSeq + 1, ipend := c.ipend ||| 2 })

/-! ## Registers -/

/-- The physical register that a name denotes (R215). -/
def physD (rb : BitVec 5) (n : BitVec 6) : Nat :=
  if n.toNat < 32 then n.toNat else 32 + (n.toNat - 32 + rb.toNat) % 32

def Core.dr (c : Core) (n : BitVec 6) : Word := tget 0 c.r.d (physD c.r.rb n)
def Core.pr (c : Core) (n : BitVec 3) : Ptr := tget 0 c.r.p n.toNat
def Core.mr (c : Core) (n : BitVec 3) : Ptr := tget 0 c.r.m n.toNat
/-- An accumulator as a view holds it. -/
def Core.ar (c : Core) (view : Nat) (n : BitVec 2) : Acc := tget 0 c.r.a (4 * view + n.toNat)

/-- The other register of an even-odd pair (R219). -/
def pairOf (n : BitVec 6) : BitVec 6 := n ||| 1

/-- A special register's value as 32 bits (R219): offset registers are signed. -/
def Core.sr (c : Core) (i : Nat) : Word :=
  if i < 8 then (c.pr (BitVec.ofNat 3 i)).setWidth 32
  else if i < 16 then (c.mr (BitVec.ofNat 3 (i - 8))).signExtend 32
  else match i with
    | 16 => c.r.rb.setWidth 32
    | 17 => c.r.lc.setWidth 32
    | 18 => c.r.ipc.setWidth 32
    | 19 => c.r.ist.setWidth 32
    | 20 => c.r.stat.setWidth 32
    | _ => BitVec.ofNat 32 (b2n c.r.ie)

/-- Where a write to a special register lands. -/
def srDest (i : Nat) : Dest :=
  if i < 8 then .p i
  else if i < 16 then .m (i - 8)
  else match i with
    | 16 => .rb
    | 17 => .lc
    | 18 => .ipc
    | 19 => .ist
    | 20 => .stat
    | _ => .ie

/-! ## Results that land later (R219 to R221) -/

/-- One result put into its register. -/
def CoreRegs.put (r : CoreRegs) (x : Dest) (v : BitVec 72) : CoreRegs :=
  match x with
  | .d n => { r with d := tset 0 r.d n (v.setWidth 32) }
  | .acc view k => { r with a := tset 0 r.a (4 * view + k) v }
  | .accPart view k part => { r with a := tset 0 r.a (4 * view + k) (setAccPart (tget 0 r.a (4 * view + k)) part (v.setWidth 32)) }
  | .p n => { r with p := tset 0 r.p n (v.setWidth 18) }
  | .m n => { r with m := tset 0 r.m n (v.setWidth 18) }
  | .rb => { r with rb := v.setWidth 5 }
  | .lc => { r with lc := v.setWidth 16 }
  | .ipc => { r with ipc := v.setWidth 13 }
  | .ist => { r with ist := v.setWidth 3 }
  | .stat => { r with stat := v.setWidth 2 }
  | .ie => { r with ie := v.getLsbD 0 }
  | .sat => { r with stat := r.stat ||| 1 }
  | .div0 => { r with stat := r.stat ||| 2 }

/-- A result due `n` bundles after the one being issued. -/
def Core.due (c : Core) (s : Slot) (n : Nat) (x : Dest) (v : BitVec 72) : Core :=
  { c with land := c.land ++ [⟨c.cycle + n, s, x, v⟩] }

/-- A data-register result: its name is resolved now (R215). -/
def Core.dueD (c : Core) (s : Slot) (n : Nat) (dn : BitVec 6) (v : Word) : Core :=
  c.due s n (.d (physD c.r.rb dn)) (v.setWidth 72)

/-- An ALU result with its flags (R216). -/
def Core.dueAlu (c : Core) (n : Nat) (dn : BitVec 6) (x : AluRes) : Core :=
  let c := c.dueD .b n dn x.val
  let c := if x.sat then c.due .b n .sat 0 else c
  if x.div0 then c.due .b n .div0 0 else c

/-- A multiply-accumulate's result: chained from i + 1, read by NARROW, MVA and ST.A from i + 3 (R221). -/
def Core.dueMac (c : Core) (s : Slot) (k : BitVec 2) (v : Acc) : Core :=
  ((c.due s 1 (.acc 0 k.toNat) v).due s 3 (.acc 1 k.toNat) v).due s 3 (.acc 2 k.toNat) v

/-- The results due in one cycle: slot A's before slot B's, so that slot B's is kept (R221). -/
def landOne (r : CoreRegs) (l : List Landing) (t : Nat) : CoreRegs :=
  let now := l.filter (fun x => x.ready == t)
  let f := fun (r : CoreRegs) (x : Landing) => r.put x.dest x.val
  (now.filter (fun x => x.slot == .b)).foldl f ((now.filter (fun x => x.slot == .a)).foldl f r)

/-- Everything due within the next `n` cycles after `t`, in the order it lands. -/
def landRange (r : CoreRegs) (l : List Landing) (t : Nat) : Nat → CoreRegs
  | 0 => r
  | n + 1 => landRange (landOne r l (t + 1)) l (t + 1) n

/-- No result is due later than this many cycles after issue (DIVQ, R220). -/
def maxLatency : Nat := 10

/-- `n` cycles pass: the results due in them land. -/
def Core.pass (c : Core) (n : Nat) : Core :=
  { c with
    r := landRange c.r c.land c.cycle (Nat.min n maxLatency)
    land := c.land.filter (fun x => c.cycle + n < x.ready)
    cycle := c.cycle + n }

/-! ## Data memory (R204, R210, R211) -/

/-- A little-endian byte of a number (R9). -/
def byteOf (v i : Nat) : Byte := BitVec.ofNat 8 (v / 256 ^ i)

/-- The tile parameters that the IO page and SET_LOOP name (R193, R211). -/
def Par.get (p : Par) (k : Nat) : Nat :=
  match k with
  | 0x01 => p.period
  | 0x08 => p.ditherAmp
  | 0x09 => p.htrTau
  | 0x0A => p.kappa
  | 0x0B => p.lightFloor
  | 0x0C => p.railFf
  | 0x0D => p.railRef
  | 0x0E => p.stepGain
  | 0x0F => p.stepTau
  | _ => 0

/-- Cycles of a core's allowance in a class (R228): one sixteenth of its cluster's. -/
def Dev.allowance (d : Dev) (m : MastId) (dither : Bool) : Nat := d.budget m 0 (b2n dither) / 16

/-- A word of the IO page (R211); `none` at an address the page does not list. -/
def Dev.ioWord (d : Dev) (m : MastId) (k off : Nat) : Option Word :=
  let c := d.core m k
  let x := d.tile (k / 4)
  let n := fun v : Nat => some (BitVec.ofNat 32 v)
  match off with
  | 0x000 => some c.sqProd
  | 0x004 => some c.sqCons
  | 0x008 => n 0
  | 0x00C => n (b2n c.cls)
  | 0x010 => some c.periodCnt
  | 0x014 => n (if c.cls then d.allowance m true - c.spentDither else d.allowance m false - c.spentLoop)
  | 0x018 => n c.imask.toNat
  | 0x01C => n c.ipend.toNat
  | 0x020 => some c.paramSeq
  | 0x024 => n (k / 4 + 16 * (k % 4))
  | 0x028 => n x.railMv
  | 0x02C => some c.late
  | 0x140 => n x.par.decay.toNat
  | _ =>
    let j := (off - 0x100) / 4
    if 0x100 ≤ off && off < 0x140 && (j == 1 || (8 ≤ j && j ≤ 15)) then n (x.par.get j) else none

/-- A cell's neighbours in table order (R146). -/
def Dev.nbs (d : Dev) (m : MastId) (cell : Nat) : List Nat :=
  match (d.fab m).entry? cell with
  | some e => e.nbs.take e.ncount
  | none => []

/-- A byte of a CONST record as firmware keeps it (R210); `none` where the rule states no value. -/
def Dev.constByte (d : Dev) (m : MastId) (k off : Nat) : Option Byte :=
  let s := off / 96
  let cell := cellOf k s
  let c := d.cell cell
  let x := d.tile (cell / laneCount)
  let l := cell % laneCount
  let h := fun (v : Nat) (i : Nat) => some (byteOf v i)
  let o := off % 96
  if 384 ≤ s then some 0
  else if o < 34 then h (toField 16 (x.par.ref (c.lp.tone + 1) (l / 24) (o / 2))) (o % 2)
  else if o == 34 then h c.lp.tone 0
  else if o == 35 then h (c.lp.mode + 4 * b2n (c.drv.logical == some .cross) + 8 * b2n c.drv.logical.isNone) 0
  else if o < 40 then (x.par.norm (c.lp.tone + 1) (l / 24)).bind (fun v => h v (o - 36))
  else if o < 42 then h c.lp.kp (o - 40)
  else if o < 44 then h c.lp.ki (o - 42)
  else if o < 46 then h c.lp.lo (o - 44)
  else if o < 48 then h c.lp.hi (o - 46)
  else if o < 50 then h c.lp.openCode (o - 48)
  else if o < 52 then h (d.nbs m cell).length (o - 50)
  else if o < 54 then h (toField 16 c.cal.cSelf) (o - 52)
  else if o < 70 then h (toField 16 (c.cal.cNb.getD ((o - 54) / 2) 0)) (o % 2)
  else some 0

/-- A byte of data memory; a byte that no rule states is free. -/
def Dev.memByte (d : Dev) (m : MastId) (k a : Nat) : Byte :=
  let free := BitVec.ofNat 8 (Config.freeNat d.free)
  if 0x3F000 ≤ a then
    match d.ioWord m k (a / 4 * 4 - 0x3F000) with
    | some w => w.extractLsb' (a % 4 * 8) 8
    | none => free
  else if 0x36000 ≤ a then (d.constByte m k (a - 0x36000)).getD free
  else tget 0 (d.core m k).mem a

/-- `n` bytes, little-endian, as a number (R9). -/
def Dev.memNat (d : Dev) (m : MastId) (k a : Nat) : Nat → Nat
  | 0 => 0
  | n + 1 => (d.memByte m k a).toNat + 256 * d.memNat m k (a + 1) n

/-- The access's natural alignment (R218). -/
def alignTo (n : Nat) (a : Ptr) : Nat := a.toNat / n * n

/-- A load of `n` bytes at an aligned address: the value, and the block after it. A read of the whole of LATE clears it
(R11, R211; assumption 14); a read of CONST or IO moves to the next free value. -/
def Dev.load (d : Dev) (m : MastId) (k n a : Nat) : Nat × Dev :=
  let v := d.memNat m k a n
  let d := if a ≤ 0x3F02C && 0x3F030 ≤ a + n then d.onCore m k (fun c => { c with late := 0 }) else d
  (v, if 0x36000 ≤ a + n then { d with free := d.free + 1 } else d)

/-- The IO locations whose type allows a write (R205, R211): SQ_CONS, CODE_OUT, CLASS, IMASK, IPEND. -/
def ioWritable : List Nat := [0x004, 0x008, 0x00C, 0x018, 0x01C]

/-- Is a store at this address within the kernel's state window (R205)? -/
def Core.inWindow (c : Core) (a n : Nat) : Bool :=
  (0x8000 ≤ a && a + n ≤ 0x10000) || (0x10000 ≤ a && a + n ≤ 0x10000 + 384 * c.stateBytes) ||
    (0x2E000 ≤ a && a + n ≤ 0x36000) ||
    (0x3F000 ≤ a && (List.range ((n + 3) / 4)).all (fun i => ioWritable.contains (a / 4 * 4 + 4 * i - 0x3F000)))

/-- Bytes put into the plain regions of memory. -/
def putBytes (mem : List Host.Cell) (a v : Nat) : Nat → List Host.Cell
  | 0 => mem
  | n + 1 => putBytes (tset 0 mem a (byteOf v 0)) (a + 1) (v / 256) n

/-- A post queued (R209): the 65th waits in the store that stalls. -/
def Core.post (c : Core) (w : Nat) : Core :=
  { c with
    posts := c.posts ++ [⟨w % 2 ^ 16, w / 2 ^ 16 % 2 ^ 9, w / 2 ^ 28⟩]
    run := if 64 ≤ c.posts.length then .stalled else c.run }

/-- SQ_CONS written: a value after SQ_PROD is ignored (R208). Counts run modulo 2^32, so a value is after SQ_PROD where it is
ahead of it by less than half the range (DEDUCED, assumption 108). -/
def Core.putCons (c : Core) (v : Word) : Core :=
  if serialAfter v.toNat c.sqProd.toNat then c else { c with sqCons := v }

/-- A word stored to the IO page (R211); `bytes` masks the bytes stored. Every other address ignores it. -/
def Core.ioStore (c : Core) (off : Nat) (w bytes : Word) : Core :=
  let mix := fun old : Word => (w &&& bytes) ||| (old &&& ~~~ bytes)
  match off with
  | 0x004 => c.putCons (mix c.sqCons)
  | 0x008 => c.post (w &&& bytes).toNat
  | 0x00C => let v := (mix (BitVec.ofNat 32 (b2n c.cls))).toNat % 4; if v < 2 then { c with cls := v == 1 } else c
  | 0x018 => { c with imask := (mix (c.imask.setWidth 32)).setWidth 2 }
  | 0x01C => { c with ipend := c.ipend &&& ~~~ ((w &&& bytes).setWidth 2) }
  | _ => c

/-- A store of `n` bytes at an aligned address, unchecked (R205): outside the state window it is the misuse of R395 that
taints the core's codes. -/
def Core.store (c : Core) (a n v : Nat) : Core :=
  let c := { c with tainted := c.tainted || !c.inWindow a n }
  if 0x3F000 ≤ a then
    let off := a / 4 * 4 - 0x3F000
    let bytes := BitVec.ofNat 32 ((2 ^ (8 * Nat.min n 4) - 1) * 2 ^ (8 * (a % 4)))
    let c := c.ioStore off (BitVec.ofNat 32 (v * 2 ^ (8 * (a % 4)))) bytes
    let c := if 8 ≤ n then c.ioStore (off + 4) (BitVec.ofNat 32 (v / 2 ^ 32)) (BitVec.allOnes 32) else c
    if 16 ≤ n then (c.ioStore (off + 8) (BitVec.ofNat 32 (v / 2 ^ 64)) (BitVec.allOnes 32)).ioStore (off + 12)
      (BitVec.ofNat 32 (v / 2 ^ 96)) (BitVec.allOnes 32) else c
  else { c with mem := putBytes c.mem a v n }

/-! ## Addressing (R218) -/

/-- The address of a memory operation and the address register after it. -/
def Core.addr (c : Core) (f : MemF) : Ptr × Ptr :=
  let p := c.pr f.p
  let imm : Ptr := f.imm.signExtend 18
  match f.mode with
  | .off => (p + imm, p)
  | .postImm => (p, p + imm)
  | .postM => (p, p + c.mr (f.imm.extractLsb' 12 3))
  | .ring => (p, (p &&& 0x38000) ||| ((p + imm) &&& 0x07FFF))

/-- The post-modification of an address register, from the next bundle. -/
def Core.postMod (c : Core) (f : MemF) : Core :=
  if f.mode == .off then c else c.due .a 1 (.p f.p.toNat) ((c.addr f).2.setWidth 72)

/-! ## Issue (R214, R221, R222, R228) -/

/-- The run state of a core whose kernel context issues. -/
def Dev.liveRun (d : Dev) (m : MastId) (k : Nat) : RunState :=
  if tget 0 (d.mast m).kern.bound (k / 4) == 0 then .shipped else .running

/-- May the kernel context issue a bundle now? Its class must have allowance left (R228), and after a change of mast its first watch
boundary must have come (R404). -/
def Dev.canIssue (d : Dev) (m : MastId) (k : Nat) : Bool :=
  let c := d.core m k
  (c.run == .shipped || c.run == .running) && k < 64 && !(d.mast m).pen.due &&
    (if c.cls then c.spentDither < d.allowance m true else c.spentLoop < d.allowance m false)

/-- The end of a bundle: one cycle is charged and passes, and the next bundle's index is fixed (R222). -/
def Core.close (c : Core) : Core :=
  let c := c.pass 1
  { c with
    pc := if c.delay then c.target.getD (c.pc + 1) else c.pc + 1
    target := if c.delay then none else c.target
    delay := c.br && !c.delay
    br := false
    tap := none
    slotA := false
    spentLoop := if c.cls then c.spentLoop else c.spentLoop + 1
    spentDither := if c.cls then c.spentDither + 1 else c.spentDither }

/-- R224: the kernel context stops, the fault is reported, and the core is fenced. -/
def Dev.illegal (d : Dev) (m : MastId) (k : Nat) : Dev :=
  let pc := (d.core m k).pc
  (d.onCore m k (fun c => { c with run := .stopped })).report m (96 + k) 2 k (BitVec.ofNat 32 pc) (some ⟨.core, k⟩)

/-- Is the next bundle beyond the kernel's code (R224)? -/
def Core.overrun (c : Core) : Bool := c.run == .running && c.codeLen ≤ 8 * c.pc

/-- A bundle whose slot B is missing is closed first: a missing slot is a no-operation (R220). -/
def Core.openA (c : Core) : Core := if c.slotA then c.close else c

/-- Issue a slot-A operation on the serving mast's core `k`. -/
def Dev.slotA (d : Dev) (k : Nat) (i : Instr) (f : MastId → Dev → Dev) : Dev :=
  d.act (fun m =>
    if !d.canIssue m k || !i.opWf then d
    else
      let d := d.onCore m k Core.openA
      if (d.core m k).overrun then d.illegal m k
      else f m (d.onCore m k (fun c => { c with slotA := true })))

/-- A slot-A operation that changes only its core. -/
def Dev.coreA (d : Dev) (k : Nat) (i : Instr) (f : Core → Core) : Dev := d.slotA k i (fun m d => d.onCore m k f)

/-- A slot-A branch: in a delay bundle it is illegal (R224); otherwise one delay bundle follows (R222). -/
def Dev.branchA (d : Dev) (k : Nat) (i : Instr) (tgt : Core → Option Nat) (f : Core → Core) : Dev :=
  d.slotA k i (fun m d =>
    if (d.core m k).delay then d.illegal m k
    else d.onCore m k (fun c => { f c with br := true, target := tgt c }))

/-- A special-register operation: a reserved index is illegal (R224). -/
def Dev.srA (d : Dev) (k : Nat) (sr : BitVec 6) (f : MastId → Dev → Dev) : Dev :=
  d.slotA k (.noOperation k .a) (fun m d => if srOk sr then f m d else d.illegal m k)

/-- A slot-B operation beside a TAPM: MAC2, or one naming TAPM's accumulator, is illegal (R224). -/
def Core.tapClash (c : Core) (i : Instr) : Bool :=
  match c.tap with
  | none => false
  | some a => (match i with
    | .mac2 _ _ _ _ _ _ _ => true
    | _ => false) || i.accs.any (fun b => b.toNat == a)

/-- Issue a slot-B operation, naming accumulators `accs` (MAC2 names any with TAPM illegal), and end the bundle. It
belongs to the bundle whose slot A was issued last, or to one whose slot A is a no-operation. -/
def Dev.slotB (d : Dev) (k : Nat) (i : Instr) (f : Core → Core) : Dev :=
  d.act (fun m =>
    let c := d.core m k
    if !(c.slotA && (c.run == .waiting || c.run == .stalled)) && !d.canIssue m k || !i.opWf then d
    else if !c.slotA && c.overrun then d.illegal m k
    else
      if c.tapClash i then d.illegal m k else d.onCore m k (fun c => (f c).close))

end Sys2Proof.Machine
end

