-- ==== Sys2Proof/Machine/Hif.lean ====
section
/-! DEFINITION. The host interface: enabling, polling, grants, acceptance, host loss, windows (chapter 03, R352 to R357). -/

namespace Sys2Proof.Machine

/-! ## Registration (R89, R99) -/

/-- Write what the backlog and the loss marks hold for a completion ring just registered, in R99's order. -/
def Dev.deliverHeld (d : Dev) (m : MastId) (j : Nat) : Dev :=
  let recs := (d.hif m).backlog.filter (fun b => b.cpl == j)
  let marks := (d.hif m).lossMarks.filter (fun b => b.cpl == j)
  let d := d.onHif m (fun h => { h with
    backlog := h.backlog.filter (fun b => b.cpl != j), lossMarks := h.lossMarks.filter (fun b => b.cpl != j) })
  d.each (recs ++ marks) (fun b d => match d.ring m j with
    | some g => d.putRecord m j g { b.r with backlog := true } b.irq
    | none => d)

/-- A bucket's depth (R356): 0 acts as 1, above 1,048,576 as 1,048,576. -/
def ringDepth (burst : Nat) : Nat := Nat.min (Nat.max 1 burst) 1048576

/-- A ring as registration leaves it. -/
def Ring.fresh (e : RingEntry) (beat : Nat) : Ring :=
  { ent := e, hasCmd := e.cmdBase != 0, hasCpl := e.cplBase != 0, next := 0, prod := 0, cons := 0, written := 0
    reserved := 0, granted := 0, miss := 0, again := false, stalled := false, serveTo := none, unsig := 0, firstUnsig := none
    weight := e.weight, F := 0, eligible := false, rate := e.shapeRate, burst := ringDepth e.shapeBurst, newShape := none
    tokens := ringDepth e.shapeBurst * 2 ^ 20, refillAt := beat, wheel := none }

/-- What is held for a completion ring is delivered where the index has one. -/
def Dev.deliverTo (d : Dev) (m : MastId) (i : Nat) (e : RingEntry) : Dev := d.when (e.cplBase != 0) (fun d => d.deliverHeld m i)

/-- Register the rings of an index: completion ring first, then the command ring. -/
def Dev.register (d : Dev) (m : MastId) (i : Nat) (e : RingEntry) : Dev :=
  (d.setRing m i (some (Ring.fresh e d.beat))).deliverTo m i e

/-- A ring table entry as registration takes it: context 0 owns ring 0 (R67). -/
def ring0Entry (i : Nat) (e : RingEntry) : RingEntry := if i == 0 then { e with ctx := 0 } else e

/-- R89's checks on an entry but for CPL_TARGET. -/
def Dev.ringBasics (d : Dev) (m : MastId) (e : RingEntry) : Bool :=
  let cmd := e.cmdBase != 0
  let cpl := e.cplBase != 0
  let ok := fun (l : Nat) => 4 ≤ l && l ≤ 16
  (d.ctx m e.ctx).isSome && (!cmd || ok e.cmdLog2) && (!cpl || ok e.cplLog2) && !(e.irqEn && e.vector < 4) &&
    !(cmd && e.weight == 0)

/-- CPL_TARGET of a command ring: its own index with a completion ring, or a registered completion ring of the context. -/
def Dev.targetOk (d : Dev) (m : MastId) (i : Nat) (e : RingEntry) : Bool :=
  e.cmdBase == 0 || (e.cplTarget == i && e.cplBase != 0) || (match d.ring m e.cplTarget with
    | some g => g.hasCpl && g.ent.ctx == e.ctx
    | none => false)

/-- Context 0 holds every permission and every window; a context opened by CTX_OPEN takes its entry. -/
def Dev.openCtx (d : Dev) (m : MastId) (k : Nat) (e : CtxEntry) : Dev :=
  d.setCtx m k (some ⟨e.profile, e.winMask, false, d.regF m 0x9008 8 8 * 2 ^ 20, d.beat⟩)

/-- Close every context and unregister every ring. -/
def Dev.closeAll (d : Dev) (m : MastId) : Dev :=
  (d.onHif m (fun h => { h with ctxs := [], rings := [], draining := false, winGeo := [] })).onFlt m (fun f =>
    { f with fences := f.fences.filter (fun x => x.unit.kind != .ctx) })

/-! ## Jobs of a descriptor -/

/-- Forget the work a descriptor has in progress: reads, snapshots, loads, receipts, and the capture unit it owns. -/
def Dev.dropJobs (d : Dev) (m : MastId) (ring seq : Nat) : Dev :=
  let keep := fun (j : ReadJob) => !(j.ring == ring && j.seq == seq)
  d.onMast m (fun x => { x with
    fab := { x.fab with reads := x.fab.reads.filter keep, plans := x.fab.plans.filter (fun j => !(j.ring == ring && j.seq == seq)) }
    cal := { x.cal with reads := x.cal.reads.filter keep }
    kern := { x.kern with loading := x.kern.loading.filter (fun l => !(l.1 == ring && l.2.1 == seq)) }
    eg := { x.eg with snap := x.eg.snap.filter (fun s => !(s.1 == ring && s.2.1 == seq)) }
    sec := x.sec.filter (fun j => !(j.ring == ring && j.seq == seq))
    gln := { x.gln with units := x.gln.units.filter (fun u => match u.2 with
      | some v => v.owner != some (ring, seq)
      | none => false) } })

/-! ## Loss of the host (R98) -/

/-- A host loss is detected: beat L is the next beat boundary. On the standby, only its own link state is concerned. -/
def Dev.hostLost (d : Dev) (m : MastId) (cause : Nat) : Dev :=
  let at_ := d.beat + 1
  d.onHif m (fun h => { h with lossAt := h.lossAt.or (some (at_, cause)) })

/-- Registers in an address range go back to reset. -/
def Mast.resetRegs (x : Mast) (lo hi : Nat) : Mast :=
  let keep := fun (e : Nat × Reg64) => !(lo ≤ e.1 && e.1 < hi)
  { x with regs := x.regs.filter keep, eff := x.eff.filter keep }

/-- The windows' geometry as a reset finds it, kept until the loss has drained (R100). -/
def Dev.keepWindows (d : Dev) (m : MastId) : Dev :=
  let now := (List.range 64).map (fun w => (w, d.reg m (winBase w), d.reg m (winCfg w)))
  d.onHif m (fun h => { h with winGeo := now })

/-- A PCIe reset of a mast (R44): its HIF_, WIN_ and CTX_ blocks go back to reset, and the holder's reset takes the
standby's mirrored copies too (R492). MSI-X goes as PCIe has it (assumption 11). -/
def execPcieReset (m : MastId) (s : State) : Host.Outcome State Fault Refusal :=
  run s (fun d =>
    if !(d.mast m).boot.tunnel then d
    else
      let d := d.onMast m (fun x => x.resetRegs 0x3F000 0x40000)
      if d.holder == some m then
        ((((d.keepWindows m).onMast m (fun x => x.resetRegs 0x1000 0x4000)).onMast (peerOf m) (fun x => x.resetRegs 0x1000 0x4000))).hostLost m 1
      else d.hostLost m 1)

/-- The USB4 link goes down. -/
def execUsb4LinkDown (m : MastId) (s : State) : Host.Outcome State Fault Refusal :=
  run s (fun d =>
    if !(d.mast m).boot.usb then d
    else (d.onBoot m (fun b => { b with usb := false, tunnel := false })).hostLost m 0)

/-- A record with OPCODE 0x00 for a command ring. DESIGN CHOICE (assumption 103): TAG and SHEAF_ID are zero and EPOCH is the
current one. -/
def Dev.ringEvent (d : Dev) (m : MastId) (i : Nat) (r : Ring) (st : Status) : Record :=
  { opcode := 0, phase := false, backlog := false, timeValid := false, status := st, tag := 0, seq := r.next, cmdRing := i
    sheafId := 0, epoch := (d.fab m).epoch, time := ⟨0, 0⟩ }

/-- The loss mark of a command ring. DEDUCED (assumption 103): its TAG and SHEAF_ID are 0 and its EPOCH is the current one.
-/
def lossMark (d : Dev) (m : MastId) (i : Nat) (r : Ring) : BackRec :=
  ⟨r.ent.cplTarget, d.ringEvent m i r .hostLost, false, d.beat⟩

/-- A record repeated into the backlog: behind the records produced before it (R99). -/
def backAgain (b : BackRec) (l : List BackRec) : List BackRec :=
  l.takeWhile (fun c => decide (c.beat < b.beat)) ++ b :: l.dropWhile (fun c => decide (c.beat < b.beat))

/-- Does a descriptor end at L (R98)? It holds slots, it waits for others to drain, or it reads host tables; a CTX_OPEN or
RING_REG is such a one too (DEDUCED, assumption 103). -/
def Desc.endsAtLoss (x : Desc) : Bool :=
  x.sentAt.isNone && (!x.slots.isEmpty || x.wait != .none || (1 ≤ x.ent.opcode && x.ent.opcode ≤ 5))

/-- A descriptor stops and ends with HOST_LOST; its slots go on the held list. -/
def Dev.loseDesc (d : Dev) (m : MastId) (x : Desc) : Dev :=
  let d := (d.each x.slots (fun r d => d.keepHeld m r)).onSlots m x (fun _ => [])
  (d.dropJobs m x.ring x.ent.seq).complete m x .hostLost

/-- What a host loss does at L on the mast that serves. -/
def Dev.loseHost (d : Dev) (m : MastId) : Dev :=
  let d := d.onHif m (fun h => { h with running := false, polled := false, draining := true })
  let d := d.setRegF m 0x1000 0 1 0
  -- loss marks take the place of a ring's earlier one
  let marks := (d.hif m).rings.filterMap (fun e => match e.2 with
    | some r => if r.hasCmd then some (lossMark d m e.1 r) else none
    | none => none)
  let d := d.each marks (fun b d => d.pushJournal m (.loss b))
  -- records transmitted in the 2 µs before L are repeated
  let late := ((d.hif m).recent.filter (fun r => d.beat ≤ r.1 + 20)).map (fun r => (⟨r.2.1, r.2.2.2.1, r.2.2.2.2, r.1⟩ : BackRec))
  let d := d.onHif m (fun h => { h with
    lossMarks := h.lossMarks.filter (fun b => !marks.any (fun c => c.r.cmdRing == b.r.cmdRing)) ++ marks
    backlog := late.foldr backAgain h.backlog, recent := []
    inflight := h.inflight.map (fun x => { x with lost := x.lost || x.sentAt.isNone })
    rings := h.rings.map (fun e => (e.1, e.2.map (fun r => { r with granted := 0 }))) })
  let d := d.each late.reverse (fun b d => d.pushJournal m (.late b))
  let d := d.abortWhere m (fun x => x.key.isSheaf && !x.decided) .hostLost
  d.each ((d.hif m).inflight.filter Desc.endsAtLoss) (fun x d => d.loseDesc m x)

/-- Beat L of a host loss (R98): reported as source 200 with its cause. -/
def execHostLoss (s : State) : Host.Outcome State Fault Refusal :=
  run s (fun d => d.each [MastId.fore, MastId.main] (fun m d =>
    match (d.hif m).lossAt with
    | none => d
    | some l =>
      if d.beat < l.1 then d
      else
        let d := (d.onHif m (fun h => { h with lossAt := none })).report m 200 1 0 (BitVec.ofNat 32 l.2) none
        if d.serving == some m then d.loseHost m else d))

/-- When no descriptor is in flight, the loss closes every context and unregisters every ring. -/
def execHostLossDrained (s : State) : Host.Outcome State Fault Refusal :=
  run s (fun d => d.act (fun m => if (d.hif m).draining && (d.hif m).inflight.isEmpty then d.closeAll m else d))

/-! ## HIF registers (R69 to R71) -/

/-- BACKLOG_DROP: the backlog and the loss marks are gone, and the journal tells it (R71, R401). -/
def Dev.dropBacklog (d : Dev) (m : MastId) : Dev :=
  (d.pushJournal m .dropped).onHif m (fun h => { h with backlog := [], lossMarks := [] })

/-- Setting EN: context 0 opens, ring 0 registers and its backlog is delivered. An earlier loss still draining gives way
first (assumption 25). -/
def execHifEnable (w : RegWr) (ctx0 : Option CtxEntry) (ring0 : Option RingEntry) (s : State) :
    Host.Outcome State Fault Refusal :=
  run s (fun d => d.barWrite 0x1000 w (fun m _ v d =>
    let d := d.when (fld v 1 1 == 1) (fun d => d.dropBacklog m)
    if fld v 0 1 == 0 || d.hifEn m then d
    else
      let d := (d.when (d.hif m).draining (fun d => d.closeAll m)).setRegF m 0x1000 0 1 1
      let ready := (d.mast m).boot.stage == .ready
      let now := d.beat
      let d := d.onHif m (fun h => { h with running := ready, firstPoll := true, polled := false, pollAt := now, sweep := 0 })
      let d := d.hostIn m (32 + (if ctx0.isSome then 64 else 0))
      match ctx0 with
      | none => d.pcieErr m 1 0
      | some c =>
        let d := d.openCtx m 0 c
        match ring0 with
        | none => d.pcieErr m 3 0
        | some e =>
          let e := ring0Entry 0 e
          if d.ringBasics m e && d.targetOk m 0 e then d.register m 0 e else d))

/-- Clearing EN is a host loss (R71, R98). -/
def execHifDisable (w : RegWr) (s : State) : Host.Outcome State Fault Refusal :=
  run s (fun d => d.barWrite 0x1000 w (fun m _ v d =>
    let d := d.when (fld v 1 1 == 1) (fun d => d.dropBacklog m)
    if fld v 0 1 == 0 && d.hifEn m then (d.setRegF m 0x1000 0 1 0).hostLost m 2 else d))

/-- HIF_CTL.BACKLOG_DROP, EN keeping its value. -/
def execBacklogDrop (m : MastId) (s : State) : Host.Outcome State Fault Refusal :=
  run s (fun d => d.barWrite 0x1000 ⟨m, .whole, setFld (d.reg m 0x1000) 1 1 1⟩ (fun m _ _ d => d.dropBacklog m))

/-- The four address registers: taken while EN is 0, else ADDR_REJ. -/
def execHifAddrWrite (off : Nat) (w : RegWr) (s : State) : Host.Outcome State Fault Refusal :=
  run s (fun d =>
    if !inArr off 0x1010 8 4 then d
    else d.barWrite off w (fun m _ v d => if d.hifEn m then d.flag m 0x1030 33 else d.setReg m off v))

/-- HIF_POLL.INTERVAL, 1 to 1,000. -/
def execHifPollWrite (w : RegWr) (s : State) : Host.Outcome State Fault Refusal :=
  run s (fun d => d.barWrite 0x1008 w (fun m _ v d =>
    if 1 ≤ fld v 0 10 && fld v 0 10 ≤ 1000 then d.setReg m 0x1008 v else d))

/-! ## Polling (R76 to R79) -/

/-- Host addresses of the summary line and of a doorbell word; low bits below the alignment are ignored (R66, R69). -/
def Dev.sumAddr (d : Dev) (m : MastId) : Nat := (d.reg m 0x1010).toNat / 64 * 64
def Dev.dbAddr (d : Dev) (m : MastId) (i : Nat) : Nat := (d.reg m 0x1018).toNat / 4096 * 4096 + 8 * i

/-- Reads of the doorbell words of a group. -/
def Dev.readGroup (d : Dev) (m : MastId) (g : Nat) : Dev := (d.emit (.hostRead m 1 (8 * g) 8 (d.dbAddr m (8 * g)))).hostIn m 64

/-- Reads of `n` entries of a command ring from the next sequence on, each where R81 places it. -/
def Dev.readEntries (d : Dev) (m : MastId) (i n : Nat) (r : Ring) : Dev :=
  (d.each (List.range n) (fun k d => d.emit (.hostRead m 2 i 1 (r.ent.cmdAddr (r.next + k))))).hostIn m (64 * n)

/-- A poll reads the summary line and the doorbell words of one sweep group. -/
def execPoll (s : State) : Host.Outcome State Fault Refusal :=
  run s (fun d => d.act (fun m =>
    let h := d.hif m
    if !(h.running && d.hifEn m && !h.polled && h.pollAt ≤ d.beat) then d
    else
      let n := d.regF m 0x1008 0 10
      let at_ := d.beat + n
      let d := d.onHif m (fun h => { h with
        polled := true, interval := n, pollAt := at_
        rings := h.rings.map (fun e => (e.1, e.2.map (fun r => { r with again := false }))) })
      (((d.emit (.hostRead m 0 0 1 (d.sumAddr m))).hostIn m 64).readGroup m h.sweep).pmc m 0x013 [0] 1))

/-- A doorbell word as read: CMD_PROD and CPL_CONS are learned (R79). -/
def Dev.learn (d : Dev) (m : MastId) (b : Doorbell) : Dev :=
  (d.onHif m (fun h => { h with db := tset (0, 0) h.db b.ring (b.prod, b.cons) })).onRing m b.ring
    (fun r => { r with prod := b.prod, cons := b.cons })

/-- The summary line returns: toggled groups and changed sweep words are found, and the burst of R25 is issued. -/
def execSummaryLineReturn (line : Option (BitVec 512)) (sweep : List Doorbell) (s : State) : Host.Outcome State Fault Refusal :=
  run s (fun d => d.act (fun m =>
    let h := d.hif m
    if !h.polled then d
    else
      let d := d.onHif m (fun h => { h with polled := false })
      match line with
      | none => d.pcieErr m 4 0xFFFF
      | some l =>
        let g0 := (List.range 512).filter (fun g => h.firstPoll || l.getLsbD g != h.sumCopy.getLsbD g)
        let moved := sweep.filter (fun b => b.ring / 8 == h.sweep && tget (0, 0) h.db b.ring != (b.prod, b.cons))
        let g1 := ((moved.map (fun b => b.ring / 8)).eraseDups).filter (fun g => !g0.contains g)
        let finds := (moved.filter (fun b => g1.contains (b.ring / 8))).length
        let d := d.onHif m (fun h => { h with sumCopy := l, firstPoll := false, sweep := (h.sweep + 1) % 512 })
        let d := (d.each moved (fun b d => d.learn m b)).when (0 < finds) (fun d => d.pmc m 0x014 [0] finds)
        d.each (g0 ++ g1) (fun g d =>
          let d := d.readGroup m g
          d.each (List.range 8) (fun i d => match d.ring m (8 * g + i) with
            | some r => if r.hasCmd then d.readEntries m (8 * g + i) 4 r else d
            | none => d))))

/-! ## Token buckets (R356, R357) -/

/-- Bring a ring's bucket up to date; a new rate and depth take over at the refill (assumption 26 for the fraction). -/
def Ring.refill (r : Ring) (beat : Nat) : Ring :=
  let t := r.tokens + r.rate * (beat - r.refillAt) * 2 ^ 20 / 10000000
  match r.newShape with
  | none => { r with tokens := Nat.min t (r.burst * 2 ^ 20), refillAt := beat }
  | some (rate, burst) =>
    let full := ringDepth burst * 2 ^ 20
    { r with tokens := if r.rate == 0 then full else Nat.min (Nat.min t (r.burst * 2 ^ 20)) full
             rate := rate, burst := ringDepth burst, newShape := none, refillAt := beat }

/-- A label's nanoseconds rounded up to a tick of 1,000 ns. -/
def tickUp (ns : Nat) : Nat := (ns + 999) / 1000 * 1000

/-- The tick at which a bucket short of `need` (20 fraction bits) at `rate` per second is served. -/
def wheelAt (now : Stamp) (tokens need rate : Nat) : Nat :=
  tickUp (stampNs now + 100 * (((need - tokens) * 10000000 + rate * 2 ^ 20 - 1) / (rate * 2 ^ 20)))

/-! ## Fair queueing (R352 to R355) -/

/-- Serial order of 64-bit tags. -/
def tagLt (a b : Nat) : Bool := let k := (b + 2 ^ 64 - a % 2 ^ 64) % 2 ^ 64; decide (0 < k ∧ k < 2 ^ 63)
def tagMax (a b : Nat) : Nat := if tagLt a b then b else a
/-- F + c ÷ WEIGHT, 24 fraction bits, rounded half up. -/
def tagAdd (f c w : Nat) : Nat := (f + (rhuDiv (c * 2 ^ 24) w).toNat) % 2 ^ 64

/-- Sequence distance modulo 2^32. -/
def seqDiff (a b : Nat) : Nat := (a + 2 ^ 32 - b % 2 ^ 32) % 2 ^ 32

/-- Descriptors produced and not fetched, up to what a close or unregistration still serves. -/
def Ring.avail (r : Ring) : Nat :=
  let n := seqDiff r.prod r.next
  match r.serveTo with
  | some q => Nat.min n (seqDiff q r.next)
  | none => n

/-- Descriptors granted and not yet arrived, on the rings that meet a condition. -/
def Dev.granted (d : Dev) (m : MastId) (p : Ring → Bool) : Nat :=
  ((d.hif m).rings.map (fun e => match e.2 with
    | some r => if p r then r.granted else 0
    | none => 0)).sum

/-- Free completion space of R86 at ring `j`: what is written and unread, reserved, or granted to be fetched is taken. -/
def Dev.space (d : Dev) (m : MastId) (j : Nat) : Nat :=
  match d.ring m j with
  | none => 0
  | some g => 2 ^ g.ent.cplLog2 - (seqDiff g.written g.cons + g.reserved + d.granted m (fun r => r.ent.cplTarget == j))

/-- Descriptors that may still be fetched under R68. -/
def Dev.room (d : Dev) (m : MastId) : Nat := 16384 - ((d.hif m).inflight.length + d.granted m (fun _ => true))

/-- May the ring be fetched? After a RING_SEQ mismatch it waits for the next poll (R81). -/
def Dev.fetching (d : Dev) (m : MastId) (r : Ring) : Bool :=
  r.hasCmd && !r.stalled && !r.again && !d.isFenced m ⟨.ctx, r.ent.ctx⟩ && !(match d.ctx m r.ent.ctx with
    | some c => c.fetchStop
    | none => true)

/-- The size of the grant a ring would receive; 0 where it is not eligible (R352, R353). -/
def Dev.grantSize (d : Dev) (m : MastId) (r : Ring) : Nat :=
  if !d.fetching m r || 0 < r.granted then 0
  else
    let n := Nat.min 8 (Nat.min r.avail (Nat.min (d.space m r.ent.cplTarget) (d.room m)))
    if r.rate == 0 then n else if r.wheel.isSome then 0 else Nat.min n (r.tokens / 2 ^ 20)

/-- Consult every bucket, enter the empty ones on the wheel, and level the tags of rings that became eligible. -/
def Dev.consult (d : Dev) (m : MastId) : Dev :=
  let V := (d.hif m).V
  d.each ((d.hif m).rings.map Prod.fst) (fun i d => match d.ring m i with
    | none => d
    | some r =>
      let r := r.refill d.beat
      let r := if r.rate != 0 && r.wheel.isNone && 0 < r.avail && r.tokens < 2 ^ 20
        then { r with wheel := some (wheelAt d.now r.tokens (2 ^ 20) r.rate) } else r
      let e := 0 < d.grantSize m r
      d.setRing m i (some { r with F := if e && !r.eligible then tagMax V r.F else r.F, eligible := e }))

/-- The eligible ring with the smallest prospective tag, ties to the lower index, with its grant. -/
def Dev.winner (d : Dev) (m : MastId) : Option (Nat × Nat × Nat) :=
  (d.hif m).rings.foldl (fun best e => match e.2 with
    | none => best
    | some r =>
      let n := d.grantSize m r
      if n == 0 then best
      else
        let t := tagAdd r.F n r.weight
        match best with
        | some b => if tagLt t b.2.2 then some (e.1, n, t) else best
        | none => some (e.1, n, t)) none

/-- Charge a grant of `n` with tag `t` to a ring. -/
def Dev.charge (d : Dev) (m : MastId) (i n t : Nat) : Dev :=
  (d.onRing m i (fun r => { r with F := t, tokens := if r.rate == 0 then r.tokens else r.tokens - n * 2 ^ 20 })).onHif m
    (fun h => { h with V := tagMax h.V t })

/-- One grant decision of the ring engine. -/
def execFetchGrant (s : State) : Host.Outcome State Fault Refusal :=
  run s (fun d => d.act (fun m =>
    if !(d.hifEn m && (d.hif m).running) then d
    else
      let d := d.consult m
      match d.winner m with
      | none => d
      | some (i, n, t) =>
        let d := (d.charge m i n t).onRing m i (fun r => { r with granted := n })
        match d.ring m i with
        | some r => d.readEntries m i n r
        | none => d))

/-! ## Acceptance (R81, R83, R86) -/

/-- A fetched entry: accepted in sequence, or discarded; the fourth mismatch on a produced sequence stops the ring. DEDUCED
(assumption 103): the TAG and SHEAF_ID of RING_STALLED are 0 and its EPOCH is the current one. -/
def Dev.acceptOne (d : Dev) (m : MastId) (i : Nat) (e : Entry) : Dev :=
  match d.ring m i with
  | none => d
  | some r =>
    if r.stalled then d
    else if e.seq != r.next then
      let d := d.onRing m i (fun r => { r with miss := r.miss + 1, again := true })
      if 4 ≤ r.miss + 1 then
        (d.onRing m i (fun r => { r with stalled := true })).deliver m r.ent.cplTarget r.ent.ctx (d.ringEvent m i r .ringStalled)
          false false
      else d
    else
      let prof := match d.ctx m r.ent.ctx with
        | some c => d.eff m (0x3000 + 8 * c.profile)
        | none => 0
      let x : Desc := ⟨i, e, r.ent.ctx, r.ent.cplTarget, false, [], .none, none, none, d.beat, prof, false, none⟩
      let x := { x with slots := d.slotsFrom m x }
      let d := d.pushJournal m (.accept x)
      let d := d.onHif m (fun h => { h with inflight := h.inflight ++ [x] })
      let d := d.onRing m i (fun r => { r with next := (r.next + 1) % 2 ^ 32, miss := 0 })
      let d := d.onRing m r.ent.cplTarget (fun g => { g with reserved := g.reserved + 1 })
      (d.pmc m 0x010 [0] 1).pmc m 0x011 [i / 16] 1

/-- Entries taken in order until one does not match. -/
def Dev.acceptAll (d : Dev) (m : MastId) (i : Nat) : List Entry → Dev
  | [] => d
  | e :: r =>
    match d.ring m i with
    | none => d
    | some g => if e.seq == g.next then (d.acceptOne m i e).acceptAll m i r else d.acceptOne m i e

/-- Fetched entries arrive; a ring that has since been stopped takes none, or none past its end (R91 to R93). -/
def execDescriptorFetchReturn (ring : Nat) (ents : List (List Byte)) (err : Bool) (s : State) : Host.Outcome State Fault Refusal :=
  run s (fun d => d.act (fun m =>
    match d.ring m ring with
    | none => d
    | some r =>
      if r.granted == 0 || !d.hifEn m then d
      else
        let n := if d.fetching m r then Nat.min r.granted r.avail else 0
        let d := d.onRing m ring (fun r => { r with granted := 0 })
        if err then d.pcieErr m 0 r.ent.ctx else d.acceptAll m ring ((ents.take n).map entryOf)))

/-- A poll's speculative entries, as a grant of what the doorbell shows produced (R25, R355). -/
def Dev.burstOf (d : Dev) (m : MastId) (i : Nat) (es : List Entry) : Nat :=
  match d.ring m i with
  | none => 0
  | some r =>
    if !d.fetching m r || 0 < r.granted then 0
    else
      let n := Nat.min es.length (Nat.min r.avail (Nat.min (d.space m r.ent.cplTarget) (d.room m)))
      if r.rate == 0 then n else if r.wheel.isSome then 0 else Nat.min n (r.tokens / 2 ^ 20)

def Dev.burstTag (d : Dev) (m : MastId) (i n : Nat) : Nat :=
  match d.ring m i with
  | some r => tagAdd r.F n r.weight
  | none => 0

/-- The burst with the smallest prospective tag, ties to the lower ring index. -/
def Dev.nextBurst (d : Dev) (m : MastId) (bs : List (Nat × List Entry)) : Option (Nat × List Entry) :=
  bs.foldl (fun best b => match best with
    | none => some b
    | some c =>
      let tb := d.burstTag m b.1 (d.burstOf m b.1 b.2)
      let tc := d.burstTag m c.1 (d.burstOf m c.1 c.2)
      if tagLt tb tc || (tb == tc && b.1 < c.1) then some b else best) none

/-- Accept the bursts of one poll in ascending prospective tag. -/
def Dev.acceptBursts (d : Dev) (m : MastId) : Nat → List (Nat × List Entry) → Dev
  | 0, _ => d
  | n + 1, bs =>
    match d.nextBurst m bs with
    | none => d
    | some b =>
      let k := d.burstOf m b.1 b.2
      let d0 := if k == 0 then d else d.charge m b.1 k (d.burstTag m b.1 k)
      let d1 := (d0.acceptAll m b.1 (b.2.take k)).when (k < b.2.length) (fun d => d.pmc m 0x015 [0] (b.2.length - k))
      d1.acceptBursts m n (bs.filter (fun c => c.1 != b.1))

/-- The burst of doorbell words and speculative entries arrives. A doorbell word whose read met an error is read again at
the next poll (R498). -/
def execDoorbellBurstReturn (dbs : List Doorbell) (spec : List (Nat × List (List Byte))) (bad : List Nat) (s : State) :
    Host.Outcome State Fault Refusal :=
  run s (fun d => d.act (fun m =>
    if !(d.hifEn m && (d.hif m).running) then d
    else
      let d := d.each bad (fun i d =>
        let d := d.onHif m (fun h => { h with sumCopy := h.sumCopy ^^^ (1#512 <<< (i / 8)) })
        match d.ring m i with
        | some r => d.pcieErr m 0 r.ent.ctx
        | none => d.pcieErr m 4 i)
      let d := (d.each (dbs.filter (fun b => !bad.contains b.ring)) (fun b d => d.learn m b)).consult m
      d.acceptBursts m spec.length (spec.map (fun e => (e.1, e.2.map entryOf)))))

/-! ## Tails and signals -/

/-- COAL_US after the first unsignalled record, the vector is signalled (R87). -/
def execCoalescingTimeout (ring : Nat) (s : State) : Host.Outcome State Fault Refusal :=
  run s (fun d => d.act (fun m =>
    match d.ring m ring with
    | none => d
    | some r => match r.firstUnsig with
      | some b => if r.ent.irqEn && b + 10 * r.ent.coalUs ≤ d.beat then d.signalRing m ring else d
      | none => d))

/-- 2 µs after its record, a descriptor is no longer in flight (R68). -/
def execInflightTailExpiry (ring seq : Nat) (s : State) : Host.Outcome State Fault Refusal :=
  run s (fun d => d.act (fun m => d.onHif m (fun h => { h with
    inflight := h.inflight.filter (fun x => !(x.ring == ring && x.ent.seq == seq &&
      (match x.sentAt with
        | some b => b + 20 ≤ d.beat
        | none => false)))
    recent := h.recent.filter (fun r => d.beat < r.1 + 20) })))

/-! ## Windows (R95, R100) -/

/-- A geometry within R95. -/
def geomOk (pages log2 : Nat) : Bool :=
  1 ≤ pages && pages ≤ 1048576 && 12 ≤ log2 && log2 ≤ 32 && pages * 4096 % 2 ^ log2 == 0 &&
    1 ≤ pages * 4096 / 2 ^ log2 && pages * 4096 / 2 ^ log2 ≤ 1048576

/-- INCOMPLETE written into a slot, the owner left at 0x02. DESIGN CHOICE (assumption 102): the header's other fields are zero
but for the time. -/
def Dev.markIncomplete (d : Dev) (m : MastId) (ref : Nat) : Dev :=
  d.emit (.slot m ref ⟨2, true, false, false, 0, 0, 0, 0, 0, lowStamp d.now, 0, 0, 0⟩ (.unchanged 0))

/-- A WIN_CFGw write. A refused enable leaves EN 0; its PAGES and SLOT_LOG2 are written (assumption 25). DESIGN CHOICE
(assumption 102): the slots of other windows that a failed descriptor holds are returned with INCOMPLETE, KIND 0 and LEN 0.
-/
def execWinCfgWrite (win : Nat) (w : RegWr) (s : State) : Host.Outcome State Fault Refusal :=
  run s (fun d =>
    if 64 ≤ win then d
    else d.barWrite (winCfg win) w (fun m info v d =>
      let off := winCfg win
      let old := d.reg m off
      if fld old 31 1 == 1 then
        if fld v 31 1 == 1 then d
        else
          -- a disable: descriptors that hold slots of the window end with SLOT_RANGE, their other slots returned (assumption 102)
          let hit := (d.hif m).inflight.filter (fun x => x.slots.any (fun r => refWin r == win))
          let d := d.each hit (fun x d =>
            let d := d.each (x.slots.filter (fun r => refWin r == win)) (fun r d => d.markIncomplete m r)
            let d := d.onDesc m x.ring x.ent.seq (fun y => { y with slots := y.slots.filter (fun r => refWin r != win) })
            (d.dropJobs m x.ring x.ent.seq).complete m x .slotRange)
          d.setRegF m off 31 1 0
      else if fld v 31 1 == 1 && !geomOk (fld v 0 21) (fld v 24 6) then
        (d.setReg m off (setFld (plainWrite info old v) 31 1 0)).flag m (winBase win + 16) 0
      else
        let d := d.setReg m off (plainWrite info old v)
        if fld v 31 1 == 0 then d
        else
          let here := (d.hif m).held.filter (fun h => h.win == win)
          let same := here.filter (fun h => h.base == d.reg m (winBase win) && fld h.cfg 0 21 == fld v 0 21 && fld h.cfg 24 6 == fld v 24 6)
          let d := (d.each same (fun h d => d.markIncomplete m (win * 2 ^ 20 + h.slot))).when (!here.isEmpty) (fun d =>
            d.pushJournal m (.unheld win))
          d.onHif m (fun h => { h with held := h.held.filter (fun e => e.win != win), winSeq := tset 0 h.winSeq win 0 })))

end Sys2Proof.Machine
end

