-- ==== Sys2Proof/Machine/Admin.lean ====
section
/-! DEFINITION. Administrative descriptors: contexts and rings (R82, R88 to R94, R402). Bodies of lasting effects stand apart,
so that MIRROR_ACKNOWLEDGEMENT can run them. -/

namespace Sys2Proof.Machine

/-- NOP. -/
def execNop (ring seq : Nat) (s : State) : Host.Outcome State Fault Refusal :=
  run s (fun d => d.start ring seq 0x00 (fun m x d => d.complete m x .ok))

/-- The opcodes with a use (R82, R88, R105, R176, R306, R341, R376, R448, R231). -/
def opUsed (op : Nat) : Bool :=
  op ≤ 0x05 || (0x10 ≤ op && op ≤ 0x1E) || (0x30 ≤ op && op ≤ 0x32) || (0x40 ≤ op && op ≤ 0x42) ||
    (0x50 ≤ op && op ≤ 0x52) || (0x60 ≤ op && op ≤ 0x63) || (0x70 ≤ op && op ≤ 0x73) || (0x80 ≤ op && op ≤ 0x82)

/-- A descriptor of an unallotted or unused opcode. -/
def execBadOpcode (ring seq : Nat) (s : State) : Host.Outcome State Fault Refusal :=
  run s (fun d => d.act (fun m =>
    match d.findDesc m ring seq with
    | none => d
    | some x => if opUsed x.ent.opcode then d else d.start ring seq x.ent.opcode (fun m x d => d.complete m x .badOpcode)))

/-! ## Contexts -/

/-- CTX_OPEN's body (R90). -/
def Dev.ctxOpenBody (d : Dev) (index : Nat) (ent : Option CtxEntry) (m : MastId) (x : Desc) : Dev :=
  d.need m x 9 (fun d =>
    if 4095 < index || index == 0 || (d.ctx m index).isSome then d.complete m x .badState
    else
      let d := d.hostIn m 32
      match ent with
      | none => (d.pcieErr m 1 index).complete m x .memLost
      | some e => if 63 < e.profile then d.complete m x .badState else (d.openCtx m index e).complete m x .ok)

/-- CTX_OPEN. -/
def execCtxOpen (ring seq index : Nat) (ent : Option CtxEntry) (s : State) : Host.Outcome State Fault Refusal :=
  run s (fun d => d.startLasting ring seq 0x01 (.ctxOpen ring seq index ent)
    (fun m x d => d.ctxOpenBody index ent m x))

/-- A context's sheafs that meet a condition abort with CTX_CLOSED. -/
def Dev.closeSheafs (d : Dev) (m : MastId) (k : Nat) (p : Sheaf → Bool) : Dev :=
  d.abortWhere m (fun x => x.key.isSheaf && x.ctx == k && p x) .ctxClosed

/-- Not yet committed. -/
def Sheaf.uncommitted (x : Sheaf) : Bool := x.phase == .open_

def Dev.waitOn (d : Dev) (m : MastId) (x : Desc) (w : Wait) : Dev := d.onDesc m x.ring x.ent.seq (fun y => { y with wait := w })

/-- CTX_REBIND's body, steps 1 and 2 of R91. DESIGN CHOICE (assumption 104): a SHEAF_OPEN in flight that starts after step 2 opens
its sheaf, which the rebind leaves open. -/
def Dev.ctxRebindBody (d : Dev) (index : Nat) (m : MastId) (x : Desc) : Dev :=
  d.need m x 9 (fun d =>
    match d.ctx m index with
    | none => d.complete m x .badState
    | some c =>
      if 4095 < index then d.complete m x .badState
      else
        ((d.setCtx m index (some { c with fetchStop := true })).closeSheafs m index Sheaf.uncommitted).waitOn m x
          (.drainCtx index true))

/-- CTX_REBIND. -/
def execCtxRebind (ring seq index : Nat) (s : State) : Host.Outcome State Fault Refusal :=
  run s (fun d => d.startLasting ring seq 0x02 (.ctxRebind ring seq index) (fun m x d => d.ctxRebindBody index m x))

/-- Is no descriptor of the context in flight but the one that waits? -/
def Dev.ctxDrained (d : Dev) (m : MastId) (k : Nat) (x : Desc) : Bool :=
  (d.hif m).inflight.all (fun y => y.ctx != k || (y.ring == x.ring && y.ent.seq == x.ent.seq))

/-- Indices of the set that fail (R91 step 5), from those known to fail, `n` rounds. -/
def rebindFails (d : Dev) (m : MastId) (set : List (Nat × Option RingEntry)) : Nat → List Nat → List Nat
  | 0, bad => bad
  | n + 1, bad =>
    let live := set.filter (fun e => !bad.contains e.1)
    let tgt := fun (i : Nat) (e : RingEntry) =>
      e.cmdBase == 0 || (e.cplTarget == i && e.cplBase != 0) ||
      live.any (fun f => f.1 == e.cplTarget && (match f.2 with
        | some g => g.cplBase != 0 && g.ctx == e.ctx
        | none => false)) ||
      (!set.any (fun f => f.1 == e.cplTarget) && d.targetOk m i e)
    let more := live.filter (fun f => match f.2 with
      | none => true
      | some e => !d.ringBasics m e || !tgt f.1 e)
    rebindFails d m set n (bad ++ more.map Prod.fst)

/-- A context's fence ends with its CTX_REBIND or CTX_CLOSE (R384). -/
def Dev.unfenceCtx (d : Dev) (m : MastId) (k : Nat) : Dev :=
  d.onFlt m (fun f => { f with fences := f.fences.filter (fun x => x.unit != ⟨.ctx, k⟩) })

/-- CTX_REBIND ends: steps 4 to 6 of R91. -/
def execCtxRebindComplete (ring seq : Nat) (ent : Option CtxEntry) (rings : List (Nat × Option RingEntry)) (s : State) :
    Host.Outcome State Fault Refusal :=
  run s (fun d => d.act (fun m =>
    match d.findDesc m ring seq with
    | none => d
    | some x => match x.wait with
      | .drainCtx k true => match d.ctx m k with
        | none => d
        | some c =>
          if !d.ctxDrained m k x then d
          else
            let took := match ent with
              | some e => e.profile ≤ 63
              | none => false
            let d := if ent.isNone then d.pcieErr m 2 k else d
            let c := match ent with
              | some e => if e.profile ≤ 63 then { c with profile := e.profile, winMask := e.winMask } else c
              | none => c
            let d := (d.setCtx m k (some { c with fetchStop := false, tokens := d.regF m 0x9008 8 8 * 2 ^ 20, refillBeat := d.beat })).unfenceCtx m k
            let d := d.hostIn m (32 + 64 * (d.ringsOf m k).length)
            let set := (d.ringsOf m k).map (fun i => (i, ((rings.find? (fun e => e.1 == i)).bind Prod.snd).map (ring0Entry i)))
            let d := d.each (set.filter (fun e => e.2.isNone)) (fun _ d => d.pcieErr m 2 k)
            let bad := rebindFails d m set (set.length + 1) []
            let good := set.filter (fun e => !bad.contains e.1)
            let d := d.each set (fun e d => d.setRing m e.1 none)
            let d := d.each good (fun e d => match e.2 with
              | some r => d.setRing m e.1 (some (Ring.fresh r d.beat))
              | none => d)
            let d := d.each good (fun e d => match e.2 with
              | some r => d.deliverTo m e.1 r
              | none => d)
            d.complete m x (if took && bad.isEmpty then .ok else .badState)
      | _ => d))

/-- Serve a context's rings only up to a point: what their doorbells show, or what has been accepted. -/
def Dev.stopRings (d : Dev) (m : MastId) (k : Nat) (atOnce : Bool) : Dev :=
  d.each (d.ringsOf m k) (fun i d => d.onRing m i (fun r => { r with serveTo := some (if atOnce then r.next else r.prod) }))

/-- CTX_CLOSE's body (R92), steps 1 and 2: its read of the doorbell words shows what was produced, and consumed counts are not
learned from it (R79). A fenced context reads and fetches nothing more (R384). -/
def Dev.ctxCloseBody (d : Dev) (index : Nat) (dbs : List Doorbell) (m : MastId) (x : Desc) : Dev :=
  d.need m x 9 (fun d =>
    if 4095 < index || index == 0 || (d.ctx m index).isNone then d.complete m x .badState
    else
      let fenced := d.isFenced m ⟨.ctx, index⟩
      let mine := d.ringsOf m index
      let d := if fenced then d else d.each (dbs.filter (fun b => mine.contains b.ring)) (fun b d => d.onRing m b.ring (fun r => { r with prod := b.prod }))
      (d.stopRings m index fenced).waitOn m x (.drainCtx index false))

/-- CTX_CLOSE without FORCE. -/
def execCtxClose (ring seq index : Nat) (dbs : List Doorbell) (s : State) : Host.Outcome State Fault Refusal :=
  run s (fun d => d.startLasting ring seq 0x03 (.ctxClose ring seq index dbs) (fun m x d => d.ctxCloseBody index dbs m x))

/-- CTX_CLOSE with FORCE (R93). -/
def Dev.ctxCloseForceBody (d : Dev) (index : Nat) (m : MastId) (x : Desc) : Dev :=
  d.need m x 9 (fun d =>
    if 4095 < index || index == 0 || (d.ctx m index).isNone then d.complete m x .badState
    else
      ((d.stopRings m index true).closeSheafs m index (fun y => !y.decided)).waitOn m x (.drainCtx index false))

def execCtxCloseForce (ring seq index : Nat) (s : State) : Host.Outcome State Fault Refusal :=
  run s (fun d => d.startLasting ring seq 0x03 (.ctxCloseForce ring seq index)
    (fun m x d => d.ctxCloseForceBody index m x))

/-- Has a ring served everything it was to serve? -/
def Dev.ringServed (d : Dev) (m : MastId) (i : Nat) : Bool :=
  match d.ring m i with
  | none => true
  | some r => !r.hasCmd || r.stalled || d.isFenced m ⟨.ctx, r.ent.ctx⟩ || (match r.serveTo with
    | some q => q == r.next
    | none => false)

/-- STREAM_CLOSE of a stream (R361): production stops, what is queued drains for at most 10 ms. -/
def Dev.closeStream (d : Dev) (m : MastId) (s : Nat) (owner : Option (Nat × Nat)) : Dev :=
  match d.stream m s with
  | none => d
  | some y =>
    if y.closing.isSome then d
    else d.setStream m s (some { y with closing := some (d.beat + 100000, owner), stopAt := some (d.nextWatch) })

/-- Streams a context owns. -/
def Dev.streamsOf (d : Dev) (m : MastId) (k : Nat) : List Nat :=
  (d.mast m).eg.streams.filterMap (fun e => match e.2 with
    | some y => if y.owner == k then some e.1 else none
    | none => none)

/-- CTX_CLOSE ends (R92). -/
def execCtxCloseComplete (ring seq : Nat) (s : State) : Host.Outcome State Fault Refusal :=
  run s (fun d => d.act (fun m =>
    match d.findDesc m ring seq with
    | none => d
    | some x => match x.wait with
      | .drainCtx k false =>
        if !d.ctxDrained m k x || !(d.ringsOf m k).all (d.ringServed m) then d
        else
          let d := d.closeSheafs m k (fun y => !y.decided)
          let d := d.each (d.ringsOf m k) (fun i d => d.setRing m i none)
          let d := (d.setCtx m k none).unfenceCtx m k
          let d := d.each (d.streamsOf m k) (fun i d => d.closeStream m i none)
          d.complete m x .ok
      | _ => d))

/-! ## Rings -/

/-- RING_REG's body (R89). -/
def Dev.ringRegBody (d : Dev) (index : Nat) (ent : Option RingEntry) (m : MastId) (x : Desc) : Dev :=
  d.need m x 9 (fun d =>
    if 4095 < index || (d.ring m index).isSome then d.complete m x .badState
    else
      let d := d.hostIn m 64
      match ent with
      | none => (d.pcieErr m 3 index).complete m x .memLost
      | some e =>
        let e := ring0Entry index e
        if d.ringBasics m e && d.targetOk m index e then (d.register m index e).complete m x .ok
        else d.complete m x .badState)

/-- RING_REG. -/
def execRingReg (ring seq index : Nat) (ent : Option RingEntry) (s : State) : Host.Outcome State Fault Refusal :=
  run s (fun d => d.startLasting ring seq 0x04 (.ringReg ring seq index ent)
    (fun m x d => d.ringRegBody index ent m x))

/-- Sheafs of one ring; a PLANE_SWAP is none. -/
def Sheaf.onRing (x : Sheaf) (i : Nat) : Bool :=
  match x.key with
  | .sheaf r _ => r == i
  | _ => false

/-- RING_UNREG's body (R89). -/
def Dev.ringUnregBody (d : Dev) (index : Nat) (force : Bool) (m : MastId) (x : Desc) : Dev :=
  d.need m x 9 (fun d =>
    match d.ring m index with
    | none => d.complete m x .badState
    | some r =>
      let wanted := r.hasCpl && (d.hif m).rings.any (fun e => e.1 != index && (match e.2 with
        | some g => g.hasCmd && g.ent.cplTarget == index
        | none => false))
      if 4095 < index || wanted then d.complete m x .badState
      else
        let d := d.onRing m index (fun r => { r with serveTo := some (if force then r.next else r.prod) })
        let d := if force then d.abortWhere m (fun y => y.onRing index && !y.decided) .ctxClosed else d
        d.waitOn m x (.drainRing index))

/-- RING_UNREG. -/
def execRingUnreg (ring seq index : Nat) (force : Bool) (s : State) : Host.Outcome State Fault Refusal :=
  run s (fun d => d.startLasting ring seq 0x05 (.ringUnreg ring seq index force)
    (fun m x d => d.ringUnregBody index force m x))

/-- RING_UNREG ends. -/
def execRingUnregComplete (ring seq : Nat) (s : State) : Host.Outcome State Fault Refusal :=
  run s (fun d => d.act (fun m =>
    match d.findDesc m ring seq with
    | none => d
    | some x => match x.wait with
      | .drainRing i =>
        let idle := (d.hif m).inflight.all (fun y => y.ring != i || (y.ring == x.ring && y.ent.seq == x.ent.seq))
        if !idle || !d.ringServed m i then d
        else
          let d := d.abortWhere m (fun y => y.onRing i && !y.decided) .ctxClosed
          (d.setRing m i none).complete m x .ok
      | _ => d))

end Sys2Proof.Machine
end

