-- ==== Sys2Proof/Machine/Images.lean ====
section
/-! DEFINITION. Signed images and key records as bytes: their fields, their signed message, and whether they verify (R229, R230,
R433 to R440). -/

namespace Sys2Proof.Machine

/-- A digest's bytes, the first in the most significant place of its number. -/
def digestBytes (g : Bits384) : List Byte := (leBytes 48 g.toNat).reverse

/-- The signature block of R230 at an offset of an image. -/
structure SigBlock where
  keySlot : Nat
  r : Nat
  s : Nat
  resvZero : Bool
  len : Nat
deriving DecidableEq, Repr

def sigBlock (l : List Byte) (off : Nat) : SigBlock :=
  ⟨fieldAt l off 1 % 4, fieldAt l (off + 16) 48, fieldAt l (off + 64) 48,
   fieldAt l off 1 / 4 == 0 && zeroAt l (off + 1) 15 && zeroAt l (off + 112) 16, l.length - off⟩

end Sys2Proof.Machine

namespace Sys2Proof

open Sys2Proof.Machine

/-! ## Firmware images (R436, R437) -/

def FwImage.fwVersion (g : FwImage) : Nat := fieldAt g.bytes 8 4
def FwImage.seq (g : FwImage) : Nat := fieldAt g.bytes 12 4
def FwImage.bodyLen (g : FwImage) : Nat := fieldAt g.bytes 16 4
/-- The signed message: header and body. -/
def FwImage.msg (g : FwImage) : List Byte := g.bytes.take (64 + g.bodyLen)
def FwImage.sig (g : FwImage) : SigBlock := sigBlock g.bytes (64 + g.bodyLen)
/-- The firmware measurement. -/
def FwImage.meas (g : FwImage) : Bits384 := sha384 g.msg

/-- Check 1 of R437. -/
def FwImage.formatOk (g : FwImage) : Bool :=
  fieldAt g.bytes 0 4 == 0x57465A46 && fieldAt g.bytes 4 2 == 1 && zeroAt g.bytes 6 2 && zeroAt g.bytes 20 44 &&
    g.bytes.length == 64 + g.bodyLen + 128 && g.sig.resvZero && g.bytes.length ≤ 14680064

/-! ## Kernel images (R229, R230, R438) -/

def KernelImage.codeLen (g : KernelImage) : Nat := fieldAt g.bytes 8 4
def KernelImage.initLen (g : KernelImage) : Nat := fieldAt g.bytes 12 4
def KernelImage.stateBytes (g : KernelImage) : Nat := fieldAt g.bytes 16 2
def KernelImage.entry (g : KernelImage) : Nat := fieldAt g.bytes 20 4
/-- HANDLER; 0xFFFF_FFFF names none. -/
def KernelImage.handler (g : KernelImage) : Option Nat :=
  let h := fieldAt g.bytes 24 4
  if h == 0xFFFFFFFF then none else some h
def KernelImage.kernelId (g : KernelImage) : Nat := fieldAt g.bytes 28 4
def KernelImage.kernelVer (g : KernelImage) : Nat := fieldAt g.bytes 32 2
/-- The signed message: header, code and initial data. -/
def KernelImage.msg (g : KernelImage) : List Byte := g.bytes.take (64 + g.codeLen + g.initLen)
def KernelImage.sig (g : KernelImage) : SigBlock := sigBlock g.bytes (64 + g.codeLen + g.initLen)
def KernelImage.meas (g : KernelImage) : Bits384 := sha384 g.msg
/-- Its bundles, each eight little-endian bytes. -/
def KernelImage.code (g : KernelImage) : List (BitVec 64) :=
  (List.range (g.codeLen / 8)).map (fun i => BitVec.ofNat 64 (fieldAt g.bytes (64 + 8 * i) 8))
def KernelImage.init (g : KernelImage) : List Byte := (g.bytes.drop (64 + g.codeLen)).take g.initLen

/-- The header rules of R229 and the length rule of R231. -/
def KernelImage.formatOk (g : KernelImage) (len : Nat) : Bool :=
  fieldAt g.bytes 0 4 == 0x4B4C5446 && fieldAt g.bytes 4 2 == 1 && zeroAt g.bytes 6 2 && zeroAt g.bytes 18 2 &&
    zeroAt g.bytes 34 30 && decide (8 ≤ g.codeLen ∧ g.codeLen ≤ 65536 ∧ g.codeLen % 8 = 0 ∧ g.initLen ≤ 32768 ∧
      g.initLen % 8 = 0 ∧ 16 ≤ g.stateBytes ∧ g.stateBytes ≤ 320 ∧ g.stateBytes % 16 = 0 ∧ g.entry < g.codeLen / 8 ∧
      (∀ h ∈ g.handler, h < g.codeLen / 8) ∧ len = 64 + g.codeLen + g.initLen + 128 ∧ g.bytes.length = len)

end Sys2Proof

namespace Sys2Proof.Machine

/-! ## Keys (R434, R456) -/

def KeyArea.seq (a : KeyArea) : Nat := fieldAt a.bytes 8 4

/-- Is a copy valid: MAGIC, and the CRC as R296 computes it, over the header and the four records' places? -/
def KeyArea.valid (a : KeyArea) : Bool :=
  a.bytes.length == 576 && fieldAt a.bytes 0 4 == 0x594B5A46 &&
    fieldAt a.bytes 60 4 == (crc32c (a.bytes.take 60 ++ [0, 0, 0, 0] ++ a.bytes.drop 64)).toNat

/-- The 96-byte record of a slot in a copy. -/
def KeyArea.record (a : KeyArea) (i : Nat) : KeyRec := ⟨fieldAt a.bytes (64 + 128 * i) 48, fieldAt a.bytes (112 + 128 * i) 48⟩

/-- The key area copy the boot ROM reads, and whether it is copy B: the valid one with the higher SEQ. -/
def Nor.newestKeys (n : Nor) : Option (KeyArea × Bool) :=
  match n.keyA.filter KeyArea.valid, n.keyB.filter KeyArea.valid with
  | some a, some b => if serialAfter a.seq b.seq then some (a, false) else some (b, true)
  | some a, none => some (a, false)
  | none, some b => some (b, true)
  | none, none => none

/-- The public key record of a slot. -/
def Nor.keyRec (n : Nor) (i : Nat) : Option KeyRec := n.newestKeys.map (fun e => e.1.record i)

/-- A slot is usable (R434): programmed, not revoked, its NOR record's hash matches and its point is on the curve. -/
def slotUsable (n : Nor) (i : Nat) (k : OtpSlot) : Bool :=
  k.prog && !k.revoked && (match n.keyRec i with
    | some r => r.hash == k.hash && onCurve r.x r.y
    | none => false)

/-- Does a signature verify with a slot's key (R435)? -/
def Nor.sigOk (n : Nor) (slot : Nat) (msg : List Byte) (r s : Nat) : Bool :=
  match n.keyRec slot with
  | some q => ecdsaOk q.x q.y msg r s
  | none => false

/-- USE of a slot: true for a kernel key. -/
def Boot.slotUse (b : Boot) (slot : Nat) : Option Bool := b.otp[slot]?.map OtpSlot.use

/-- R437's checks on a firmware image, in order. -/
def Boot.verifies (b : Boot) (g : FwImage) : Bool :=
  g.formatOk && b.usable.getD g.sig.keySlot false && b.slotUse g.sig.keySlot == some false &&
    b.nor.sigOk g.sig.keySlot g.msg g.sig.r g.sig.s

/-- The signature rule of R438 on one mast: a usable slot with USE 1, not revoked, and a signature that verifies. -/
def Boot.kernelOk (b : Boot) (g : KernelImage) : Bool :=
  b.usable.getD g.sig.keySlot false && b.slotUse g.sig.keySlot == some true &&
    b.nor.sigOk g.sig.keySlot g.msg g.sig.r g.sig.s

/-! ## KEY_REVOKE's payload (R440) -/

structure RevokePay where
  magicOk : Bool
  target : Nat
  signer : Nat
  serial : BitVec 128
  msg : List Byte
  r : Nat
  s : Nat
deriving DecidableEq, Repr

def revokePay (l : List Byte) : RevokePay :=
  ⟨fieldAt l 0 4 == 0x4B565A46 && fieldAt l 4 1 / 16 == 0 && zeroAt l 5 11, fieldAt l 4 1 % 4, fieldAt l 4 1 / 4 % 4,
   BitVec.ofNat 128 (fieldAt l 16 16), l.take 32, fieldAt l 32 48, fieldAt l 80 48⟩

end Sys2Proof.Machine
end

