-- ==== Sys2Proof/Machine/Boot.lean ====
section
/-! DEFINITION. Reset, boot, the USB4 link, the first pennant and the recovery boot class (R38, R39, R43, R49, R55 to R58,
R65, R434, R437). -/

namespace Sys2Proof.Machine

/-- A mast back under reset: OTP, NOR contents and the presence of REFCLK remain; a NOR job is lost and leaves its slot
invalid (R300). -/
def Mast.reset (x : Mast) : Mast :=
  { mastReset with boot := { bootReset with otp := x.boot.otp, refclk := x.boot.refclk,
                                            nor := { x.boot.nor with job := none } } }

/-- Both masts in RESET and every domain off; the time returns to 0 (R65, R307, R417). The pins PARK_N and TRIG_IN are
driven from outside; the outputs fall. -/
def Dev.allReset (d : Dev) : Dev :=
  { d with
    beat := 0, now := ⟨0, 0⟩, lastWatch := none, fore := d.fore.reset, main := d.main.reset, tiles := []
    aon := { d.aon with on := 0, queue := [], waking := [], slotAt := 0, late := [] }
    pins := { d.pins with trigOut := false, ppsOut := false, parkSeen := !d.pins.parkN, riseBeat := 0 } }

def Nor.fw (n : Nor) (slot : Nat) : Option FwImage := if slot == 0 then n.fwA else n.fwB

/-- The NOR slots to try, in order (R55, R56). -/
def Nor.order (n : Nor) (sel : BitVec 2) : List Nat :=
  match sel.toNat with
  | 0 => match n.fwA, n.fwB with
    | some a, some b => if serialAfter b.seq a.seq then [1, 0] else [0, 1]
    | some _, none => [0]
    | none, some _ => [1]
    | none, none => []
  | 1 => [0]
  | 2 => [1]
  | _ => []

/-- The boot ROM's start on one mast (R55, R56): with nothing to try it enumerates the recovery boot class. -/
def Boot.start (b : Boot) (sel : BitVec 2) (beat : Nat) : Boot :=
  let tries := b.nor.order sel
  { b with
    stage := .boot, bootSel := sel, tries := tries, recoveryClass := tries.isEmpty, riseBeat := beat
    usable := b.otp.zipIdx.map (fun e => slotUsable b.nor e.2 e.1) }

/-- Request a domain's wake-up, by its lowest index (R415); none for a domain queued, waking or powered. -/
def Dev.wake (d : Dev) (dom : Nat) : Dev :=
  if d.aon.queue.contains dom || d.aon.waking.any (fun w => w.1 == dom) || d.aon.on.getLsbD dom then d
  else { d with aon := { d.aon with queue := d.aon.queue ++ [dom] } }

/-- The domains a boot ROM requests, in order (R414). -/
def bootDomains : List Nat := [0, 7, 6, 5, 1, 2, 3, 4]

/-- A start from R55 onwards: both boot ROMs sample BOOT_SEL and request their domains (assumption 18). -/
def Dev.powerUp (d : Dev) (sel : BitVec 2) : Dev :=
  let d := (d.onBoot .fore (fun b => b.start sel d.beat)).onBoot .main (fun b => b.start sel d.beat)
  let d := { d with pins := { d.pins with riseBeat := d.beat } }
  d.each bootDomains (fun i d => (d.wake i).wake (8 + i))

/-- PORESET_N rises (R55). -/
def execPoresetNRise (bootSel : BitVec 2) (s : State) : Host.Outcome State Fault Refusal :=
  run s (fun d =>
    if d.pins.poresetN then d
    else
      let d := { d with pins := { d.pins with poresetN := true } }
      if d.aon.tripped.isSome then d else d.powerUp bootSel)

/-- PORESET_N goes low (R65); it clears THM_TRIP (R432). -/
def execPoresetNFall (s : State) : Host.Outcome State Fault Refusal :=
  run s (fun d =>
    let d := d.allReset
    { d with pins := { d.pins with poresetN := false }, aon := { d.aon with trips := 0, last := false } })

/-- Firmware runs: what ID_FW and the measurement then hold (R46, R436, R447). -/
def Boot.runImage (b : Boot) (g : FwImage) (slot : Nat) (recovery : Bool) : Boot :=
  { b with
    running := true, fwVersion := g.fwVersion, fwSlot := slot, recovery := recovery, fwKey := g.sig.keySlot, fwMeas := g.meas
    tries := [] }

/-- The image read and hash end (R56): run it, or fall back to the other slot with source 208, or enumerate the recovery
boot class when no slot is left. -/
def execBootImageVerified (m : MastId) (s : State) : Host.Outcome State Fault Refusal :=
  run s (fun d =>
    let b := (d.mast m).boot
    if !(b.stage == .boot) || b.running then d
    else match b.tries with
      | [] => d
      | t :: rest =>
        match b.nor.fw t with
        | some g =>
          if b.verifies g then d.onBoot m (fun b => b.runImage g t false)
          else
            let d := d.onBoot m (fun b => { b with tries := rest, recoveryClass := rest.isEmpty })
            match rest with
            | r :: _ => d.report m 208 1 0 (BitVec.ofNat 32 r) none
            | [] => d
        | none => d.onBoot m (fun b => { b with tries := rest, recoveryClass := rest.isEmpty }))

/-- USB4 training ends (R39): Gen 4 or Gen 3 dual-lane comes up; anything else stays down, takes
the PCIe endpoint with it, and raises source 200. -/
def execUsb4LinkTraining (m : MastId) (mode : LinkMode) (s : State) : Host.Outcome State Fault Refusal :=
  run s (fun d =>
    if !(d.mast m).boot.running then d
    else match mode with
      | .other => (d.onBoot m (fun b => { b with usb := false, tunnel := false })).report m 200 2 0 0 none
      | _ => d.onBoot m (fun b => { b with usb := true }))

/-- Grant the first pennant, epoch 1 (R43, R396), and let both masts know it. -/
def Dev.firstPennant (d : Dev) (m : MastId) : Dev :=
  let now := d.beat
  let d := d.onPen m (fun p => { p with holder := true, epoch := 1, holderIdx := midx m, lastFull := now })
  d.onPen (peerOf m) (fun p => { p with epoch := 1, holderIdx := midx m })

/-- May a mast take the first pennant (R43): fore within 500 ms of the rise, main after it; the link is up and the tunnel
established. DESIGN CHOICE (assumption 99): after 500 ms the pennant waits for main alone, also while main declines it. -/
def Dev.claimsFirst (d : Dev) (m : MastId) : Bool :=
  let b := (d.mast m).boot
  let late := d.pins.riseBeat + 5000000 ≤ d.beat
  d.holder.isNone && d.fore.pen.epoch == 0 && d.main.pen.epoch == 0 && b.usb && b.tunnel && b.stage == .setup &&
    (if m == .fore then !late else late)

/-- The PCIe tunnel is established: STAGE becomes SETUP (R49), and the first pennant may be granted. -/
def execPcieTunnelEstablished (m : MastId) (s : State) : Host.Outcome State Fault Refusal :=
  run s (fun d =>
    let b := (d.mast m).boot
    if !(b.running && b.usb) then d
    else
      let d := d.onBoot m (fun b => { b with tunnel := true, stage := if b.stage == .boot then .setup else b.stage })
      if d.claimsFirst m then d.firstPennant m else d)

/-- 500 ms after the rise with fore short of SETUP, the first pennant goes to main (R43). -/
def execPennantBootTimeout (s : State) : Host.Outcome State Fault Refusal :=
  run s (fun d => if d.claimsFirst .main then d.firstPennant .main else d)

/-! ## The PCIe function (R40) -/

/-- What configuration space shows of a mast's physical function. -/
structure PciFunction where
  vendor : Nat
  device : Nat
  classCode : Nat
  bar0 : Nat
  vectors : Nat
  maxPayload : Nat
  maxRead : Nat
  tags : Nat
deriving DecidableEq, Repr

/-- The endpoint that a mast presents behind its tunnel; none while the tunnel is not established (R39). -/
def Dev.endpoint (d : Dev) (m : MastId) : Option PciFunction :=
  if (d.mast m).boot.tunnel then
    some ⟨0x1F0D, if d.part == .d16 then 0x24B0 else 0x24B8, 0x118000, 262144, 64, 512, 4096, 768⟩
  else none

/-! ## The recovery boot class (R58) -/

def Part.fitted : Part → Nat
  | .d16 => 0xFFFF | .d8 => 0x00FF

/-- ID_PART (R45). -/
def idPart (p : Part) : Reg64 := BitVec.ofNat 64 (p.code + 2 ^ 16 * Config.stepping.toNat + 2 ^ 32 * p.fitted)

/-- The commands of the recovery boot class by request byte 0. -/
inductive Recovery where | ident | load | norWrite | status
deriving DecidableEq, Repr

def recoveryOf (b : Byte) : Option Recovery :=
  match b.toNat with
  | 1 => some .ident
  | 2 => some .load
  | 3 => some .norWrite
  | 4 => some .status
  | _ => none

/-- A request of the recovery boot class reaches a mast that enumerates it; `b` is its byte 0. -/
def Dev.recovery (d : Dev) (m : MastId) (b : Byte) (k : Recovery → Dev → Dev) : Dev :=
  match recoveryOf b with
  | some c => if (d.mast m).boot.recoveryClass then k c d else d
  | none => d

/-- A status that refuses, of which the rule gives no value: any code of R12's ranges (assumption 90). -/
def refusalCode (n : Nat) : Nat := 0x100 * (1 + n / 256 % 5) + n % 256

/-- IDENT. -/
def Dev.identReply (d : Dev) (m : MastId) : Dev :=
  d.emit (.reply m 0 [(idPart d.part).toNat, midx m, (d.mast m).boot.stage.code])

/-- LOAD: an image that verifies runs with RECOVERY set; one that does not leaves the mast HALTED (R56). The status of a
refused image is free, and so is that of a LOAD outside BOOT, which changes nothing (assumption 90). An image loaded so came from
no NOR slot: DESIGN CHOICE (assumption 99), SLOT then holds 0. -/
def Dev.loadImage (d : Dev) (m : MastId) (img : FwImage) : Dev :=
  let b := (d.mast m).boot
  if !(b.stage == .boot) || b.running then d.drawNat (fun n d => d.emit (.reply m (refusalCode n) []))
  else if b.verifies img then
    (d.onBoot m (fun b => { b.runImage img 0 true with lastResult := 0 })).emit (.reply m 0 [])
  else d.drawNat (fun n d =>
    (d.onBoot m (fun b => { b with stage := .halted, lastResult := refusalCode n })).emit (.reply m (refusalCode n) []))

/-- The older NOR firmware slot under the A/B rule (R58). -/
def Nor.putFw (n : Nor) (g : FwImage) : Nor :=
  match n.fwA, n.fwB with
  | none, _ => { n with fwA := some g }
  | some _, none => { n with fwB := some g }
  | some a, some b => if serialAfter a.seq b.seq then { n with fwB := some g } else { n with fwA := some g }

/-- NOR_WRITE: an image that verifies is written. -/
def Dev.norWrite (d : Dev) (m : MastId) (img : FwImage) : Dev :=
  if (d.mast m).boot.verifies img then
    (d.onBoot m (fun b => { b with nor := b.nor.putFw img, lastResult := 0 })).emit (.reply m 0 [])
  else d.drawNat (fun n d =>
    (d.onBoot m (fun b => { b with lastResult := refusalCode n })).emit (.reply m (refusalCode n) []))

/-- A request by its byte 0, with the image that LOAD and NOR_WRITE receive. -/
def Dev.recoveryRequest (d : Dev) (m : MastId) (b : Byte) (img : FwImage) : Dev :=
  d.recovery m b (fun c d => match c with
    | .ident => d.identReply m
    | .load => d.loadImage m img
    | .norWrite => d.norWrite m img
    | .status => d.emit (.reply m (d.mast m).boot.lastResult []))

/-- IDENT, request byte 0x01. -/
def execIdent (m : MastId) (s : State) : Host.Outcome State Fault Refusal :=
  run s (fun d => d.recoveryRequest m 0x01 ⟨[]⟩)

/-- LOAD, request byte 0x02. DESIGN CHOICE (assumption 99): an image that recovery LOAD runs came from no NOR slot, and
ID_FW.SLOT reads 0 while it runs. -/
def execLoad (m : MastId) (img : FwImage) (s : State) : Host.Outcome State Fault Refusal :=
  run s (fun d => d.recoveryRequest m 0x02 img)

/-- NOR_WRITE, request byte 0x03. -/
def execNorWrite (m : MastId) (img : FwImage) (s : State) : Host.Outcome State Fault Refusal :=
  run s (fun d => d.recoveryRequest m 0x03 img)

/-- STATUS, request byte 0x04: the result of the last LOAD or NOR_WRITE. -/
def execStatus (m : MastId) (s : State) : Host.Outcome State Fault Refusal :=
  run s (fun d => d.recoveryRequest m 0x04 ⟨[]⟩)

end Sys2Proof.Machine
end

