-- ==== Sys2Proof/Machine/SeedBytes.lean ====
section
/-! DEFINITION. The seed image as bytes: header, tile blocks, trim block, cell records, escape list, the heater surface, and
when an image is valid (R296 to R299). -/

namespace Sys2Proof.Machine

/-- A signed number from its field of `w` bits. -/
def sField (w n : Nat) : Int := if 2 ^ (w - 1) ≤ n then (n : Int) - 2 ^ w else n

/-! ## binary32 (R297, R298) -/

/-- 2^n ÷ 2^k as a scale: the value of a rational times a power of two. -/
def scale2 (q : Rat) (n : Int) : Rat := if 0 ≤ n then q * ((2 ^ n.toNat : Nat) : Rat) else q / ((2 ^ (-n).toNat : Nat) : Rat)

/-- Round half to even. -/
def roundEven (q : Rat) : Int :=
  let f := q.floor
  let r := q - (f : Rat)
  if r * 2 < 1 then f else if 1 < r * 2 then f + 1 else if f % 2 = 0 then f else f + 1

/-- The exponent e with 2^e ≤ q < 2^(e+1), for a positive q. -/
def expOf (q : Rat) : Int :=
  let e : Int := (q.num.natAbs.log2 : Int) - q.den.log2
  if scale2 q (-e) < 1 then e - 1 else e

/-- A rational as the nearest binary32 (ties to even); beyond the range, the largest finite value. -/
def toF32 (q : Rat) : Nat :=
  let sign := if q < 0 then 2 ^ 31 else 0
  let a := if q < 0 then -q else q
  if a = 0 then 0
  else
    let e := if expOf a < -126 then -126 else expOf a
    let m := (roundEven (scale2 a (23 - e))).toNat
    let bits := if m < 2 ^ 23 then m else ((e + 126).toNat) * 2 ^ 23 + m
    sign + Nat.min bits 0x7F7FFFFF

/-- A binary32's value in units of 2^-149. An infinity or a NaN has no value: it is free (assumption 98). -/
def f32Val (b : Nat) : Int :=
  let e : Nat := b / 2 ^ 23 % 256
  let m : Nat := b % 2 ^ 23
  let v : Int := if e == 255 then Config.outside 9 b else if e == 0 then (m : Int) else (((2 ^ 23 + m) * 2 ^ (e - 1) : Nat) : Int)
  if b / 2 ^ 31 % 2 == 1 then -v else v

/-! ## The heater surface (R298) -/

/-- 1, x, y, x², xy, y² at a lane: x = ℓ mod 48, y = ℓ div 48. -/
def surfTerms (l : Nat) : List Nat :=
  let x := l % 48
  let y := l / 48
  [1, x, y, x * x, x * y, y * y]

/-- F of a lane from the six coefficients, rounded half up. The sum is exact (assumption 109). -/
def surfAt (s : List Nat) (l : Nat) : Int :=
  rhuDiv (((s.zip (surfTerms l)).map (fun e : Nat × Nat => f32Val e.1 * e.2)).sum) (2 ^ 149)

/-- One step of Gauss's elimination in column k. -/
def elim (k : Nat) (rows : List (List Rat)) : Option (List Rat × List (List Rat)) :=
  match rows.find? (fun r => r.getD k 0 != 0) with
  | none => none
  | some p =>
    let p' := p.map (· / p.getD k 1)
    some (p', (rows.erase p).map (fun r => (r.zip p').map (fun e => e.1 - r.getD k 0 * e.2)))

/-- The solution of linear equations, each row's right side last, from column `k` on; `none` where they have no single one. -/
def solveRows (k : Nat) : Nat → List (List Rat) → Option (List Rat)
  | 0, _ => some []
  | n + 1, rows => match elim k rows with
    | none => none
    | some (p, rest) => match solveRows (k + 1) n rest with
      | none => none
      | some xs =>
        let known := ((p.drop (k + 1)).zip xs).map (fun e => e.1 * e.2)
        some ((p.getLastD 0 - known.foldl (· + ·) 0) :: xs)

/-- The least-squares surface through points (lane, bias): the normal equations. -/
def fitSurface (pts : List (Nat × Nat)) : Option (List Rat) :=
  let sum := fun (f : Nat × Nat → Nat) => (((pts.map f).sum : Nat) : Rat)
  let row := fun (i : Nat) => (List.range 6).map (fun j => sum (fun p => (surfTerms p.1).getD i 0 * (surfTerms p.1).getD j 0)) ++
    [sum (fun p => (surfTerms p.1).getD i 0 * p.2)]
  solveRows 0 6 ((List.range 6).map row)

/-! ## The trim block (R297) -/

/-- A trim block from its bytes, the reserved ones zero. -/
def trimBlock (f : Nat → Byte) : List Byte := (List.range 4864).map (fun i => if 198 ≤ i ∧ i < 256 then 0 else f i)

def convOfs (b : List Byte) (k : Nat) : Int := sField 16 (fieldAt b (2 * k) 2)
def convGain (b : List Byte) (k : Nat) : Int := sField 16 (fieldAt b (96 + 2 * k) 2)
def pgaRatio (b : List Byte) (i : Nat) : Int := sField 16 (fieldAt b (192 + 2 * i) 2)
def fdOfs (b : List Byte) (l : Nat) : Int := sField 8 (fieldAt b (256 + l) 1)
def fdGain (b : List Byte) (l : Nat) : Int := sField 8 (fieldAt b (1792 + l) 1)
def htrOfs (b : List Byte) (l : Nat) : Int := sField 8 (fieldAt b (3328 + l) 1)

/-! ## Quantisation (R298) -/

/-- A coefficient quantised to the tile's full scale, and restored. -/
def quant (v : Int) (fs : Nat) : Int := clampI (-127) 127 (rhuDiv (127 * v) fs)
def unquant (q : Int) (fs : Nat) : Int := rhuDiv (q * fs) 127

/-- The largest |v| of a tile's crosstalk coefficients. -/
def Tile.xtFs (x : Tile) : Nat :=
  (x.dflt :: x.cells.map Prod.snd).foldl (fun n c => (c.cal.cSelf :: c.cal.cNb).foldl (fun n v => Nat.max n v.natAbs) n) 0

/-- HRES of a bias against F, and whether the bias escapes. -/
def hresOf (bias : Nat) (F : Int) : Int := rhuDiv ((bias : Int) - F) 32
def escapes (bias : Nat) (F : Int) : Bool := hresOf bias F < -512 || 511 < hresOf bias F

/-! ## Writing (R296, R297) -/

/-- A cell record. -/
def cellBytes (c : Cal) (F : Int) (fs : Nat) : List Byte :=
  let esc := escapes c.bias F
  layout ([(4, c.bar + 2 ^ 12 * c.cross + 2 ^ 24 * b2n esc + 2 ^ 25 * c.outcome + 2 ^ 28 * c.method),
    (2, toField 16 c.mofs0), (2, c.mgain0), (2, toField 16 c.mofs1), (2, c.mgain1),
    (2, if esc then 0 else toField 10 (hresOf c.bias F)), (1, toField 8 (quant c.cSelf fs))] ++
    (List.range 8).map (fun i => (1, toField 8 (quant (c.cNb.getD i 0) fs))) ++ [(1, 0), (2, c.resid), (2, c.ext)])

/-- A tile block, with the coefficients of its surface. -/
def tileBytes (t : Nat) (x : Tile) (trims : List Byte) (surf : List Nat) : List Byte :=
  layout ([(1, t), (1, b2n x.gain), (1, x.conv.pga), (1, 0), (2, toField 16 x.tempRef), (2, 0)] ++
    (List.range 6).map (fun i => (4, surf.getD i 0)) ++ [(2, x.xtFs), (30, 0)]) ++ trims ++
    (List.range laneCount).flatMap (fun l => cellBytes (x.cell l).cal (surfAt surf l) x.xtFs)

/-- The escape entries of a tile. -/
def tileEscapes (t : Nat) (x : Tile) (surf : List Nat) : List (Nat × Nat) :=
  ((List.range laneCount).filter (fun l => escapes (x.cell l).cal.bias (surfAt surf l))).map (fun l =>
    (t * laneCount + l, (x.cell l).cal.bias))

/-- Fields of the header that the snapshot fixes. -/
structure SeedHead where
  tiles : Nat
  seq : Nat
  topoCrc : Nat
  partCode : Nat
  calEpoch : Nat
  time : Stamp
  serial : Nat
deriving DecidableEq, Repr

/-- The header with a CRC. -/
def headBytes (h : SeedHead) (len escs crc : Nat) : List Byte :=
  layout [(4, 0x44454553), (2, 1), (2, h.tiles), (4, h.seq), (4, len), (4, h.topoCrc), (2, h.partCode), (2, 0), (8, h.calEpoch),
    (4, h.time.sec), (4, h.time.ns), (8, h.serial), (4, escs), (8, 0), (4, crc)]

/-- The image of a header, its tile blocks and its escape list. -/
def seedBytes (h : SeedHead) (blocks : List Byte) (escs : List (Nat × Nat)) : SeedImage :=
  let rest := blocks ++ escs.flatMap (fun e : Nat × Nat => layout [(2, e.1), (2, e.2)])
  let len := 64 + rest.length
  ⟨headBytes h len escs.length (crc32c (headBytes h len escs.length 0 ++ rest)).toNat ++ rest⟩

end Sys2Proof.Machine

namespace Sys2Proof.Machine

/-! ## Reading (R296, R297) -/

def SeedImage.tileMask (g : SeedImage) : Nat := fieldAt g.bytes 6 2
def SeedImage.seq (g : SeedImage) : Nat := fieldAt g.bytes 8 4
def SeedImage.len (g : SeedImage) : Nat := fieldAt g.bytes 12 4
def SeedImage.topoCrc (g : SeedImage) : Nat := fieldAt g.bytes 16 4
def SeedImage.calEpoch (g : SeedImage) : Nat := fieldAt g.bytes 24 8
def SeedImage.serial (g : SeedImage) : Nat := fieldAt g.bytes 40 8
def SeedImage.escCount (g : SeedImage) : Nat := fieldAt g.bytes 48 4

/-- The size of a tile block, and of a seed slot (R295, R297). -/
def blockLen : Nat := 47936
def seedSlotLen : Nat := 8388608

/-- The offset of a tile's block, where the image holds one. -/
def SeedImage.block? (g : SeedImage) (t : Nat) : Option Nat :=
  if bit g.tileMask t then some (64 + blockLen * ((List.range t).filter (bit g.tileMask)).length) else none

/-- A heater bias out of the escape list. -/
def SeedImage.escape (g : SeedImage) (cell : Nat) : Nat :=
  let off := 64 + blockLen * ((List.range 16).filter (bit g.tileMask)).length
  match (List.range g.escCount).find? (fun i => fieldAt g.bytes (off + 4 * i) 2 == cell) with
  | some i => fieldAt g.bytes (off + 4 * i + 2) 2
  | none => 0

/-- The calibration of a lane of the tile whose block is at `b` (R298, R301). -/
def SeedImage.cal (g : SeedImage) (b t l : Nat) : Cal :=
  let o := b + 64 + 4864 + 28 * l
  let fs := fieldAt g.bytes (b + 32) 2
  let w := fieldAt g.bytes o 4
  let f := fun (off n : Nat) => fieldAt g.bytes (o + off) n
  let surf := (List.range 6).map (fun i => fieldAt g.bytes (b + 8 + 4 * i) 4)
  { bar := w % 2 ^ 12, cross := w / 2 ^ 12 % 2 ^ 12
    bias := if bit w 24 then g.escape (t * laneCount + l)
      else clampN 0 65535 (surfAt surf l + 32 * sField 10 (f 12 2 % 2 ^ 10))
    mofs0 := sField 16 (f 4 2), mofs1 := sField 16 (f 8 2), mgain0 := (fitI 4 8192 32767 (f 6 2)).toNat, mgain1 := (fitI 4 8192 32767 (f 10 2)).toNat
    cSelf := unquant (sField 8 (f 14 1)) fs, cNb := (List.range 8).map (fun i => unquant (sField 8 (f (15 + i) 1)) fs)
    resid := f 24 2, ext := f 26 2, method := 3, outcome := w / 2 ^ 25 % 8 }

/-- MAGIC, VERSION and CRC are correct, LEN fits the slot, SERIAL matches the device (R299). -/
def SeedImage.valid (g : SeedImage) : Bool :=
  fieldAt g.bytes 0 4 == 0x44454553 && fieldAt g.bytes 4 2 == 1 && 64 ≤ g.len && g.len ≤ seedSlotLen && g.len ≤ g.bytes.length &&
    fieldAt g.bytes 60 4 == (crc32c (g.bytes.take 60 ++ [0, 0, 0, 0] ++ (g.bytes.take g.len).drop 64)).toNat &&
    g.serial == (Config.serial.setWidth 64).toNat

/-! ## Flash (R299, R455) -/

/-- The valid image of a slot's contents. -/
def slotImage (l : List Byte) : Option SeedImage := if (⟨l⟩ : SeedImage).valid then some ⟨l⟩ else none

/-- A 64 KiB sector of a slot erased. -/
def eraseSector (l : List Byte) (i : Nat) : List Byte :=
  if l.length ≤ 65536 * i then l else l.take (65536 * i) ++ List.replicate 65536 0xFF ++ l.drop (65536 * (i + 1))

/-- A 256-byte page of a slot programmed from an image. -/
def programPage (l : List Byte) (i : Nat) (g : List Byte) : List Byte :=
  let p := (g.drop (256 * i)).take 256
  (l ++ List.replicate (256 * i - l.length) 0xFF).take (256 * i) ++ p ++ l.drop (256 * i + p.length)

/-- The newest valid image: the higher SEQ in serial order (R299, R301). -/
def Nor.newest (n : Nor) : Option SeedImage :=
  match slotImage n.seedA, slotImage n.seedB with
  | some a, some b => if serialAfter b.seq a.seq then some b else some a
  | some a, none => some a
  | none, b => b

/-- The slot a save writes: one with no valid image, else the older (R299). -/
def Nor.saveSlot (n : Nor) : Nat :=
  match slotImage n.seedA, slotImage n.seedB with
  | none, _ => 0
  | some _, none => 1
  | some a, some b => if serialAfter a.seq b.seq then 1 else 0

/-- A seed slot's contents changed. -/
def Nor.onSlot (n : Nor) (k : Nat) (f : List Byte → List Byte) : Nor :=
  if k == 0 then { n with seedA := f n.seedA } else { n with seedB := f n.seedB }

end Sys2Proof.Machine
end

