-- ==== Sys2Proof/Machine/Setup.lean ====
section
/-! DEFINITION. Set-up registers with no rule beyond a range check, FAB_TILE_EN, and the topology table (R41 to R53, R145 to
R156, R180, R418, R488 to R492). -/

namespace Sys2Proof.Machine

/-! ## Plain registers -/

/-- Does the offset have a command row of its own (assumption 20)? FAB_BRING is split by the bits written. -/
def ownRow (off : Nat) : Bool :=
  [0x1000, 0x1008, 0x1010, 0x1018, 0x1020, 0x1028, 0x4010, 0x4030, 0x4400, 0x4408, 0x4410, 0x5000, 0x5020, 0x5048, 0x5050,
    0x7018, 0x70C0, 0x8008, 0xA000, 0xA008, 0xB018].contains off ||
  inArr off 0x2008 32 64 || inArr off 0x4500 8 16 || inArr off 0x4600 8 16 || inArr off 0x6000 0x40 2 ||
  inArr off 0x6008 0x40 2 || inArr off 0x6010 0x40 2 || inArr off 0x6018 0x40 2 || inArr off 0x6020 0x40 2 ||
  inArr off 0x6028 0x40 2 || inArr off 0x7080 8 4 || inArr off 0xC800 8 256

/-- Fields written out of their range keep their value: their place and the values taken. Ranges of TIM_SERVO (R329),
FAB_CAL_CTL (R302), ETH_IPFIX (R367), SEC_RCPT_CTL (R446) and PMC_CTL (R374). -/
def fieldRanges (off : Nat) : List (Nat × Nat × Nat × Nat) :=
  match off with
  | 0x5008 => [(0, 16, 80, 65535), (16, 16, 1, 65535), (32, 16, 1, 2000)]
  | 0x4700 => [(8, 8, 5, 200), (16, 8, 1, 60)]
  | 0x6080 => [(32, 16, 1, 3600)]
  | 0x9008 => [(0, 8, 1, 100), (8, 8, 1, 64)]
  | 0xC000 => [(0, 16, 1, 65535)]
  | _ => []

/-- A value with every out-of-range field put back. -/
def keepRanges (off : Nat) (old v : Reg64) : Reg64 :=
  (fieldRanges off).foldl (fun v f =>
    let x := fld v f.1 f.2.1
    if f.2.2.1 ≤ x && x ≤ f.2.2.2 then v else setFld v f.1 f.2.1 (fld old f.1 f.2.1)) v

/-- ID and LEADER of TIM_HAL_CTL are taken only while EN is 0 (R329); WIN_BASE only while its window's EN is 0 (R95). -/
def Dev.frozen (d : Dev) (m : MastId) (off : Nat) (old v : Reg64) : Reg64 :=
  if off == 0x5060 && fld old 0 1 == 1 then setFld v 1 4 (fld old 1 4)
  else if inArr off 0x2000 32 64 && d.regF m (off + 8) 31 1 == 1 then old
  else v

/-- An MSI-X entry unmasked with its pending bit set sends its message and clears the bit (assumption 11). -/
def Dev.unmask (d : Dev) (m : MastId) (off : Nat) : Dev :=
  let v := (off - 0x3F008) / 16
  if inArr off 0x3F008 16 64 && d.regF m off 32 1 == 0 && d.regF m 0x3F800 v 1 == 1 then
    (d.setRegF m 0x3F800 v 1 0).emit (.msix m v)
  else d

/-- A write to a plain register is taken: rw fields stored, w1c bits cleared here and on the standby (R42; assumption 19). -/
def Dev.plainTaken (d : Dev) (m : MastId) (off : Nat) (info : RegInfo) (v : Reg64) : Dev :=
  let old := d.reg m off
  let d := (d.setReg m off (plainWrite info old (d.frozen m off old (keepRanges off old v)))).unmask m off
  d.mirrorClear m off (v &&& info.w1c)

/-! ## FAB_TILE_EN (R51, R418) -/

/-- Tiles that hold a cell of the loaded table. -/
def Fab.tableTiles (f : Fab) : List Nat :=
  match f.topo with
  | none => []
  | some t => (t.table.entries.map (fun e => e.cell / laneCount)).eraseDups

/-- Is a domain queued, waking or powered? -/
def Dev.domBusy (d : Dev) (dom : Nat) : Bool :=
  d.aon.queue.contains dom || d.aon.waking.any (fun w => w.1 == dom) || d.aon.on.getLsbD dom

/-- Wake-ups and disables that a changed FAB_TILE_EN asks for (R418). -/
def Dev.enables (d : Dev) (m : MastId) (old : Nat) : Dev :=
  let new := d.regF m 0x4010 0 16
  d.each (List.range 16) (fun t d =>
    if bit new t then
      (d.onTile t (fun x => { x with disabling := false })).when (!bit old t) (fun d => d.wake (16 + 2 * t))
    else if d.domBusy (16 + 2 * t) then d.onTile t (fun x => { x with disabling := true })
    else d)

/-- FAB_TILE_EN (R51, R418). In stage TOPO a write while POWER runs counts for it (assumption 24). -/
def execFabTileEnWrite (w : RegWr) (s : State) : Host.Outcome State Fault Refusal :=
  run s (fun d => d.barWrite 0x4010 w (fun m _ v d =>
    let old := d.regF m 0x4010 0 16
    let new := fld v 0 16
    let fit := d.part.fitted
    let clears := (d.fab m).tableTiles.any (fun t => bit old t && !bit new t)
    match (d.mast m).boot.stage with
    | .setup => d.setRegF m 0x4010 0 16 (maskOf ((bitsOf new 16).filter (bit fit)))
    | .topo =>
      if clears then d.flag m 0x8010 2
      else
        let d := d.setRegF m 0x4010 0 16 (maskOf ((bitsOf new 16).filter (bit fit)))
        d.when ((d.mast m).boot.busy == some .power) (fun d => d.enables m old)
    | _ =>
      if clears || (bitsOf new 16).any (fun t => !bit fit t) then d.flag m 0x8010 2
      else
        (d.setRegF m 0x4010 0 16 new).enables m old))

/-! ## The topology table (R145 to R153, R180) -/

/-- Fabric cells of R147. -/
def fabricCells (kind k : Nat) : Nat :=
  if kind == 1 then 2 ^ k / 2 * (2 * k - 1) else 2 ^ k * (2 * k - 1) + 2 * 2 ^ k

/-- Largest LOG2N on the ordering code fitted. -/
def maxLog2n (p : Part) (kind : Nat) : Nat :=
  match p with
  | .d16 => if kind == 1 then 11 else 10
  | .d8 => if kind == 1 then 10 else 9

/-- The first entry at which a check fails. -/
def firstBad (es : List TopoEntry) (bad : Nat → TopoEntry → Option Nat) : Option (Nat × Nat) :=
  es.zipIdx.findSome? (fun e => (bad e.2 e.1).map (fun err => (err, e.2)))

/-- The position an entry names, where it is one of the fabric's: plane, stage, position. -/
def posOf (kind k : Nat) (e : TopoEntry) : Option (Nat × Nat × Nat) :=
  if e.role != 0 then none
  else if kind == 2 && isEdge e then if e.pos < 2 ^ k then some (0, e.stage, e.pos) else none
  else if e.stage ≤ 2 * k - 2 && e.pos < 2 ^ k / 2 then some (if kind == 2 then e.plane else 0, e.stage, e.pos)
  else none

/-- The eight-tone colouring of R180, over entries in ascending cell index: the tones, or the cell that finds none. -/
def colour : List TopoEntry → Tbl Nat → List Nat → Except Nat (Tbl Nat)
  | [], t, _ => .ok t
  | e :: r, t, seen =>
    let taken := ((e.nbs.take e.ncount).filter seen.contains).map (fun c => tget 0 t c)
    match (List.range 8).find? (fun k => !taken.contains k) with
    | some k => colour r (tset 0 t e.cell k) (e.cell :: seen)
    | none => .error e.cell

/-- Entries put in ascending cell index. -/
def insertCell (e : TopoEntry) : List TopoEntry → List TopoEntry
  | [] => [e]
  | x :: r => if e.cell < x.cell then e :: x :: r else x :: insertCell e r

def byCell (es : List TopoEntry) : List TopoEntry := es.foldr insertCell []

def tonesOf (t : TopoTable) : Except Nat (Tbl Nat) := colour (byCell t.entries) [] []

/-- R151's checks in order: the ERR code and entry of the first failure. An entry outside the stages and positions names no
position of the fabric (R152). -/
def topoCheck (p : Part) (en : Nat) (t : TopoTable) : Option (Nat × Nat) :=
  let es := t.entries
  let k := t.log2n
  let hdr := fun (c : Bool) (err : Nat) => if c then some (err, 0xFFFF) else none
  let find? := fun (c : Nat) => es.find? (fun e => e.cell == c)
  let c1 := (hdr (t.magic != 0x42545A46 || t.version != 1) 0x01).or
    ((hdr (t.len != 64 + 24 * t.cells) 0x02).or (hdr (!t.crcOk) 0x03))
  let c2 := hdr (!(t.kind == 1 || t.kind == 2) || k < 3 || maxLog2n p t.kind < k || t.cells < 1 || 24576 < t.cells ||
    t.cells != fabricCells t.kind k + t.spares || t.spares != (es.filter (fun e => e.role == 1)).length) 0x04
  let c3 := firstBad es (fun i e =>
    if !(e.cell < cellCount && bit p.fitted (e.cell / laneCount) && bit en (e.cell / laneCount)) then some 0x05
    else if (es.take i).any (fun x => x.cell == e.cell) then some 0x06 else none)
  let c4 := (firstBad es (fun i e =>
      if e.role != 0 then none
      else match posOf t.kind k e with
        | none => none
        | some q => if (es.take i).any (fun x => posOf t.kind k x == some q) then some 0x07 else none)).or
    (if (es.filter (fun e => (posOf t.kind k e).isSome)).length < fabricCells t.kind k then some (0x07, t.cells) else none)
  let c5 := firstBad es (fun _ e =>
    let ns := e.nbs.take e.ncount
    let bad := ns.any (fun c => c == e.cell || (match find? c with
      | some x => !(x.nbs.take x.ncount).contains e.cell
      | none => true))
    if 8 < e.ncount || bad || (e.nbs.drop e.ncount).any (· != 0) then some 0x08 else none)
  let c6 := match tonesOf t with
    | .ok _ => none
    | .error c => some (0x09, es.findIdx (fun (e : TopoEntry) => e.cell == c))
  let c7 := if t.kind != 2 then none else firstBad es (fun i e =>
    if e.role == 0 && !isEdge e && (es.take i).any (fun x => x.role == 0 && !isEdge x && x.plane != e.plane &&
      x.cell / laneCount == e.cell / laneCount) then some 0x0A else none)
  let c8 := (hdr (!t.resvZero) 0x0B).or (firstBad es (fun _ e =>
    if !e.resvZero || (e.plane != 0 && !(t.kind == 2 && e.role == 0 && !isEdge e)) then some 0x0B else none))
  c1.or (c2.or (c3.or (c4.or (c5.or (c6.or (c7.or c8))))))

/-- Each cell of a tile takes its tone: that of the table, or 0 where the table does not name it (R180). -/
def Dev.setTones (d : Dev) (m : MastId) (t : Nat) : Dev :=
  match (d.fab m).topo with
  | none => d
  | some z =>
    let d := d.onTile t (fun x => x.mapCells (fun c => { c with lp := { c.lp with tone := 0 } }))
    d.each (z.tones.filter (fun e => e.1 / laneCount == t)) (fun e d =>
      d.onCell e.1 (fun c => { c with lp := { c.lp with tone := e.2 } }))

/-- A checked table takes effect in both solvers and on every tile that is powered (R60, R156). Unwritten cells differ
from every state, so no setting is held (R159, R238). -/
def Dev.loadTopo (d : Dev) (m : MastId) (t : TopoTable) : Dev :=
  match tonesOf t with
  | .error _ => d
  | .ok tones =>
    let put := fun (f : Fab) => { f with
      topo := some ⟨t, tones⟩, topoErr := 0, topoErrEntry := 0, settings := [], pinned := [], active := 0
      shadowBusy := false, fulls := [] }
    let d := (d.onFab m put).onFab (peerOf m) put
    d.each ((List.range 16).filter (fun i => (d.tile i).alive)) (fun i d => d.setTones m i)

/-! ## FAB_BRING (R52, R53) -/

/-- A FAB_BRING write with one command bit: ignored while busy, refused outside its stages, else the command starts. -/
def Dev.bring (d : Dev) (m : MastId) (b : Bring) (stages : List Stage) (k : Dev → Dev) : Dev :=
  if !d.barUp m then d
  else if d.holder != some m then d.flag m 0x0010 3
  else if (d.mast m).boot.busy.isSome then d
  else if !stages.contains (d.mast m).boot.stage then d.onBoot m (fun x => { x with status := .notPermitted })
  else k (d.onBoot m (fun x => { x with busy := some b }))

/-- A FAB_BRING command ends with a status; a success also advances STAGE. -/
def Dev.bringEnd (d : Dev) (m : MastId) (st : Status) (stage : Option Stage) : Dev :=
  d.onBoot m (fun x => { x with busy := none, status := st, stage := stage.getD x.stage })

/-- The commands by their bit of FAB_BRING (R52). -/
def bringOf (bit : Nat) : Option Bring :=
  match bit with
  | 0 => some .topoLoad
  | 1 => some .power
  | 2 => some .seedRestore
  | 3 => some .calFull
  | 4 => some .loopArm
  | _ => none

/-- TOPO_LOAD: the table's fetch is issued. DESIGN CHOICE (assumption 99): an address that is not aligned to 4 KiB is used as
written. -/
def Dev.topoLoadStart (d : Dev) (m : MastId) : Dev :=
  d.bring m .topoLoad [.setup, .topo] (fun d =>
    let n := d.regF m 0x4008 0 32
    (d.emit (.hostRead m 5 0 n (d.reg m 0x4000).toNat)).hostIn m n)

/-- TOPO_LOAD, bit 0 of FAB_BRING. DESIGN CHOICE (assumption 99): a FAB_TOPO_ADDR that is not a multiple of 4 KiB is fetched
from as it is written. -/
def execTopoLoad (m : MastId) (s : State) : Host.Outcome State Fault Refusal := run s (fun d => d.topoLoadStart m)

/-- The table of FAB_TOPO_LEN bytes has been fetched, or its read met a PCIe error completion (R60, R151, R498). -/
def execTopoTableFetched (bytes : Option (List Byte)) (s : State) : Host.Outcome State Fault Refusal :=
  run s (fun d => d.act (fun m =>
    if (d.mast m).boot.busy != some .topoLoad then d
    else match bytes with
      | none => (d.pcieErr m 5 0).bringEnd m .memLost none
      | some b =>
        let t := topoOf (b.take (d.regF m 0x4008 0 32))
        match topoCheck d.part (d.regF m 0x4010 0 16) t with
        | some e => (d.onFab m (fun f => { f with topoErr := e.1, topoErrEntry := e.2 })).bringEnd m .topoInvalid none
        | none => (d.loadTopo m t).bringEnd m .ok (some .topo)))

end Sys2Proof.Machine
end

