-- ==== Sys2Proof/Machine/Bringup.lean ====
section
/-! DEFINITION. Bring-up from POWER to READY (R61 to R64, R300, R301). -/

namespace Sys2Proof.Machine

/-- Is some tile's wake-up or self-calibration still under way? -/
def Dev.waking (d : Dev) : Bool :=
  d.aon.queue.any (16 ≤ ·) || d.aon.waking.any (fun w => 16 ≤ w.1) ||
    (List.range 16).any (fun t => (d.tile t).selfcal.isSome)

/-- A tile that comes into service takes the holder's pennant epoch with a lease of 100 µs (assumption 24). -/
def Dev.enableTile (d : Dev) (m : MastId) (t : Nat) : Dev :=
  let ep := (d.mast m).pen.epoch
  let now := d.beat
  d.onTile t (fun x => { x with enabled := true, link := { x.link with pen := ep, leaseEnd := now + 1000, released := false } })

/-- POWER ends when every tile it woke has finished its self-calibration: STAGE becomes POWERED. -/
def Dev.powerDone (d : Dev) (m : MastId) : Dev :=
  if (d.mast m).boot.busy == some .power && !d.waking then
    (d.each ((List.range 16).filter (fun t => (d.tile t).alive && !(d.tile t).enabled && !(d.tile t).disabling)) (fun t d => d.enableTile m t)).bringEnd m
      .ok (some .powered)
  else d

/-- POWER: wake both domains of every enabled tile, in ascending tile order. -/
def Dev.powerStart (d : Dev) (m : MastId) : Dev :=
  d.bring m .power [.topo] (fun d =>
    (d.each (bitsOf (d.regF m 0x4010 0 16) 16) (fun t d => d.wake (16 + 2 * t))).powerDone m)

/-- POWER, bit 1 of FAB_BRING. -/
def execPower (m : MastId) (s : State) : Host.Outcome State Fault Refusal := run s (fun d => d.powerStart m)

/-- Conversions of every converter of a tile marked (R264, R265). -/
def Tile.markAll (x : Tile) (n : Nat) : Tile :=
  { x with conv := { x.conv with marks := (List.range 48).foldl (fun t k => tset 0 t k (Nat.max n (tget 0 t k))) x.conv.marks } }

/-- A tile's self-calibration ends. Before POWERED the tile comes into service; later TILE_ENABLED brings it in (R418). -/
def execSelfCalibrationDone (tile : Nat) (s : State) : Host.Outcome State Fault Refusal :=
  run s (fun d =>
    let x := d.tile tile
    match x.selfcal with
    | none => d
    | some b =>
      if !x.alive || d.beat < b then d
      else
        let d := d.onTile tile (fun x => ({ x with selfcal := none } : Tile).markAll 4)
        d.act (fun m =>
          if (d.mast m).boot.busy == some .power then ((d.when (!(d.tile tile).disabling) (fun d => d.enableTile m tile))).powerDone m else d))

/-! ## SEED_RESTORE (R62, R298, R301) -/

/-- SEED_RESTORE begins reading NOR. -/
def Dev.seedRestoreStart (d : Dev) (m : MastId) : Dev := d.bring m .seedRestore [.powered] (fun d => d)

/-- SEED_RESTORE, bit 2 of FAB_BRING. -/
def execSeedRestore (m : MastId) (s : State) : Host.Outcome State Fault Refusal :=
  run s (fun d => d.seedRestoreStart m)

/-- The calibration of R279. -/
def calNone : Cal := cellReset.cal

/-- Load an image into the tiles, whose trims mark conversions (R264); enabled tiles it does not hold take METHOD 0, their factory
trims and the temperature at which they came alive (R279, R301). -/
def Dev.loadSeed (d : Dev) (g : SeedImage) : Dev :=
  d.onTiles d.enabledTiles (fun t x =>
    match g.block? t with
    | none =>
      let x := if x.trims.isSome then x.markAll 2 else x
      ({ x with trims := none, tempRef := x.temp0.getD x.tempRef, refDue := x.temp0.isNone } : Tile).mapCells (fun c => { c with cal := calNone })
    | some b =>
      let x := ({ x with trims := some ((g.bytes.drop (b + 64)).take 4864), tempRef := sField 16 (fieldAt g.bytes (b + 4) 2)
                         refDue := false, uncal := false } : Tile).markAll 2
      (List.range laneCount).foldl (fun x l => x.onCell l (fun z => { z with cal := g.cal b t l })) x)

/-- The restore ends: SEED_ABSENT, SEED_MISMATCH, or the calibration is loaded and STAGE becomes SEEDED. -/
def execSeedRestoreDone (s : State) : Host.Outcome State Fault Refusal :=
  run s (fun d => d.act (fun m =>
    if (d.mast m).boot.busy != some .seedRestore then d
    else match (d.mast m).boot.nor.newest with
      | none => d.bringEnd m .seedAbsent none
      | some img =>
        let crc := match (d.fab m).topo with
          | some t => t.table.crc
          | none => 0
        if img.topoCrc != crc then d.bringEnd m .seedMismatch none
        else (d.loadSeed img).bringEnd m .ok (some .seeded)))

/-! ## LOOP_ARM and READY (R63, R64) -/

/-- LOOP_ARM: the ramp starts at the next watch boundary. -/
def Dev.loopArmStart (d : Dev) (m : MastId) : Dev := d.bring m .loopArm [.seeded] (fun d => d)

/-- LOOP_ARM, bit 4 of FAB_BRING. -/
def execLoopArm (m : MastId) (s : State) : Host.Outcome State Fault Refusal :=
  run s (fun d => d.loopArmStart m)

/-- READY: epoch 0, an empty map, and the poller's first read if the host interface is enabled (R64, R71). -/
def execStageReady (s : State) : Host.Outcome State Fault Refusal :=
  run s (fun d => d.act (fun m =>
    match (d.mast m).boot.readyAt with
    | none => d
    | some b =>
      if (d.mast m).boot.busy != some .loopArm || d.beat < b then d
      else
        let d := (d.onBoot m (fun x => { x with readyAt := none })).bringEnd m .ok (some .ready)
        let en := d.hifEn m
        let now := d.beat
        let d := d.onHif m (fun h => { h with running := en, firstPoll := true, pollAt := now, sweep := 0 })
        d.onFab m (fun f => { f with epoch := 0, map := [], portEpoch := [], strikeTime := none })))

/-- A rail out of tolerance or a power failure (R300): a save under way leaves its slot invalid. -/
def execPowerFailure (s : State) : Host.Outcome State Fault Refusal :=
  run s (fun d =>
    let cut := fun (b : Boot) => { b with nor := { b.nor with job := none } }
    (d.onBoot .fore cut).onBoot .main cut)

end Sys2Proof.Machine
end

