-- ==== Sys2Proof/Machine/Kernel.lean ====
section
/-! DEFINITION. Kernel events and kernel management (R203, R208, R209, R224 to R235). -/

namespace Sys2Proof.Machine

/-- An illegal bundle of R224 stops the kernel context, raises source 96 + 16c + j and fences the core. -/
def execIllegalBundle (core : Nat) (bundle : BitVec 64) (s : State) : Host.Outcome State Fault Refusal :=
  run s (fun d => d.act (fun m =>
    let c := d.core m core
    let len := if c.run == .running then c.codeLen else 65536
    if d.canIssue m core && bundleIllegal len c.pc c.delay bundle then d.illegal m core else d))

/-- Interrupt entry (R225): everything issued has landed, IPC and IST are written, IE is cleared, the handler issues. -/
def Core.interrupt (c : Core) (h cycles : Nat) : Core :=
  let c := c.pass (maxLatency + cycles)
  { c with
    r := { c.r with ipc := BitVec.ofNat 13 c.pc, ist := c.r.stat ++ BitVec.ofBool c.r.ie, ie := false }
    pc := h
    spentLoop := if c.cls then c.spentLoop else c.spentLoop + cycles
    spentDither := if c.cls then c.spentDither + cycles else c.spentDither }

/-- A core takes an interrupt at a bundle boundary under R225's conditions; entry costs at most 14 cycles, which of them
is free (assumption 16). -/
def execInterruptEntry (core : Nat) (s : State) : Host.Outcome State Fault Refusal :=
  run s (fun d => d.act (fun m =>
    let c := (d.core m core).openA
    match c.handler with
    | some h =>
      if c.r.ie && (c.ipend &&& c.imask) != 0 && !c.delay && d.canIssue m core then
        d.drawNat (fun n d => d.setCore m core (c.interrupt h (n % 15)))
      else d
    | none => d))

/-- The allowance of the kernel's current class is spent: it stops until the next watch boundary (R228). -/
def execKernelBudgetStop (core : Nat) (s : State) : Host.Outcome State Fault Refusal :=
  run s (fun d => d.act (fun m =>
    let c := d.core m core
    if (c.run == .shipped || c.run == .running) && !d.canIssue m core && core < 64 then
      d.onCore m core (fun c => { c.openA with run := .budget })
    else d))

/-- Cycles of one core's allowance in a class, less what it has spent of it (R228); class 1, dither and lock-in, is shared with
the kernel context. -/
def Dev.svcLeft (d : Dev) (m : MastId) (k cls : Nat) : Nat :=
  let c := d.core m k
  d.budget m 0 cls / 16 - (if cls == 1 then c.spentDither else tget 0 c.spentSvc cls)

/-- Has firmware work of a class for a core: a pass over its tile, a solve, a test of its unit, the dither of closed loops
(R203, R35)? -/
def Dev.svcWork (d : Dev) (m : MastId) (k cls : Nat) : Bool :=
  match cls with
  | 1 => (d.tile (k / 4)).closed
  | 2 => (d.mast m).cal.pass.any (fun p => bit p.req.tiles (k / 4))
  | 5 => (d.mast m).fab.sheafs.any (fun y => y.phase == .solving && !y.work.solved)
  | 6 => !(d.mast m).flt.running.isEmpty
  | _ => false

/-- The service context runs for `cycles` cycles while it has work and allowance, charged to a class of its own: calibration,
route-assist, Winnow tests, or firmware's dither and lock-in, in that order (assumption 108). To the kernel the run shows only as
lost time; what it leaves in its own registers and memories is free (R203). -/
def execServiceContextRun (core cycles : Nat) (s : State) : Host.Outcome State Fault Refusal :=
  run s (fun d => d.act (fun m =>
    match [2, 5, 6, 1].find? (fun cls => d.svcWork m core cls && cycles ≤ d.svcLeft m core cls && !d.waits m 0 cls (core / 16)) with
    | some cls =>
      if 64 ≤ core then d
      else d.drawNat (fun n d => d.onCore m core (fun c => { c.openA.pass cycles with
        svc := n
        spentDither := if cls == 1 then c.spentDither + cycles else c.openA.spentDither
        spentSvc := if cls == 1 then c.spentSvc else tset 0 c.spentSvc cls (tget 0 c.spentSvc cls + cycles) }))
    | none => d))

/-- A store to CODE_OUT (R209). -/
def execCodeOut (core : Nat) (word : Word) (s : State) : Host.Outcome State Fault Refusal :=
  run s (fun d => d.act (fun m => if d.canIssue m core then d.onCore m core (fun c => c.post word.toNat) else d))

/-- A kernel write of SQ_CONS (R208). -/
def execSqCons (core : Nat) (value : Word) (s : State) : Host.Outcome State Fault Refusal :=
  run s (fun d => d.act (fun m => if d.canIssue m core then d.onCore m core (fun c => c.putCons value) else d))

/-! ## Loading -/

def Dev.onKern (d : Dev) (m : MastId) (f : Kern → Kern) : Dev :=
  d.onMast m (fun x => { x with kern := { f x.kern with ver := x.kern.ver + 1 } })

/-- The standby takes the holder's kernel state, unless it has a newer one already (R231 to R233). It verifies its own copy of an
image: it keeps one that it does not hold already only where the image verifies on it too (assumption 101). -/
def Mast.takeKern (x : Mast) (k : Kern) : Mast :=
  let take := fun (e : Nat × Option KernelImage) => match e.2 with
    | some g => tget none x.kern.handles e.1 == some g || x.boot.kernelOk g
    | none => false
  if k.ver < x.kern.ver then x else { x with kern := { k with handles := k.handles.filter take } }

/-- The holder's kernel state mirrored over the gaff link (R231, R232). -/
def Dev.mirrorKern (d : Dev) (m : MastId) : Dev :=
  if (d.mast m).pen.gaff then d.onMast (peerOf m) (fun x => x.takeKern (d.mast m).kern) else d

def Dev.handle (d : Dev) (m : MastId) (h : Nat) : Option KernelImage := tget none (d.mast m).kern.handles h

/-- Is any tile bound to the handle? -/
def Dev.handleBound (d : Dev) (m : MastId) (h : Nat) : Bool := (d.mast m).kern.bound.any (fun e => e.2 == h)

/-- KERNEL_LOAD (R231). -/
def execKernelLoad (ring seq : Nat) (slot : SlotIn) (handle : Nat) (s : State) : Host.Outcome State Fault Refusal :=
  let img : KernelImage := ⟨slot.bytes⟩
  run s (fun d => d.start ring seq 0x80 (fun m x d => d.need m x 8 (fun d =>
    d.slotHold m x slot (fun st d => d.complete m x st) (fun d =>
      let give := fun (st : Status) (d : Dev) => (d.returnIn m x slot false).complete m x st
      if handle < 1 || 4 < handle || d.handleBound m handle then give .badState d
      else d.slotCheck m x slot (fun st d => d.complete m x st) (fun d =>
        if !img.formatOk slot.len then give .kernelFormat d
        else if !(d.mast m).boot.kernelOk img then give .kernelSig d
        else d.onKern m (fun k => { k with loading := k.loading ++ [(ring, seq, handle, img, slot)] }))))))

/-- The image is stored as the handle and mirrored, and KERNEL_LOAD completes (R231). -/
def Dev.kernelStored (d : Dev) (m : MastId) (x : Desc) : Dev :=
  match (d.mast m).kern.loading.find? (fun l => l.1 == x.ring && l.2.1 == x.ent.seq) with
  | none => d
  | some l =>
    let d := d.onKern m (fun k => { k with
      handles := tset none k.handles l.2.2.1 (some l.2.2.2.1)
      loading := k.loading.filter (fun y => !(y.1 == x.ring && y.2.1 == x.ent.seq)) })
    let d := d.onMast m (fun y => { y with mem := { y.mem with lostKern := y.mem.lostKern.filter (· != l.2.2.1) } })
    ((d.mirrorKern m).returnIn m x l.2.2.2.2 false).complete m x .ok

/-- The image has been copied; while PROTECTED it becomes the handle at the standby's acknowledgement (R402). -/
def execKernelLoadDone (ring seq : Nat) (s : State) : Host.Outcome State Fault Refusal :=
  run s (fun d => d.act (fun m =>
    match d.findDesc m ring seq with
    | none => d
    | some x =>
      if x.defer.isSome || !(d.mast m).kern.loading.any (fun l => l.1 == ring && l.2.1 == seq) then d
      else if (d.mast m).pen.protect then d.onDesc m ring seq (fun y => { y with defer := some (.kernelLoadDone ring seq) })
      else d.kernelStored m x))

/-! ## Binding (R232) -/

/-- A core as a bind leaves it: code, initial data, STATE and SCRATCH_LO zero, every register zero, IO page reset. -/
def Core.bind (c : Core) (g : KernelImage) : Core :=
  let kept := c.mem.filter (fun e => e.1 < 0x8000 || 0x2E000 ≤ e.1)
  let init := (List.range (Nat.min g.initLen 0x8000)).foldl (fun t i => tset 0 t (0x2E000 + i) (g.init.getD i 0)) kept
  { coreReset with run := .running, codeLen := g.codeLen, entry := g.entry, handler := g.handler, pc := g.entry
                   stateBytes := g.stateBytes, imem := g.code, mem := init }

/-- A core takes what its tile is bound to: a kernel from ENTRY, or the shipped law with the bumpless load of unfencing. Where a
bind of handle 0 takes effect F is 0; an unfenced core that ran the shipped law before keeps its F (`keep`; R190, R232). The first
entry of every cell carries RESTART (R207). -/
def Dev.bindCore (d : Dev) (m : MastId) (k : Nat) (keep : Bool) : Dev :=
  let first := fun (c : Cell) => { c with lp := { c.lp with win := [], restart := true, first := true } }
  match d.handle m (tget 0 (d.mast m).kern.bound (k / 4)) with
  | some g => (d.onCore m k (fun c => c.bind g)).onCoreCells k (fun _ c => first c)
  | none =>
    (d.setCore m k coreReset).onCoreCells k (fun x c => first (c.bumpless x.par x.railMv c.htr.inForce (if keep then c.lp.F else 0)))

/-- KERNEL_BIND's checks and its pending bind. -/
def Dev.kernelBind (d : Dev) (tile handle : Nat) (m : MastId) (x : Desc) : Dev :=
  d.need m x 8 (fun d =>
    if (d.mast m).mem.lostKern.contains handle then
      let d := d.onMast m (fun x => { x with mem := { x.mem with lostKern := x.mem.lostKern.filter (· != handle) } })
      ((d.onKern m (fun k => { k with handles := tset none k.handles handle none })).mirrorKern m).complete m x .memLost
    else if !(d.tile tile).enabled || 16 ≤ tile || (handle != 0 && (d.handle m handle).isNone) then d.complete m x .badState
    else (d.onKern m (fun k => { k with
      pend := k.pend ++ [(tile, handle, x.ring, x.ent.seq, x.acceptedAt)] })).mirrorKern m)

/-- KERNEL_BIND. -/
def execKernelBind (ring seq tile handle : Nat) (s : State) : Host.Outcome State Fault Refusal :=
  run s (fun d => d.startLasting ring seq 0x81 (.kernelBind ring seq tile handle)
    (fun m x d => d.kernelBind tile handle m x))

/-- The first loop-period boundary of the tile at least 100 µs after acceptance: its four cores take the kernel. A fenced
core takes it when it is unfenced. A handle dropped since then is empty, and the bind ends with BAD_STATE (assumption 32). -/
def execKernelBindApply (tile : Nat) (s : State) : Host.Outcome State Fault Refusal :=
  run s (fun d => d.act (fun m =>
    match (d.mast m).kern.pend.find? (fun p => p.1 == tile) with
    | none => d
    | some p =>
      if d.loopEdge tile && p.2.2.2.2 + 1000 ≤ d.beat then
        let empty := p.2.1 != 0 && (d.handle m p.2.1).isNone
        let d := d.onKern m (fun k => { k with
          bound := if empty then k.bound else tset 0 k.bound tile p.2.1
          pend := k.pend.eraseP (fun q => q == p) })
        let d := (d.mirrorKern m).each ([0, 1, 2, 3].map (fun j => 4 * tile + j))
          (fun k d => if empty || d.coreFenced m k then d else d.bindCore m k false)
        match d.findDesc m p.2.2.1 p.2.2.2.1 with
        | some x => d.complete m x (if empty then .badState else .ok)
        | none => d
      else d))

/-- KERNEL_DROP's check and effect. -/
def Dev.kernelDrop (d : Dev) (handle : Nat) (m : MastId) (x : Desc) : Dev :=
  d.need m x 8 (fun d =>
    if (d.handle m handle).isNone || d.handleBound m handle then d.complete m x .badState
    else ((d.onKern m (fun k => { k with handles := tset none k.handles handle none })).mirrorKern m).complete m x .ok)

/-- KERNEL_DROP. -/
def execKernelDrop (ring seq handle : Nat) (s : State) : Host.Outcome State Fault Refusal :=
  run s (fun d => d.startLasting ring seq 0x82 (.kernelDrop ring seq handle) (fun m x d => d.kernelDrop handle m x))

/-- At the first watch boundary after a change of mast, cores start from ENTRY in the state of a bind but for the mirror words (R213,
R404); a core of the shipped law starts afresh. A core
that the new holder has fenced takes its kernel when it is unfenced (R232). -/
def Dev.startCores (d : Dev) (sb : MastId) : Dev :=
  let d := d.onMast sb (fun x => { x with pen := { x.pen with due := false } })
  d.each (List.range 64) (fun k d => match d.handle sb (tget 0 (d.mast sb).kern.bound (k / 4)) with
    | none => d.setCore sb k coreReset
    | some g =>
      if d.coreFenced sb k then d.onCore sb k (fun c => { c with run := .stopped })
      else
      let old := d.core sb k
      let c := coreReset.bind g
      let word := fun (mem : List Host.Cell) (s : Nat) => (List.range 4).foldl (fun mem i =>
        let a := 0x10000 + s * g.stateBytes + i
        tset 0 mem a (tget 0 old.mem a)) mem
      d.setCore sb k { c with mem := (List.range 384).foldl word c.mem })

end Sys2Proof.Machine
end

