-- ==== Sys2Proof/Machine/Drive.lean ====
section
/-! DEFINITION. Fast-drive channels: targets, the slew limiter, PARK_N, gain and heater-limit reports (chapter 08). -/

namespace Sys2Proof.Machine

/-! ## Outputs (R236) -/

/-- A fast drive's output in units of 1 V ÷ 4,095: G × 3.0 V × code ÷ 4,095. -/
def fastVolts (gain : Bool) (code : Nat) : Nat := (if gain then 2 else 1) * 3 * code

/-- A lane's fast-drive output; 0 V while the analogue domain is off (R254). -/
def Tile.fastOut (x : Tile) (l : Nat) : Nat := if x.alive then fastVolts x.gain (x.cell l).drv.O else 0

/-- A lane's heater output in units of 1 mV ÷ 65,536, at a rail of `mv`; nothing while the analogue domain is off (R254). -/
def Tile.heaterOut (x : Tile) (mv l : Nat) : Nat := if x.alive then heaterVolts mv (x.cell l).htr.applied else 0

/-! ## One channel (R238, R242) -/

/-- The effective target E. -/
def Drive.E (x : Drive) (low : Bool) : Nat := if low || !x.W then x.P else x.T

/-- A step toward E by at most S; the next step beat is R beats on. -/
def Drive.toward (x : Drive) (E S R beat : Nat) : Drive :=
  let o := if x.O < E then Nat.min (x.O + S) E else Nat.max (x.O - S) E
  { x with O := o, step := if o == E then none else some (beat + R) }

/-- A channel whose E has just changed: an idle one steps now, a moving one keeps its step beat, which may be now. -/
def Drive.follow (x : Drive) (E S R beat : Nat) : Drive :=
  if x.O == E then { x with step := none }
  else match x.step with
    | some b => if b ≤ beat then x.toward E S R beat else x
    | none => x.toward E S R beat

/-- Bookkeeping of a fast-drive target change (R186, R189): the scan in progress began before the new target (R206). -/
def Cell.stepped (c : Cell) (e0 e1 : Nat) : Cell :=
  { c with mon := { c.mon with moving := true }, lp := { c.lp with dstep := c.lp.dstep + ((e1 : Int) - e0), win := [], restart := true } }

/-- The cell as the beat in progress found it. -/
def Cell.atStart (c : Cell) (was : Bool) (beat : Nat) : Before :=
  match c.before with
  | some b => if b.beat == beat then b else ⟨beat, c.drv.E was, c.drv.O, c.drv.step, 0, c.lp.win, c.lp.restart, c.mon.moving⟩
  | none => ⟨beat, c.drv.E was, c.drv.O, c.drv.step, 0, c.lp.win, c.lp.restart, c.mon.moving⟩

/-- Earlier changes of E in the same beat taken back, with the drive that is to be. -/
def Cell.unmoved (c : Cell) (b : Before) (x : Drive) : Cell :=
  { c with
    drv := { x with O := b.O, step := b.step }, lp := { c.lp with dstep := c.lp.dstep - b.delta, win := b.win, restart := b.restart }
    mon := { c.mon with moving := b.moving } }

/-- Change P, T, W or the level of PARK_N (`was` before, `low` from now) of a cell. E is formed once for all that reaches the
channel at one boundary, so a change is judged against E at the start of the beat (R240). `hold`: the first step waits for
SLEW_STEP. Outputs follow P at once while PARK_N is low and on a channel not written (R246, R254). -/
def Cell.retarget (c : Cell) (was low hold : Bool) (S R beat : Nat) (f : Drive → Drive) : Cell :=
  let x := f c.drv
  let e1 := x.E low
  if c.drv.E was = e1 then { c with drv := x }
  else
    let b := c.atStart was beat
    let y := c.unmoved b x
    if b.E = e1 then { y with before := some { b with delta := 0 } }
    else
      let z := y.drv
      let z := if low || (!c.drv.W && !x.W) then { z with O := e1, step := none }
        else if hold && z.step.isNone && z.O != e1 then { z with step := some beat }
        else if hold then { z with step := if z.O == e1 then none else z.step }
        else z.follow e1 S R beat
      { ({ y with drv := z } : Cell).stepped b.E e1 with before := some { b with delta := (e1 : Int) - b.E } }

/-- The tile's drive settings in force, STEP and RATE of FAB_DRV_TILEt. -/
def Dev.drvSet (d : Dev) (t : Nat) : Nat × Nat :=
  let m := d.holder.getD .fore
  (d.effF m (0x4500 + 8 * t) 20 12, d.effF m (0x4500 + 8 * t) 32 8)

/-- Change a cell's drive at the beat in progress. -/
def Dev.retarget (d : Dev) (t l : Nat) (hold : Bool) (f : Drive → Drive) : Dev :=
  let s := d.drvSet t
  let now := d.beat
  d.onTile t (fun x => x.onCell l (fun c => c.retarget x.parkLow x.parkLow hold s.1 s.2 now f))

/-- Change every cell of a tile. -/
def Dev.retargetAll (d : Dev) (t : Nat) (f : Drive → Drive) : Dev :=
  let s := d.drvSet t
  let now := d.beat
  d.onTile t (fun x => x.mapCells (fun c => c.retarget x.parkLow x.parkLow false s.1 s.2 now f))

/-- The code a target stands for under the calibration in force (R239, R277), and the drive it leaves. -/
def Cell.setTgt (c : Cell) (g : Tgt) (x : Drive) : Drive :=
  match g with
  | .bar => { x with T := c.cal.bar, W := true, logical := some .bar }
  | .cross => { x with T := c.cal.cross, W := true, logical := some .cross }
  | .code v => { x with T := v, W := true, logical := none }
  | .clearW => { x with W := false, logical := none }

/-- A target given to a cell. Where XSTATE or CODED changes with it, firmware rewrites the cell's record (R210). -/
def Dev.setTgt (d : Dev) (t l : Nat) (hold : Bool) (g : Tgt) : Dev :=
  let old := ((d.tile t).cell l).drv.logical
  let d := d.retarget t l hold (fun x => ((d.tile t).cell l).setTgt g x)
  if ((d.tile t).cell l).drv.logical == old then d else d.act (fun m => d.rewrote m (4 * t + l / 384))

/-- Populated and powered tiles: those whose analogue domain is alive. -/
def Dev.aliveTiles (d : Dev) : List Nat := (List.range 16).filter (fun t => (d.tile t).alive)

/-! ## Commands -/

/-- A step beat of a moving channel (R242). While a Winnow test of the cell runs its fast drive is held at O (R386). -/
def execSlewStep (cell : Nat) (s : State) : Host.Outcome State Fault Refusal :=
  run s (fun d =>
    let t := cell / laneCount
    let x := d.tile t
    let k := d.drvSet t
    match (d.cell cell).drv.step with
    | some b => if b ≤ d.beat && x.alive && !x.parkLow && cell < cellCount && !d.testing d.server ⟨.cell, cell⟩ then
        d.onCell cell (fun c => { c with drv := c.drv.toward (c.drv.E false) k.1 k.2 d.beat })
      else d
    | none => d)

/-- An immediate write (R239 to R241): it waits for the next beat boundary. A tile refuses a Thresh write to a lane whose
LIVE bit is 1 (R284), and discards a frame that fails its CRC, carries another pennant epoch or arrives once the lease has run
out (R398). -/
def execImmediateWrite (cell : Nat) (tgt : Tgt) (pennant : Nat) (thresh crcOk : Bool) (s : State) :
    Host.Outcome State Fault Refusal :=
  run s (fun d =>
    let t := cell / laneCount
    let x := d.tile t
    if x.alive && crcOk && pennant == x.link.pen && d.beat < x.link.leaseEnd && cell < cellCount && !(thresh && (d.cell cell).drv.live) then
      let m := d.server
      if (d.stay m t).down.writeFree d.beat then
        let now := d.beat
        (d.onStay m t (fun s => { s with down := s.down.writeUse now })).onTile t (fun x =>
          { x with imm := x.imm ++ [(cell % laneCount, tgt, thresh)] })
      else d
    else d)

/-- The immediate and PARK writes that wait reach the channels (R239, R240). -/
def Dev.applyImm (d : Dev) (t : Nat) : Dev :=
  let x := d.tile t
  let d := d.onTile t (fun x => { x with imm := [], parkW := none })
  let d := d.each x.imm (fun w d => if w.2.2 && (d.cell (t * laneCount + w.1)).drv.live then d else d.setTgt t w.1 true w.2.1)
  match x.parkW with
  | some p => d.retargetAll t (fun y => { y with P := p })
  | none => d

/-- A tile sees PARK_N low: E = P and O = P on every channel (R246). While a scan runs, every window of the tile restarts and the
scan is marked (R189). -/
def Tile.park (x : Tile) : Tile :=
  let y := x.mapCells (fun c =>
    let e0 := c.drv.E x.parkLow
    let c' := { c with drv := { c.drv with O := c.drv.P, step := none }, before := none }
    let c' := if e0 = c.drv.P then c' else c'.stepped e0 c.drv.P
    if x.conv.scanning then c'.restart else c')
  { y with parkLow := true, parkRelease := none
           conv := if x.conv.scanning then { y.conv with parkSeen := true, parkHold := true } else y.conv }

/-- PARK_N falls. Every round in progress is interrupted (R292). -/
def execParkNFall (s : State) : Host.Outcome State Fault Refusal :=
  run s (fun d =>
    let d := { d with pins := { d.pins with parkN := false } }
    let d := d.onTiles d.aliveTiles (fun _ x => x.park)
    d.act (fun m => d.interrupt m (fun _ => true) (fun _ => false)))

/-- PARK_N rises: the release falls at the first beat boundary at least 100 ns after the edge (assumption 23). -/
def execParkNRise (s : State) : Host.Outcome State Fault Refusal :=
  run s (fun d =>
    if d.pins.parkN then d
    else
      let d := { d with pins := { d.pins with parkN := true } }
      let at_ := d.beat + 2
      d.onTiles d.aliveTiles (fun _ x => { x with parkRelease := some at_ }))

/-- E returns to T for every written channel, and the limiter moves O (R246). -/
def Tile.release (x : Tile) (S R beat : Nat) : Tile :=
  { x.mapCells (fun c => c.retarget true false false S R beat id) with parkLow := false, parkRelease := none }

/-- The release boundary. -/
def execParkRelease (s : State) : Host.Outcome State Fault Refusal :=
  run s (fun d => d.each d.aliveTiles (fun t d =>
    match (d.tile t).parkRelease with
    | some b => if b ≤ d.beat && d.pins.parkN then
        let k := d.drvSet t
        d.onTile t (fun x => x.release k.1 k.2 d.beat)
      else d
    | none => d))

/-- Is every channel of the tile idle with O equal to P (R245)? -/
def Tile.allParked (x : Tile) : Bool := x.allCells (fun c => c.drv.O == c.drv.P && c.drv.E x.parkLow == c.drv.O)

/-- A tile takes its requested gain. -/
def execGainTake (tile : Nat) (s : State) : Host.Outcome State Fault Refusal :=
  run s (fun d =>
    let x := d.tile tile
    match x.gainReq with
    | some g => if x.alive && x.allParked then d.onTile tile (fun x => { x with gain := g, gainReq := none }) else d
    | none => d)

/-- FAB_DRV_TILEt (R255). -/
def execFabDrvTileWrite (tile : Nat) (w : RegWr) (s : State) : Host.Outcome State Fault Refusal :=
  run s (fun d =>
    let off := 0x4500 + 8 * tile
    if 16 ≤ tile then d
    else d.barWrite off w (fun m info v d =>
      let old := d.reg m off
      let late := (d.mast m).boot.stage == .arming || (d.mast m).boot.stage == .ready
      let park := fld v 0 12 != fld old 0 12
      let keepIf := fun (c : Bool) (lo n : Nat) (r : Reg64) => if c then setFld r lo n (fld old lo n) else r
      let r := plainWrite info old v
      let r := keepIf (park && late) 0 12 r
      let r := keepIf (fld v 20 12 == 0) 20 12 r
      let r := keepIf (fld v 32 8 == 0) 32 8 r
      let d := (d.setReg m off r).mirrorClear m off (v &&& info.w1c)
      let d := if park then
          if late then d.flag m off 40
          else if d.takes m tile && (d.tile tile).leaseRuns d.beat then d.onTile tile (fun x => { x with parkW := some (fld v 0 12) })
          else d
        else d
      if w.half == .hi then d
      else
        let g := fld v 16 1 == 1
        let d := if g == (d.tile tile).gain then d else d.remeasure m tile
        d.onTile tile (fun x => { x with gainReq := if g == x.gain then none else some g })))

/-- The mast receives heater-limit reports of a tile (R252, R378): LANE is fenced; in its own
test the limit is the outcome (R388). -/
def execHeaterLimitReport (tile : Nat) (s : State) : Host.Outcome State Fault Refusal :=
  run s (fun d => d.act (fun m =>
    let hits := (d.tile tile).link.reports.filterMap (fun r => match r with
      | .heater l c => some (l, c)
      | _ => none)
    if hits.isEmpty then d
    else d.upGo m tile 3 (fun d =>
      let d := d.onTile tile (fun x => { x with link := { x.link with reports := x.link.reports.filter (fun r => match r with
        | .heater _ _ => false
        | _ => true) } })
      d.each hits (fun h d =>
        let cell := tile * laneCount + h.1
        if d.testing m ⟨.lane, cell⟩ then d.testBad m ⟨.lane, cell⟩
        else d.report m (48 + tile) 2 cell (BitVec.ofNat 32 h.2) (some ⟨.lane, cell⟩)))))

end Sys2Proof.Machine
end

