-- ==== Sys2Proof/Machine/Param.lean ====
section
/-! DEFINITION. Loop parameters taking effect (R114, R189, R190, R192 to R196, R210). -/

namespace Sys2Proof.Machine

/-- A Tile parameter replaced (R193). -/
def Par.set (p : Par) (k v : Nat) : Par :=
  match k with
  | 0x01 => { p with period := v }
  | 0x08 => { p with ditherAmp := v }
  | 0x09 => { p with htrTau := v }
  | 0x0A => { p with kappa := v }
  | 0x0B => { p with lightFloor := v }
  | 0x0C => { p with railFf := v }
  | 0x0D => { p with railRef := v }
  | 0x0E => { p with stepGain := v }
  | 0x0F => { p with stepTau := v }
  | _ => p

/-- MODE replaced: leaving OPEN restarts the window and loads OPEN_CODE; OPEN clears the window (R189, R190, R192). -/
def Cell.setMode (c : Cell) (p : Par) (mv v : Nat) : Cell :=
  let c' : Cell := { c with lp := { c.lp with mode := v } }
  if c.lp.mode == 2 && v != 2 then c'.bumpless p mv c.lp.openCode c.lp.F
  else if v == 2 then { c' with lp := { c'.lp with win := [] } }
  else c'

/-- A cell's parameter replaced. -/
def Cell.setParam (c : Cell) (p : Par) (mv k v : Nat) : Cell :=
  match k with
  | 0x02 => { c with lp := { c.lp with kp := v } }
  | 0x03 => { c with lp := { c.lp with ki := v } }
  | 0x04 => { c with lp := { c.lp with lo := v } }
  | 0x05 => { c with lp := { c.lp with hi := v } }
  | 0x06 => c.setMode p mv v
  | 0x07 => { c with lp := { c.lp with openCode := v } }
  | _ => c

/-- Is it a parameter of the tile (R193)? -/
def tileParam (k : Nat) : Bool := k == 1 || 8 ≤ k

/-- Does a change of the parameter restart every window of the tile (R189)? -/
def restarts (k : Nat) : Bool := k == 1 || k == 8 || k == 9

/-- One SET_LOOP takes effect: `none` for every cell of the tile. PERIOD at its value in force counts as a change (R320). -/
def Tile.setParam (x : Tile) (lane : Option Nat) (k v : Nat) : Tile :=
  if tileParam k then
    let moved := x.par.get k != v
    let x := { x with par := x.par.set k v, phase := if k == 1 then 0 else x.phase }
    if k == 1 || (restarts k && moved) then x.mapCells Cell.restart else x
  else
    match lane with
    | some l => x.onCell l (fun c => c.setParam x.par x.railMv k v)
    | none => x.mapCells (fun c => c.setParam x.par x.railMv k v)

/-- May a pending change take effect at a label (R114, R195)? -/
def Tile.ripe (x : Tile) (ns : Nat) (e : Option Nat × Nat × Nat) : Bool :=
  ns % (20000 * x.par.period) == 0 && (e.2.1 != 1 || ns % (20000 * e.2.2) == 0)

/-- The cores whose cells a change reaches. -/
def coresOf (t : Nat) (e : Option Nat × Nat × Nat) : List Nat :=
  match e.1 with
  | some l => if tileParam e.2.1 then [4 * t, 4 * t + 1, 4 * t + 2, 4 * t + 3] else [4 * t + l / 384]
  | none => [4 * t, 4 * t + 1, 4 * t + 2, 4 * t + 3]

/-- The pending changes of a tile that may take effect now do so, in order. -/
def Dev.takeParams (d : Dev) (t : Nat) : Dev :=
  let x := d.tile t
  let ns := d.now.ns
  let now := x.pend.filter (x.ripe ns)
  if now.isEmpty then d
  else
    let d := d.onTile t (fun x =>
      now.foldl (fun x e => x.setParam e.1 e.2.1 e.2.2) { x with pend := x.pend.filter (fun e => !x.ripe ns e) })
    d.act (fun m => d.each ((now.flatMap (coresOf t)).eraseDups) (fun k d => d.rewrote m k))

end Sys2Proof.Machine
end

