-- ==== Sys2Proof/Machine/Thresh.lean ====
section
/-! DEFINITION. What Thresh measures (R262, R285, R287 to R290): samples of a pass, fast-drive sweeps, extrema, gains, extinction. -/

namespace Sys2Proof.Machine

/-- The corrected code (R262): MOFS in sixteenths of a raw LSB, MGAIN in Q2.14. -/
def corrected (mofs : Int) (mgain raw : Nat) : Nat := clampN 0 65535 (rhuDiv (mgain * (16 * (raw : Int) - mofs)) 262144)

/-- May the sample be the first of a new window (R189)? -/
def Tile.usable (x : Tile) (c : Cell) : Bool := !c.mon.moving && !x.conv.parkSeen && !x.conv.parkHold

/-! ## Samples (R179, R184, R285, R288) -/

/-- A cell's sample of a loop scan: whether it has light, whether a conversion was over range, the product r × q where the sample
is valid, and the outputs of both arms. -/
structure Measured where
  lit : Bool
  ovr : Bool
  prod : Option Int
  outs : Nat × Nat
deriving DecidableEq, Repr

/-- The phase index of a tile's tones: its own where its loops are closed, else from the start of its round (R288). -/
def Dev.phaseIndex (d : Dev) (p : Pass) (t : Nat) : Nat :=
  if (d.tile t).closed then (d.tile t).phase else (d.beat - tget 0 p.roundBeat t) / (d.tile t).par.beats % 17

/-- Is the sample that the scan in progress has taken of a cell valid (R179, R189)? -/
def Dev.sampleValid (d : Dev) (m : MastId) (cell : Nat) : Bool :=
  let t := cell / laneCount
  let x := d.tile t
  let c := d.cell cell
  let ab := c.mon.s0.code + c.mon.s1.code
  !c.mon.s0.settle && !c.mon.s1.settle && !c.mon.s0.ovr && !c.mon.s1.ovr && x.par.lightFloor ≤ ab && ab != 0 && x.usable c &&
    !(x.closed && d.coreFenced m (4 * t + cell % laneCount / 384))

/-- Has a sample's r the sign of s: positive at BAR, negative at CROSS (R184)? A cell of no logical state, whose s is 0, asks for no
sign (DESIGN CHOICE, assumption 112). -/
def signOk (c : Cell) (r : Int) : Bool :=
  match c.drv.logical with
  | some .bar => 0 < r
  | some .cross => r < 0
  | _ => true

/-- What a loop scan of a tile gives the dither re-measures of its cells (R386). -/
def Dev.gatherTests (d : Dev) (m : MastId) (t : Nat) : Dev :=
  d.onFlt m (fun f => { f with running := f.running.map (fun e =>
    if e.unit.kind != .cell || e.unit.idx / laneCount != t then e
    else
      let c := d.cell e.unit.idx
      let a := c.mon.s0.code
      let b := c.mon.s1.code
      { e with
        lit := e.lit || (d.tile t).par.lightFloor ≤ a + b
        win := if d.sampleValid m e.unit.idx then (signOk c (monRatio a b) :: e.win).take 17 else [] }) })

/-- The sample of a cell that the scan in progress has taken. A core that is fenced computes no law for it (R179, R191). -/
def Dev.sampleOf (d : Dev) (m : MastId) (p : Pass) (cell : Nat) : Measured :=
  let t := cell / laneCount
  let x := d.tile t
  let c := d.cell cell
  let a := c.mon.s0.code
  let b := c.mon.s1.code
  let lit := x.par.lightFloor ≤ a + b
  let ok := d.sampleValid m cell
  ⟨lit, (c.mon.h0.take 1 ++ c.mon.h1.take 1).any Samp.ovr,
    if ok then some (monRatio a b * x.par.ref (c.lp.tone + 1) (cell % laneCount / 24) (d.phaseIndex p t)) else none, (a, b)⟩

/-- A window of 17 consecutive valid samples, newest first (R184): an invalid one empties it (R179). -/
def pushWin (w : List Int) (s : Measured) : List Int :=
  match s.prod with
  | none => []
  | some v => (v :: w).take 17

/-- A sample added to what the phase in progress has collected on a cell. -/
def PassCell.feed (c : PassCell) (s : Measured) : PassCell :=
  { c with lit := c.lit || s.lit, ovr := c.ovr || s.ovr, win := pushWin c.win s, seen := if s.prod.isSome then s.outs else c.seen }

/-- A loop scan of tile `t` ends: what it gives one cell of the pass. A DITHER cell keeps the first 17 consecutive valid samples
(R285); a swept one collects in phases A, C and D, and from C on its neighbours' windows too (R288). -/
def Dev.gatherCell (d : Dev) (m : MastId) (t : Nat) (p : Pass) (c : PassCell) : PassCell :=
  let own := c.cell / laneCount == t
  let ph := tget 0 p.phase (c.cell / laneCount)
  if c.method == .dither then
    if own && c.outcome.isNone && c.since.isSome && c.win.length < 17 then c.feed (d.sampleOf m p c.cell) else c
  else if !p.active c || ph == 2 then c
  else
    let c := if own then c.feed (d.sampleOf m p c.cell) else c
    if ph == 1 then c
    else { c with nbWin := (d.nbs m c.cell).zipIdx.map (fun e =>
      if e.1 / laneCount == t then pushWin (c.nbWin.getD e.2 []) (d.sampleOf m p e.1) else c.nbWin.getD e.2 []) }

/-- What a loop scan of a tile gives the pass that runs, and Winnow's tests of its cells. -/
def Dev.gather (d : Dev) (m : MastId) (t : Nat) : Dev :=
  let d := d.gatherTests m t
  match (d.mast m).cal.pass with
  | none => d
  | some p => d.onPass m (fun q => { q with cells := q.cells.map (d.gatherCell m t p) })

/-! ## The sweep of phase B (R287, R288) -/

/-- Codes of the coarse sweep: 0, 65, 130 and so on to 4,095. -/
def coarseCodes : Nat := 64

/-- The monitor ratio at each point of a sweep, from both arms' corrected codes. -/
def PassCell.ratios (c : PassCell) (z : Cal) : List Int :=
  (c.raw0.zip c.raw1).map (fun r => monRatio (corrected (c.mofs.1.getD z.mofs0) z.mgain0 r.1) (corrected (c.mofs.2.getD z.mofs1) z.mgain1 r.2))

/-- Is a point a maximum inside the sweep: above the point before it and above the next that differs? -/
def isPeak (v : List Int) (i : Nat) : Bool :=
  match v[i]?, v[i - 1]? with
  | some y, some x => 0 < i && x < y && ((v.drop (i + 1)).find? (· != y)).any (· < y)
  | _, _ => false

/-- The highest point inside a sweep; the first of equals. -/
def peak (v : List Int) : Option Nat :=
  (List.range v.length).foldl (fun best i =>
    if !isPeak v i then best
    else match best with
      | none => some i
      | some j => if v.getD j 0 < v.getD i 0 then some i else some j) none

/-- Is BAR the extremum at which arm 0 is the brighter? It is for the physical bar state, and INVERT exchanges the two (R148). -/
def Fab.barHigh (f : Fab) (cell : Nat) : Bool := !((f.entry? cell).any (fun (e : TopoEntry) => e.invert))

/-- The two coarse extrema, BAR's and CROSS's, as points of the coarse sweep; none where it found fewer than two. -/
def coarseExtrema (v : List Int) (high : Bool) : Option (Nat × Nat) :=
  let v := v.take coarseCodes
  match peak v, peak (v.map (fun x => -x)) with
  | some a, some b => some (if high then (a, b) else (b, a))
  | _, _ => none

/-- The codes of one dwell of a sweep: 1 to 6 coarse, 7 and 8 about BAR's and CROSS's coarse extremum. -/
def sweepCodes (n : Nat) (ext : Option (Nat × Nat)) : List Nat :=
  if n < 6 then (List.range 12).map (fun j => Nat.min 4095 (65 * (12 * n + j)))
  else match ext with
    | none => []
    | some (a, b) => (List.range 12).map (fun j => 65 * (if n == 6 then a else b) + 8 * j - 44)

/-- The vertex of the parabola through the three fine points nearest an extremum, rounded half up; none where they lie on a line.
`v` holds the 12 fine ratios, turned so that the extremum is their maximum. -/
def vertex (centre : Nat) (v : List Int) : Option Nat :=
  let top := (List.range 12).foldl (fun j i => if v.getD j 0 < v.getD i 0 then i else j) 0
  let i := Nat.min 10 (Nat.max 1 top)
  let y1 := v.getD (i - 1) 0
  let y3 := v.getD (i + 1) 0
  let den := y1 - 2 * v.getD i 0 + y3
  if den = 0 then none
  else some (clampN 0 4095 (rhuDiv (((centre : Int) + 8 * i - 44) * den.natAbs + den.sign * (4 * (y1 - y3))) den.natAbs))

/-- BAR_CODE and CROSS_CODE from a whole sweep; a vertex that no parabola has is free (assumption 109). -/
def PassCell.codes (c : PassCell) (z : Cal) (high : Bool) (free : Nat) : Option (Nat × Nat) :=
  let v := c.ratios z
  (coarseExtrema v high).map (fun e =>
    let turn := fun (up : Bool) (w : List Int) => if up then w else w.map (fun x => -x)
    ((vertex (65 * e.1) (turn high ((v.drop 72).take 12))).getD (free % 4096),
     (vertex (65 * e.2) (turn (!high) ((v.drop 84).take 12))).getD (free / 4096 % 4096)))

/-- Is a cell's sweep whole? One without two coarse extrema ends with its coarse dwells. -/
def PassCell.sweepDone (c : PassCell) (z : Cal) (high : Bool) : Bool :=
  let n := if (coarseExtrema (c.ratios z) high).isSome then 96 else 72
  n ≤ c.raw0.length && n ≤ c.raw1.length

/-- MGAIN of the two arms from the largest code of each, less its offset, in sixteenths: gains that make the corrected codes equal.
Their common scale is free, within the range of MGAIN (R262; assumption 109). -/
def mgainPair (r0 r1 : Int) (free : Nat) : Nat × Nat :=
  if r0 ≤ 0 || r1 ≤ 0 then (8192 + free % 24576, 8192 + free / 24576 % 24576)
  else
    let big := Nat.max r0.toNat r1.toNat
    let small := Nat.min r0.toNat r1.toNat
    let top := 32767 * small / big
    let g := if top < 8192 then 8192 else 8192 + free % (top - 8191)
    let h := clampN 8192 32767 (rhuDiv (g * big) small)
    if r1 ≤ r0 then (g, h) else (h, g)

/-- MGAIN from a sweep. -/
def PassCell.gains (c : PassCell) (z : Cal) (free : Nat) : Nat × Nat :=
  let most := fun (l : List Nat) (ofs : Int) => 16 * ((l.foldl Nat.max 0 : Nat) : Int) - ofs
  mgainPair (most c.raw0 (c.mofs.1.getD z.mofs0)) (most c.raw1 (c.mofs.2.getD z.mofs1)) free

/-! ## Extinction (R288) -/

/-- The largest k up to a bound of 2^n with 10^k × y ≤ x, found bit by bit. -/
def log10At (x y : Nat) : Nat → Nat → Nat
  | 0, k => k
  | n + 1, k => log10At x y n (if 10 ^ (k + 2 ^ n) * y ≤ x then k + 2 ^ n else k)

/-- EXT of two corrected codes in 0.01 dB: 1,000 log10 of the brighter over the darker, rounded half up and saturating. -/
def extOf (o : Nat × Nat) : Nat :=
  let a := Nat.max o.1 o.2
  let b := Nat.min o.1 o.2
  if b = 0 then 65535 else Nat.min 65535 ((log10At (a ^ 2000) (b ^ 2000) 14 0 + 1) / 2)

/-! ## Light (R289) -/

/-- The ways in a Beneš network of 2^k ports from input `x` to a cell, without it. -/
def waysTo (st : Nat → Nat → Option Nat) (cell : Nat) : Nat → Nat → Nat → Nat → List Way
  | 0, _, _, _ => []
  | 1, s, o, _ => if st s o == some cell then [[]] else []
  | n + 2, s, o, x =>
    match st s (o + x / 2) with
    | none => []
    | some c =>
      if c == cell then [[]]
      else [0, 1].flatMap (fun b =>
        let ins := waysTo st cell (n + 1) (s + 1) (o + b * 2 ^ n) (x / 2)
        let outs := ((List.range (2 ^ (n + 1))).filter (fun y => st (s + 2 * (n + 1)) (o + y) == some cell)).flatMap (fun y =>
          waysIn st (n + 1) (s + 1) (o + b * 2 ^ n) (x / 2) y)
        (ins ++ outs).map (fun w => (c, x % 2 != b) :: w))

/-- The ways by which light entering port `p` can reach a cell (R149, R150, R289). -/
def Fab.lightWays (f : Fab) (p cell : Nat) : List Way :=
  let k := match f.topo with | some t => t.table.log2n | none => 0
  if f.kind == 2 then
    match f.cellAt 0 0xFE p with
    | none => []
    | some e =>
      if e == cell then [[]]
      else [0, 1].flatMap (fun plane =>
        let outs := (List.range f.ports).filter (fun q => f.cellAt 0 0xFF q == some cell)
        (waysTo (f.cellAt plane) cell k 0 0 p ++ outs.flatMap (fun q => waysIn (f.cellAt plane) k 0 0 p q)).map
          (fun w => (e, plane == 1) :: w))
  else waysTo (f.cellAt 0) cell k 0 0 p

/-- Does the pass find an input lit: a + b at or above LIGHT_FLOOR at the first cell? -/
def Dev.litCell (d : Dev) (cell : Nat) : Bool :=
  let z := d.cell cell
  decide ((d.tile (cell / laneCount)).par.lightFloor ≤ z.mon.s0.code + z.mon.s1.code)

/-- The ways to a cell from lit inputs whose ports carry no connection, over cells that `ok` allows (R289). -/
def Dev.litWays (d : Dev) (m : MastId) (cell : Nat) (ok : Nat → Bool) : List Way :=
  let f := d.fab m
  ((List.range f.ports).filter (fun p => (mapOut f.map p).isNone)).flatMap (fun p =>
    (f.lightWays p cell).filter (fun w => d.litCell ((w.map Prod.fst).headD cell) && w.all (fun h => ok h.1)))

end Sys2Proof.Machine
end

