-- ==== Sys2Proof/Machine/Monitor.lean ====
section
/-! DEFINITION. Monitor inputs: scans, conversions, filters, window comparators, low-power mode (chapter 09). -/

namespace Sys2Proof.Machine

def monReg (t : Nat) : Nat := 0x4600 + 8 * t

/-! ## Conversion and correction (R258, R262 to R267) -/

/-- Full scale in pA at a PGA code (R258). -/
def fullScale (pga : Nat) : Nat := 400000000 / 4 ^ pga

/-- The raw code of an input current in pA. -/
def rawCode (pga i : Nat) : Nat := Nat.min 65535 (rhuDiv (65536 * i) (fullScale pga)).toNat

/-- The input exceeds 102 % of full scale (R266). -/
def overRange (pga i : Nat) : Bool := 102 * fullScale pga < 100 * i

/-- The filter output of a channel whose newest conversions are `h` (R263). -/
def filterOut (n : Nat) (settle : Bool) (h : List Samp) : Samp :=
  let w := h.take n
  { code := (rhuDiv ((w.map (fun s => (s.code : Int))).sum) w.length).toNat
    settle := settle || w.any Samp.settle, ovr := w.any Samp.ovr, raw := (w.map Samp.raw).headD 0 }

/-! ## Window comparators (R268 to R272) -/

/-- Is an evaluated output in its channel's band? -/
def inBand (lit : Bool) (lo hi : Nat) (s : Samp) : Bool := if lit then s.ovr || lo ≤ s.code else !s.ovr && s.code ≤ hi

/-- One evaluated output: the state, the in-band run, and whether an exit report is raised. -/
def comparator (out : Bool) (run : Nat) (band : Bool) : Bool × Nat × Bool :=
  if !band then (true, 0, !out)
  else if out then if 1 ≤ run then (false, 0, false) else (true, 1, false)
  else (false, 0, false)

/-- Do the comparators of a tile's quarter report (R271)? -/
def Dev.watches (d : Dev) (t j : Nat) : Bool :=
  let m := d.server
  match d.effF m (monReg t) 12 2 with
  | 0 => false
  | 1 => d.coreFenced m (4 * t + j) || (d.tile t).allCells (fun c => c.lp.mode == 2) || (d.tile t).link.leaseEnd ≤ d.beat
  | _ => true

/-- Do the comparators report for at least one cell of the tile, as its last scan began (R268, R271, R276)? -/
def Tile.watched (x : Tile) : Bool :=
  x.conv.watching.any (fun j => (List.range 384).any (fun s => (x.cell (384 * j + s)).mon.expect != 0))

/-! ## Scans (R260, R264, R273, R274) -/

/-- Low-power mode entered or left at a loop-period boundary; PERIOD 1 ends it, or an entry still waiting (R274, DEDUCED: log entry 97). -/
def Dev.lpBoundary (d : Dev) (t : Nat) : Dev :=
  let x := d.tile t
  let m := d.server
  if (x.conv.lpNow || x.conv.lpReq == some true) && x.par.period == 1 then
    let d := (d.setRegF m (monReg t) 8 1 0).flag m (monReg t) 10
    d.onTile t (fun y =>
      let y : Tile := { y with conv := { y.conv with lpNow := false, lpReq := none, awake := true } }
      if x.conv.lpNow then y.markAll 4 else y)
  else match x.conv.lpReq with
    | some v => d.onTile t (fun x => (({ x with conv := { x.conv with lpNow := v, lpReq := none, awake := true } } : Tile)).markAll 4)
    | none => d

/-- A tile's scan begins at a watch boundary, with the VHTR it measures then. -/
def Dev.startScan (d : Dev) (t mv : Nat) : Dev :=
  let loop := d.loopEdge t
  let d := if loop then d.lpBoundary t else d
  let x := d.tile t
  let m := d.server
  if !x.alive || x.selfcal.isSome || (x.conv.lpNow && !loop) then d
  else
    let pga := d.regF m (monReg t) 0 2
    let filt := d.regF m (monReg t) 4 3
    let x := if pga != x.conv.pga then x.markAll 4 else x
    let idle := x.allCells (fun c => c.drv.step.isNone)
    let now := d.beat
    let on := (List.range 4).filter (d.watches t)
    let was := x.conv.watching
    let x := { x with
      railMv := mv, rs := x.par.rsReg mv
      conv := { x.conv with
        slot := 0, scanning := true, loopScan := loop, scanBeat := now, parkSeen := x.parkLow
        parkHold := x.parkLow || (x.conv.parkHold && !idle), pga := pga, filt := filt
        filtMarks := if filt != x.conv.filt then Nat.max (2 ^ filt) x.conv.filtMarks else x.conv.filtMarks, watching := on } }
    let x := x.mapCells (fun c => { c with mon := { c.mon with moving := c.drv.step.isSome, fresh := false, exit := false } })
    let x := if x.parkLow then x.mapCells Cell.restart else x
    let fresh := on.filter (fun j => !was.contains j)
    d.setTile t (fresh.foldl (fun x j => (List.range 384).foldl (fun x s =>
      x.onCell (384 * j + s) (fun c => { c with mon := c.mon.fromIn })) x) x)

/-- The sample instant of a converter's slot, in ns after the scan's boundary (R334): SKEW is signed (R342). -/
def sampleNs (t k slot scan : Nat) : Int := (2500 * slot + 5 * (Config.scanOfs t scan % 256) + Config.skew t k : Int) / 10

/-- One channel's conversion in a slot: what the lane and the converter's marks become. -/
def convertOne (x : Tile) (c : Cell) (arm k i : Nat) (dead : Bool) : Samp × Nat :=
  let marks := tget 0 x.conv.marks k
  if x.conv.away.contains k then (⟨0, true, false, 0⟩, marks)
  else
    let raw := rawCode x.conv.pga i
    let ovr := overRange x.conv.pga i
    let code := if ovr then 65535 else corrected (if arm == 0 then c.cal.mofs0 else c.cal.mofs1) (if arm == 0 then c.cal.mgain0 else c.cal.mgain1) raw
    (⟨code, 0 < marks || dead, ovr, raw⟩, if ovr then Nat.max 2 (marks - 1) else marks - 1)

/-- Arm `a` of a lane takes a conversion into its filter. -/
def Cell.convert (c : Cell) (arm n : Nat) (h : Samp) (filtSettle : Bool) : Cell :=
  let hs := (h :: (if arm == 0 then c.mon.h0 else c.mon.h1)).take 16
  let s := filterOut n filtSettle hs
  { c with mon := if arm == 0 then { c.mon with h0 := hs, s0 := s } else { c.mon with h1 := hs, s1 := s } }

/-- Arm `a` of a lane is judged by its comparator. Returns the cell and an exit. -/
def Cell.judge (c : Cell) (arm lo hi : Nat) : Cell × Bool :=
  let s := if arm == 0 then c.mon.s0 else c.mon.s1
  if s.settle || c.mon.moving || c.mon.expect == 0 then (c, false)
  else
    let st := if arm == 0 then (c.mon.out0, c.mon.run0) else (c.mon.out1, c.mon.run1)
    let r := comparator st.1 st.2 (inBand (bit c.mon.expect arm) lo hi s)
    ({ c with mon := if arm == 0 then { c.mon with out0 := r.1, run0 := r.2.1 } else { c.mon with out1 := r.1, run1 := r.2.1 } }, r.2.2)

/-- One converter's conversion of its input in the slot in progress. -/
def Dev.convert (d : Dev) (t k light : Nat) : Dev :=
  let m := d.server
  let x := d.tile t
  let l := 24 * x.conv.slot + k / 2
  let r := convertOne x (x.cell l) (k % 2) k light (d.isFenced m ⟨.converter, 48 * t + k⟩)
  let c := (x.cell l).convert (k % 2) (2 ^ x.conv.filt) r.1 (0 < x.conv.filtMarks)
  let mon := { c.mon with o := c.drv.O, e := c.drv.E x.parkLow, fresh := x.conv.loopScan && !d.isFenced m ⟨.lane, t * laneCount + l⟩ }
  let x := x.setCell l { c with mon := mon }
  let d := d.setTile t { x with conv := { x.conv with marks := tset 0 x.conv.marks k r.2 } }
  if r.1.ovr then d.count m (0x4680 + 8 * t) 16 16 1 else d

/-- A watched channel's output of the scan that ends, judged: an exit is reported where its quarter's comparators report. -/
def Dev.judge (d : Dev) (t l arm : Nat) : Dev :=
  let m := d.server
  let x := d.tile t
  let o := (x.cell l).judge arm (d.effF m (monReg t) 16 16) (d.effF m (monReg t) 32 16)
  if !(o.2 && x.conv.watching.contains (l / 384)) then d.setTile t (x.setCell l o.1)
  else
    let s := if arm == 0 then o.1.mon.s0 else o.1.mon.s1
    let at_ : Int := (stampNs d.now - 100 * (d.beat - x.conv.scanBeat) : Nat) + sampleNs t (2 * (l % 24) + arm) (l / 24) x.conv.scanBeat
    let x := x.setCell l { o.1 with mon := { o.1.mon with exit := true } }
    (d.setTile t (x.say (.exit l arm s.code s.ovr (stampOf at_.toNat)))).count m (0x4680 + 8 * t) 0 16 1

/-- The comparators judge a scan when its last slot ends, since PARK_N low at any time in it, and a change of target, leave all of
its outputs out (R270). A fenced lane's input does not count (R384). -/
def Dev.judgeScan (d : Dev) (t : Nat) : Dev :=
  if (d.tile t).conv.parkSeen then d
  else d.each ((List.range laneCount).filter (fun l => ((d.tile t).cell l).mon.expect != 0 && !d.isFenced d.server ⟨.lane, t * laneCount + l⟩))
    (fun l d => (d.judge t l 0).judge t l 1)

/-- A conversion slot: `light` gives the 48 converters' input currents in pA. Slot i begins 250 ns × i after the scan. -/
def execConversion (tile : Nat) (light : List Nat) (s : State) : Host.Outcome State Fault Refusal :=
  run s (fun d =>
    let x := d.tile tile
    if !x.alive || !x.conv.scanning || !x.conv.awake || 64 ≤ x.conv.slot ||
      2 * (d.beat - x.conv.scanBeat) + 1 < 5 * x.conv.slot then d
    else
      let last := x.conv.slot == 63
      let d := d.each (List.range 48) (fun k d => d.convert tile k (light.getD k 0))
      let d := if last && x.conv.loopScan then d.act (fun m => d.gather m tile) else d
      let d := if last then d.judgeScan tile else d
      d.onTile tile (fun x =>
        { x with conv := { x.conv with
            slot := x.conv.slot + 1, scanning := !last, filtMarks := if last then x.conv.filtMarks - 1 else x.conv.filtMarks
            awake := !(last && x.conv.lpNow) } }))

/-- The mast receives a tile's exit reports: a WINDOW trigger, an event of the collector, an EXIT record (R272). -/
def execExitReport (tile : Nat) (s : State) : Host.Outcome State Fault Refusal :=
  run s (fun d => d.act (fun m =>
    let hits := (d.tile tile).link.reports.filterMap (fun r => match r with
      | .exit l a v o t => some (l, a, v, o, t)
      | _ => none)
    if hits.isEmpty then d
    else d.upGo m tile 3 (fun d =>
    let d := d.onTile tile (fun x => { x with link := { x.link with reports := x.link.reports.filter (fun r => match r with
      | .exit _ _ _ _ _ => false
      | _ => true) } })
    d.each hits (fun h d =>
      let cell := tile * laneCount + h.1
      let b := d.beatOf h.2.2.2.2
      let d := d.gleanEvent m .window b h.2.2.2.2 (some cell) 0
      let d := d.pmc m 0x091 [tile] 1
      let d := d.tel m 8 ⟨0x09, h.2.2.2.2, (d.fab m).epochAt b,
        layout [(2, cell), (1, h.2.1 + 2 * b2n h.2.2.2.1), (1, 0), (2, h.2.2.1), (2, 0)]⟩
      d.report m (64 + tile) 0 tile (BitVec.ofNat 32 (h.2.1 + 65536 * h.2.2.1)) none))))

/-- A low-power tile wakes its converters 4 µs before a loop-period boundary. -/
def execLowPowerWake (tile : Nat) (s : State) : Host.Outcome State Fault Refusal :=
  run s (fun d =>
    let x := d.tile tile
    if x.alive && x.conv.lpNow && (d.now.ns + 4000) % (20000 * x.par.period) == 0 then
      d.onTile tile (fun x => { x with conv := { x.conv with awake := true } })
    else d)

/-- FAB_MON_TILEt (R274, R275). -/
def execFabMonTileWrite (tile : Nat) (w : RegWr) (s : State) : Host.Outcome State Fault Refusal :=
  run s (fun d =>
    if 16 ≤ tile then d
    else d.barWrite (monReg tile) w (fun m info v d =>
      let off := monReg tile
      let old := d.reg m off
      let r := plainWrite info old v
      let r := if 4 < fld v 4 3 then setFld r 4 3 (fld old 4 3) else r
      let r := if fld v 12 2 == 3 then setFld r 12 2 (fld old 12 2) else r
      let d := d.mirrorClear m off (v &&& info.w1c)
      if w.half == .hi then d.setReg m off r
      else
        let on := fld v 8 1 == 1
        let bad := on && (d.tile tile).par.period == 1
        let r := if bad then setFld r 8 1 0 else r
        let moved := fld r 0 2 != fld old 0 2 || fld r 4 3 != fld old 4 3 || fld r 8 1 != fld old 8 1
        let d := if moved then d.remeasure m tile else d
        if bad then (d.setReg m off r).flag m off 10
        else (d.setReg m off r).onTile tile (fun x =>
          { x with conv := { x.conv with lpReq := if on == x.conv.lpNow then none else some on } })))

end Sys2Proof.Machine
end

