-- ==== Sys2Proof/Machine/Sheaf.lean ====
section
/-! DEFINITION. Sheafs up to their commit, and map reads (R102 to R118, R124, R125, R140 to R142, R193 to R196). -/

namespace Sys2Proof.Machine

/-! ## Sheafs taking descriptors (R106 to R108) -/

/-- The sheaf a descriptor belongs to. -/
def Dev.sheafOf (d : Dev) (m : MastId) (x : Desc) : Option Sheaf :=
  if x.ent.sheafId == 0 then none else d.findSheaf m (.sheaf x.ring x.ent.sheafId)

/-- A sheaf that still takes actions. -/
def Dev.openSheaf (d : Dev) (m : MastId) (x : Desc) : Option Sheaf :=
  (d.sheafOf m x).filter (fun y => y.phase == .open_)

/-- An action fails at acceptance: its status dooms its sheaf (R108). -/
def Dev.doom (d : Dev) (m : MastId) (x : Desc) (y : Sheaf) (st : Status) : Dev :=
  (d.onSheaf m y.key (fun y => { y with doomed := y.doomed.or (some st) })).complete m x st

/-- An action taken into its sheaf completes with OK (R107). -/
def Dev.take (d : Dev) (m : MastId) (x : Desc) (y : Sheaf) (f : Sheaf → Sheaf) : Dev :=
  (d.onSheaf m y.key f).complete m x .ok

/-- An action starts: SHEAF_UNKNOWN without an open sheaf, ignored in a doomed one, else checked for its permission. DEDUCED
(assumption 105): a TAG without permission dooms its sheaf as any other action does. -/
def Dev.action (d : Dev) (ring seq op perm : Nat) (k : MastId → Desc → Sheaf → Dev → Dev) : Dev :=
  d.start ring seq op (fun m x d =>
    match d.openSheaf m x with
    | none => d.complete m x .sheafUnknown
    | some y =>
      if y.doomed.isSome then d.complete m x .ok
      else if x.perm perm then k m x y d
      else d.doom m x y .notPermitted)

/-- R112's checks on the ports an action names. -/
def Dev.portBad (d : Dev) (m : MastId) (x : Desc) (ps : List Nat) : Option Status :=
  if ps.any (fun p => p < x.ports.1 || x.ports.2 < p) then some .notPermitted
  else if ps.any (fun p => (d.fab m).ports ≤ p) then some .portInvalid
  else none

/-- A port-level action: its ports, then the limit of 4,096 (R118). -/
def Dev.portAct (d : Dev) (m : MastId) (x : Desc) (y : Sheaf) (ps : List Nat) (a : Act) : Dev :=
  match d.portBad m x ps with
  | some st => d.doom m x y st
  | none =>
    if 4096 < y.nPort + 1 then d.doom m x y .sheafLimit
    else d.take m x y (fun y => { y with acts := y.acts ++ [a], nPort := y.nPort + 1 })

/-- A cell-level action: the table places its cell, then the limit of 24,576 (R113, R118). -/
def Dev.cellAct (d : Dev) (m : MastId) (x : Desc) (y : Sheaf) (cell n : Nat) (bad : Option Status) (a : Act) : Dev :=
  if cellCount ≤ cell || ((d.fab m).entry? cell).isNone then d.doom m x y .portInvalid
  else match bad with
    | some st => d.doom m x y st
    | none =>
      if 24576 < y.nCell + n then d.doom m x y .sheafLimit
      else d.take m x y (fun y => { y with acts := y.acts ++ [a], nCell := y.nCell + n })

/-! ## Descriptors -/

/-- SHEAF_OPEN (R106, R109). Reuse of an open SHEAF_ID is undefined (R395), and the step stops (assumption 27). -/
def execSheafOpen (ring seq : Nat) (readAll baseNow presolved preserve reefFail : Bool) (baseEpoch : Nat) (s : State) :
    Host.Outcome State Fault Refusal :=
  let d := s.dev
  let reused := match d.startable ring seq 0x10 with
    | some (m, x) => x.ent.sheafId != 0 && x.perm 0 && (d.sheafOf m x).isSome
    | none => false
  if reused then .fault .sheafIdReuse
  else run s (fun d => d.start ring seq 0x10 (fun m x d =>
    if x.ent.sheafId == 0 then d.complete m x .sheafUnknown
    else d.need m x 0 (fun d =>
      if 1024 ≤ ((d.fab m).sheafs.filter (fun y => y.key.isSheaf)).length then
        d.complete m x .sheafLimit
      else
        let y : Sheaf :=
          { key := .sheaf ring x.ent.sheafId, ctx := x.ctx, commit := none, readAll, baseNow, presolved, preserve, reefFail
            base := baseEpoch, acts := [], hasPermute := false, cells := [], tag := 0, doomed := none, nPort := 0, nCell := 0
            phase := .open_, at_ := none, due := false, work := noWork, pool := 0, spill := 0, spillLost := false }
        (d.onFab m (fun f => { f with sheafs := y :: f.sheafs })).complete m x .ok)))

/-- The strike lead in force (R143). -/
def Dev.lead (d : Dev) (m : MastId) : Nat := d.effF m 0x4030 0 7

/-- Has the due point of a strike time come (R125)? -/
def Dev.isDue (d : Dev) (m : MastId) (t : Stamp) : Bool := stampNs t ≤ stampNs d.now + 100 * (100 + d.lead m)

/-- R124's checks on a strike beat, and R118's limit of 256. DESIGN CHOICE (assumption 105): a sheaf that fails both ends by
R124, TIME_RANGE or TOO_LATE, before SHEAF_LIMIT. -/
def Dev.atBad (d : Dev) (m : MastId) (a t : Stamp) : Option Status :=
  let lead := d.lead m
  let others := (d.fab m).sheafs.filterMap Sheaf.at_
  if 1000000000 ≤ a.ns || stampNs d.now + 1000000000000 < stampNs t then some .timeRange
  else if stampNs t < stampNs d.now + 100 * (lead + 1) then some .tooLate
  else if others.any (fun o => stampNs t < stampNs o + 100 * lead && stampNs o < stampNs t + 100 * lead) then some .tooLate
  else if 256 ≤ others.length then some .sheafLimit
  else none

/-- A committed sheaf goes behind every one committed before, and takes its place in strike order (R120). -/
def Dev.bind (d : Dev) (m : MastId) (k : SKey) (at_ : Option Stamp) (due : Bool) : Dev :=
  match d.findSheaf m k with
  | none => d
  | some y => d.onFab m (fun f =>
      ({ f with sheafs := f.sheafs.filter (fun z => z.key != k) ++ [{ y with phase := .bound, at_ := at_, due := due }] } : Fab).place)

/-- SHEAF_COMMIT (R108, R110, R118, R124). -/
def execSheafCommit (ring seq : Nat) (at_ : Option Stamp) (s : State) : Host.Outcome State Fault Refusal :=
  run s (fun d => d.start ring seq 0x11 (fun m x d =>
    match d.openSheaf m x with
    | none => d.complete m x .sheafUnknown
    | some y => d.need m x 0 (fun d =>
      let d := d.onSheaf m y.key (fun y => { y with commit := some seq })
      match y.doomed, at_ with
      | some st, _ => d.abortSheaf m y.key st
      | none, none => d.bind m y.key none false
      | none, some a =>
        let t := roundUpBeat a
        match d.atBad m a t with
        | some st => d.abortSheaf m y.key st
        | none => d.bind m y.key (some t) (d.isDue m t))))

/-- SHEAF_ABORT (R111); its record is written whatever NO_CPL says (R107). -/
def execSheafAbort (ring seq : Nat) (s : State) : Host.Outcome State Fault Refusal :=
  run s (fun d => d.start ring seq 0x12 (fun m x d =>
    match d.sheafOf m x with
    | none => d.complete m x .sheafUnknown
    | some y => d.need m x 0 (fun d =>
      if y.decided then d.completeAt m x .tooLate (d.fab m).epoch none true
      else (d.abortSheaf m y.key .aborted).completeAt m x .aborted (d.fab m).epoch none true)))

/-- CONNECT. -/
def execConnect (ring seq inp out : Nat) (s : State) : Host.Outcome State Fault Refusal :=
  run s (fun d => d.action ring seq 0x13 0 (fun m x y d => d.portAct m x y [inp, out] (.connect inp out)))

/-- DISCONNECT. -/
def execDisconnect (ring seq port : Nat) (side : Bool) (s : State) : Host.Outcome State Fault Refusal :=
  run s (fun d => d.action ring seq 0x14 0 (fun m x y d => d.portAct m x y [port] (.disconnect port side)))

/-- MOVE. -/
def execMove (ring seq keep old new : Nat) (side : Bool) (s : State) : Host.Outcome State Fault Refusal :=
  run s (fun d => d.action ring seq 0x15 0 (fun m x y d => d.portAct m x y [keep, old, new] (.move keep old new side)))

/-- ASSERT: OUT 0xFFFF is subject to neither port check. -/
def execAssert (ring seq inp out : Nat) (s : State) : Host.Outcome State Fault Refusal :=
  run s (fun d => d.action ring seq 0x16 0 (fun m x y d =>
    d.portAct m x y (if out == 0xFFFF then [inp] else [inp, out]) (.assert inp out)))

/-- The target that a MODE and CODE name (R113). -/
def tgtOf (mode code : Nat) : Tgt :=
  match mode with
  | 0 => .bar
  | 1 => .cross
  | _ => .code code

/-- SET_CELL. -/
def execSetCell (ring seq cell mode code : Nat) (s : State) : Host.Outcome State Fault Refusal :=
  run s (fun d => d.action ring seq 0x17 1 (fun m x y d =>
    d.cellAct m x y cell 1 none (if mode == 3 then .release cell else .setCell cell (tgtOf mode code))))

/-- The range of a loop parameter's VALUE, and whether it is a Tile parameter (R193). -/
def paramInfo (param : Nat) : Option (Bool × (Nat → Bool)) :=
  let within := fun (lo hi v : Nat) => lo ≤ v && v ≤ hi
  match param with
  | 0x01 => some (true, fun v => v == 1 || v == 2 || v == 4)
  | 0x02 => some (false, within 0 32767)
  | 0x03 => some (false, within 0 32767)
  | 0x04 => some (false, within 0 65535)
  | 0x05 => some (false, within 0 65535)
  | 0x06 => some (false, within 0 2)
  | 0x07 => some (false, within 0 65535)
  | 0x08 => some (true, within 0 1023)
  | 0x09 => some (true, within 1 10000)
  | 0x0A => some (true, within 1000 1000000)
  | 0x0B => some (true, within 0 131070)
  | 0x0C => some (true, within 0 1)
  | 0x0D => some (true, within 4500 5500)
  | 0x0E => some (true, within 0 65535)
  | 0x0F => some (true, within 1 65535)
  | _ => none

/-- R194's check. -/
def paramBad (tileScope : Bool) (param value : Nat) : Option Status :=
  match paramInfo param with
  | none => some .paramInvalid
  | some (tile, ok) => if (tile && !tileScope) || !ok value then some .paramInvalid else none

/-- What a cell-level action counts against its sheaf's limit (R105). -/
def scopeCount (tileScope : Bool) : Nat := if tileScope then 1536 else 1

/-- SET_LOOP. -/
def execSetLoop (ring seq cell : Nat) (tileScope : Bool) (param value : Nat) (s : State) : Host.Outcome State Fault Refusal :=
  run s (fun d => d.action ring seq 0x18 1 (fun m x y d =>
    d.cellAct m x y cell (scopeCount tileScope) (paramBad tileScope param value) (.setLoop cell tileScope param value)))

/-- SET_PARK. -/
def execSetPark (ring seq cell : Nat) (tileScope : Bool) (code : Nat) (s : State) : Host.Outcome State Fault Refusal :=
  run s (fun d => d.action ring seq 0x19 1 (fun m x y d =>
    d.cellAct m x y cell (scopeCount tileScope) none (.setPark cell tileScope code)))

/-- TAG: a sheaf keeps its last one (R115). -/
def execTag (ring seq : Nat) (data : Bits384) (s : State) : Host.Outcome State Fault Refusal :=
  run s (fun d => d.action ring seq 0x1A 0 (fun m x y d => d.take m x y (fun y => { y with tag := data })))

/-- A bulk action starts: in a doomed sheaf its slot is still checked, held and returned unread (R108). -/
def Dev.bulk (d : Dev) (ring seq op perm : Nat) (slot : SlotIn) (k : MastId → Desc → Sheaf → Dev → Dev) : Dev :=
  d.start ring seq op (fun m x d =>
    match d.openSheaf m x with
    | none => d.complete m x .sheafUnknown
    | some y =>
      if y.doomed.isSome then
        d.slotHold m x slot (fun _ d => d.complete m x .ok) (fun d => (d.returnIn m x slot false).complete m x .ok)
      else if x.perm perm then k m x y d
      else d.doom m x y .notPermitted)

/-- The bulk-payload pool of the SRAM, 24 MiB (R449). -/
def poolSize : Nat := 24 * 2 ^ 20

/-- A bulk payload is kept for its sheaf: in the pool, or, where the pool is full, in the spill region (R450). -/
def Dev.stow (d : Dev) (m : MastId) (len : Nat) (y : Sheaf) : Sheaf :=
  if ((d.fab m).sheafs.map Sheaf.pool).sum + len ≤ poolSize then { y with pool := y.pool + len } else { y with spill := y.spill + len }

/-- R116's checks on a port map. -/
def portMapOk (n : Nat) (map : List PortEnt) : Bool :=
  map.all (fun (e : PortEnt) => e.resv == 0 && (!e.valid || e.out < n)) &&
    decide ((map.filter (fun (e : PortEnt) => e.valid)).map (fun (e : PortEnt) => e.out)).Nodup

/-- PERMUTE (R116 to R118). -/
def execPermute (ring seq : Nat) (slot : SlotIn) (s : State) : Host.Outcome State Fault Refusal :=
  run s (fun d => d.bulk ring seq 0x1B 0 slot (fun m x y d =>
    let n := (d.fab m).ports
    let map := portMapOf slot.bytes
    if x.ports.1 != 0 || x.ports.2 + 1 < n then d.doom m x y .notPermitted
    else d.slotHold m x slot (fun st d => d.doom m x y st) (fun d =>
      if y.hasPermute || 4096 < y.nPort + n then (d.returnIn m x slot false).doom m x y .sheafLimit
      else d.slotCheck m x slot (fun st d => d.doom m x y st) (fun d =>
        let d := d.returnIn m x slot false
        if slot.kind != 0x11 || slot.len != 2 * n || map.length != n || !portMapOk n map then d.doom m x y .portInvalid
        else d.take m x y (fun y =>
          d.stow m slot.len { y with acts := y.acts ++ [.permute map], hasPermute := true, nPort := y.nPort + n })))))

/-- CELLS (R116, R118): entries of cell, MODE and CODE. DESIGN CHOICE (assumption 105): a list's contents are judged before
the limit of 24,576 entries in a sheaf. -/
def execCells (ring seq : Nat) (slot : SlotIn) (s : State) : Host.Outcome State Fault Refusal :=
  run s (fun d => d.bulk ring seq 0x1C 1 slot (fun m x y d =>
    let list := cellListOf slot.bytes
    d.slotIn m x slot (fun st d => d.doom m x y st) (fun d =>
      let d := d.returnIn m x slot false
      if slot.kind != 0x12 || slot.len % 4 != 0 || 4 * 24576 < slot.len || list.length != slot.len / 4 ||
        list.any (fun e => 2 < e.2.1 || cellCount ≤ e.1 || ((d.fab m).entry? e.1).isNone) then d.doom m x y .portInvalid
      else if 24576 < y.nCell + list.length then d.doom m x y .sheafLimit
      else d.take m x y (fun y =>
        d.stow m slot.len { y with cells := y.cells ++ list.map (fun e => (e.1, tgtOf e.2.1 e.2.2)), nCell := y.nCell + list.length }))))

/-! ## Map reads (R106, R139 to R142) -/

/-- MAP_READ: 2^64 - 1 names the current epoch. -/
def execMapRead (ring seq epoch : Nat) (slot : SlotOut) (s : State) : Host.Outcome State Fault Refusal :=
  run s (fun d => d.start ring seq 0x1D (fun m x d =>
    if x.ent.sheafId != 0 then d.complete m x .sheafUnknown
    else d.need m x 2 (fun d =>
      let d := d.settleHold m x slot.ref slot.owner slot.err
      let f := d.fab m
      let e := if epoch == 2 ^ 64 - 1 then f.epoch else epoch
      if f.epoch < e || e + 1048575 < f.epoch || d.epochLost m e then d.complete m x .mapEpoch
      else d.slotOut m x slot (fun st d => d.complete m x st) (fun d =>
        let map := f.mapAt e
        let ents := (List.range f.ports).map (fun p => (match mapOut map p with
          | some q => ⟨q, 0, true⟩
          | none => ⟨0, 0, false⟩ : PortEnt))
        d.onFab m (fun f => { f with reads := f.reads ++ [⟨ring, seq, e, slot.ref, 0, ents, .map ents.length (lowStamp ((f.strikeOf e).getD ⟨0, 0⟩)) [], true⟩] })))))

/-- EPOCH_NOW: TIME_VALID is set, the time 0 at epoch 0. -/
def execEpochNow (ring seq : Nat) (s : State) : Host.Outcome State Fault Refusal :=
  run s (fun d => d.start ring seq 0x1E (fun m x d =>
    if x.ent.sheafId != 0 then d.complete m x .sheafUnknown
    else d.completeAt m x .ok (d.fab m).epoch (some ((d.fab m).strikeTime.getD ⟨0, 0⟩)) false))

/-- A scheduled sheaf's due point (R125). -/
def execScheduledDuePoint (ring sheafId : Nat) (s : State) : Host.Outcome State Fault Refusal :=
  run s (fun d => d.act (fun m =>
    match d.findSheaf m (.sheaf ring sheafId) with
    | none => d
    | some y => match y.at_ with
      | some t =>
        if y.phase == .bound && !y.due && d.isDue m t then
          (d.onSheaf m y.key (fun y => { y with due := true })).onFab m Fab.place
        else d
      | none => d))

end Sys2Proof.Machine
end

