-- ==== Sys2Proof/Machine/Solver.lean ====
section
/-! DEFINITION. Turns, checks and solves of sheafs, twin planes, plans, table swaps and heal turns (R121 to R123, R149, R150,
R155 to R174). -/

namespace Sys2Proof.Machine

/-- Is a cell in a round of the running pass (R283, R289)? -/
def Dev.inRound (d : Dev) (m : MastId) (cell : Nat) : Bool :=
  match (d.mast m).cal.pass with
  | none => false
  | some p => p.cells.any (fun c => c.cell == cell && p.member c)

/-- FAB_HEAL.SHADOW_OK (R164). -/
def Dev.shadowOk (d : Dev) (m : MastId) : Bool :=
  let f := d.fab m
  f.kind == 2 && !f.shadowBusy && f.routesIn (f.choices []) (d.cellFenced m) f.shadow f.map &&
    (match f.topo with
      | some t => !t.table.entries.any (fun e : TopoEntry => f.inPlane f.shadow e.cell && d.inRound m e.cell)
      | none => true)

/-! ## What a sheaf changes (R114, R129, R169, R170, R196, R268, R283) -/

/-- The pinned cells after a sheaf's actions. -/
def pinsAfter (pins : List Nat) (acts : List Act) : List Nat :=
  acts.foldl (fun l a => match a with
    | .setCell c _ => if l.contains c then l else l ++ [c]
    | .release c => l.filter (· != c)
    | _ => l) pins

/-- The cells that SET_CELL and CELLS name, and those SET_PARK reaches: misused where they count two (R395). -/
def Sheaf.driven (y : Sheaf) : List Nat :=
  y.acts.filterMap (fun a => match a with
    | .setCell c _ => some c
    | .release c => some c
    | _ => none) ++ y.cells.map Prod.fst

def Sheaf.parkHits (y : Sheaf) (c : Nat) : Nat :=
  (y.acts.filter (fun a => match a with
    | .setPark k scope _ => if scope then k / laneCount == c / laneCount else k == c
    | _ => false)).length

/-- The cells on which the sheaf holds two actions of drive or park code. -/
def Sheaf.twice (y : Sheaf) : List Nat :=
  let parks := y.acts.flatMap (fun a => match a with
    | .setPark k scope _ =>
      if scope && 2 ≤ y.parkHits k then (List.range laneCount).map (fun l => k / laneCount * laneCount + l) else [k]
    | _ => [])
  ((y.driven ++ parks).eraseDups).filter (fun c => 2 ≤ y.driven.count c + y.parkHits c)

/-- The lanes a SET_LOOP reaches; `laneCount` stands for every lane of the tile. -/
def loopLane (cell : Nat) (scope : Bool) : Nat := if scope then laneCount else cell % laneCount

/-- The SET_LOOP changes in order, with the lanes on which two actions have one PARAM (R196). -/
def loopChanges : List Act → List (Nat × Nat × Nat × Nat) → List (Nat × Nat × Nat × Nat) × List (Nat × Nat × Nat)
  | [], acc => (acc, [])
  | .setLoop c scope p v :: r, acc =>
    let t := c / laneCount
    let l := loopLane c scope
    let clash := (acc.filter (fun e => e.1 == t && e.2.2.1 == p && (e.2.1 == l || e.2.1 == laneCount || l == laneCount))).map
      (fun e => (t, Nat.min e.2.1 l, p))
    let q := loopChanges r (acc ++ [(t, l, p, v)])
    (q.1, clash ++ q.2)
  | _ :: r, acc => loopChanges r acc

/-- Changes put into a tile's list. -/
def addChange (cs : Tbl (List Change)) (t : Nat) (c : Change) : Tbl (List Change) := tset [] cs t (tget [] cs t ++ [c])

def addDrive (cs : Tbl (List Change)) (cell : Nat) (g : Tgt) : Tbl (List Change) :=
  addChange cs (cell / laneCount) (.drive (cell % laneCount) g)

/-- LIVE and EXPECT of every cell of the table for a map and the settings it strikes with; a cell whose bits change is
listed (R268, R283). -/
def Dev.markChanges (d : Dev) (m : MastId) (g : Settings) (map : List (Nat × Nat)) (pins : List Nat) (coded : Nat → Bool) :
    List (Nat × Bool × Nat) :=
  let f := d.fab m
  let lit : List Hop := map.flatMap (fun c => match f.path g c.1 with
    | some (_, hops) => hops
    | none => [])
  match f.topo with
  | none => []
  | some t => t.table.entries.filterMap (fun e : TopoEntry =>
      let c := e.cell
      let live := pins.contains c || lit.any (fun h => h.1 == c)
      let ex := if coded c then 0 else b2n (lit.contains (c, 0)) + 2 * b2n (lit.contains (c, 1))
      let x := d.cell c
      if x.drv.live == live && x.mon.expect == ex then none else some (c, live, ex))

/-- The changes of a sheaf, per tile, once the solver's settings are known. The results of R395's misuses are free. DESIGN
CHOICE (assumption 106): the release of a pinned fabric cell of which the solver holds no state clears W. -/
def Dev.changesOf (d : Dev) (m : MastId) (y : Sheaf) (sets : List CellSet) (map : List (Nat × Nat)) : Tbl (List Change) × Dev :=
  let f := d.fab m
  let all := sets ++ y.cells.map (fun e => (⟨e.1, e.2⟩ : CellSet))
  let g := f.choices all
  let pins := pinsAfter f.pinned y.acts
  let cs : Tbl (List Change) := []
  let swept := d.swept m
  let on := if swept.isEmpty then [] else f.cellsOf g map
  let again := (swept.filter (fun c => on.contains c && !sets.any (fun (s : CellSet) => s.cell == c))).filterMap (fun c =>
    (g c).map (fun t => (⟨c, t⟩ : CellSet)))
  -- the solver's settings, held by pins, giving way to CELLS entries, and staged only where the state changes; a cell that a round
  -- has taken differs from every state
  let cs := ((sets ++ again).filter (fun (s : CellSet) => !pins.contains s.cell && !y.cells.any (fun e => e.1 == s.cell) &&
    (tget none f.settings s.cell != some s.tgt || swept.contains s.cell))).foldl
    (fun cs (s : CellSet) => addDrive cs s.cell s.tgt) cs
  let cs := y.cells.foldl (fun cs e => addDrive cs e.1 e.2) cs
  let cs := y.acts.foldl (fun cs a => match a with
    | .setCell c v => addDrive cs c v
    | .release c => if f.pinned.contains c then addDrive cs c ((g c).getD .clearW) else cs
    | .setPark c scope v => addChange cs (c / laneCount) (.park (loopLane c scope) v)
    | _ => cs) cs
  let lc := loopChanges y.acts []
  let cs := lc.1.foldl (fun cs e => addChange cs e.1 (.loop e.2.1 e.2.2.1 e.2.2.2)) cs
  let n := d.free
  let cs := (y.twice.zipIdx).foldl (fun cs e =>
    let v := Config.freeNat (n + e.2) % 4096
    addChange (addDrive cs e.1 (.code v)) (e.1 / laneCount) (.park (e.1 % laneCount) v)) cs
  let n1 := n + y.twice.length
  let cs := (lc.2.zipIdx).foldl (fun cs e => addChange cs e.1.1 (.loop e.1.2.1 e.1.2.2 (Config.freeNat (n1 + e.2)))) cs
  let coded := fun c => match y.acts.reverse.find? (fun a => match a with
    | .setCell k _ => k == c
    | _ => false) with
    | some (.setCell _ (.code _)) => true
    | some _ => false
    | none => pins.contains c && (d.cell c).drv.W && (d.cell c).drv.logical.isNone
  let cs := (d.markChanges m g map pins coded).foldl (fun cs e =>
    addChange cs (e.1 / laneCount) (.marks (e.1 % laneCount) e.2.1 e.2.2)) cs
  (cs, { d with free := n1 + lc.2.length })

/-- Does a target change a cell's fast-drive state (R169)? -/
def Cell.moves (c : Cell) (g : Tgt) : Bool :=
  match g with
  | .clearW => c.drv.W
  | .code v => !c.drv.W || c.drv.logical.isSome || c.drv.T != v
  | g => !c.drv.W || c.drv.logical != some g

/-- Do the changes, the last on a lane counting, change the state of a cell that the cell epoch counts (R169)? -/
def Dev.movesCells (d : Dev) (m : MastId) (plane : Nat) (changes : Tbl (List Change)) : Bool :=
  let f := d.fab m
  changes.any (fun e => e.2.any (fun c => match c with
    | .drive l g =>
      let last := e.2.reverse.findSome? (fun c => match c with
        | .drive k h => if k == l then some h else none
        | _ => none)
      last == some g && ((d.tile e.1).cell l).moves g && (match f.entry? (e.1 * laneCount + l) with
        | some z => z.role == 0 && (f.kind != 2 || isEdge z || z.plane == plane)
        | none => false)
    | _ => false))

/-- The plane that carries every circuit after a strike (R166, R170); a CELLS list that leaves circuits on both planes
leaves ACTIVE free (R395). -/
def Dev.planeAfter (d : Dev) (m : MastId) (y : Sheaf) (migrate : Bool) (sets : List CellSet) (map : List (Nat × Nat)) :
    Nat × Dev :=
  let f := d.fab m
  if f.kind != 2 then (0, d)
  else if migrate then (f.shadow, d)
  else if !y.presolved || map.isEmpty then (f.active, d)
  else
    let g := f.choices (sets ++ y.cells.map (fun e => (⟨e.1, e.2⟩ : CellSet)))
    let on := map.map (fun c => ((f.cellAt 0 0xFE c.1).bind (fun e => crossOf (g e))).getD false)
    if on.all id then (1, d)
    else if !on.any id then (0, d)
    else (b2n (Config.freeBool d.free), { d with free := d.free + 1 })

/-- The cell changes of a sheaf are known, and staging begins. -/
def Dev.solved (d : Dev) (m : MastId) (k : SKey) (sets : List CellSet) (map : List (Nat × Nat)) (full migrate : Bool) : Dev :=
  match d.findSheaf m k with
  | none => d
  | some y =>
    let p := d.planeAfter m y migrate sets map
    let c := p.2.changesOf m y sets map
    let all := sets ++ y.cells.map (fun e => (⟨e.1, e.2⟩ : CellSet))
    let moves := c.2.movesCells m p.1 c.1
    let tsid := y.work.tsid
    let staging := c.1.map (fun e : Nat × List Change => (e.1, (Nat.max 1 (sizeOf e.2) + 15) / 16))
    let d := (c.2.onSheaf m k (fun y => { y with
      phase := .solving
      work := { y.work with wmap := map, sets := all, changes := c.1, solved := true, fullSolve := full, migrate := migrate
                            shadowAt := none, plane := p.1, moves := moves } })).restage m
    d.each (d.stagedTiles m) (fun t d => d.each (List.range ((staging.find? (fun e => e.1 == t)).elim 1 Prod.snd)) (fun i d =>
      d.command m t 4 [tsid, i] []))

/-! ## Turns (R121, R123, R168, R169) -/

/-- The read set of R123. -/
def Sheaf.readSet (y : Sheaf) (n : Nat) : List Nat :=
  if y.readAll || y.hasPermute then List.range n
  else y.acts.flatMap (fun a => match a with
    | .connect p q => [p, q]
    | .disconnect p _ => [p]
    | .move a b c _ => [a, b, c]
    | .assert p q => if q == 0xFFFF then [p] else [p, q]
    | _ => [])

/-- Step 4 of R123 for one action on the working copy of the map. -/
def stepMap (map : List (Nat × Nat)) : Act → Except Status (List (Nat × Nat))
  | .connect p q => if (mapOut map p).isSome || (mapIn map q).isSome then .error .portBusy else .ok (mapPut map p q)
  | .permute ents => .ok (mapOfPorts ents)
  | .disconnect p side =>
    if side then .ok (map.filter (fun c => c.2 != p)) else .ok (mapCut map p)
  | .move keep old new side =>
    if side then
      if mapOut map old != some keep then .error .assertFailed
      else if (mapOut map new).isSome then .error .portBusy
      else .ok (mapPut (mapCut map old) new keep)
    else
      if mapOut map keep != some old then .error .assertFailed
      else if (mapIn map new).isSome then .error .portBusy
      else .ok (mapPut (mapCut map keep) keep new)
  | .assert p q =>
    let holds := if q == 0xFFFF then (mapOut map p).isNone else mapOut map p == some q
    if holds then .ok map else .error .assertFailed
  | _ => .ok map

/-- The port-level actions in descriptor order. -/
def runActs : List (Nat × Nat) → List Act → Except Status (List (Nat × Nat))
  | map, [] => .ok map
  | map, a :: r => match stepMap map a with
    | .ok map' => runActs map' r
    | .error st => .error st

/-- The cells a sheaf's cell-level actions name. -/
def Sheaf.named (y : Sheaf) : List Nat :=
  y.acts.filterMap (fun a => match a with
    | .setCell c _ => some c
    | .release c => some c
    | .setLoop c _ _ _ => some c
    | .setPark c _ _ => some c
    | _ => none) ++ y.cells.map Prod.fst

/-- The reef pause in force, in beats (R424, R425): none while THM_CTL.REEF_EN is 0. -/
def Dev.pause (d : Dev) (m : MastId) : Nat :=
  let x := (d.mast m).pwr
  if x.form && d.effF m 0x8100 0 1 == 1 then [0, 0, 500, 2000, 10000, 50000].getD x.actLevel 0 else 0

/-- The first beat on which a strike clears the pause (R137). -/
def Dev.pauseEnd (d : Dev) (m : MastId) : Nat :=
  match (d.fab m).lastStrike with
  | some s => s + d.pause m
  | none => 0

/-- Steps 1 to 5 of R123, with R169's check after step 3, and R137's for REEF_FAIL: the working map. -/
def Dev.turnCheck (d : Dev) (m : MastId) (y : Sheaf) : Except Status (List (Nat × Nat)) :=
  let f := d.fab m
  let base := if y.baseNow then f.epoch else y.base
  if d.pins.parkSeen then .error .parked
  else if f.epoch < base then .error .mapEpoch
  else if (y.readSet f.ports).any (fun p => base < tget 0 f.portEpoch p) then .error .conflict
  else if y.presolved && !y.baseNow && base < f.cellEpoch then .error .conflict
  else match runActs f.map y.acts with
    | .error st => .error st
    | .ok map =>
      if y.named.any (d.cellFenced m) then .error .cellFenced
      else if y.reefFail && y.at_.isNone && d.beat + 1 + d.lead m < d.pauseEnd m then .error .reefHeld
      else .ok map

/-- Does the sheaf call for a solve (R157)? -/
def Sheaf.solves (y : Sheaf) : Bool :=
  !y.presolved && y.acts.any (fun a => match a with
    | .connect _ _ => true
    | .move _ _ _ _ => true
    | .permute _ => true
    | _ => false)

/-- Connections of the working map absent from the current one. -/
def Fab.fresh (f : Fab) (map : List (Nat × Nat)) : Nat := (map.filter (fun c => !f.map.contains c)).length

/-- The circuits of a map that are in force, and those to be made (R157). -/
def Fab.split (f : Fab) (map : List (Nat × Nat)) : List (Nat × Nat) × List (Nat × Nat) :=
  (map.filter f.map.contains, map.filter (fun c => !f.map.contains c))

/-- Has the working map a preserving solve, and has it one that may use fenced cells (R158)? -/
def Dev.keeps (d : Dev) (m : MastId) (map : List (Nat × Nat)) : Bool × Bool :=
  let f := d.fab m
  let p := f.split map
  (f.canKeep (d.cellFenced m) p.1 p.2, f.canKeep (fun _ => false) p.1 p.2)

/-- Does the sheaf come to a full solve or a migration (R157, R158)? -/
def Dev.beyondKeep (d : Dev) (m : MastId) (y : Sheaf) (map : List (Nat × Nat)) : Bool :=
  !y.preserve && (256 < (d.fab m).fresh map || d.keeps m map == (false, false))

/-- The next tile sheaf id, counting up and passing over those in use (R128). -/
def Dev.newTsid (d : Dev) (m : MastId) (k : SKey) : Dev :=
  let f := d.fab m
  let used := f.sheafs.map (fun y => y.work.tsid)
  let id := ((List.range 1100).map (fun i => (f.nextTsid + i) % 65536)).find? (fun i => !used.contains i)
  let id := id.getD f.nextTsid
  (d.onFab m (fun f => { f with nextTsid := (id + 1) % 65536 })).onSheaf m k (fun y =>
    { y with phase := .solving, work := { noWork with tsid := id } })

/-- The turn of the sheaf or plane swap at the head of strike order. -/
def execSheafTurn (s : State) : Host.Outcome State Fault Refusal :=
  run s (fun d => d.act (fun m =>
    let f := d.fab m
    match f.order with
    | [] => d
    | k :: _ => match d.findSheaf m k with
      | none => d
      | some y =>
        if y.phase != .bound || f.swap.isSome || y.key == .heal then d
        else if !k.isSheaf then
          if d.pins.parkSeen then d.abortSheaf m k .parked
          else if !d.shadowOk m then
            match y.owner with
            | none => d
            | some (r, q) => match d.findDesc m r q with
              | none => d.dropSheaf m k
              | some x => (d.dropSheaf m k).completeAt m x .badState f.epoch none true
          else (d.newTsid m k).solved m k (f.edgeSets f.shadow f.map) f.map false true
        else if y.spillLost then d.abortSheaf m k .memLost
        else match d.turnCheck m y with
          | .error st => d.abortSheaf m k st
          | .ok map =>
            -- payloads in the spill region come back into SRAM, and the solve runs from then on (R450)
            let now := d.beat
            let d := (d.newTsid m k).onSheaf m k (fun y => { y with spill := 0, work := { y.work with solveAt := some now } })
            let away := f.kind == 2 && d.beyondKeep m y map
            if y.solves then
              -- step 1 of a migration cancels a refresh in progress (R166)
              (d.onSheaf m k (fun y => { y with work := { y.work with wmap := map, migrate := away } })).when away (fun d =>
                d.onFab m (fun f => { f with shadowBusy := false }))
            else d.solved m k [] map false false))

/-! ## Solves (R157 to R160, R165, R166, R173, R174) -/

/-- A solve's length charged to the ring of its commit or plan (R354). -/
def Dev.chargeSolve (d : Dev) (m : MastId) (ring us : Nat) : Dev :=
  d.onRing m ring (fun r => { r with F := tagAdd r.F (8 * us) r.weight })

/-- Settings written outside any strike through the drive queues: pinned cells keep their pin (R114, R165). A full solve sets every
cell of the shadow, so also those that a Thresh round has taken, whatever their settings were (R288); such a cell is interrupted
(R292). -/
def Dev.driveQueue (d : Dev) (m : MastId) (sets : List CellSet) (full : Bool) : Dev :=
  let f := d.fab m
  let ts := d.stagedTiles m
  let swept := d.swept m
  let again := if full then (swept.filter (fun c => f.inPlane f.shadow c && !sets.any (fun (s : CellSet) => s.cell == c))).filterMap
      (fun c => (tget none f.settings c).map (fun t => (⟨c, t⟩ : CellSet)))
    else []
  let out := (sets ++ again).filter (fun (s : CellSet) => tget none f.settings s.cell != some s.tgt || swept.contains s.cell)
  let d := d.writes m ((out.filter (fun (s : CellSet) => !f.pinned.contains s.cell && ts.contains (s.cell / laneCount))).map
    (fun s => (s.cell, s.tgt, false)))
  (d.onFab m (fun f => { f with settings := sets.foldl (fun t (s : CellSet) => tset none t s.cell (some s.tgt)) f.settings })).interrupt m
    (fun c => out.any (fun (s : CellSet) => s.cell == c.cell)) (fun c => out.any (fun (s : CellSet) => s.cell == c.cell))

/-- A heal ends without a strike: every fence it served is counted and reported (R174). -/
def Dev.unhealed (d : Dev) (m : MastId) : Dev :=
  let cs := (d.fab m).healCause
  let d := (d.dropSheaf m .heal).onFab m (fun f => { f with healCause := [], order := f.order.filter (· != .heal) })
  d.each cs (fun c d => (d.count m 0x4068 48 16 1).logFault m 209 2 c.2.idx (BitVec.ofNat 32 c.2.idx))

/-- The result of a sheaf's solve, chosen as R157 and R158 say. Results that they do not allow change nothing (assumption 13). -/
def Dev.solveSheaf (d : Dev) (m : MastId) (y : Sheaf) (res : Solve) : Dev :=
  let f := d.fab m
  let map := y.work.wmap
  let bad := d.cellFenced m
  let mayKeep := y.preserve || f.fresh map ≤ 256
  let beyond := d.beyondKeep m y map
  let pay := fun us (d : Dev) => d.chargeSolve m y.key.ring us
  match res with
  | .preserving sets us =>
    let p := f.split map
    if mayKeep && f.preserves bad p.1 p.2 sets then
      pay us ((d.solved m y.key sets map false false).when y.work.migrate (fun d =>
        d.onFab m (fun f => { f with shadowBusy := true })))
    else d
  | .full sets us =>
    if beyond && f.kind != 2 && f.fullySolves bad map sets && f.asBefore bad f.active map sets then
      pay us ((d.onFab m (fun f => f.recall bad f.active map sets)).solved m y.key sets map true false)
    else d
  | .migration sets us =>
    if beyond && f.kind == 2 && f.shadowFull bad map sets && f.asBefore bad f.shadow map sets &&
        (f.edgeSets f.shadow map).all (fun (s : CellSet) => !bad s.cell) then
      let at_ := d.beat + 2
      let d := (d.onFab m (fun f => { f.recall bad f.shadow map sets with shadowBusy := false })).driveQueue m sets true
      pay us (d.onSheaf m y.key (fun y => { y with work := { y.work with migrate := true, shadowAt := some at_ } }))
    else d
  | .needsRearrange us =>
    if y.preserve && d.keeps m map == (false, false) then pay us (d.abortSheaf m y.key .needsRearrange) else d
  | .fenced us =>
    let plane := if f.kind == 2 then f.shadow else f.active
    if (mayKeep && d.keeps m map == (false, true)) || (beyond && !f.canFull bad plane true map) then
      pay us (d.abortSheaf m y.key .cellFenced)
    else d
  | .plan _ _ _ => d

/-- The result of a BENES heal's solve (R173, R174): a preserving one that re-routes the affected circuits; where there is none
and BENES_RESOLVE is 1, a full one; else the fences stay unhealed. -/
def Dev.solveHeal (d : Dev) (m : MastId) (y : Sheaf) (res : Solve) : Dev :=
  let f := d.fab m
  let map := y.work.wmap
  let bad := d.healBad m
  let g := f.choices []
  let stay := map.filter (fun c => f.routes g bad [c])
  let fresh := map.filter (fun c => !f.routes g bad [c])
  let full := !f.canKeep bad stay fresh && d.effF m 0x4060 1 1 == 1
  let unhealed := !f.canKeep bad stay fresh && !(full && f.canFull bad f.active true map)
  match res with
  | .preserving sets _ => if f.preserves bad stay fresh sets then d.solved m y.key sets map false false else d
  | .full sets _ =>
    if full && f.fullySolves bad map sets && f.asBefore bad f.active map sets then
      (d.onFab m (fun f => f.recall bad f.active map sets)).solved m y.key sets map true false
    else d
  | .needsRearrange _ | .fenced _ => if unhealed then d.unhealed m else d
  | .migration _ _ | .plan _ _ _ => d

/-- The mast core cycles for which the solve of a sheaf has run are counted when it ends (R369). -/
def Dev.solverBusy (d : Dev) (m : MastId) (y : Sheaf) : Dev :=
  match y.work.solveAt, d.findSheaf m y.key with
  | some b, some z =>
    if z.phase == .solving && !z.work.solved && z.work.shadowAt.isNone then d
    else d.pmc m 0x022 [0] ((if (d.mast m).mem.bypass then 80 else 160) * (d.beat - b))
  | some b, none => d.pmc m 0x022 [0] ((if (d.mast m).mem.bypass then 80 else 160) * (d.beat - b))
  | none, _ => d

/-- The result of a solve for the sheaf or heal at its turn. -/
def Dev.solveFor (d : Dev) (m : MastId) (y : Sheaf) (res : Solve) : Dev :=
  if y.key == .heal then d.solveHeal m y res else (d.solveSheaf m y res).solverBusy m y

/-- A PLAN's payload length (R163). -/
def planLen (moved : List Nat) (sets : List CellSet) : Nat := 16 + (2 * moved.length + 3) / 4 * 4 + 4 * sets.length

/-- The result of a PLAN, judged against the map and paths it planned from (R162). -/
def Dev.planDone (d : Dev) (m : MastId) (j : PlanJob) (res : Solve) : Dev :=
  let f : Fab := { d.fab m with map := j.map, settings := j.settings, active := j.active }
  let bad := d.cellFenced m
  let drop := fun (d : Dev) => d.onFab m (fun f => { f with plans := f.plans.drop 1 })
  match d.findDesc m j.ring j.seq with
  | none => drop d
  | some x =>
    match res with
    | .plan moved sets us =>
      if f.plans? bad j.want moved sets then
        let d := (drop d).chargeSolve m j.ring us
        (d.writeOut m x j.slot 0x31 (planLen moved sets) j.epoch (.plan j.epoch moved sets)).completeAt m x .ok j.epoch none
          false
      else d
    | .fenced us =>
      if f.canFull bad f.active true j.want then d
      else ((drop d).chargeSolve m j.ring us).completeAt m x .cellFenced j.epoch none false
    | _ => d

/-- A solve ends: that of the sheaf or heal whose turn it is, else that of the first PLAN. -/
def execRouteSolveDone (res : Solve) (s : State) : Host.Outcome State Fault Refusal :=
  run s (fun d => d.act (fun m =>
    let f := d.fab m
    let isPlan := match res with
      | .plan _ _ _ => true
      | _ => false
    let busy := f.sheafs.find? (fun y => y.phase == .solving && !y.work.solved && y.work.shadowAt.isNone)
    match busy, f.plans with
    | some y, j :: _ => if isPlan then d.planDone m j res else d.solveFor m y res
    | some y, [] => d.solveFor m y res
    | none, j :: _ => d.planDone m j res
    | none, [] => d))

/-- One beat after its shadow writes, a migration stages the edge cells of every circuit (R166). -/
def execMigrationShadowSettled (s : State) : Host.Outcome State Fault Refusal :=
  run s (fun d => d.act (fun m =>
    let f := d.fab m
    match f.sheafs.find? (fun y => y.work.migrate && !y.work.solved) with
    | none => d
    | some y => match y.work.shadowAt with
      | none => d
      | some b =>
        if b ≤ d.beat then d.solved m y.key (f.edgeSets f.shadow y.work.wmap) y.work.wmap false true else d))

/-- The shadow refresh ends: the shadow's new settings are written through the drive queues (R165). -/
def execShadowRefreshDone (sets : List CellSet) (s : State) : Host.Outcome State Fault Refusal :=
  run s (fun d => d.act (fun m =>
    let f := d.fab m
    let bad := d.cellFenced m
    let keep := f.canKeepShadow bad f.map
    if f.shadowBusy && f.refreshes bad f.map sets && (keep || f.asBefore bad f.shadow f.map sets) then
      let d := if keep then d else d.onFab m (fun f => f.recall bad f.shadow f.map sets)
      (d.driveQueue m sets (!keep)).onFab m (fun f => { f with shadowBusy := false })
    else d))

/-! ## Plans, plane swaps, table swaps (R155, R156, R162, R168) -/

/-- PLAN: both slots are checked, the wanted map is copied and its slot returned, and the solve begins. One slot named twice
is held already (assumption 102). -/
def execPlan (ring seq : Nat) (inSlot : SlotIn) (outSlot : SlotOut) (s : State) : Host.Outcome State Fault Refusal :=
  let map := portMapOf inSlot.bytes
  run s (fun d => d.start ring seq 0x31 (fun m x d => d.need m x 0 (fun d =>
    d.slotHold m x inSlot (fun st d => d.complete m x st) (fun d =>
      d.slotOut m x outSlot (fun st d => (d.returnIn m x inSlot false).complete m x st) (fun d =>
        if inSlot.ref == outSlot.ref then (d.returnIn m x inSlot false).complete m x .slotOwner
        else d.slotCheck m x inSlot (fun st d => d.complete m x st) (fun d =>
          let d := d.returnIn m x inSlot false
          let n := (d.fab m).ports
          if inSlot.kind != 0x11 || inSlot.len != 2 * n || map.length != n || !portMapOk n map then
            d.complete m x .portInvalid
          else d.onFab m (fun f => { f with
            plans := f.plans ++ [⟨ring, seq, outSlot.ref, mapOfPorts map, f.epoch, f.map, f.settings, f.active⟩] })))))))

/-- PLANE_SWAP: BAD_STATE in a BENES fabric; SHADOW_OK is judged at its turn, as all that depends on the fabric is (R121). -/
def execPlaneSwap (ring seq : Nat) (s : State) : Host.Outcome State Fault Refusal :=
  run s (fun d => d.start ring seq 0x32 (fun m x d => d.need m x 9 (fun d =>
    if (d.fab m).kind != 2 then d.complete m x .badState
    else d.onFab m (fun f =>
      let y : Sheaf :=
        { key := .swap ring seq, ctx := x.ctx, commit := some seq, readAll := false, baseNow := true, presolved := false
          preserve := false, reefFail := false, base := 0, acts := [], hasPermute := false, cells := [], tag := 0
          doomed := none, nPort := 0, nCell := 0, phase := .bound, at_ := none, due := false, work := noWork, pool := 0, spill := 0, spillLost := false }
      ({ f with sheafs := f.sheafs ++ [y] } : Fab).place))))

/-- TOPO_SWAP: the table is checked under R151 and later turns are held until it is applied. The ERR a payload of another
KIND leaves is free. -/
def Dev.topoSwap (d : Dev) (slot : SlotIn) (m : MastId) (x : Desc) : Dev :=
  let tbl := topoOf slot.bytes
  d.need m x 9 (fun d =>
    d.slotIn m x slot (fun st d => d.complete m x st) (fun d =>
      let d := d.returnIn m x slot false
      let bad := fun (e : Nat × Nat) (d : Dev) =>
        (d.onFab m (fun f => { f with topoErr := e.1, topoErrEntry := e.2 })).complete m x .topoInvalid
      if (d.fab m).sheafs.any (fun y => y.key != .heal) then d.complete m x .badState
      else if slot.kind != 0x30 then d.drawNat (fun n d => bad (n % 256, n / 256 % 65536) d)
      else match topoCheck d.part (d.regF m 0x4010 0 16) { tbl with len := slot.len } with
        | some e => bad e d
        | none => d.onFab m (fun f => { f with swap := some (x.ring, x.ent.seq, tbl) })))

/-- TOPO_SWAP. A second one waits for the first. -/
def execTopoSwap (ring seq : Nat) (slot : SlotIn) (s : State) : Host.Outcome State Fault Refusal :=
  run s (fun d =>
    if d.serving.any (fun m => (d.fab m).swap.isSome) then d
    else d.startLasting ring seq 0x30 (.topoSwap ring seq slot) (fun m x d => d.topoSwap slot m x))

/-- A cell whose tone the new table changes restarts its window (R189). -/
def Dev.retone (d : Dev) (old : Nat → Nat) (t : Nat) : Dev :=
  d.each (List.range laneCount) (fun l d =>
    if (d.cell (t * laneCount + l)).lp.tone == old (t * laneCount + l) then d
    else d.onCell (t * laneCount + l) (fun c => { c with lp := { c.lp with win := [], restart := true } }))

/-- At one watch boundary the new table takes effect in both solvers and all tiles, and TOPO_SWAP completes. It waits until a
pass under way has applied (R292). -/
def execTopoSwapApply (s : State) : Host.Outcome State Fault Refusal :=
  run s (fun d => d.act (fun m =>
    match (d.fab m).swap with
    | none => d
    | some (r, q, t) =>
      if !d.watchEdge || (d.mast m).cal.pass.isSome then d
      else
        let pins := (d.fab m).pinned
        let old := fun c => (d.cell c).lp.tone
        let empty := (d.fab m).map.isEmpty
        let d := d.loadTopo m t
        let alive := (List.range 16).filter (fun t => (d.tile t).alive)
        let d := d.each alive (fun t d => d.retone old t)
        let d := d.each alive (fun t d => d.each [4 * t, 4 * t + 1, 4 * t + 2, 4 * t + 3] (fun k d => d.rewrote m k))
        let d := d.onFab m (fun f => { f with swap := none, pinned := pins })
        let d := if empty then d
          else
            let n := (d.fab m).ports
            { d.onFab m (fun f => { f with map := freeMap n d.free }) with free := d.free + 2 * n }
        match d.findDesc m r q with
        | some x => d.complete m x .ok
        | none => d))

/-! ## Heal turns (R172 to R174) -/

/-- The heal strike as strike order holds it. -/
def healSheaf : Sheaf :=
  { key := .heal, ctx := 0, commit := none, readAll := false, baseNow := true, presolved := false, preserve := false
    reefFail := false, base := 0, acts := [], hasPermute := false, cells := [], tag := 0, doomed := none, nPort := 0
    nCell := 0, phase := .bound, at_ := none, due := false, work := noWork, pool := 0, spill := 0, spillLost := false }

/-- A heal strike's turn: it waits while PARK_N is low and for a shadow refresh. -/
def execHealStrikeTurn (s : State) : Host.Outcome State Fault Refusal :=
  run s (fun d => d.act (fun m =>
    let f := d.fab m
    let begun := match d.findSheaf m .heal with
      | some y => y.phase != .bound
      | none => false
    if f.order.head? != some .heal || begun || d.pins.parkSeen || f.shadowBusy || f.swap.isSome then d
    else
      let d := d.onFab m (fun f => { f with sheafs := f.sheafs.filter (fun y => y.key != .heal) ++ [healSheaf] })
      if f.kind == 2 then
        if d.shadowOk m then (d.newTsid m .heal).solved m .heal (f.edgeSets f.shadow f.map) f.map false true
        else d.unhealed m
      else (d.newTsid m .heal).onSheaf m .heal (fun y => { y with work := { y.work with wmap := f.map } })))

/-- MAP_READ's payload is written (R141). -/
def execMapReadDone (ring seq : Nat) (s : State) : Host.Outcome State Fault Refusal :=
  run s (fun d => d.act (fun m =>
    let f := d.fab m
    match f.reads.find? (fun j => j.ring == ring && j.seq == seq), d.findDesc m ring seq with
    | some j, some x =>
      let g := f.choices []
      let worn := fun (h : Hop) => d.cellFenced m h.1 || (f.pinned.contains h.1 && (d.cell h.1).drv.logical != g h.1)
      let ents := j.map.zipIdx.map (fun (e : PortEnt × Nat) =>
        let deg := e.1.valid && f.map.contains (e.2, e.1.out) && (match f.path g e.2 with
          | some (_, hops) => hops.any worn
          | none => false)
        if e.1.valid then e.1.out + 16384 * b2n deg + 32768 else 0)
      let t := match j.data with
        | .map _ t _ => t
        | _ => ⟨0, 0⟩
      let d := d.onFab m (fun f => { f with reads := f.reads.filter (fun k => !(k.ring == ring && k.seq == seq)) })
      (d.writeOut m x j.first 0x10 (16 + 2 * f.ports) j.epoch (.map j.map.length t ents)).completeAt m x .ok j.epoch none false
    | _, _ => d))

end Sys2Proof.Machine
end

