-- ==== Sys2Proof/Machine/Strike.lean ====
section
/-! DEFINITION. Staging, arming, strike words, strikes, misses and repairs, driver checks (R20, R21, R26, R103, R104,
R122, R126 to R137, R143, R171). -/

namespace Sys2Proof.Machine

/-! ## Staging (R128 to R130) -/

/-- The changes that the first `n` cell changes complete. -/
def firstChanges : Nat → List Change → List Change
  | _, [] => []
  | n, c :: r => if c.size ≤ n then c :: firstChanges (n - c.size) r else []

/-- The sheaf of a tile sheaf id on a mast. -/
def Dev.ofTsid (d : Dev) (m : MastId) (tsid : Nat) : Option Sheaf :=
  (d.fab m).sheafs.find? (fun y => (y.phase == .solving || y.phase == .staged || y.phase == .decided) && y.work.tsid == tsid)

/-- A staging frame that has left carries 16 cell changes; a tile holds at most 4 staged sheafs. -/
def execStagingFrame (tile tsid : Nat) (s : State) : Host.Outcome State Fault Refusal :=
  run s (fun d => d.act (fun m =>
    match d.ofTsid m tsid with
    | none => d
    | some y =>
      let x := d.tile tile
      let other := x.link.staged.filter (fun g => g.tsid != tsid)
      let done := tget 0 y.work.sent tile - 1
      if !y.work.solved || y.work.stagedOn tile || !(d.stagedTiles m).contains tile || 4 ≤ other.length || !d.takes m tile ||
        d.waiting m tile 4 [tsid, (done + 15) / 16] then d
      else
        let all := tget [] y.work.changes tile
        let n := Nat.min (done + 16) (sizeOf all)
        let gap := x.link.staged.any (fun g => g.tsid == tsid && g.gap)
        let d := d.onTile tile (fun x => { x with link := { x.link with staged := other ++ [⟨tsid, gap, firstChanges n all⟩] } })
        let d := d.onSheaf m y.key (fun y => { y with work := { y.work with sent := tset 0 y.work.sent tile (n + 1) } })
        d.restage m))

/-! ## The decision to strike (R122, R126, R137) -/

/-- Decide to strike at beat D. -/
def Dev.decideStrike (d : Dev) (m : MastId) (k : SKey) (D : Nat) : Dev :=
  let lead := d.lead m
  let repair := d.effF m 0x4030 8 1 == 1
  d.onSheaf m k (fun y => { y with
    phase := .decided
    work := { y.work with D := some D, lead := lead, repair := repair, frames := [], arms := false, acks := [], refused := false, word := false } })

/-- An unscheduled sheaf's decision: beat D is the next beat; a pause delays all but heal strikes. -/
def execDecisionToStrike (s : State) : Host.Outcome State Fault Refusal :=
  run s (fun d => d.act (fun m =>
    let f := d.fab m
    match f.order with
    | [] => d
    | k :: _ => match d.findSheaf m k with
      | none => d
      | some y =>
        let D := d.beat + 1
        if y.phase != .staged || y.at_.isSome || !d.stagingDone m y || (d.mast m).pen.yielding ||
          D < f.lastStrike.getD 0 || (k != .heal && D + d.lead m < d.pauseEnd m) then d
        else d.decideStrike m k D))

/-- A scheduled sheaf's decision beat: D is its strike beat less the strike lead. -/
def execScheduledDecisionBeat (ring sheafId : Nat) (s : State) : Host.Outcome State Fault Refusal :=
  run s (fun d => d.act (fun m =>
    let k := SKey.sheaf ring sheafId
    match d.findSheaf m k with
    | none => d
    | some y => match y.at_ with
      | none => d
      | some t =>
        let lead := d.lead m
        if y.phase == .open_ || y.decided || stampNs d.now + 100 * lead < stampNs t then d
        else
          let onTime := stampNs d.now + 100 * lead == stampNs t
          let ready := y.phase == .staged && (d.fab m).order.head? == some k && d.stagingDone m y &&
            (d.fab m).lastStrike.getD 0 ≤ d.beat && !(d.mast m).pen.yielding
          if !(onTime && ready) then d.abortSheaf m k .tooLate
          else if d.beat + lead < d.pauseEnd m then d.abortSheaf m k .reefHeld
          else d.decideStrike m k d.beat))

/-- The sheaf between decision and strike (R118). -/
def Dev.struck? (d : Dev) (m : MastId) : Option Sheaf := (d.fab m).sheafs.find? (fun y => y.decided)

/-! ## Arming (R131, R133) -/

/-- The bytes of a staged change, over which staging's CRC-32C runs (R131). The spec gives no encoding (assumption 105). -/
def Change.bytes : Change → List Byte
  | .drive l g => layout [(1, 0), (2, l), (2, match g with
    | .bar => 0x1000
    | .cross => 0x1001
    | .code c => c
    | .clearW => 0x1002)]
  | .park l c => layout [(1, 1), (2, l), (2, c)]
  | .loop l k v => layout [(1, 2), (2, l), (1, k), (4, v)]
  | .marks l live ex => layout [(1, 3), (2, l), (1, b2n live), (1, ex)]

/-- The CRC-32C of the changes staged on a tile (R131). -/
def changesCrc (cs : List Change) : Word := crc32c (cs.flatMap Change.bytes)

/-- The arm frame of one tile (R131). -/
def Dev.armOf (d : Dev) (m : MastId) (y : Sheaf) (D t : Nat) : Arm :=
  let o := y.owner.getD (0, 0)
  let x := d.findDesc m o.1 o.2
  let cs := tget [] y.work.changes t
  { tsid := y.work.tsid, mask := maskOf (d.stagedTiles m), count := sizeOf cs, crc := changesCrc cs
    epoch := (d.fab m).epoch + 1, strike := stampPlus d.now (100 * (D + y.work.lead - d.beat))
    strikeBeat := D + y.work.lead, key := y.key, seq := o.2, tag := (x.map (fun x => x.ent.tag)).getD 0, ctx := y.ctx
    state := 0, armedAt := 0 }

/-- In beat D + lead - 4 the arm frame goes to every staged tile. -/
def execArmFrameSend (s : State) : Host.Outcome State Fault Refusal :=
  run s (fun d => d.act (fun m =>
    match d.struck? m with
    | none => d
    | some y => match y.work.D with
      | none => d
      | some D =>
        if y.work.arms || d.beat + 4 != D + y.work.lead then d
        else
          let frames : Tbl (Option Arm) := (d.stagedTiles m).foldl (fun l t => tset none l t (some (d.armOf m y D t))) []
          let d := d.each (d.stagedTiles m) (fun t d => d.command m t 1 [y.work.tsid, 1] [])
          d.onSheaf m y.key (fun y => { y with work := { y.work with arms := true, frames := frames } })))

/-- The tile's last 64 arm frames. -/
def keepArms (l : List Arm) : List Arm := l.drop (l.length - 64)

/-- Does a staged sheaf match its arm frame, and is nothing else armed (R131)? -/
def Tile.mayArm (x : Tile) (a : Arm) : Bool :=
  x.link.armed.isNone && (match x.link.staged.find? (fun g => g.tsid == a.tsid) with
    | some g => !g.gap && sizeOf g.changes == a.count && changesCrc g.changes == a.crc
    | none => false)

/-- A tile takes the arm frame under way to it: it arms and acknowledges where count and CRC match and nothing else is armed, and
else refuses. `crcOk` says that the tile holds what it was sent. -/
def execArmFrame (tile : Nat) (crcOk : Bool) (s : State) : Host.Outcome State Fault Refusal :=
  run s (fun d => d.act (fun m =>
    match d.struck? m with
    | none => d
    | some y => match tget none y.work.frames tile with
      | none => d
      | some a =>
        if !d.takes m tile || d.waiting m tile 1 [a.tsid, 1] then d
        else
          let ok := crcOk && (d.tile tile).mayArm a
          let a := { a with armedAt := d.beat }
          let d := d.onSheaf m y.key (fun y => { y with work := { y.work with frames := tset none y.work.frames tile none } })
          d.onTile tile (fun x => { x with link := { x.link with
            armed := if ok then some a else x.link.armed
            arms := if ok then keepArms (x.link.arms ++ [a]) else x.link.arms
            ack := some (a.tsid, ok) } })))

/-- The mast receives an acknowledgement; it counts by the start of beat D + lead - 2 (R26, R132). -/
def execStageAcknowledgement (tile : Nat) (s : State) : Host.Outcome State Fault Refusal :=
  run s (fun d => d.act (fun m =>
    match (d.tile tile).link.ack with
    | some (i, true) => d.upGo m tile 1 (fun d =>
      let d := d.onTile tile (fun x => { x with link := { x.link with ack := none } })
      match d.struck? m with
      | none => d
      | some y => match y.work.D with
        | none => d
        | some D =>
          if y.work.tsid == i && d.beat + 2 < D + y.work.lead then
            d.onSheaf m y.key (fun y => { y with work := { y.work with acks := y.work.acks ++ [tile] } })
          else d)
    | _ => d))

/-- The mast receives a refusal. -/
def execStageRefusal (tile : Nat) (s : State) : Host.Outcome State Fault Refusal :=
  run s (fun d => d.act (fun m =>
    match (d.tile tile).link.ack with
    | some (i, false) => d.upGo m tile 1 (fun d =>
      let d := d.onTile tile (fun x => { x with link := { x.link with ack := none } })
      match d.struck? m with
      | none => d
      | some y => if y.work.tsid == i then d.onSheaf m y.key (fun y => { y with work := { y.work with refused := true } }) else d)
    | _ => d))

/-- A tile discards its armed sheaf and the sheaf's staged data. -/
def Tile.discard (x : Tile) (tsid : Nat) : Tile :=
  { x with link := { x.link with
      staged := x.link.staged.filter (fun g => g.tsid != tsid)
      armed := x.link.armed.filter (fun a => a.tsid != tsid)
      arms := x.link.arms.map (fun a => if a.tsid == tsid && a.state == 0 then { a with state := 2 } else a) } }

/-- A tile receives a disarm frame of a sheaf that the mast has given up. -/
def execDisarmFrame (tile tsid : Nat) (s : State) : Host.Outcome State Fault Refusal :=
  run s (fun d => d.act (fun m =>
    if d.takes m tile && (d.ofTsid m tsid).isNone && !d.waiting m tile 1 [tsid, 0] then d.onTile tile (fun x => x.discard tsid) else d))


/-! ## Strike words (R20, R21, R132, R134, R135) -/

/-- A decided sheaf's strike word is not sent: disarm frames go out and it aborts; a heal strike is tried again (R172). -/
def Dev.notStruck (d : Dev) (m : MastId) (y : Sheaf) (st : Status) : Dev :=
  if y.key == .heal then d.undo m y else d.abortSheaf m y.key st

/-- Every staged tile has acknowledged a renewal whose lease end lies after the strike beat (R132). -/
def Dev.leased (d : Dev) (m : MastId) (strike : Nat) : Bool :=
  (d.stagedTiles m).all (fun t => strike < tget 0 (d.mast m).pen.acks t)

/-- The start of beat D + lead - 1. -/
def execStrikeWordSend (s : State) : Host.Outcome State Fault Refusal :=
  run s (fun d => d.act (fun m =>
    match d.struck? m with
    | none => d
    | some y => match y.work.D with
      | none => d
      | some D =>
        if y.work.word || d.beat + 1 != D + y.work.lead then d
        else if !(d.stagedTiles m).all y.work.acks.contains || y.work.refused || !d.leased m (D + y.work.lead) then
          d.notStruck m y .stageFail
        else if d.pins.parkSeen then d.notStruck m y .parked
        else (d.emit (.strikeWord m y.work.tsid ((d.mast m).pen.epoch % 4096))).onSheaf m y.key (fun y =>
          { y with work := { y.work with word := true } })))

/-- One staged change applied on the strike beat (R239, R268, R270, R283); SET_LOOP waits for its boundary (R114). -/
def Dev.applyChange (d : Dev) (t : Nat) (c : Change) : Dev :=
  match c with
  | .drive l g => d.setTgt t l false g
  | .park l v => if l < laneCount then d.retarget t l false (fun x => { x with P := v }) else d.retargetAll t (fun x => { x with P := v })
  | .loop l k v => d.onTile t (fun x => { x with pend := x.pend ++ [(if l < laneCount then some l else none, k, v)] })
  | .marks l live ex => d.onTile t (fun x => x.onCell l (fun c =>
      let mon := if c.mon.expect == ex then c.mon else c.mon.fromIn
      { c with drv := { c.drv with live := live }, mon := { mon with expect := ex } }))

/-- A tile applies its armed sheaf and frees its staged data. -/
def Dev.applyArmed (d : Dev) (t : Nat) (a : Arm) : Dev :=
  let cs := ((d.tile t).link.staged.find? (fun g => g.tsid == a.tsid)).map StagedT.changes
  let now := d.beat
  let d := d.each (cs.getD []) (fun c d => d.applyChange t c)
  (d.onTile t (fun x => { x with link := { x.link with
    armed := none, applied := some (a.tsid, now), staged := x.link.staged.filter (fun g => g.tsid != a.tsid)
    arms := x.link.arms.map (fun b => if b.tsid == a.tsid && b.state == 0 then { b with state := 1 } else b) } })).takeParams t

/-- A tile that applied the repair word: reported once per tile, counted once per strike (R135, R378). -/
def Dev.repairedOn (d : Dev) (t tsid : Nat) : Dev :=
  d.act (fun m =>
    let f := d.fab m
    if f.missed.contains t && (match f.lastTsid with | some (i, S) => i == tsid && S + 3 == d.beat | none => false) then
      let d := if f.repaired then d else (d.onFab m (fun f => { f with repaired := true })).count m 0x4048 0 16 1
      d.report m (16 + t) 1 t (BitVec.ofNat 32 tsid) none
    else d)

/-- A tile receives a strike word; the beat in progress is the one that its final edge begins. -/
def execStrikeWord (tile : Nat) (startOk crcOk : Bool) (tsid pennant : Nat) (s : State) : Host.Outcome State Fault Refusal :=
  run s (fun d =>
    let x := d.tile tile
    if !x.alive || !startOk then d
    else if !crcOk then
      d.onTile tile (fun x => x.say (match x.link.armed with
        | some a => .miss a.tsid
        | none => .stray tsid))
    else if pennant != x.link.pen % 4096 || !x.leaseRuns d.beat then d.onTile tile (fun x => x.say (.stray tsid))
    else match x.link.armed with
      | some a =>
        if a.tsid == tsid then (d.applyArmed tile a).repairedOn tile tsid else d.onTile tile (fun x => x.say (.stray tsid))
      | none =>
        match x.link.applied with
        | some (i, S) => if i == tsid && d.beat == S + 3 then d else d.onTile tile (fun x => x.say (.stray tsid))
        | none => d.onTile tile (fun x => x.say (.stray tsid)))

/-! ## The strike beat (R103, R104, R119, R127, R140, R165, R166, R169) -/

/-- Connections of `a` absent from `b`. -/
def mapDiff (a b : List (Nat × Nat)) : List (Nat × Nat) := a.filter (fun c => !b.contains c)

/-- Does a BENES strike move an untouched circuit (FAB_SOLVE_CNT.REARRANGED)? A heal touches those over cells that meet `bad`. -/
def Fab.rearranges (f : Fab) (bad : Nat → Bool) (w : SheafWork) : Bool :=
  f.kind == 1 && (f.map.filter (fun c => w.wmap.contains c && f.routes (f.choices []) bad [c])).any (fun c =>
    f.path (f.choices []) c.1 != f.path (f.choices w.sets) c.1)

/-- The journal keeps the last 1,048,576 strikes, a snapshot every multiple of 4,096. -/
def Fab.note (f : Fab) (j : JournalEnt) : Fab :=
  { f with
    journal := if 1048576 ≤ f.journal.length then f.journal.drop 1 ++ [j] else f.journal ++ [j]
    snaps := if j.epoch % 4096 == 0 then f.snaps ++ [(j.epoch, f.map)] else f.snaps }

/-- The sequencer's state after a strike. -/
def Fab.strike (f : Fab) (y : Sheaf) (now : Stamp) (beat : Nat) : Fab :=
  let e := f.epoch + 1
  let w := y.work
  let gone := mapDiff f.map w.wmap
  let come := mapDiff w.wmap f.map
  let ports := (gone ++ come).flatMap (fun c => [c.1, c.2])
  let refresh := f.kind == 2 && (w.migrate || y.presolved || gone != [] || come != [])
  let f := { f with
    epoch := e, strikeTime := some now, lastStrike := some beat, map := w.wmap
    portEpoch := ports.foldl (fun t p => tset 0 t p e) f.portEpoch
    settings := (w.sets.filter (fun (s : CellSet) => (f.entry? s.cell).any (fun e : TopoEntry => e.role == 0))).foldl
      (fun t (s : CellSet) => tset none t s.cell (some s.tgt)) f.settings
    pinned := pinsAfter f.pinned y.acts
    active := if f.kind == 2 then w.plane else 0
    cellEpoch := if w.moves then e else f.cellEpoch
    shadowBusy := f.shadowBusy || refresh
    lastTsid := some (w.tsid, beat), lastChanges := w.changes, missed := [], repaired := false, lastRepair := w.repair
    sheafs := f.sheafs.filter (fun z => z.key != y.key), order := f.order.filter (· != y.key) }
  (f.note ⟨e, now, beat, gone, come, y.tag⟩).place

/-- Cell changes of a sheaf (R129, R363). -/
def SheafWork.total (w : SheafWork) : Nat := (w.changes.map (fun e => sizeOf e.2)).sum

/-- The STRIKE telemetry record (R363). -/
def strikeTel (y : Sheaf) (x : Option Desc) (e : Nat) (now : Stamp) : TelRec :=
  let h := match x with
    | some x => [(2, x.ring), (2, x.ent.sheafId), (4, x.ent.seq), (4, x.ent.tag)]
    | none => [(12, 0)]
  ⟨0x01, now, e, layout (h ++ [(4, y.work.total), (48, y.tag.toNat)])⟩

/-- A heal strike has struck: its causes are served, counted, and logged as HEAL (R172, R380). -/
def Dev.healStruck (d : Dev) (m : MastId) (e : Nat) (now : Stamp) : Dev :=
  let c := (d.fab m).healCause.headD (0, ⟨.cell, 0⟩)
  ((d.onFab m (fun f => { f with healCause := [] })).count m 0x4068 16 16 1).log m c.1 0 5 c.2.idx e now
    (BitVec.ofNat 32 (ukCode c.2.kind))

/-- The strike beat, D + lead, of a sheaf whose strike word was sent. -/
def execStrikeBeat (s : State) : Host.Outcome State Fault Refusal :=
  run s (fun d => d.act (fun m =>
    match d.struck? m with
    | none => d
    | some y => match y.work.D with
      | none => d
      | some D =>
        if !y.work.word || d.beat != D + y.work.lead then d
        else
          let f := d.fab m
          let now := d.now
          let fenced := (d.stagedTiles m).any (fun t => d.isFenced m ⟨.strike, t⟩ && sizeOf (tget [] y.work.changes t) != 0)
          let x := y.owner.bind (fun o => d.findDesc m o.1 o.2)
          let d := (d.onFab m (fun f => f.strike y now d.beat)).pmc m 0x020 [0] 1
          let live := y.work.changes.flatMap (fun e => e.2.filterMap (fun c => match c with
            | .marks l true _ => some (e.1 * laneCount + l)
            | _ => none))
          let d := d.interrupt m (fun c => c.all.any live.contains)
            (fun c => c.lend.any (fun (g : CellSet) => live.contains g.cell))
          let d := if fenced then d.onFab m (fun f => { f with repair := some (y.work.tsid, d.beat + 2) }) else d
          let d := if y.work.migrate && y.key != .heal then d.count m 0x4068 0 16 1 else d
          let bad := if y.key == .heal then d.healBad m else fun _ => false
          let d := if f.rearranges bad y.work then d.count m 0x4068 32 16 1 else d
          let d := d.onGln m (fun g => { g with strikes := g.strikes ++ [now.ns % 20000 / 100] })
          let e := f.epoch + 1
          let d := if y.key == .heal then d.healStruck m e now else d
          let d := d.tel m 0 (strikeTel y x e now)
          match x with
          | some x => d.completeAt m x .ok e (some now) true
          | none => d))

/-! ## Misses, repairs, strays (R134, R135, R384) -/

/-- A report taken out of a tile's queue. -/
def Dev.takeReport (d : Dev) (t : Nat) (r : Rep) : Dev :=
  d.onTile t (fun x => { x with link := { x.link with reports := x.link.reports.erase r } })

/-- The cells a strike changed on a tile. -/
def changedCells (t : Nat) (cs : List Change) : List Nat :=
  (cs.flatMap (fun c => match c with
    | .drive l _ => [l]
    | .park l _ => if l < laneCount then [l] else List.range laneCount
    | .loop l _ _ => if l < laneCount then [l] else List.range laneCount
    | .marks _ _ _ => [])).eraseDups.map (fun l => t * laneCount + l)

/-- A tile has missed both words, or no repair word is allowed. -/
def Dev.missedTwice (d : Dev) (m : MastId) (t tsid : Nat) : Dev :=
  let cells := changedCells t (tget [] (d.fab m).lastChanges t)
  let d := d.count m 0x4048 16 16 1
  let d := d.report m (16 + t) 2 t (BitVec.ofNat 32 tsid) (some ⟨.strike, t⟩)
  d.each cells (fun c d => d.fence m ⟨.cell, c⟩ (16 + t))

/-- 16 beats after arming with no valid strike word the tile discards the sheaf; a tile that the repair word was meant for has
then missed both words (R133, R135). -/
def execArmedSheafTimeout (tile : Nat) (s : State) : Host.Outcome State Fault Refusal :=
  run s (fun d =>
    match (d.tile tile).link.armed with
    | none => d
    | some a =>
      if d.beat < a.armedAt + 16 then d
      else
        let d := d.onTile tile (fun x => x.discard a.tsid)
        d.act (fun m =>
          let f := d.fab m
          if f.missed.contains tile && f.lastTsid.any (fun l => l.1 == a.tsid) && !(d.tile tile).link.reports.contains (.miss a.tsid)
          then (d.onFab m (fun f => { f with missed := f.missed.erase tile })).missedTwice m tile a.tsid
          else d))

/-- The mast receives a strike-miss report: a repair word in beat S + 2, or the fences. -/
def execStrikeMissReport (tile : Nat) (s : State) : Host.Outcome State Fault Refusal :=
  run s (fun d => d.act (fun m =>
    match (d.tile tile).link.reports.findSome? (fun r => match r with
      | .miss i => some i
      | _ => none) with
    | none => d
    | some tsid => d.upGo m tile 3 (fun d =>
      let d := d.takeReport tile (.miss tsid)
      let f := d.fab m
      match f.lastTsid with
      | none => d
      | some (i, S) =>
        if i != tsid then d
        else
          let allowed := f.lastRepair || d.isFenced m ⟨.strike, tile⟩
          if allowed && !f.missed.contains tile && d.beat ≤ S + 2 then
            d.onFab m (fun f => { f with missed := f.missed ++ [tile], repair := some (tsid, S + 2) })
          else (d.onFab m (fun f => { f with missed := f.missed.erase tile })).missedTwice m tile tsid)))

/-- Beat S + 2: the repair word. -/
def execRepairWordSend (s : State) : Host.Outcome State Fault Refusal :=
  run s (fun d => d.act (fun m =>
    match (d.fab m).repair with
    | some (tsid, b) =>
      if b == d.beat then
        (d.emit (.strikeWord m tsid ((d.mast m).pen.epoch % 4096))).onFab m (fun f => { f with repair := none })
      else d
    | none => d))

/-- The mast receives a stray-strike report: counted, and recorded; those of a fenced tile are discarded (R130). -/
def execStrayStrikeReport (tile tsid : Nat) (s : State) : Host.Outcome State Fault Refusal :=
  run s (fun d => d.act (fun m =>
    if !(d.tile tile).link.reports.contains (.stray tsid) then d
    else d.upGo m tile 3 (fun d =>
      let d := d.takeReport tile (.stray tsid)
      if d.isFenced m ⟨.tile, tile⟩ then d
      else (d.count m 0x4048 32 16 1).report m (16 + tile) 1 tile (BitVec.ofNat 32 tsid) none)))

/-- FAB_STRIKE: LEAD 4 to 64 (R143). -/
def execFabStrikeWrite (w : RegWr) (s : State) : Host.Outcome State Fault Refusal :=
  run s (fun d => d.barWrite 0x4030 w (fun m info v d =>
    let old := d.reg m 0x4030
    let ok := 4 ≤ fld v 0 7 && fld v 0 7 ≤ 64
    d.setReg m 0x4030 (plainWrite info old (if ok then v else setFld v 0 7 (fld old 0 7)))))

/-! ## Driver checks (R171) -/

/-- Every 50 beats a tile compares each fast driver's output, read back as a code, with its output code. -/
def execDriverCheck (tile : Nat) (readback : List (Nat × Nat)) (s : State) : Host.Outcome State Fault Refusal :=
  run s (fun d =>
    let x := d.tile tile
    if !x.alive || d.beat % 50 != 0 then d
    else
      let bad := readback.filter (fun r => r.1 < laneCount && (x.cell r.1).drv.O != r.2)
      d.onTile tile (fun x => bad.foldl (fun x r => x.say (.driver r.1 (Nat.min r.2 4095))) x))

/-- The mast receives a tile's driver-mismatch reports: each cell is fenced; in its own test a mismatch is the outcome
(R388). -/
def execDriverMismatchReport (tile : Nat) (s : State) : Host.Outcome State Fault Refusal :=
  run s (fun d => d.act (fun m =>
    let hits := (d.tile tile).link.reports.filterMap (fun r => match r with
      | .driver l c => some (l, c)
      | _ => none)
    if hits.isEmpty then d
    else d.upGo m tile 3 (fun d => d.each hits (fun h d =>
      let cell := tile * laneCount + h.1
      let d := d.takeReport tile (.driver h.1 h.2)
      if d.testing m ⟨.cell, cell⟩ then d.testBad m ⟨.cell, cell⟩
      else d.report m (32 + tile) 2 cell (BitVec.ofNat 32 h.2) (some ⟨.cell, cell⟩)))))

end Sys2Proof.Machine
end

