-- ==== Sys2Proof/Machine/Loop.lean ====
section
/-! DEFINITION. The bias loop around its law: sample frames, the shipped law on its entries, heater codes and their
deadline, budgets, dropped stay frames (R18, R28, R29, R34 to R37, R184 to R191, R198, R201, R206 to R209). -/

namespace Sys2Proof.Machine

/-! ## Sample entries (R206, R207) -/

/-- A signed 16-bit field, saturated at ±32,767. -/
def sat16 (x : Int) : Nat := toField 16 (clampI (-32767) 32767 x)

/-- The dstep of a cell in the period before (R185). -/
def Dev.dstepOf (d : Dev) (c : Nat) : Int := (d.cell c).lp.dstepPrev

/-- A cell's sample entry as its 32 bytes, little-endian. -/
def Dev.entry (d : Dev) (m : MastId) (k s : Nat) : Nat :=
  let cell := cellOf k s
  let x := d.tile (k / 4)
  let c := d.cell cell
  let flags := b2n c.mon.s0.settle + 2 * b2n c.mon.s1.settle + 4 * b2n c.mon.s0.ovr + 8 * b2n c.mon.s1.ovr +
    16 * b2n (c.lp.first || c.lp.restart && x.usable c) + 32 * b2n c.htr.capped + 64 * b2n x.conv.parkSeen + 128 * b2n c.mon.moving +
    256 * b2n (d.cellFenced m cell)
  let nbs := (d.nbs m cell).map (fun n => sat16 (d.dstepOf n))
  let fields := [s + 1024 * x.phase, flags, c.mon.s0.code, c.mon.s1.code, c.htr.inForce, x.railMv,
    (d.core m k).periodCnt.toNat % 16, sat16 c.lp.dstepPrev] ++ nbs
  fields.reverse.foldl (fun a v => 65536 * a + v) 0

/-- The core writes a cell's entry unless 1,024 are unread (R208); a window's first entry clears the restart. -/
def Dev.putEntry (d : Dev) (m : MastId) (k s : Nat) : Dev :=
  let c := d.core m k
  let x := d.tile (k / 4)
  let cell := cellOf k s
  let d' := d.onCell cell (fun z => { z with mon := { z.mon with fresh := false } })
  if (c.sqProd - c.sqCons).toNat == 1024 then d'
  else
    let e := d.entry m k s
    let d' := d'.onCell cell (fun z => { z with lp := { z.lp with restart := z.lp.restart && !x.usable z, first := false } })
    d'.onCore m k (fun c => { c with mem := putBytes c.mem (32 * (c.sqProd.toNat % 1024)) e 32, sqProd := c.sqProd + 1 })

/-- A frame of 32 samples arrives: those of the 16 lanes about `lane` that this scan has measured. A fenced core serves no
cell (R191); under a new holder the shipped law takes its first entries from the boundary at which the loops are loaded
(R189, R190). -/
def execSampleFrame (tile lane : Nat) (s : State) : Host.Outcome State Fault Refusal :=
  run s (fun d => d.act (fun m =>
    let x := d.tile tile
    if !x.closed || laneCount ≤ lane || !d.takes m tile then d
    else
      let lanes := ((List.range 16).map (fun i => lane / 16 * 16 + i)).filter (fun l => (x.cell l).mon.fresh)
      if lanes.isEmpty then d
      else d.carry m tile true (fun d => d.each lanes (fun l d =>
        let k := 4 * tile + l / 384
        if d.coreFenced m k || (d.mast m).pen.due || (x.loopDue && d.liveRun m k == .shipped) then d else d.putEntry m k (l % 384)))))

/-! ## The shipped law (R178, R179, R184, R185, R188, R198) -/

/-- A 16-bit field of the entry at a core's consumer count. -/
def Core.entryH (c : Core) (off : Nat) : Nat :=
  let a := 32 * (c.sqCons.toNat % 1024) + off
  (tget 0 c.mem a).toNat + 256 * (tget 0 c.mem (a + 1)).toNat

def Core.entryI (c : Core) (off : Nat) : Int := let v := c.entryH off; if 32768 ≤ v then (v : Int) - 65536 else v

/-- s of R184: by the logical state, but fixed by the phase of a swept cell's round (R288). -/
def Dev.lawSign (d : Dev) (m : MastId) (cell : Nat) : Int :=
  let ph := match (d.mast m).cal.pass with
    | some p => if d.inRound m cell then tget 0 p.phase (cell / laneCount) else 0
    | none => 0
  if ph == 1 || ph == 3 then 1
  else if ph == 4 then -1
  else match (d.cell cell).drv.logical with
    | some .bar => 1
    | some .cross => -1
    | _ => 0

/-- One computation of the law from the entry at SQ_CONS: the cell's new loop state and the code y(n + 1). -/
def Dev.lawOn (d : Dev) (m : MastId) (k s : Nat) : Loop × Nat :=
  let cell := cellOf k s
  let c := d.core m k
  let x := d.tile (k / 4)
  let z := d.cell cell
  let l := z.lp
  let p := x.par
  let i := (k % 4 * 384 + s) / 24
  let n := c.entryH 0 / 1024 % 32
  let flags := c.entryH 2
  let a := c.entryH 4
  let b := c.entryH 6
  let valid := flags % 16 == 0 && p.lightFloor ≤ a + b && a + b != 0
  let ready := !(bit flags 6 || bit flags 7 || x.conv.parkHold)
  let win := if bit flags 4 || !valid || !ready then [] else l.win
  let win := if valid && ready then (monRatio a b * p.ref (l.tone + 1) i n :: win).take 17 else win
  let steps := z.cal.cSelf * c.entryI 14 +
    ((d.nbs m cell).zipIdx.map (fun e => z.cal.cNb.getD e.2 0 * c.entryI (16 + 2 * e.2))).sum
  let eps := if l.mode == 1 || bit flags 8 || win.length < 17 then 0
    else p.eps (d.lawSign m cell) (l.tone + 1) i win.sum
  let F := p.nextF l.F steps
  let r := piStep p (c.entryH 10) l.kp l.ki l.lo l.hi (c.entryH 8) (bit flags 5) l.I F eps
  ({ l with I := r.1, F := F, win := win, computed := true }, r.2)

/-- The core computes the law for the entry it consumes next, of slot `slot`; an OPEN cell's entry is only consumed. The
cost in cycles is free up to the bounds of R198 (assumption 16). -/
def execLoopLaw (core slot : Nat) (s : State) : Host.Outcome State Fault Refusal :=
  run s (fun d => d.act (fun m =>
    let c := d.core m core
    if c.run != .shipped || !d.canIssue m core || c.sqProd == c.sqCons || d.coreFenced m core || c.entryH 0 % 512 != slot then d
    else
      let cell := cellOf core slot
      let open_ := (d.cell cell).lp.mode == 2
      let r := d.lawOn m core slot
      let ptag := c.entryH 12 % 16
      d.drawNat (fun n d =>
        let d := if open_ then d else d.onCell cell (fun z => { z with lp := r.1 })
        d.onCore m core (fun c =>
          let c := { c with sqCons := c.sqCons + 1, spentLoop := c.spentLoop + n % (if open_ then 7 else 35) }
          if open_ then c else c.post (r.2 + 65536 * slot + 2 ^ 28 * ptag)))))

/-! ## Heater codes (R29, R209) -/

/-- The beat of the tile's loop period in progress. -/
def Dev.periodBeat (d : Dev) (t : Nat) : Nat := d.now.ns % (20000 * (d.tile t).par.period) / 100

/-- Beat 196 of the last watch of the tile's period. -/
def Par.deadline (p : Par) : Nat := 200 * (p.period - 1) + 196

/-- A code becomes a channel's next code unless a Thresh code or a lane's fence already holds the place (R249, R384). -/
def Heat.offer (h : Heat) (prio code : Nat) : Heat :=
  match h.next with
  | some (q, _) => if prio < q then h else { h with next := some (prio, code) }
  | none => { h with next := some (prio, code) }

/-- A post discarded: LATE counts, and the first of a watch per core is reported (R209, R378). -/
def Dev.latePost (d : Dev) (m : MastId) (k : Nat) : Dev :=
  let first := !(d.core m k).lateLogged
  let d := d.onCore m k (fun c => { c with late := c.late + 1, lateLogged := true })
  if first then d.report m 210 0 k (BitVec.ofNat 32 k) none else d

/-- One post reaches its tile; one that comes once beat 196 has begun is late (R29, R209). The codes of a core that stored outside its state window are free (R395). -/
def Dev.takePost (d : Dev) (m : MastId) (k : Nat) (p : PostIn) : Dev :=
  let t := k / 4
  let c := d.core m k
  let cell := cellOf k p.slot
  if p.tag != c.periodCnt.toNat % 16 || 384 ≤ p.slot || (d.tile t).par.deadline ≤ d.periodBeat t then d.latePost m k
  else if (d.cell cell).lp.mode == 2 then d
  else
    let put := fun (v : Nat) (d : Dev) =>
      d.onCell cell (fun z => { z with htr := { z.htr.offer 1 v with arrived := true } })
    if c.tainted then d.drawNat (fun n d => put (n % 65536) d) else put p.code d

/-- The queued posts of a core leave for its tile; a core stalled on the queue goes on. -/
def execHeaterCodeFrame (core : Nat) (s : State) : Host.Outcome State Fault Refusal :=
  run s (fun d => d.act (fun m =>
    let c := d.core m core
    let t := core / 4
    if 64 ≤ core || c.posts.isEmpty then d
    else d.carry m t false (fun d =>
      let run := if c.run == .stalled then d.liveRun m core else c.run
      let d := d.onCore m core (fun c => { c with posts := [], run := run })
      if !d.takes m t || !(d.tile t).leaseRuns d.beat || d.isFenced m ⟨.tile, t⟩ then d
      else d.each c.posts (fun p d => d.takePost m core p))))

/-- Overruns of one core's cells (R29, R198, R201): `short` when the core stands for want of loop-service allowance. -/
def Dev.overruns (d : Dev) (m : MastId) (k : Nat) : Dev :=
  let c := d.core m k
  let shipped := d.liveRun m k == .shipped
  let short := if shipped then d.allowance m false ≤ c.spentLoop else c.run == .budget && !c.cls
  let missed := (List.range 384).filter (fun s => let z := d.cell (cellOf k s); z.lp.mode != 2 && !z.htr.arrived)
  let skipped := if !short then [] else if shipped then missed.filter (fun s => !(d.cell (cellOf k s)).lp.computed) else missed
  if missed.isEmpty then d
  else (((d.count m (0x4200 + 8 * k) 0 32 missed.length).count m (0x4200 + 8 * k) 32 32 skipped.length).pmc m 0x030 [k, 255]
    missed.length).onTile (k / 4) (fun x => missed.foldl (fun x s => x.onCell (k % 4 * 384 + s) (fun z =>
      { z with htr := { z.htr with overrun := true, arrived := true } })) x)

/-- Beat 196 of the last watch of a period: every cell in CLOSED or HOLD whose code has not come keeps its code. -/
def execHeaterCodeDeadline (s : State) : Host.Outcome State Fault Refusal :=
  run s (fun d => d.act (fun m =>
    d.each (d.enabledTiles.filter (fun t => (d.tile t).closed && d.periodBeat t == (d.tile t).par.deadline)) (fun t d =>
      d.each [4 * t, 4 * t + 1, 4 * t + 2, 4 * t + 3] (fun k d => d.overruns m k))))

/-! ## Budgets (R34 to R37) -/

/-- The seven shares of a share register. -/
def shares (v : Reg64) : List Nat := (List.range 7).map (fun i => fld v (8 * i) 8)

/-- FAB_BUD_TIL, STAY or HBM. -/
def execFabBudWrite (off : Nat) (w : RegWr) (s : State) : Host.Outcome State Fault Refusal :=
  run s (fun d =>
    if !inArr off 0x4400 8 3 then d
    else d.barWrite off w (fun m info v d =>
      let l := shares v
      if l.any (fun x => 100 < x) || 100 < l.sum then d.flag m 0x4418 ((off - 0x4400) / 8)
      else d.setReg m off (plainWrite info (d.reg m off) v)))

/-- A class uses up its allowance of a resource and waits for the next watch (R34, R369). A Tiller core whose share of a
kernel class is spent stops (R228); `unit` is the cluster, or the tile of the stay. -/
def execAllowanceSpent (resource cls unit : Nat) (s : State) : Host.Outcome State Fault Refusal :=
  run s (fun d => d.act (fun m =>
    let d := if d.waits m resource cls unit then d
      else (d.pmc m 0x032 [8 * resource + cls] 1).onBud m (fun b => { b with waits := b.waits ++ [(resource, cls, unit)] })
    if resource == 0 && cls < 2 && unit < 4 then
      d.each ((List.range 16).map (fun j => 16 * unit + j)) (fun k d =>
        let c := d.core m k
        if (c.run == .shipped || c.run == .running) && b2n c.cls == cls && !d.canIssue m k then
          d.onCore m k (fun c => { c.openA with run := .budget })
        else d)
    else d))

/-! ## Frames that fail their CRC-32C (R18) -/

/-- A frame of a type is lost on a tile's stay for good: what it carried does not arrive. Type 1 is the arm frame under way or
else the answer to one, 2 the renewal or claim last sent, 3 the oldest report, 4 the next staging frame, 5 the last 16 immediate
writes, 0x10 a core's codes or else the samples of the first 16 lanes that wait (assumption 108). -/
def Dev.frameLost (d : Dev) (m : MastId) (t typ : Nat) : Dev :=
  match typ with
  | 1 => match (d.fab m).sheafs.find? (fun y => y.decided && (tget none y.work.frames t).isSome) with
    | some y => d.onSheaf m y.key (fun y => { y with work := { y.work with frames := tset none y.work.frames t none } })
    | none => d.onTile t (fun x => { x with link := { x.link with ack := none } })
  | 2 => let b := if (d.mast m).pen.holder then (d.mast m).pen.sent else (d.mast m).pen.claimAt
    d.onStay m t (fun s => { s with gone := b })
  | 3 => d.onTile t (fun x => { x with link := { x.link with reports := x.link.reports.drop 1 } })
  | 4 => match (d.fab m).sheafs.find? (fun y => y.work.solved && !y.work.stagedOn t) with
    | some y =>
      let n := Nat.min (tget 0 y.work.sent t - 1 + 16) (sizeOf (tget [] y.work.changes t))
      let d := d.onTile t (fun x => { x with link := { x.link with
        staged := x.link.staged.filter (fun g => g.tsid != y.work.tsid) ++ [⟨y.work.tsid, true, []⟩] } })
      (d.onSheaf m y.key (fun y => { y with work := { y.work with sent := tset 0 y.work.sent t (n + 1) } })).restage m
    | none => d
  | 5 => d.onTile t (fun x => { x with imm := x.imm.take ((x.imm.length - 1) / 16 * 16) })
  | 16 => match [4 * t, 4 * t + 1, 4 * t + 2, 4 * t + 3].find? (fun k => !(d.core m k).posts.isEmpty) with
    | some k =>
      let live := d.liveRun m k
      d.onCore m k (fun c => { c with posts := [], run := if c.run == .stalled then live else c.run })
    | none => match (List.range laneCount).find? (fun l => ((d.tile t).cell l).mon.fresh) with
      | some l => d.onTile t (fun x => (List.range 16).foldl (fun x i => x.onCell (l / 16 * 16 + i) (fun z =>
          { z with mon := { z.mon with fresh := false } })) x)
      | none => d
  | _ => d

/-- A stay frame fails its CRC-32C and is discarded. The first time it is sent again, in the next slot its class may use; the
second time it is dropped, and the stay is reported (R18, R378). -/
def execStayFrameCrcFail (tile : Nat) (second : Bool) (frameType : Nat) (s : State) : Host.Outcome State Fault Refusal :=
  run s (fun d => d.act (fun m =>
    let again := (d.stay m tile).down.again
    let now := d.beat
    if 16 ≤ tile || !(1 ≤ frameType && frameType ≤ 5 || 0x10 ≤ frameType && frameType ≤ 0x16) || (second && !again.contains frameType)
      then d
    else if second then
      let d := d.onStay m tile (fun s => { s with down := { s.down with again := s.down.again.erase frameType } })
      (d.frameLost m tile frameType).report m tile 2 tile (BitVec.ofNat 32 frameType) (some ⟨.tile, tile⟩)
    else
      let slot := fun (x : StayDir) => if frameType ≤ 5 then x.cmdUse now else x.budUse now (frameType - 0x10)
      ((d.pmc m 0x042 [tile] 1).staySlot m tile false).onStay m tile (fun s => { s with down := { slot s.down with
        again := if again.contains frameType then again else again ++ [frameType] } })))

end Sys2Proof.Machine
end

