-- ==== Sys2Proof/Machine/Cal.lean ====
section
/-! DEFINITION. Thresh passes: starting, planning, rounds, outcomes and the application boundary; reading calibration
(R277 to R294). -/

namespace Sys2Proof.Machine

def Dev.cal (d : Dev) (m : MastId) : CalSt := (d.mast m).cal

/-! ## Starting (R280, R281) -/

/-- A pass begins and firmware plans it. -/
def beginPass (r : PassReq) (beat : Nat) : Pass := ⟨r, false, [], [], [], [], [], beat, beat, [], [], []⟩

def Dev.beginPass (d : Dev) (m : MastId) (r : PassReq) : Dev :=
  let now := d.beat
  d.onCal m (fun c => { c with pass := some (Sys2Proof.Machine.beginPass r now) })

/-- FAB_BRING.CAL_FULL in stage POWERED: every cell of every enabled tile, spares included. -/
def Dev.calFullStart (d : Dev) (m : MastId) : Dev :=
  d.bring m .calFull [.powered] (fun d => d.beginPass m ⟨.full, maskOf d.enabledTiles, false, true, true, false⟩)

/-- CAL_FULL, bit 3 of FAB_BRING. -/
def execCalFull (m : MastId) (s : State) : Host.Outcome State Fault Refusal := run s (fun d => d.calFullStart m)

/-- CAL_PASS starts a pass, or joins the queue of 8. -/
def execCalPass (ring seq tiles : Nat) (ditherOnly shadow spares noTrim : Bool) (s : State) :
    Host.Outcome State Fault Refusal :=
  run s (fun d => d.start ring seq 0x40 (fun m x d => d.need m x 7 (fun d =>
    let c := d.cal m
    let r : PassReq := ⟨.desc ring seq, tiles, ditherOnly, shadow, spares, noTrim⟩
    if (bitsOf tiles 16).any (fun t => !(d.tile t).enabled) then d.complete m x .badState
    else if c.pass.isNone && c.queue.isEmpty && c.trig == 0 then d.beginPass m r
    else if 8 ≤ c.queue.length then d.complete m x .calBusy
    else d.onCal m (fun c => { c with queue := c.queue ++ [r] }))))

/-- Has a tile's temperature left its reference by more than DT, with AUTO set (R280)? -/
def Dev.trigDue (d : Dev) (m : MastId) (t : Nat) : Bool :=
  let x := d.tile t
  d.effF m 0x4700 0 1 == 1 && x.enabled && !x.refDue && 10 * d.effF m 0x4700 8 8 < (x.temp - x.tempRef).natAbs

/-- The next pass: the triggered tiles first, then the queue. -/
def execPassStart (s : State) : Host.Outcome State Fault Refusal :=
  run s (fun d => d.act (fun m =>
    let c := d.cal m
    if c.pass.isSome || (d.mast m).boot.stage != .ready then d
    else if c.trig != 0 then
      (d.onCal m (fun c => { c with trig := 0 })).beginPass m ⟨.temp, c.trig, false, d.effF m 0x4700 1 1 == 1, false, false⟩
    else match c.queue with
      | [] => d
      | r :: q => (d.onCal m (fun c => { c with queue := q })).beginPass m r))

/-! ## The plan (R282, R283, R286) -/

/-- A cell's part of a pass before anything is measured. -/
def passCell (cell : Nat) (method : CalMethod) (outcome : Option Nat) : PassCell :=
  { cell := cell, method := method, round := 0, lend := [], since := none, outcome := outcome, interrupted := 0, bias := none
    bar := 0, cross := 0, mgain := (16384, 16384), mofs := (none, none), cSelf := 0, cNb := [], resid := 0xFFFF, ext := 0
    epsC := 0, nbC := [], gain := false, lit := false, ovr := false, win := [], nbWin := [], raw0 := [], raw1 := [], seen := (0, 0) }

/-- A cell with nothing collected. -/
def PassCell.fresh (c : PassCell) : PassCell :=
  { c with lit := false, ovr := false, win := [], nbWin := [], raw0 := [], raw1 := [], seen := (0, 0) }

/-- The method of each covered cell (R283): `none` for a cell the pass does not cover. -/
def Dev.planCell (d : Dev) (m : MastId) (r : PassReq) (c : Nat) (spare : Bool) : Option PassCell :=
  let f := d.fab m
  if !bit r.tiles (c / laneCount) || !(d.tile (c / laneCount)).enabled then none
  else if spare && !r.spares then none
  else if d.cellFenced m c then some (passCell c .skipped (some 5))
  else if (d.cell c).drv.live then some (passCell c .dither none)
  else if (f.kind == 2 && f.inPlane f.shadow c && !r.shadow) || r.ditherOnly then some (passCell c .dither none)
  else some (passCell c .sweep none)

/-- The cells a pass covers: those of the table, and the other lanes of its tiles, which count as spares (R154, R280). -/
def Dev.covered (d : Dev) (m : MastId) (r : PassReq) : List PassCell :=
  let es := match (d.fab m).topo with
    | some t => t.table.entries
    | none => []
  let rest := if r.spares then (bitsOf r.tiles 16).flatMap (fun t =>
      ((List.range laneCount).map (laneCount * t + ·)).filter (fun c => !es.any (fun (e : TopoEntry) => e.cell == c)))
    else []
  es.filterMap (fun (e : TopoEntry) => d.planCell m r e.cell (e.role != 0)) ++ rest.filterMap (fun c => d.planCell m r c true)

/-- A cell of the fabric, where it has a stage (R148). -/
def Fab.stageOf (f : Fab) (c : Nat) : Option TopoEntry := (f.entry? c).bind (fun (e : TopoEntry) => if e.role == 0 then some e else none)

/-- May two cells share a round (R286)? One tone, no common converter, and in a plane one stage. -/
def sameRoundOk (f : Fab) (a b : Nat) : Bool :=
  let tone := fun c => match f.topo with
    | some t => tget 0 t.tones c
    | none => 0
  a / laneCount != b / laneCount || a == b ||
    (tone a == tone b && (a % laneCount) % 24 != (b % laneCount) % 24 &&
      match f.stageOf a, f.stageOf b with
      | some x, some y => x.stage == y.stage || (!isEdge x && !isEdge y && x.plane != y.plane)
      | _, _ => true)

/-- The order of stages in which a tile's rounds run: input edge cells, the Beneš stages, output edge cells. -/
def stageRank (e : TopoEntry) : Nat := if e.stage == 0xFE then 0 else if e.stage == 0xFF then 1000 else e.stage + 1

/-- Does a plan's line light a cell (R289)? `mates` are the cells of its round. -/
def Dev.lights (d : Dev) (m : MastId) (mates : List Nat) (c : Nat) (lend : List CellSet) : Bool :=
  let put := fun (h : Nat) => match lend.find? (fun (g : CellSet) => g.cell == h) with
    | some g => crossOf (some g.tgt)
    | none => crossOf ((d.cell h).drv.logical)
  (d.litWays m c (fun h => !(d.cell h).drv.live && !mates.contains h)).any (fun w => w.all (fun h => put h.1 == some h.2))

/-- Has a fabric cell no path of R289? -/
def Dev.dark (d : Dev) (m : MastId) (mates : List Nat) (c : Nat) : Bool :=
  ((d.fab m).stageOf c).isSome && (d.litWays m c (fun h => !(d.cell h).drv.live && !mates.contains h)).isEmpty

/-- May a line lend as it says: through cells that are not LIVE and not in the round, and so that a fabric cell with a path is lit? -/
def Dev.lendOk (d : Dev) (m : MastId) (mates : List Nat) (l : PlanLine) : Bool :=
  l.lend.all (fun (g : CellSet) => !(d.cell g.cell).drv.live && !mates.contains g.cell) &&
    (((d.fab m).stageOf l.cell).isNone || d.dark m mates l.cell || d.lights m mates l.cell l.lend)

/-- The lines of a plan that share a tile's round with one. -/
def planMates (plan : List PlanLine) (l : PlanLine) : List PlanLine :=
  plan.filter (fun (k : PlanLine) => k.round == l.round && k.cell / laneCount == l.cell / laneCount)

/-- A plan gives every swept cell a round that R286 and R289 allow; the rounds are numbered from 1 without gaps. -/
def Dev.planOk (d : Dev) (m : MastId) (cells : List PassCell) (plan : List PlanLine) : Bool :=
  let f := d.fab m
  let round := fun c => ((plan.find? (fun (l : PlanLine) => l.cell == c)).map (fun (l : PlanLine) => l.round)).getD 0
  let sw := (cells.filter (fun c => c.method == .sweep)).map PassCell.cell
  let last := sw.foldl (fun n c => Nat.max n (round c)) 0
  (List.range last).all (fun r => sw.any (fun c => round c == r + 1)) &&
    sw.all (fun a => 0 < round a && sw.all (fun b =>
      (round a != round b || sameRoundOk f a b) &&
        (a / laneCount != b / laneCount || (match f.stageOf a, f.stageOf b with
          | some x, some y => stageRank x ≤ stageRank y || round b ≤ round a
          | _, _ => true)))) &&
    plan.all (fun (l : PlanLine) => !sw.contains l.cell ||
      (let mates := planMates plan l
       d.lendOk m (mates.map PlanLine.cell) l &&
         mates.all (fun (k : PlanLine) => k.lend.all (fun (g : CellSet) => l.lend.all (fun (h : CellSet) => g.cell != h.cell || g.tgt == h.tgt)))))

/-- Planning ends. A swept cell without a path of light ends NO_LIGHT. A plan that breaks R286 or R289 changes nothing
(assumption 13). -/
def execPassPlanDone (plan : List PlanLine) (s : State) : Host.Outcome State Fault Refusal :=
  run s (fun d => d.act (fun m =>
    match (d.cal m).pass with
    | none => d
    | some p =>
      let cells := d.covered m p.req
      if p.planned || (List.range 4).any (fun c => d.waits m 0 2 c && (bitsOf p.req.tiles 16).any (fun t => t / 4 == c)) || !d.planOk m cells plan then d
      else
        let cells := cells.map (fun c => match plan.find? (fun (l : PlanLine) => l.cell == c.cell) with
          | some l =>
            if c.method != .sweep then c
            else if d.dark m ((planMates plan l).map PlanLine.cell) c.cell then { c with round := l.round, outcome := some 1 }
            else { c with round := l.round, lend := l.lend }
          | none => c)
        let now := d.beat
        d.onCal m (fun c => { c with
          rounds := cells.foldl (fun n c => Nat.max n c.round) 0
          pass := some { p with planned := true, cells := cells, lastEnd := now } })))

/-! ## Rounds (R285, R288) -/

/-- Beats of a tile's loop period. -/
def Dev.T (d : Dev) (t : Nat) : Nat := (d.tile t).par.beats

/-- Fast drives of swept cells, as immediate writes. -/
def Dev.sweepDrive (d : Dev) (m : MastId) (cells : List (Nat × Nat)) : Dev :=
  d.writes m (cells.map (fun c => (c.1, .code c.2, true)))

/-- Open the DITHER windows of a tile at its first round. -/
def Pass.openDither (p : Pass) (t beat : Nat) : Pass :=
  { p with cells := p.cells.map (fun c =>
      if c.cell / laneCount == t && c.method == .dither && c.since.isNone then { c.fresh with since := some beat } else c) }

/-- Are the offsets of a tile's covered channels, and its trims unless NO_TRIM is set, measured (R287)? -/
def Pass.measured (p : Pass) (t : Nat) : Bool :=
  p.cells.all (fun c => c.cell / laneCount != t || c.outcome == some 5 || (c.mofs.1.isSome && c.mofs.2.isSome)) &&
    (p.req.noTrim || (List.range 48).all (fun u => p.trims.contains (48 * t + u)))

/-- A cell that enters its round: measured by DITHER where it is LIVE; planned again where it was interrupted before, or dark. -/
def Dev.enterRound (d : Dev) (m : MastId) (mates : List Nat) (again : List PlanLine) (c : PassCell) : PassCell :=
  let now := d.beat
  if (d.cell c.cell).drv.live then { c.fresh with method := .dither, round := 0, since := some now }
  else if c.interrupted == 0 then c.fresh
  else if d.dark m mates c.cell then { c.fresh with outcome := some 1 }
  else match again.find? (fun (l : PlanLine) => l.cell == c.cell) with
    | some l => { c.fresh with lend := l.lend }
    | none => c.fresh

/-- A round begins at a watch boundary, unless PARK_N is low: cells found LIVE are measured by DITHER, the others are lit and
phase A begins. Cells interrupted before are planned `again`. Offsets and trims are whole before a tile's third round (R287). -/
def execRoundStart (tile : Nat) (again : List PlanLine) (s : State) : Host.Outcome State Fault Refusal :=
  run s (fun d => d.act (fun m =>
    match (d.cal m).pass with
    | none => d
    | some p0 =>
      if !p0.planned || !d.watchEdge || d.pins.parkSeen || tget 0 p0.phase tile != 0 || !bit p0.req.tiles tile ||
        d.waits m 0 2 (tile / 4) then d
      else
        let now := d.beat
        let p := p0.openDither tile now
        let mine := p.cells.filter (fun c => c.cell / laneCount == tile && c.method == .sweep && c.outcome.isNone)
        match (mine.map PassCell.round).min? with
        | none => d.onPass m (fun _ => p)
        | some r =>
          let inR := fun (c : PassCell) => c.cell / laneCount == tile && c.method == .sweep && c.outcome.isNone && c.round == r
          let mates := (p.cells.filter (fun c => inR c && !(d.cell c.cell).drv.live)).map PassCell.cell
          if (2 ≤ tget 0 p.begun tile && !p.measured tile) || again.any (fun (l : PlanLine) => !d.lendOk m mates l) then d
          else
            let p := { p with
              cells := p.cells.map (fun c => if inR c then d.enterRound m mates again c else c), round := tset 0 p.round tile r
              begun := tset 0 p.begun tile (tget 0 p.begun tile + 1) }
            let go := p.cells.filter inR
            if go.isEmpty then d.onPass m (fun _ => p)
            else
              let d := d.onPass m (fun _ => { p with
                phase := tset 0 p.phase tile 1, roundBeat := tset 0 p.roundBeat tile now
                endBeat := tset 0 p.endBeat tile (now + 18 * d.T tile) })
              let d := d.writes m (go.flatMap (fun c => c.lend.map (fun (g : CellSet) => (g.cell, g.tgt, true))))
              d.sweepDrive m (go.map (fun c =>
                let z := d.cell c.cell
                (c.cell, if z.cal.method == 0 then z.drv.P else z.cal.bar)))))

/-- RESID from ε in Q24.8 and KAPPA in nrad: µrad, saturating (R285, R288). -/
def residOf (kappa : Nat) (eps : Int) : Nat := Nat.min 65535 (rhuDiv (kappa * eps.natAbs) 256000).toNat

/-- The undithered code plus ε, rounded half up. -/
def biasOf (code : Nat) (eps : Int) : Nat := fitN 5 65535 (rhuDiv (256 * (code : Int) + eps) 256)

/-- A crosstalk coefficient (R288): the change of h* in Q8 over the change of code, in Q4.12. -/
def xtalk (dh : Int) (dc : Int) : Int := fitI 3 (-32768) 32767 (rhuDiv (16 * dh * dc.sign) dc.natAbs)

/-- ε of a window, 0 until it holds 17 samples (R184). -/
def Dev.epsOf (d : Dev) (m : MastId) (cell : Nat) (w : List Int) : Int :=
  let z := d.cell cell
  if w.length < 17 then 0
  else (d.tile (cell / laneCount)).par.eps (d.lawSign m cell) (z.lp.tone + 1) (cell % laneCount / 24) w.sum

/-- What a DITHER cell has come to (R285, R290): `ripe` once 17 loop periods have passed, `late` after 68. -/
def Dev.ditherEnd (d : Dev) (m : MastId) (c : PassCell) (ripe late : Bool) : PassCell :=
  let z := d.cell c.cell
  let x := d.tile (c.cell / laneCount)
  if c.ovr && ripe then { c with outcome := some 2 }
  else if c.win.length == 17 && z.drv.logical.isSome then
    let e := d.epsOf m c.cell c.win
    { c with outcome := some 0, bias := some (biasOf z.htr.inForce e), resid := residOf x.par.kappa e, ext := extOf c.seen }
  else if !c.lit && ripe then { c with outcome := some 1 }
  else if z.drv.logical.isNone && ripe then { c with outcome := some 3 }
  else if late then { c with outcome := some 4 }
  else c

/-- DITHER cells that are done end. -/
def Dev.dithers (d : Dev) (m : MastId) (which : PassCell → Bool) : Dev :=
  let now := d.beat
  d.onPass m (fun p =>
    let step := fun (c : PassCell) => match c.since with
      | some b =>
        let T := d.T (c.cell / laneCount)
        if which c && c.method == .dither && c.outcome.isNone then d.ditherEnd m c (b + 17 * T ≤ now) (b + 68 * T ≤ now) else c
      | none => c
    { p with cells := p.cells.map step, lastEnd := if p.cells.any (fun c => (step c).outcome != c.outcome) then now else p.lastEnd })

/-- h* of each neighbour of a cell in a round (R288), in Q8: `none` for one that is dark, whose window did not stay clean, or that has
no logical state. -/
def Dev.nbExtrema (d : Dev) (m : MastId) (c : PassCell) : List (Option Int) :=
  (d.nbs m c.cell).zipIdx.map (fun e =>
    let w := c.nbWin.getD e.2 []
    if w.length < 17 || d.lawSign m e.1 == 0 then none
    else some (256 * ((d.cell e.1).htr.inForce : Int) + d.epsOf m e.1 w))

/-- What a phase's end gives for one cell in its round, and what it has collected is done with. A code that no parabola has, the
common scale of MGAIN, and a coefficient of two equal codes have no stated value: they are free (assumption 109). -/
def Dev.phaseEnd (d : Dev) (m : MastId) (ph free : Nat) (c : PassCell) : PassCell :=
  let z := d.cell c.cell
  let x := d.tile (c.cell / laneCount)
  let e := d.epsOf m c.cell c.win
  let h := 256 * (z.htr.inForce : Int) + e
  let done := { c.fresh with raw0 := c.raw0, raw1 := c.raw1 }
  if c.ovr then { done with outcome := some 2 }
  else match ph with
    | 1 => if !c.lit then { done with outcome := some 1 } else { done with bias := some (biasOf z.htr.inForce e) }
    | 2 => match c.codes z.cal ((d.fab m).barHigh c.cell) free with
      | none => { done with outcome := some 3 }
      | some (bar, cross) => { done with bar := bar, cross := cross, mgain := c.gains z.cal (free / 16777216), gain := x.gain }
    | 3 => { done with resid := residOf x.par.kappa e, ext := extOf c.seen, epsC := h, nbC := d.nbExtrema m c }
    | _ =>
      let ext := Nat.min c.ext (extOf c.seen)
      let dc : Int := c.cross - c.bar
      if ext < 100 * d.effF m 0x4700 16 8 then { done with ext := ext, outcome := some 3 }
      else { done with
        outcome := some 0, ext := ext
        cSelf := if dc = 0 then ((free % 65536 : Nat) : Int) - 32768 else xtalk (h - c.epsC) dc
        cNb := (d.nbExtrema m c).zipIdx.map (fun n => match n.1, c.nbC.getD n.2 none with
          | some v, some w => some (if dc = 0 then ((free / 65536 ^ (n.2 + 1) % 65536 : Nat) : Int) - 32768 else xtalk (v - w) dc)
          | _, _ => none) }

/-- The length of the phase after one that ends. -/
def Dev.nextLen (d : Dev) (t ph : Nat) : Nat := if ph == 1 then d.T t + 1600 else 18 * d.T t

/-- Measurements of a tile end: of DITHER cells that are done, and, at the end of the phase in progress, of the cells of the round.
Phase B ends when every sweep is whole. A pass without Tiller cycles left in this watch waits (R35, R288). -/
def execThreshPhaseEnd (tile : Nat) (s : State) : Host.Outcome State Fault Refusal :=
  run s (fun d => d.act (fun m =>
    if d.waits m 0 2 (tile / 4) then d
    else
      let d := d.dithers m (fun c => c.cell / laneCount == tile)
      match (d.cal m).pass with
      | none => d
      | some p =>
        let now := d.beat
        let ph := tget 0 p.phase tile
        let mine := fun (c : PassCell) => c.cell / laneCount == tile && p.active c
        if ph == 0 || !d.watchEdge || now < tget 0 p.endBeat tile ||
          (ph == 2 && (p.cells.filter mine).any (fun c => !c.ovr && !c.sweepDone (d.cell c.cell).cal ((d.fab m).barHigh c.cell))) then d
        else
          let free := d.free
          let cells := p.cells.map (fun c => if mine c then d.phaseEnd m ph (Config.freeNat (free + c.cell)) c else c)
          let d := if ph == 2 || ph == 4 then { d with free := free + cellCount } else d
          let on := cells.filter (fun c => c.cell / laneCount == tile && p.member c)
          let go := on.filter (fun c => c.outcome.isNone)
          let ends := ph == 4 || go.isEmpty
          let d := d.onPass m (fun p => { p with
            cells := cells, phase := tset 0 p.phase tile (if ends then 0 else ph + 1)
            endBeat := tset 0 p.endBeat tile (now + d.nextLen tile ph), lastEnd := if ends then now else p.lastEnd })
          let d := if ph == 1 then
              d.each go (fun c d => d.onCell c.cell (fun z => { z with htr := z.htr.offer 2 (c.bias.getD 0) }))
            else if ph == 2 then d.sweepDrive m (go.map (fun c => (c.cell, c.bar)))
            else if ph == 3 then d.sweepDrive m (go.map (fun c => (c.cell, c.cross)))
            else d
          if ends then d.roundEnd m on else d))

/-- A DITHER cell without 17 valid samples within 68 loop periods ends INTERRUPTED. -/
def execDitherTimeout (cell : Nat) (s : State) : Host.Outcome State Fault Refusal :=
  run s (fun d => d.act (fun m =>
    let now := d.beat
    let T := d.T (cell / laneCount)
    d.dithers m (fun c => c.cell == cell && c.since.any (fun b => b + 68 * T ≤ now))))

/-! ## Dwells (R287) -/

/-- MOFS from the 12 raw codes of an offset dwell: 16 times their mean. -/
def mofsOf (raw : List Nat) : Int := fitI 4 (-32768) 32767 (rhuDiv (16 * (raw.take 12).sum) 12)

/-- Is a covered channel of a converter without its offset? -/
def PassCell.lacksOfs (c : PassCell) (u : Nat) : Bool :=
  convServes u c.cell && c.outcome != some 5 && (if u % 2 == 0 then c.mofs.1 else c.mofs.2).isNone

/-- The first covered channel of a converter without an offset takes one. -/
def Pass.offset (p : Pass) (u : Nat) (v : Int) : Pass :=
  let take := fun (c : PassCell) => if u % 2 == 0 then { c with mofs := (some v, c.mofs.2) } else { c with mofs := (c.mofs.1, some v) }
  { p with cells := updFirst (fun c => c.lacksOfs u) take p.cells }

/-- The raw codes that a sweep has taken on a converter's arm, and those of its other arm. -/
def PassCell.arm (c : PassCell) (u : Nat) : List Nat × List Nat := if u % 2 == 0 then (c.raw0, c.raw1) else (c.raw1, c.raw0)

/-- The cell that a converter is to sweep now: in phase B, the heater settled, its arm not ahead of the other, its sweep not whole. -/
def Dev.sweepCell (d : Dev) (m : MastId) (p : Pass) (u : Nat) : Option PassCell :=
  p.cells.find? (fun c => convServes u c.cell && p.active c && tget 0 p.phase (u / 48) == 2 && !c.ovr &&
    tget 0 p.endBeat (u / 48) ≤ d.beat + 1600 && (c.arm u).1.length ≤ (c.arm u).2.length &&
    (c.arm u).1.length < 96 && !c.sweepDone (d.cell c.cell).cal ((d.fab m).barHigh c.cell))

/-- One dwell of a sweep: the fast drive steps through its codes, and the arm takes 12 raw codes. -/
def Dev.sweepDwell (d : Dev) (m : MastId) (u : Nat) (raw : List Nat) (ovr : Bool) (c : PassCell) : Dev :=
  let codes := sweepCodes ((c.arm u).1.length / 12) (coarseExtrema (c.ratios (d.cell c.cell).cal) ((d.fab m).barHigh c.cell))
  let l := (raw.take 12).map (Nat.min 65535)
  let d := d.onPass m (fun p => { p with cells := p.cells.map (fun k =>
    if k.cell != c.cell then k
    else
      let k := { k with ovr := k.ovr || ovr }
      if u % 2 == 0 then { k with raw0 := k.raw0 ++ l } else { k with raw1 := k.raw1 ++ l }) })
  if (c.arm u).1.length < (c.arm u).2.length then d else d.sweepDrive m (codes.map (fun v => (c.cell, v)))

/-- Does the label lie in the 4 µs in which a tile's converters may dwell: after a scan, or, in low-power mode, in the wake-up before
a loop-period boundary? -/
def Dev.gap (d : Dev) (t : Nat) : Bool :=
  let x := d.tile t
  if x.conv.lpNow then x.conv.awake && 20000 * x.par.period ≤ d.now.ns % (20000 * x.par.period) + 4000
  else 16000 ≤ d.now.ns % 20000

/-- What a dwell of 12 measurements gives the pass, by its use. -/
def Dev.dwell (d : Dev) (m : MastId) (p : Pass) (use : DwellUse) (u : Nat) (raw : List Nat) (ovr : Bool) : Dev :=
  match use, d.sweepCell m p u with
  | .sweep, some c => d.sweepDwell m u raw ovr c
  | .sweep, none => d
  | _, some _ => d
  | .offset, none => d.onPass m (fun p => p.offset u (mofsOf raw))
  | .trim, none => if p.req.noTrim then d else d.onPass m (fun p => { p with trims := if p.trims.contains u then p.trims else p.trims ++ [u] })

/-- A dwell, of 16 conversions, in the gap after a scan, at most one of a converter in each gap. A sweep of phase B has the gap first;
then offsets, one channel a dwell, and trims take it. It marks no scan conversion. A reference check out of range is reported and the
converter fenced. -/
def execDwell (tile conv : Nat) (use : DwellUse) (raw : List Nat) (ovr refOk : Bool) (s : State) : Host.Outcome State Fault Refusal :=
  run s (fun d => d.act (fun m =>
    let u := 48 * tile + conv
    match (d.cal m).pass with
    | none => d
    | some p =>
      if !(d.tile tile).alive || 48 ≤ conv || (d.tile tile).conv.scanning || !d.gap tile || raw.length < 12 || d.beat < tget 0 p.dwelt u then d
      else
        let now := d.beat
        let d := (d.dwell m p use u raw ovr).onPass m (fun p => { p with dwelt := tset 0 p.dwelt u (now + 160) })
        if refOk then d
        else d.report m (80 + tile) 2 u (BitVec.ofNat 32 (raw.headD 0)) (some ⟨.converter, u⟩)))

/-! ## The application boundary (R290, R291, R293) -/

/-- A cell's calibration after a pass. -/
def applied (c : PassCell) (z : Cal) : Cal :=
  let z := { z with
    outcome := c.outcome.getD 4
    mofs0 := c.mofs.1.getD z.mofs0, mofs1 := c.mofs.2.getD z.mofs1 }
  if c.outcome != some 0 then z
  else match c.method with
    | .sweep => { z with bar := c.bar, cross := c.cross, bias := c.bias.getD z.bias, mgain0 := c.mgain.1, mgain1 := c.mgain.2
                         cSelf := c.cSelf, resid := c.resid, ext := c.ext, method := 1 }
    | _ => { z with bias := c.bias.getD z.bias, resid := c.resid, ext := c.ext, method := 2 }

/-- A pass's status over the cells that count (R291). -/
def passStatus (cells : List PassCell) : Status :=
  if cells.all (fun c => c.outcome == some 0) then .ok
  else if cells.any (fun c => c.outcome == some 1) then .noLight
  else .calPartial

/-- The cells of a pass whose outcomes decide its status: for CAL_FULL, fabric cells only. -/
def Dev.counted (d : Dev) (m : MastId) (p : Pass) : List PassCell :=
  match p.req.src with
  | .full => p.cells.filter (fun c => match (d.fab m).entry? c.cell with
    | some e => e.role == 0
    | none => false)
  | _ => p.cells

/-- New values of one cell: calibration, its drive under the new codes, the bumpless load and restart. -/
def Dev.applyCell (d : Dev) (c : PassCell) : Dev :=
  let t := c.cell / laneCount
  let l := c.cell % laneCount
  let d := d.onCell c.cell (fun z => { z with cal := applied c z.cal })
  let d := d.act (fun m => d.onMast m (fun x => { x with mem := { x.mem with calKept := x.mem.calKept.map (fun l => c.cell :: l) } }))
  let z := d.cell c.cell
  let d := match z.drv.W, z.drv.logical with
    | true, some g => d.setTgt t l false g
    | _, _ => d
  match c.outcome, c.bias with
  | some 0, some b => d.onTile t (fun x => x.onCell l (fun z =>
      { z.bumpless x.par x.railMv b z.lp.F with htr := z.htr.offer 2 b }))
  | _, _ => d

/-- A cell's coefficient for its neighbour `j` replaced. -/
def Cal.setNb (z : Cal) (j : Nat) (v : Int) : Cal := { z with cNb := ((List.range 8).map (fun i => z.cNb.getD i 0)).set j v }

/-- The neighbours' coefficients for a swept cell (R288): a neighbour that this pass sweeps and ends OK takes the measured
one; DITHER cells and cells without an OK keep theirs (R285, R290). -/
def Dev.applyNbs (d : Dev) (m : MastId) (cells : List PassCell) (c : PassCell) : Dev :=
  if !(c.method == .sweep && c.outcome == some 0) then d
  else d.each ((d.nbs m c.cell).zip c.cNb) (fun e d =>
    match e.2, (d.nbs m e.1).idxOf? c.cell with
    | some v, some j =>
      if cells.any (fun n => n.cell == e.1 && n.method == .sweep && n.outcome == some 0) then
        d.onCell e.1 (fun z => { z with cal := z.cal.setNb j v })
      else d
    | _, _ => d)

/-- New trims, where the pass measured any, TEMP_REF and counts of one covered tile (R305). The trims' values are free. -/
def Dev.applyTile (d : Dev) (m : MastId) (p : Pass) (t : Nat) : Dev :=
  let ok := p.cells.any (fun c => c.cell / laneCount == t && c.outcome == some 0)
  let d := d.onTile t (fun x => { x with tempRef := x.temp, refDue := false, uncal := x.uncal && !ok })
  let d := d.count m (0x4780 + 8 * t) 32 16 1
  let d := if p.req.noTrim || !p.trims.any (fun u => u / 48 == t) then d
    else d.drawNat (fun n d => d.onTile t (fun x => ({ x with trims := some (trimBlock (Config.passTrims n)) } : Tile).markAll 2))
  d.each [4 * t, 4 * t + 1, 4 * t + 2, 4 * t + 3] (fun k d => d.rewrote m k)

/-- How many covered cells ended with an outcome. -/
def Pass.tally (p : Pass) (o : Nat → Bool) : Nat := (p.cells.filter (fun c => o (c.outcome.getD 4))).length

/-- The first watch boundary at least 200 µs after the last measurement: all new values take effect together, and the pass
ends. -/
def execApplicationBoundary (s : State) : Host.Outcome State Fault Refusal :=
  run s (fun d => d.act (fun m =>
    match (d.cal m).pass with
    | none => d
    | some p =>
      if !p.planned || !d.watchEdge || d.beat < p.lastEnd + 2000 || p.cells.any (fun c => c.outcome.isNone) ||
        p.phase.any (fun e => e.2 != 0) then d
      else
        let p := { p with cells := p.cells.map (fun c =>
          if c.method == .sweep && c.outcome == some 0 && c.gain != (d.tile (c.cell / laneCount)).gain then
            { c with outcome := some 4 } else c) }
        let ep := (d.fab m).epoch
        let st := passStatus (d.counted m p)
        let d := d.each p.cells (fun c d => d.applyCell c)
        let d := d.each p.cells (fun c d => d.applyNbs m p.cells c)
        let d := d.each (bitsOf p.req.tiles 16) (fun t d => d.applyTile m p t)
        let left := (bitsOf (d.cal m).trig 16).filter (fun t => !bit p.req.tiles t || d.trigDue m t)
        let d := d.onCal m (fun c => { c with trig := maskOf left })
        let d := d.onCal m (fun c => { c with pass := none, lastStatus := st, epoch := ep })
        let trig := match p.req.src with
          | .temp => true
          | _ => false
        let d := d.tel m 4 ⟨0x05, d.now, ep, layout [(2, st.code), (2, p.req.tiles), (4, b2n trig), (4, p.tally (· == 0)),
          (4, p.tally (· == 1)), (4, p.tally (fun o => o != 0 && o != 1))]⟩
        match p.req.src with
        | .full => d.bringEnd m st (if st == .ok then some .seeded else none)
        | .temp => d
        | .desc r q => match d.findDesc m r q with
          | some x => d.completeAt m x st ep none false
          | none => d))

/-! ## CAL_READ (R294) -/

/-- CAL_READ: the range and the slot are checked; the calibration is taken at the next watch boundary. -/
def execCalRead (ring seq first count : Nat) (slot : SlotOut) (s : State) : Host.Outcome State Fault Refusal :=
  run s (fun d => d.start ring seq 0x41 (fun m x d => d.need m x 2 (fun d =>
    let d := d.settleHold m x slot.ref slot.owner slot.err
    if count == 0 || cellCount < first + count then d.complete m x .portInvalid
    else if d.calLost m ((List.range count).map (first + ·)) then d.complete m x .memLost
    else d.slotOut m x slot (fun st d => d.complete m x st) (fun d =>
      d.onCal m (fun c => { c with reads := c.reads ++ [⟨ring, seq, slot.ref, first, count, [], .unchanged 0, false⟩] })))))

/-- One cell's entry: BAR_CODE, CROSS_CODE, OUTCOME, METHOD, RESID, EXT, HTR_BIAS; zero for a lane the table does not name. -/
def Dev.calEntry (d : Dev) (m : MastId) (c : Nat) : List Nat :=
  let z := (d.cell c).cal
  if ((d.fab m).entry? c).isSome then [z.bar, z.cross, z.outcome, z.method, z.resid, z.ext, z.bias] else [0, 0, 0, 0, 0, 0, 0]

/-- At a watch boundary, waiting reads take the calibration in force and its epoch (kept in place of the map). -/
def Dev.calLatch (d : Dev) (m : MastId) : Dev :=
  let read := fun (j : ReadJob) =>
    if j.ready then j
    else { j with ready := true, data := .calib ([(d.cal m).epoch] :: ((List.range j.count).map (fun i => d.calEntry m (j.first + i)))) }
  d.onCal m (fun c => { c with reads := c.reads.map read })

/-- The calibration read is written and CAL_READ completes. -/
def execCalReadDone (ring seq : Nat) (s : State) : Host.Outcome State Fault Refusal :=
  run s (fun d => d.act (fun m =>
    match (d.cal m).reads.find? (fun j => j.ring == ring && j.seq == seq), d.findDesc m ring seq with
    | some j, some x =>
      match j.data with
      | .calib ([ep] :: ents) =>
        let d := d.onCal m (fun c => { c with reads := c.reads.filter (fun k => !(k.ring == ring && k.seq == seq)) })
        (d.writeOut m x j.epoch 0x41 (12 * j.count) ep (.calib ents)).complete m x .ok
      | _ => d
    | _, _ => d))

end Sys2Proof.Machine
end

