-- ==== Sys2Proof/Machine/Time.lean ====
section
/-! DEFINITION. The timebase, PTP and the Halyard bus (chapter 11). A beat's label is in `Dev.now`; RATE decides how many timebase
cycles the beat holds, and where in it they fall. -/

namespace Sys2Proof.Machine

def Dev.tim (d : Dev) (m : MastId) : Tim := (d.mast m).tim

def Dev.onTim (d : Dev) (m : MastId) (f : Tim → Tim) : Dev := d.onMast m (fun x => { x with tim := f x.tim })

def Dev.onHal (d : Dev) (m : MastId) (f : Hal → Hal) : Dev := d.onMast m (fun x => { x with hal := f x.hal })

/-- TIM_CTL.SRC in force (R311). -/
def Dev.src (d : Dev) (m : MastId) : Nat := d.effF m 0x5000 0 2

/-! ## The timebase (R307, R308) -/

/-- What a cycle of the timebase domain adds to the time, 4 ns × (1 + RATE × 2^-40), in units of 2^-38 ns. -/
def Tim.inc (t : Tim) : Nat := ((2 ^ 40 : Int) + t.rate).toNat

/-- 100 ns in the same units: a beat. -/
def beatLen : Nat := 100 * 2 ^ 38

/-- A beat's cycles pass: the first cycle at or past the next beat edge stands `acc` after its label. -/
def Tim.nextBeat (t : Tim) : Tim :=
  let n := (beatLen - t.acc + t.inc - 1) / t.inc
  { t with acc := t.acc + n * t.inc - beatLen }

/-- The nanoseconds past the beat's label at a timebase cycle in it (R307, R329). -/
def Tim.nsAt (t : Tim) (cycle : Nat) : Nat := Nat.min 99 ((t.acc + cycle * t.inc) / 2 ^ 38)

/-! ## Discipline (R312 to R314) -/

/-- HOLDOVER is entered from LOCKED or ACQUIRING: RATE is HOLD and a step not applied is cancelled (R313, R314, R378). -/
def Dev.holdover (d : Dev) (m : MastId) : Dev :=
  let st := (d.tim m).state
  if st == .locked || st == .acquiring then
    ((d.onTim m (fun t => { t with state := .holdover, rate := t.hold, step := none, run := 0, fresh := false })).onHal m (fun h =>
      { h with apply := none })).report m 205 1 0 (BitVec.ofNat 32 st.code) none
  else d

/-- A source is at hand: FREERUN, or a HOLDOVER not held by a change of grandmaster, gives way to ACQUIRING. -/
def Dev.acquire (d : Dev) (m : MastId) : Dev :=
  let t := d.tim m
  if t.state == .freerun || (t.state == .holdover && t.gmAt.isNone) then
    d.onTim m (fun x => { x with state := .acquiring, run := 0, fresh := t.state == .freerun })
  else d

/-- ±200 ppm (R307). -/
def rateLimit : Int := 219902325

/-- SLEW_MAX, in 0.1 ppm, as a RATE. -/
def Dev.slewMax (d : Dev) (m : MastId) : Int := ((d.effF m 0x5008 32 16 * 2 ^ 40 / 10000000 : Nat) : Int)

/-- May the servo step the clock (R312)? STEP_MODE 1 permits it while the source acquired from FREERUN has not locked yet, or
before READY. -/
def Dev.mayStep (d : Dev) (m : MastId) : Bool :=
  match d.effF m 0x5000 2 2 with
  | 0 => true
  | 1 => (d.tim m).fresh || (d.mast m).boot.stage != .ready
  | _ => false

/-- One offset from the source, with the servo's correction: RATE, the lock judgement, and a step decided. -/
def Dev.servo (d : Dev) (m : MastId) (offset corr : Int) : Dev :=
  let lim := d.slewMax m
  let far := (d.effF m 0x5008 0 16 * 1000 : Nat) < offset.natAbs
  let near := offset.natAbs ≤ d.effF m 0x5008 16 16
  let may := d.mayStep m
  let now := d.beat
  d.onTim m (fun t =>
    let t := { t with offset := clampI (-2147483648) 2147483647 offset }
    if t.state == .holdover || t.state == .freerun then t
    else
      let run := if near then t.run + 1 else 0
      { t with
        rate := clampI (-rateLimit) rateLimit (t.hold + clampI (-lim) lim corr)
        run := run
        state := if 16 ≤ run then .locked else t.state
        fresh := t.fresh && run < 16
        step := if far && may && t.step.isNone then some (rhuDiv offset 80000, now) else t.step })

/-! ## PTP (R315 to R318) -/

def ptpReg (p : Nat) : Nat := 0x5048 + 8 * p

/-- The instance of a port runs: enabled, its port not fenced (R384). -/
def Dev.ptpOn (d : Dev) (m : MastId) (p : Nat) : Bool := d.effF m (ptpReg p) 0 1 == 1 && !d.isFenced m ⟨.eth, p⟩ && p < 2

/-- A message's domain and interval are those of the instance (R316). -/
def Dev.ptpTakes (d : Dev) (m : MastId) (p domain : Nat) (log lo hi tele : Int) : Bool :=
  d.ptpOn m p && domain == d.effF m (ptpReg p) 8 8 &&
    (if d.effF m (ptpReg p) 1 2 == 1 then log == tele else decide (lo ≤ log) && decide (log ≤ hi))

/-- Does an offset from this port discipline the timebase? Only the active mast's, from its selected port, under SRC 1. -/
def Dev.disciplines (d : Dev) (m : MastId) (p : Nat) : Bool := d.serving == some m && d.src m == 1 && (d.tim m).port == p

/-- A correctionField, in 2^-16 ns, in ps. -/
def corrPs (c : Int) : Int := rhuDiv (c * 1000) 65536

/-- A hardware time stamp in ps, taken with 1 ns resolution `ns` into the beat in progress, less the fixed 12.8 ns (R32, R317). -/
def Dev.ptpStamp (d : Dev) (ns : Nat) : Int := 1000 * ((stampNs d.now + Nat.min 99 ns : Nat) : Int) - 12800

/-- delayAsymmetry of a port, signed ps (R317, R329). -/
def Dev.asym (d : Dev) (m : MastId) (p : Nat) : Int := let v := d.effF m (ptpReg p) 32 32; if 2 ^ 31 ≤ v then (v : Int) - 2 ^ 32 else v

/-- A Sync is complete: the delay from the master, less the delay asymmetry, is kept; the offset, source less own time by the mean
path delay, goes to the servo of a timebase that the port disciplines (R312, R317). Times in ps. -/
def Dev.synced (d : Dev) (m : MastId) (port : Nat) (rx origin correction corr : Int) : Dev :=
  let msd := rx - origin - correction - d.asym m port
  let d := d.onTim m (fun t => { t with msd := tset none t.msd port (some msd) })
  if d.disciplines m port then d.servo m (rhuDiv (tget 0 (d.tim m).mpd port - msd) 1000) corr else d

/-- A Sync: one-step gives its offset at once, two-step waits for its Follow_Up. -/
def execSyncMessage (m : MastId) (port : Nat) (msg : SyncMsg) (s : State) : Host.Outcome State Fault Refusal :=
  run s (fun d =>
    if !d.ptpTakes m port msg.domain msg.logInterval (-7) 1 (-4) then d
    else
      let rx := d.ptpStamp msg.ns
      if msg.twoStep then d.onTim m (fun t => { t with syncs := tset none t.syncs port (some ⟨msg.seq, rx, msg.correction⟩) })
      else d.synced m port rx (1000 * msg.origin) (corrPs msg.correction) msg.corr)

/-- The Follow_Up of the Sync that waits: its preciseOriginTimestamp, in ns, and correctionField. -/
def execFollowUp (m : MastId) (port seq origin : Nat) (correction corr : Int) (s : State) : Host.Outcome State Fault Refusal :=
  run s (fun d =>
    match tget none (d.tim m).syncs port with
    | none => d
    | some g =>
      if g.seq != seq || !d.ptpOn m port then d
      else
        (d.onTim m (fun t => { t with syncs := tset none t.syncs port none })).synced m port g.rx (1000 * origin)
          (corrPs (g.correction + correction)) corr)

/-- The port that PORT_SEL and the best masters select (R318); the port in use where none is known. -/
def Dev.selectPort (d : Dev) (m : MastId) : Nat :=
  let t := d.tim m
  match d.effF m 0x5000 4 2, tget none t.best 0, tget none t.best 1 with
  | 1, _, _ => 0
  | 2, _, _ => 1
  | _, some a, some b => if b.1 < a.1 then 1 else 0
  | _, some _, none => 0
  | _, none, some _ => 1
  | _, none, none => t.port

/-- Selection follows what is known of the masters: a different grandmaster is counted, reported, and puts a disciplined
timebase into HOLDOVER (R314, R318, R378). -/
def Dev.reselect (d : Dev) (m : MastId) : Dev :=
  let p := d.selectPort m
  match tget none (d.tim m).best p with
  | none => d.onTim m (fun t => { t with port := p })
  | some b =>
    let old := (d.tim m).gm
    let d := d.onTim m (fun t => { t with port := p, gm := b.2 })
    let drives := d.serving == some m && d.src m == 1
    if old == b.2 || old == 0 then if drives then d.acquire m else d
    else
      let d := d.count m 0x5028 16 16 1
      if !drives then d
      else
        let now := d.beat
        ((d.report m 205 0 0 0 none).holdover m).onTim m (fun t => { t with gmAt := if t.state == .holdover then some now else t.gmAt })

/-- An Announce (R318). -/
def execAnnounceMessage (m : MastId) (port : Nat) (msg : AnnounceMsg) (s : State) : Host.Outcome State Fault Refusal :=
  run s (fun d =>
    if !d.ptpTakes m port msg.domain msg.logInterval (-3) 3 (-3) then d
    else
      let now := d.beat
      (d.onTim m (fun t => { t with
        best := tset none t.best port (some (msg.rank, msg.gm)), annAt := tset (0, 0) t.annAt port (now, msg.logInterval) })).reselect m)

/-- Beats in 2^log seconds. -/
def logBeats (log : Int) : Nat := if 0 ≤ log then 10000000 * 2 ^ log.toNat else 10000000 / 2 ^ log.natAbs

/-- A Delay_Req leaves at its interval, `ns` into the beat; before any Delay_Resp the interval is 1 s (PRESUMED, assumption 34). Its
egress time is stamped, and its correctionField holds the delay asymmetry taken away (R315, R317). -/
def execDelayReq (m : MastId) (port ns : Nat) (s : State) : Host.Outcome State Fault Refusal :=
  run s (fun d =>
    let t := d.tim m
    let due := match (t.reqAt.find? (fun e => e.1 == port)) with
      | some (_, b) => b + logBeats (tget 0 t.reqLog port) ≤ d.beat + 1
      | none => true
    if !d.ptpOn m port || !due || d.regF m (0x6000 + 0x40 * port) 0 1 == 0 || !tget false (d.mast m).eg.link port then d
    else
      let now := d.beat
      let seq := tget 0 t.reqSeq port
      let tx := d.ptpStamp ns
      let c := rhuDiv (-(d.asym m port) * 65536) 1000
      (d.onTim m (fun t => { t with
        reqAt := tset 0 t.reqAt port (now + 1), reqTx := tset none t.reqTx port (some (seq, tx))
        reqSeq := tset 0 t.reqSeq port ((seq + 1) % 65536) })).emit (.delayReq m port seq c))

/-- A Delay_Resp: the mean path delay, from the last Sync and the Delay_Req that it answers, and the next interval. -/
def execDelayResp (m : MastId) (port seq received : Nat) (correction logInterval : Int) (s : State) : Host.Outcome State Fault Refusal :=
  run s (fun d =>
    match tget none (d.tim m).reqTx port with
    | none => d
    | some (q, tx) =>
      if !d.ptpOn m port || q != seq then d
      else d.onTim m (fun t => { t with
        reqLog := tset 0 t.reqLog port logInterval, reqTx := tset none t.reqTx port none
        mpd := match tget none t.msd port with
          | some msd => tset 0 t.mpd port (rhuDiv (msd + (1000 * received - tx - corrPs correction)) 2)
          | none => t.mpd }))

/-- Has a port's master sent no Announce for three intervals? -/
def Tim.silent (t : Tim) (beat port : Nat) : Bool :=
  let a := tget (0, 0) t.annAt port
  (tget none t.best port).isSome && a.1 + 3 * logBeats a.2 ≤ beat

/-- No Announce for three intervals: a port's master is forgotten; with the selected one the source is lost. -/
def execAnnounceReceiptTimeout (m : MastId) (s : State) : Host.Outcome State Fault Refusal :=
  run s (fun d =>
    let t := d.tim m
    let late := [0, 1].filter (t.silent d.beat)
    let d := d.onTim m (fun t => { t with best := late.foldl (fun b p => tset none b p none) t.best })
    if !late.contains t.port then d
    else if d.serving == some m && d.src m == 1 then d.holdover m
    else d)

/-- GM_QUAL seconds after a change of grandmaster, the new one qualified, so that its Announces still come: ACQUIRING. -/
def execHoldoverEnd (m : MastId) (s : State) : Host.Outcome State Fault Refusal :=
  run s (fun d =>
    let t := d.tim m
    match t.gmAt with
    | none => d
    | some b =>
      if t.state == .holdover && b + 10000000 * d.effF m 0x5008 48 8 ≤ d.beat && (tget none t.best t.port).isSome then
        d.onTim m (fun t => { t with state := .acquiring, gmAt := none, run := 0 })
      else d)

/-! ## PPS_IN, steps, PPS_OUT (R311, R313, R314, R321) -/

/-- The offset of a second boundary that falls now: source less own time, to the nearest second (R311). -/
def ppsOffset (ns : Nat) : Int := if 2 * ns < 1000000000 then -(ns : Int) else 1000000000 - ns

/-- A rising edge on PPS_IN, `ns` into the beat, stamped with 4 ns resolution (R319): under SRC 2 it is taken as a second boundary. -/
def execPpsInEdge (ns : Nat) (corr : Int) (s : State) : Host.Outcome State Fault Refusal :=
  run s (fun d => d.act (fun m =>
    if d.src m != 2 then d
    else
      let now := d.beat
      ((d.onTim m (fun t => { t with ppsAt := now })).acquire m).servo m (ppsOffset (d.now.ns + ns % 100 / 4 * 4)) corr))

/-- No edge for 2 s: the source is lost. -/
def execPpsInLoss (s : State) : Host.Outcome State Fault Refusal :=
  run s (fun d => d.act (fun m =>
    if d.src m == 2 && (d.tim m).ppsAt + 20000000 ≤ d.beat then d.holdover m else d))

/-- Labels move by a signed amount; seconds keep 48 bits. -/
def moveLabel (s : Stamp) (ns : Int) : Stamp := stampOf (((stampNs s : Int) + ns) % (2 ^ 48 * 1000000000)).toNat

/-- A step takes effect: the labels change, STEPS counts, and source 205 records it. The standby's timebase follows (R310). -/
def Dev.stepTime (d : Dev) (m : MastId) (t : Stamp) : Dev :=
  let d := { d with now := t }
  let stepped := fun (t : Tim) => { t with steps := (t.steps + 1) % 256, step := none }
  let d := if (d.mast m).pen.gaff then d.onTim (peerOf m) stepped else d
  (d.onTim m stepped).report m 205 0 0 0 none

/-- PPS_OUT rises on a beat labelled nanoseconds 0 (R321). -/
def Dev.pps (d : Dev) (m : MastId) : Dev :=
  if d.now.ns == 0 && d.effF m 0x5000 6 1 == 1 && ((d.tim m).state != .freerun || d.effF m 0x5000 7 1 == 1) then
    let off := d.beat + 200
    ({ d with pins := { d.pins with ppsOut := true } } : Dev).onTim m (fun t => { t with ppsOut := some off })
  else d

/-- A step moves PPS_OUT with the labels: the pulse of a second skipped over is taken back, a second reached gives one
(R313). -/
def Dev.ppsMoved (d : Dev) (m : MastId) (was : Nat) : Dev :=
  let d := if was == 0 && (d.tim m).ppsOut == some (d.beat + 200) then
      ({ d with pins := { d.pins with ppsOut := false } } : Dev).onTim m (fun t => { t with ppsOut := none })
    else d
  d.pps m

/-- The first 80,000 ns boundary at least 100 µs after the decision. -/
def execTimebaseStep (s : State) : Host.Outcome State Fault Refusal :=
  run s (fun d => d.act (fun m =>
    match (d.tim m).step with
    | none => d
    | some (k, b) =>
      if d.now.ns % 80000 == 0 && b + 1000 ≤ d.beat then (d.stepTime m (moveLabel d.now (80000 * k))).ppsMoved m d.now.ns
      else d))

/-- PPS_OUT falls 20 µs after rising. -/
def execPpsOutEnd (s : State) : Host.Outcome State Fault Refusal :=
  run s (fun d => d.act (fun m =>
    match (d.tim m).ppsOut with
    | none => d
    | some b =>
      if b ≤ d.beat then
        let d := d.onTim m (fun t => { t with ppsOut := none })
        { d with pins := { d.pins with ppsOut := false } }
      else d))

/-! ## Registers (R311, R329) -/

/-- TIM_CTL: STEP_MODE 3 and PORT_SEL 3 leave their field unchanged; the rest takes effect at the next watch boundary. -/
def execTimCtlWrite (w : RegWr) (s : State) : Host.Outcome State Fault Refusal :=
  run s (fun d => d.barWrite 0x5000 w (fun m info v d =>
    let old := d.reg m 0x5000
    let v := if fld v 2 2 == 3 then setFld v 2 2 (fld old 2 2) else v
    let v := if fld v 4 2 == 3 then setFld v 4 2 (fld old 4 2) else v
    d.setReg m 0x5000 (plainWrite info old v)))

/-- TIM_SET: a 64-bit write, under SRC 0 or 2, gives the seconds of the next second boundary. -/
def execTimSet (w : RegWr) (s : State) : Host.Outcome State Fault Refusal :=
  run s (fun d => d.barWrite 0x5020 w (fun m _ v d =>
    if w.half == .whole && (d.src m == 0 || d.src m == 2) then d.onTim m (fun t => { t with setSec := some (fld v 0 48) }) else d))

/-- Is a TIM_PTPp value one of the valid combinations of R329? -/
def ptpValid (v : Reg64) : Bool :=
  let prof := fld v 1 2
  let dom := fld v 8 8
  if prof == 1 then fld v 3 2 == 2 && fld v 5 1 == 0 && decide (24 ≤ dom ∧ dom ≤ 43) else decide (dom ≤ 127)

/-- TIM_PTPp. -/
def execTimPtpWrite (port : Nat) (w : RegWr) (s : State) : Host.Outcome State Fault Refusal :=
  run s (fun d =>
    if 2 ≤ port then d
    else d.barWrite (ptpReg port) w (fun m info v d =>
      let old := d.reg m (ptpReg port)
      let v := if 2 ≤ fld v 1 2 then setFld v 1 2 (fld old 1 2) else v
      let v := if fld v 3 2 == 3 then setFld v 3 2 (fld old 3 2) else v
      let r := plainWrite info old v
      if ptpValid r then d.setReg m (ptpReg port) r else d))

/-! ## The Halyard bus (R322 to R328) -/

def Dev.halEn (d : Dev) (m : MastId) : Bool := d.regF m 0x5060 0 1 == 1
def Dev.halLeader (d : Dev) (m : MastId) : Bool := d.regF m 0x5060 1 1 == 1
def Dev.halId (d : Dev) (m : MastId) : Nat := d.regF m 0x5060 2 3

/-- Under SRC 3, LOCK and TIME_OK together reach LOCKED (R327). -/
def Dev.halLocks (d : Dev) (m : MastId) : Dev :=
  let h := (d.mast m).hal
  if d.src m == 3 && h.lock && h.timeOk && (d.tim m).state == .acquiring then
    d.onTim m (fun t => { t with state := .locked, fresh := false })
  else d

/-- A follower loses the clock. -/
def execHalyardClockLoss (s : State) : Host.Outcome State Fault Refusal :=
  run s (fun d => d.act (fun m =>
    if !d.halEn m || d.halLeader m then d
    else
      let d := d.onHal m (fun h => { h with lock := false })
      if d.src m == 3 then d.holdover m else d))

/-- A follower locks its beat edges to the clock, or stays locked as the clock's rate moves: under SRC 3 RATE is the clock's (R311). -/
def execHalyardClockLock (rate : Int) (s : State) : Host.Outcome State Fault Refusal :=
  run s (fun d => d.act (fun m =>
    if !d.halEn m || d.halLeader m then d
    else
      let d := d.onHal m (fun h => { h with lock := true })
      if d.src m == 3 then ((d.acquire m).onTim m (fun t => { t with rate := clampI (-rateLimit) rateLimit rate })).halLocks m else d))

/-- A symbol's START, even parity and KIND (R325). -/
def symOk (s : BitVec 16) (kind : Nat) : Bool :=
  s.getLsbD 0 && ((List.range 16).filter (fun i => s.getLsbD i)).length % 2 == 0 && (s.extractLsb' 1 2).toNat == kind

/-- A symbol with its parity bit. -/
def mkSym (kind age fine : Nat) : BitVec 16 :=
  let v := BitVec.ofNat 16 (1 + 2 * kind + 8 * (age % 256) + 2048 * (fine % 16))
  if ((List.range 15).filter (fun i => v.getLsbD i)).length % 2 == 0 then v else v ||| 0x8000

/-- The label at which a slot just received began: its last bit is sampled in its sixteenth beat. -/
def slotStart (ns slot : Nat) : Nat :=
  let t := ns / 16000 * 16000 + 1600 * slot
  if t + 1500 ≤ ns then t else t - 16000

/-- A trigger symbol from another module's slot: the event is offered to the capture units (R326, R336). A bad symbol is
ignored and counted; all zeros is an idle slot. -/
def execHalyardTriggerSymbol (sym : BitVec 16) (slot : Nat) (s : State) : Host.Outcome State Fault Refusal :=
  run s (fun d => d.act (fun m =>
    if !d.halEn m || sym == 0 || 8 ≤ slot || slot == d.halId m then d
    else if !symOk sym 1 then d.count m 0x5070 16 16 1
    else
      let now := stampNs d.now
      let t0 := slotStart now slot
      let age := (sym.extractLsb' 3 8).toNat
      let t := t0 - 100 * age + (sym.extractLsb' 11 4).toNat * 25 / 4
      d.gleanEvent m .halyard (d.beatOf (stampOf t)) (stampOf t) none slot))

/-- A chunk of the leader's time code in slot 8 (R327). -/
def execHalyardTimeCode (sym : BitVec 16) (s : State) : Host.Outcome State Fault Refusal :=
  run s (fun d => d.act (fun m =>
    if !d.halEn m || d.halLeader m || sym == 0 then d
    else if !symOk sym 2 || sym.getLsbD 14 then d.count m 0x5070 16 16 1
    else
      let idx := (sym.extractLsb' 11 3).toNat
      let data := (sym.extractLsb' 3 8).toNat
      let h := (d.mast m).hal
      let chunks := if idx == h.chunks.length then h.chunks ++ [data] else if idx == 0 then [data] else []
      if chunks.length < 8 then d.onHal m (fun h => { h with chunks := chunks })
      else
        let code := chunks.reverse.foldl (fun a v => 256 * a + v) 0
        let named := code % 2 ^ 48 * 62500 + code / 2 ^ 48
        let own := stampNs d.now / 16000 + 1
        let d := d.onHal m (fun h => { h with
          chunks := [], prev := some named, timeOk := h.timeOk || named == own
          apply := if d.src m == 3 && h.prev == some (named - 8) && 8 ≤ named && named != own then some (stampOf (16000 * named)) else h.apply })
        d.halLocks m))

/-- The leader's time-code symbol in a cycle (R327). -/
def timeSym (now : Nat) : BitVec 16 :=
  let n := now / 16000
  let i := n % 8
  let named := n - i + 8
  mkSym 2 (((named / 62500 % 2 ^ 48) + 2 ^ 48 * (named % 62500)) / 256 ^ i) i

/-- A slot of this module's begins: the earliest trigger seen at least 2 beats before is sent, the others that waited are
dropped and counted; in slot 8 the leader sends its time code. A follower without LOCK sends nothing (R328). -/
def execHalyardSlot (s : State) : Host.Outcome State Fault Refusal :=
  run s (fun d => d.act (fun m =>
    let at_ := stampNs d.now
    if !d.halEn m || at_ % 1600 != 0 || (!d.halLeader m && !(d.mast m).hal.lock) then d
    else
      let slot := at_ % 16000 / 1600
      if slot == 8 && d.halLeader m then d.emit (.symbol (timeSym at_))
      else if slot != d.halId m then d
      else
        let due := (d.mast m).hal.pend.filter (fun e => e.1 + 2 ≤ d.beat)
        match due with
        | [] => d
        | e :: r =>
          let first := r.foldl (fun a b => if stampNs b.2 < stampNs a.2 then b else a) e
          let d := d.onHal m (fun h => { h with pend := h.pend.filter (fun e => !(e.1 + 2 ≤ d.beat)) })
          let d := d.count m 0x5070 32 16 r.length
          d.emit (.symbol (mkSym 1 ((at_ - stampNs first.2 / 100 * 100) / 100) (first.2.ns % 100 * 4 / 25)))))

end Sys2Proof.Machine
end

