-- ==== Sys2Proof/Machine/Fault.lean ====
section
/-! DEFINITION. The fault collector's commands and Winnow tests (chapter 14, R498). -/

namespace Sys2Proof.Machine

/-! ## Reports (R377 to R379, R383) -/

/-- The rows of R378 by source: severity and the kind of unit fenced. -/
def reportRows (source : Nat) : List (Nat × Option UnitKind) :=
  if source < 16 then [(2, some .tile)]
  else if source < 32 then [(1, none), (2, some .strike)]
  else if source < 48 then [(2, some .cell)]
  else if source < 64 then [(2, some .lane)]
  else if source < 80 then [(0, none)]
  else if source < 96 then [(2, some .converter)]
  else if source < 160 then [(2, some .core)]
  else if source < 164 then [(3, some .cluster)]
  else if source < 196 then [(2, some .hbm), (0, none)]
  else match source with
    | 196 => [(3, some .sram)]
    | 197 => [(0, none)]
    | 198 => [(1, none), (2, some .eth)]
    | 199 => [(1, none), (2, some .eth)]
    | 200 => [(2, none), (1, none)]
    | 201 => [(2, some .ctx), (2, none)]
    | 202 => [(2, none)]
    | 203 => [(2, none)]
    | 204 => [(1, none)]
    | 205 => [(1, none), (0, none)]
    | 206 => [(0, none), (1, none), (2, none)]
    | 207 => [(0, none)]
    | 208 => [(1, none)]
    | 209 => [(2, none)]
    | 210 => [(0, none)]
    | _ => []

/-- Indices of each unit kind (R384). -/
def unitCount : UnitKind → Nat
  | .cell => 24576 | .lane => 24576 | .converter => 768 | .tile => 16 | .core => 64 | .cluster => 4 | .hbm => 32
  | .sram => 64 | .eth => 2 | .ctx => 4096 | .strike => 16

/-- Does a source name this unit (R378)? -/
def sourceNames (source : Nat) (u : FUnit) : Bool :=
  u.idx < unitCount u.kind && (match u.kind with
    | .tile => source == u.idx
    | .strike => source == 16 + u.idx
    | .cell => source == 32 + u.idx / laneCount
    | .lane => source == 48 + u.idx / laneCount
    | .converter => source == 80 + u.idx / 48
    | .core => source == 96 + u.idx
    | .cluster => source == 160 + u.idx
    | .hbm => source == 164 + u.idx
    | .sram => source == 196
    | .eth => source == 198 + u.idx
    | .ctx => source == 201)

/-- Is the report one that R378 lists? -/
def reportListed (r : FaultMsg) : Bool :=
  (reportRows r.source).contains (r.sev, r.fence.map FUnit.kind) && (match r.fence with
    | some u => u.idx == r.unit && sourceNames r.source u
    | none => true)

/-- Does a report of one cycle come before another (R379)? -/
def logsFirst (a b : FaultMsg) : Bool := b.sev < a.sev || (a.sev == b.sev && a.source ≤ b.source)

/-- The reports of one cycle in the order in which they are logged: descending severity, then ascending source (R379). -/
def logOrder : List FaultMsg → List FaultMsg
  | [] => []
  | r :: l => (logOrder l).takeWhile (fun x => !logsFirst r x) ++ r :: (logOrder l).dropWhile (fun x => !logsFirst r x)

/-- The FAULT entries of one cycle's reports, those suppressed counted (R379, R388). -/
def Dev.logAll (d : Dev) (m : MastId) (l : List FaultMsg) : Dev :=
  d.each l (fun r d =>
    if r.fence.any (d.isLasting m) then d.count m 0x7008 48 16 1 else d.logFault m r.source r.sev r.unit r.detail)

/-- The reports that reach a collector in one cycle: their FAULT entries, then in the next cycle the fences and tests they call for
(R379, R384, R386). -/
def Dev.reports (d : Dev) (m : MastId) (l : List FaultMsg) : Dev :=
  let l := logOrder l
  let kept := l.filter (fun r => !r.fence.any (d.isLasting m))
  (d.logAll m l).each kept (fun r d => match r.fence with
    | some u => (d.fence m u r.source).classify m u
    | none => d)

/-- A fenced Ethernet port's PTP instance stops and selection moves (R318, R384). -/
def Dev.ethFenced (d : Dev) (m : MastId) (fence : Option FUnit) : Dev :=
  match fence with
  | some u => if u.kind == .eth && d.isFenced m u then
      (d.onTim m (fun t => { t with best := tset none t.best u.idx none })).reselect m else d
  | none => d

/-- Fault reports reach a mast's collector in one cycle. -/
def execFaultReport (m : MastId) (reports : List FaultMsg) (s : State) : Host.Outcome State Fault Refusal :=
  run s (fun d =>
    if (d.mast m).boot.stage == .reset || !reports.all reportListed then d
    else (d.reports m reports).each reports (fun r d => d.ethFenced m r.fence))

/-- 10 µs after vector 0 was signalled, entries recorded meanwhile are covered by a new signal. -/
def execFaultVectorHoldoffEnd (m : MastId) (s : State) : Host.Outcome State Fault Refusal :=
  run s (fun d => match (d.flt m).irqAt with
    | none => d
    | some b =>
      if d.beat < b + 100 then d
      else if (d.flt m).irqPend then
        let now := d.beat
        (d.msix m 0).onFlt m (fun f => { f with irqAt := some now, irqPend := false })
      else d.onFlt m (fun f => { f with irqAt := none }))

/-- A read of host memory by the serving mast meets a PCIe error completion: source 201 and its fence. What the read was for
ends in the command that the read belongs to; a poll discards what it read. -/
def execPcieErrorCompletion (kind index : Nat) (s : State) : Host.Outcome State Fault Refusal :=
  run s (fun d => d.act (fun m =>
    if 5 < kind then d
    else
      let d := if kind == 4 && index == 0xFFFF then d.onHif m (fun h => { h with polled := false }) else d
      d.pcieErr m kind index))

/-! ## Winnow tests (R386, R387, R389) -/

/-- A test's duration in beats at default shares. -/
def Dev.testBeats (d : Dev) (u : FUnit) : Nat :=
  match u.kind with
  | .cell => 18 * 200 * (d.tile (u.idx / laneCount)).par.period
  | .lane => 1600
  | .converter => 3200
  | .tile => 10000
  | .strike => 1100
  | .core => 4000
  | .cluster => 5000
  | .hbm => 100000
  | .sram => 2500
  | .eth => 100000
  | .ctx => 0

/-- Is the unit's tile free of running tests? -/
def Dev.tileFree (d : Dev) (m : MastId) (u : FUnit) : Bool :=
  match unitTile u with
  | none => true
  | some t => (d.flt m).running.all (fun r => unitTile r.unit != some t)

/-- Start queued tests in order, passing over those whose tile is busy, up to 8 at once. -/
def Dev.startTests (d : Dev) (m : MastId) : List FUnit → Dev
  | [] => d
  | u :: r =>
    if (d.flt m).running.length < 8 && d.tileFree m u then
      let t : Test := ⟨u, d.beat, d.testBeats u, false, false, []⟩
      (d.onFlt m (fun f => { f with queue := f.queue.erase u, running := f.running ++ [t] })).startTests m r
    else d.startTests m r

/-- Queued tests start at a watch boundary. -/
def execWinnowTestStart (m : MastId) (s : State) : Host.Outcome State Fault Refusal :=
  run s (fun d => if d.watchEdge then d.startTests m (d.flt m).queue else d)

/-- The cells a unit's fence covers. -/
def coveredCells (u : FUnit) : List Nat :=
  match unitTile u with
  | none => []
  | some t => ((List.range laneCount).map (t * laneCount + ·)).filter (UnitCovers u)

/-- The cores a unit's fence stops. -/
def coveredCores (u : FUnit) : List Nat :=
  match u.kind with
  | .core => [u.idx]
  | .cluster => (List.range 16).map (16 * u.idx + ·)
  | _ => []

/-- What serving a unit again begins with: windows restart, cores take what they are bound to, the SRAM bank's content is
copied back, the HBM channel returns at the next watch boundary (R189, R190, R451, R453). -/
def Dev.restore (d : Dev) (m : MastId) (u : FUnit) : Dev :=
  let d := if d.serving == some m then
      let d := d.each (coveredCells u) (fun c d => d.onCell c (fun z => { z with lp := { z.lp with win := [], restart := true } }))
      d.each ((coveredCores u).filter (fun k => !d.coreFenced m k)) (fun k d => d.bindCore m k ((d.core m k).run == .shipped))
    else d
  match u.kind with
  | .sram =>
    if (d.mast m).mem.spareFor == some u.idx then
      d.onMast m (fun x => { x with mem := { x.mem with copying := some u.idx, restoring := true } })
    else d
  | .hbm => d.onMast m (fun x => { x with mem := { x.mem with returning := x.mem.returning ++ [u.idx] } })
  | _ => d

/-- Unfence a unit: its fence goes, the entry is logged, service resumes. -/
def Dev.unfence (d : Dev) (m : MastId) (u : FUnit) : Dev :=
  match (d.flt m).fences.find? (fun f => f.unit == u) with
  | none => d
  | some f =>
    let d := d.onFlt m (fun x => { x with fences := x.fences.filter (fun g => g.unit != u) })
    (d.logUnit m f.source 2 u 0).restore m u

/-- A TRANSIENT outcome: the unit and what takes its outcome are unfenced (R387, R388); a strike echo also frees the cells
fenced under R135. -/
def Dev.transient (d : Dev) (m : MastId) (u : FUnit) : Dev :=
  let src := (((d.flt m).fences.find? (fun f => f.unit == u)).map Fence.source).getD 0
  let inner := ((d.flt m).fences.filter (fun f => contains u f.unit && !d.underTest m f.unit)).map Fence.unit
  let struck := if u.kind == .strike then
      ((d.flt m).fences.filter (fun f => f.unit.kind == .cell && f.source == 16 + u.idx)).map Fence.unit else []
  let d := d.onFlt m (fun f => { f with hist := f.hist.map (fun h => if h.1 == u || inner.contains h.1 then (h.1, h.2.1, true) else h) })
  let d := (d.logUnit m src 3 u 0).unfence m u
  d.each (inner ++ struck) (fun v d => d.unfence m v)

/-- Does a test wait for Winnow's share: Tiller cycles of its cluster, slots of its tile's stay, or HBM transfers (R35, R386)? -/
def Dev.winnowWaits (d : Dev) (m : MastId) (u : FUnit) : Bool :=
  match u.kind with
  | .core => d.waits m 0 6 (u.idx / 16)
  | .cluster => d.waits m 0 6 u.idx
  | .hbm => d.waits m 2 6 0
  | _ => (unitTile u).any (fun t => d.waits m 1 6 t)

/-- The outcome of a test whose duration has passed: TRANSIENT where `some true`; a lit cell that has not gathered its 17 samples has
not finished (R386, R387). `seen` is what the test found where no other command shows it: each conversion's distance from its
expected code in raw LSB on a converter, the words received by a strike echo, the errors of any other test. -/
def Dev.testOutcome (d : Dev) (t : Test) (seen : List Int) : Option Bool :=
  match t.unit.kind with
  | .cell => if t.bad then some false else if !t.lit then some true else if t.win.length < 17 then none else some (t.win.all id)
  | .lane => let g := (d.cell t.unit.idx).htr.G; some (!t.bad && 250 ≤ g && g ≤ 4000)
  | .converter => some (seen.all (fun x => -16 ≤ x && x ≤ 16))
  | .strike => some (seen.sum == 256)
  | _ => some (seen.all (· == 0))

/-- A running test ends once its duration has passed; a smaller share of Winnow's lengthens it (R386). -/
def execWinnowTestEnd (m : MastId) (u : FUnit) (seen : List Int) (s : State) : Host.Outcome State Fault Refusal :=
  run s (fun d => match (d.flt m).running.find? (fun t => t.unit == u) with
    | none => d
    | some t =>
      if d.beat < t.start + t.dur || d.winnowWaits m u then d
      else match d.testOutcome t seen with
        | some true => (d.withdraw m u).transient m u
        | some false => (d.withdraw m u).lasting m u 0
        | none => d)

/-- A test not finished in 8 times its duration: LASTING, with TIMEOUT. -/
def execWinnowTestTimeout (m : MastId) (u : FUnit) (s : State) : Host.Outcome State Fault Refusal :=
  run s (fun d => match (d.flt m).running.find? (fun t => t.unit == u) with
    | none => d
    | some t => if d.beat < t.start + 8 * t.dur then d else (d.withdraw m u).lasting m u 32)

/-! ## Registers (R382, R390, R392) -/

/-- The unit kind of a code. -/
def kindOf (k : Nat) : Option UnitKind :=
  match k with
  | 0 => some .cell | 1 => some .lane | 2 => some .converter | 3 => some .tile | 4 => some .core | 5 => some .cluster
  | 6 => some .hbm | 7 => some .sram | 8 => some .eth | 9 => some .ctx | 10 => some .strike
  | _ => none

/-- Queue a retest; with the queue full the unit stays LASTING, said again (R388, R390). -/
def Dev.retest (d : Dev) (m : MastId) (u : FUnit) : Dev :=
  if d.underTest m u then d
  else if 64 ≤ (d.flt m).queue.length then d.lasting m u (16 + 64)
  else d.onFlt m (fun f => { f with queue := f.queue ++ [u] })

/-- FLT_FENCE_CMD. -/
def execFltFenceCmd (w : RegWr) (s : State) : Host.Outcome State Fault Refusal :=
  run s (fun d => d.barWrite 0x70C0 w (fun m _ v d =>
    match kindOf (fld v 0 4) with
    | none => d.flag m 0x7008 2
    | some k =>
      let u : FUnit := ⟨k, fld v 8 16⟩
      if k == .ctx || unitCount k ≤ u.idx || !(d.flt m).fences.any (fun f => f.unit == u && f.lasting) then d.flag m 0x7008 2
      else d.retest m u))

/-- FLT_FIRST_CLR. -/
def execFltFirstClr (w : RegWr) (s : State) : Host.Outcome State Fault Refusal :=
  run s (fun d => d.barWrite 0x7018 w (fun m _ v d =>
    if fld v 0 1 == 1 then d.onFlt m (fun f => { f with first := none }) else d))

/-- FLT_PENDi: PEND bits cleared by ones. -/
def execFltPendWrite (i : Nat) (w : RegWr) (s : State) : Host.Outcome State Fault Refusal :=
  run s (fun d =>
    if 4 ≤ i then d
    else d.barWrite (0x7080 + 8 * i) w (fun m info v d =>
      d.setReg m (0x7080 + 8 * i) (plainWrite info (d.reg m (0x7080 + 8 * i)) v)))

end Sys2Proof.Machine
end

