-- ==== Sys2Proof/Machine/Egress.lean ====
section
/-! DEFINITION. Telemetry streams, shaping, Ethernet ports, counters and bandwidth (chapter 13). -/

namespace Sys2Proof.Machine

def ethReg (p : Nat) : Nat := 0x6000 + 0x40 * p

/-- ETH_CTLp.EN. -/
def Dev.ethEn (d : Dev) (m : MastId) (p : Nat) : Bool := d.regF m (ethReg p) 0 1 == 1

/-- The IP MTU of a port. -/
def Dev.mtu (d : Dev) (m : MastId) (p : Nat) : Nat := d.regF m (ethReg p) 16 14

/-! ## Streams (R361, R362) -/

/-- Is a SEL bit periodic (R363)? -/
def periodicBits : List Nat := [1, 2, 5, 6, 7]

/-- Does the cell range lie within enabled tiles? -/
def Dev.rangeEnabled (d : Dev) (first count : Nat) : Bool :=
  1 ≤ count && first + count ≤ cellCount &&
    (List.range 16).all (fun t => (d.tile t).enabled || !(t * laneCount < first + count && first < (t + 1) * laneCount))

/-- The validity of a stream definition (R362). -/
def Dev.streamOk (d : Dev) (m : MastId) (s : StreamDef) : Bool :=
  d.ethEn m s.port && s.weight != 0 && s.sel != 0 &&
    frameBytes s (d.mtu m s.port) ≤ s.burst && s.burst ≤ 16777216 &&
    !(s.period == 0 && periodicBits.any s.sel.getLsbD) &&
    (!s.sel.getLsbD 1 || d.rangeEnabled s.first s.count) &&
    (!s.ipfix || s.sel == 0x80) &&
    (s.ipfix || !s.sel.getLsbD 7 || (if s.ipv6 then 2612 else 2592) ≤ d.mtu m s.port)

/-- The template record of R366: template ID 256, six fields, each but the first with its enterprise number. -/
def template (pen : Nat) : List Byte :=
  beBytes 2 256 ++ beBytes 2 6 ++ beBytes 2 325 ++ beBytes 2 8 ++
    ([8, 2, 4, 8, 1].zipIdx).flatMap (fun (e : Nat × Nat) => beBytes 2 (32768 + (Config.ipfixElement e.2).toNat) ++ beBytes 2 e.1 ++ beBytes 4 pen)

/-- The template set as a packet of its own. -/
def templatePacket (pen beat : Nat) (now : Stamp) (ep : Nat) : Packet :=
  let r : TelRec := ⟨0x101, now, ep, template pen⟩
  ⟨[r], r.len, beat, true, now⟩

/-- Queue the template set behind what is queued; a packet being filled closes. -/
def Stream.addTemplate (x : Stream) (pen beat : Nat) (now : Stamp) (ep : Nat) : Stream :=
  let p := templatePacket pen beat now ep
  { x with pkts := x.pkts.map (fun p => p.close now) ++ [p], queued := x.queued + p.bytes, tmplAt := beat }

/-- A stream as STREAM_OPEN leaves it: its F is the port's V, its bucket full. -/
def Stream.fresh (s : StreamDef) (owner from_ V beat : Nat) : Stream :=
  { defn := s, owner := owner, from_ := from_, closing := none, stopAt := none, eligible := false, pkts := [], queued := 0
    seq := 0, F := V, weight := s.weight, rate := s.rate, burst := s.burst, newShape := none, tokens := s.burst * 2 ^ 20
    refillAt := beat, wheel := none, lost := 0, firstLost := ⟨0, 0⟩, tmplAt := beat }

/-- STREAM_OPEN's body. -/
def Dev.streamOpenBody (d : Dev) (stream : Nat) (slot : SlotIn) (m : MastId) (x : Desc) : Dev :=
  let defn := streamDefOf slot.bytes
  d.need m x 6 (fun d =>
    let d := d.settleHold m x slot.ref slot.owner slot.err
    if (d.stream m stream).isSome then d.complete m x .badState
    else d.slotIn m x slot (fun st d => d.complete m x st) (fun d =>
      let d := d.returnIn m x slot false
      let judge := fun (good : Bool) (d : Dev) =>
        if !good || slot.kind != 0x60 || slot.len != 64 || !d.streamOk m defn then d.complete m x .streamInvalid
        else
          let V := tget 0 (d.mast m).eg.V defn.port
          let y := Stream.fresh defn x.ctx d.nextWatch V d.beat
          let y := if defn.ipfix then y.addTemplate (d.regF m 0x6080 0 32) d.beat d.now (d.fab m).epoch else y
          (d.setStream m stream (some y)).complete m x .ok
      if streamResvZero slot.bytes then judge true d else d.drawBool judge))

/-- STREAM_OPEN. -/
def execStreamOpen (ring seq stream : Nat) (slot : SlotIn) (s : State) :
    Host.Outcome State Fault Refusal :=
  run s (fun d => d.startLasting ring seq 0x60 (.streamOpen ring seq stream slot)
    (fun m x d => d.streamOpenBody stream slot m x))

/-- STREAM_CLOSE's body: needs TELEM, and the stream's own context or ADMIN (R361). -/
def Dev.streamCloseBody (d : Dev) (stream : Nat) (m : MastId) (x : Desc) : Dev :=
  d.need m x 6 (fun d =>
    let mine := match d.stream m stream with
      | some y => y.owner == x.ctx
      | none => false
    if !mine && !x.perm 9 then d.complete m x .notPermitted
    else match d.stream m stream with
      | none => d.complete m x .badState
      | some y =>
        if y.closing.isSome then d.complete m x .badState
        else d.closeStream m stream (some (x.ring, x.ent.seq)))

/-- STREAM_CLOSE. -/
def execStreamClose (ring seq stream : Nat) (s : State) : Host.Outcome State Fault Refusal :=
  run s (fun d => d.startLasting ring seq 0x61 (.streamClose ring seq stream)
    (fun m x d => d.streamCloseBody stream m x))

/-- A closing stream is gone: its STREAM_CLOSE, where one waits, completes. -/
def Dev.endStream (d : Dev) (m : MastId) (stream : Nat) (owner : Option (Nat × Nat)) : Dev :=
  let d := d.setStream m stream none
  match owner.bind (fun o => d.findDesc m o.1 o.2) with
  | some x => d.complete m x .ok
  | none => d

/-- Production has stopped and the last packet has left. -/
def execStreamCloseDrained (stream : Nat) (s : State) : Host.Outcome State Fault Refusal :=
  run s (fun d => d.act (fun m => match d.stream m stream with
    | none => d
    | some y => match y.closing, y.stopAt with
      | some c, some b => if b ≤ d.beat && y.pkts.isEmpty then d.endStream m stream c.2 else d
      | _, _ => d))

/-- After 10 ms what is left is discarded. -/
def execStreamCloseTimeout (stream : Nat) (s : State) : Host.Outcome State Fault Refusal :=
  run s (fun d => d.act (fun m => match d.stream m stream with
    | none => d
    | some y => match y.closing with
      | some c => if c.1 ≤ d.beat then d.endStream m stream c.2 else d
      | none => d))

/-! ## Shaping (R356 to R358) -/

/-- SHAPE_SET's body. -/
def Dev.shapeSetBody (d : Dev) (kind index rate burst weight : Nat) (m : MastId) (x : Desc) : Dev :=
  d.need m x 9 (fun d =>
    if kind % 2 == 0 then
      match d.ring m index with
      | none => d.complete m x .badState
      | some r =>
        if !r.hasCmd then d.complete m x .badState
        else if weight == 0 then d.complete m x .streamInvalid
        else (d.onRing m index (fun r => { r with weight := weight, newShape := some (rate, burst) })).complete m x .ok
    else
      match d.stream m index with
      | none => d.complete m x .badState
      | some y =>
        if weight == 0 || burst < frameBytes y.defn (d.mtu m y.defn.port) then d.complete m x .streamInvalid
        else
          let full := Nat.min burst 16777216
          (d.setStream m index (some { y with weight := weight, newShape := some (rate, full) })).complete m x .ok)

/-- SHAPE_SET. -/
def execShapeSet (ring seq kind index rate burst weight : Nat) (s : State) : Host.Outcome State Fault Refusal :=
  run s (fun d => d.startLasting ring seq 0x62 (.shapeSet ring seq kind index rate burst weight)
    (fun m x d => d.shapeSetBody kind index rate burst weight m x))

/-- Bring a stream's bucket up to date: 125 bytes a second for each kbit/s; a new rate and depth take over. -/
def Stream.refill (y : Stream) (beat : Nat) : Stream :=
  let t := Nat.min (y.tokens + 125 * y.rate * (beat - y.refillAt) * 2 ^ 20 / 10000000) (y.burst * 2 ^ 20)
  match y.newShape with
  | none => { y with tokens := t, refillAt := beat }
  | some (rate, burst) =>
    { y with tokens := if y.rate == 0 then burst * 2 ^ 20 else Nat.min t (burst * 2 ^ 20)
             rate := rate, burst := burst, newShape := none, refillAt := beat }

/-- At a tick, owners whose slot is reached are refilled and leave the wheel. -/
def execCalendarTick (s : State) : Host.Outcome State Fault Refusal :=
  run s (fun d => d.act (fun m =>
    if d.now.ns % 1000 != 0 then d
    else
      let t := stampNs d.now
      let due : Option Nat → Bool := fun w => match w with
        | some v => decide (v ≤ t)
        | none => false
      let d := d.each ((d.hif m).rings.map Prod.fst) (fun i d => match d.ring m i with
        | some r => if due r.wheel then d.setRing m i (some { r.refill d.beat with wheel := none }) else d
        | none => d)
      d.each ((d.mast m).eg.streams.map Prod.fst) (fun i d => match d.stream m i with
        | some y => if due y.wheel then d.setStream m i (some { y.refill d.beat with wheel := none }) else d
        | none => d)))

/-! ## Packets and ports (R359, R360, R365) -/

/-- One watch after its first record a packet closes. -/
def execPacketCloseTimeout (stream : Nat) (s : State) : Host.Outcome State Fault Refusal :=
  run s (fun d => d.act (fun m => match d.stream m stream with
    | none => d
    | some y => d.setStream m stream (some { y with
        pkts := y.pkts.map (fun p => if p.openedAt + 200 ≤ d.beat then p.close d.now else p) })))

/-- A stream's head packet where it is closed, with its frame length. -/
def Stream.head (y : Stream) : Option (Packet × Nat) :=
  match y.pkts with
  | p :: _ => if p.closed then some (p, frameBytes y.defn (pktHead y.defn + p.bytes)) else none
  | [] => none

/-- Is the head packet covered by its tokens? -/
def Stream.ready (y : Stream) : Bool :=
  match y.head with
  | some h => y.rate == 0 || (y.wheel.isNone && h.2 * 2 ^ 20 ≤ y.tokens)
  | none => false

/-- Consult the buckets of a port's streams: short ones enter the wheel, newly eligible ones level their tags. -/
def Dev.consultPort (d : Dev) (m : MastId) (port : Nat) : Dev :=
  let V := tget 0 (d.mast m).eg.V port
  d.each ((d.mast m).eg.streams.map Prod.fst) (fun i d => match d.stream m i with
    | none => d
    | some y =>
      if y.defn.port != port then d
      else
        let y := y.refill d.beat
        let y := match y.head with
          | some h =>
            if y.rate != 0 && y.wheel.isNone && y.tokens < h.2 * 2 ^ 20
            then { y with wheel := some (wheelAt d.now y.tokens (h.2 * 2 ^ 20) (125 * y.rate)) } else y
          | none => y
        d.setStream m i (some { y with F := if y.ready && !y.eligible then tagMax V y.F else y.F, eligible := y.ready }))

/-- The eligible stream of a port with the smallest prospective tag, ties to the lower index. -/
def Dev.portWinner (d : Dev) (m : MastId) (port : Nat) : Option (Nat × Nat) :=
  (d.mast m).eg.streams.foldl (fun best e => match e.2 with
    | none => best
    | some y => match y.head with
      | none => best
      | some h =>
        if y.defn.port != port || !y.ready then best
        else
          let t := tagAdd y.F h.2 y.weight
          match best with
          | some b => if tagLt t b.2 then some (e.1, t) else best
          | none => some (e.1, t)) none

/-- The 16-bit words of a byte list, in network order, added up. -/
def wordSum : List Byte → Nat
  | [] => 0
  | [a] => 256 * a.toNat
  | a :: b :: r => 256 * a.toNat + b.toNat + wordSum r

/-- The Internet checksum: the complement of the ones' complement sum. -/
def inetSum (l : List Byte) : Nat := let s := wordSum l; 65535 - (if s == 0 then 0 else (s - 1) % 65535 + 1)

/-- A UDP datagram between two addresses, its checksum over the pseudo-header too (R359); a sum of 0 is sent as all ones. -/
def udp (addrs : List Byte) (src dst : Nat) (payload : List Byte) : List Byte :=
  let n := 8 + payload.length
  let head := fun (c : Nat) => beBytes 2 src ++ beBytes 2 dst ++ beBytes 2 n ++ beBytes 2 c
  let c := inetSum (addrs ++ beBytes 2 17 ++ beBytes 2 n ++ head 0 ++ payload)
  head (if c == 0 then 65535 else c) ++ payload

/-- A stream's IP packet (R359, R362): IPv4 with DF set and TTL 64, or IPv6 with hop limit 64. `free` gives the identification and
the flow label, which no rule states (assumption 111). -/
def ipPacket (s : StreamDef) (src dst : List Byte) (free : Nat) (datagram : List Byte) : List Byte :=
  if s.ipv6 then
    beBytes 4 (6 * 2 ^ 28 + s.dscp * 2 ^ 22 + free % 2 ^ 20) ++ beBytes 2 datagram.length ++ beBytes 1 17 ++ beBytes 1 64 ++ src ++ dst ++ datagram
  else
    let head := fun (c : Nat) => beBytes 1 0x45 ++ beBytes 1 (4 * s.dscp) ++ beBytes 2 (20 + datagram.length) ++ beBytes 2 (free % 2 ^ 16) ++
      beBytes 2 0x4000 ++ beBytes 1 64 ++ beBytes 1 17 ++ beBytes 2 c ++ src ++ dst
    head (inetSum (head 0)) ++ datagram

/-- A stream's Ethernet frame of a UDP payload, up to its FCS (R359, R360, R362). -/
def Dev.frame (d : Dev) (m : MastId) (s : StreamDef) (payload : List Byte) : List Byte :=
  let r := fun (o : Nat) => (d.reg m (ethReg s.port + o)).toNat
  let n := if s.ipv6 then 16 else 4
  let src := if s.ipv6 then beBytes 8 (r 0x18) ++ beBytes 8 (r 0x20) else beBytes 4 (r 0x10)
  let dst := beBytes n s.dstIp.toNat
  let datagram := udp (src ++ dst) (fld (d.reg m (ethReg s.port + 0x28)) 0 16) s.dstUdp payload
  beBytes 6 s.dstMac ++ beBytes 6 (r 8) ++ (if s.vlanEn then beBytes 2 0x8100 ++ beBytes 2 s.vlanTci else []) ++
    beBytes 2 (if s.ipv6 then 0x86DD else 0x0800) ++ ipPacket s src dst (Config.freeNat d.free) datagram

/-- A record's bytes: the header of R364, then its body; an IPFIX record is its own bytes. -/
def TelRec.bytes (r : TelRec) : List Byte :=
  if r.typ < 0x100 then
    layout [(1, r.typ), (1, 0), (2, r.len), (4, r.time.ns), (6, r.time.sec), (2, 0), (8, r.epoch)] ++ r.body
  else r.body

/-- The UDP payload of a packet: the packet header of R364 and its records, or an IPFIX message of one set (R366, RFC 7011). -/
def Stream.payload (y : Stream) (m : MastId) (i seq : Nat) (now : Stamp) (p : Packet) : List Byte :=
  let body := p.recs.flatMap TelRec.bytes
  if y.defn.ipfix then
    let set := if p.recs.any (fun r => r.typ == 0x101) then 2 else 256
    beBytes 2 10 ++ beBytes 2 (20 + body.length) ++ beBytes 4 now.sec ++ beBytes 4 seq ++ beBytes 4 y.defn.domain ++ beBytes 2 set ++
      beBytes 2 (4 + body.length) ++ body
  else
    layout [(4, 0x544C4D46), (2, 1), (1, i), (1, midx m), (4, seq), (2, p.recs.length), (2, 0), (6, p.closedAt.sec), (2, 0),
      (4, p.closedAt.ns)] ++ body

/-- A packet leaves: R354's tags, the tokens spent, the sequence number (an IPFIX stream counts data records). -/
def Dev.sendPacket (d : Dev) (m : MastId) (port i t : Nat) (y : Stream) (p : Packet) (n : Nat) : Dev :=
  let step := if y.defn.ipfix then (p.recs.filter (fun r => r.typ == 0x100)).length else 1
  let y := { y with
    pkts := y.pkts.drop 1, queued := y.queued - p.bytes, seq := (y.seq + step) % 2 ^ 32, F := t
    tokens := if y.rate == 0 then y.tokens else y.tokens - n * 2 ^ 20 }
  let seq := (y.seq + 2 ^ 32 - step) % 2 ^ 32
  let frame := d.frame m y.defn (y.payload m i seq d.now p)
  let d := ({ d with free := d.free + 1 } : Dev)
  let d := (d.emit (.packet m port i frame)).setStream m i (some y)
  let d := d.onEg m (fun e => { e with V := tset 0 e.V port (tagMax (tget 0 e.V port) t) })
  ((d.pmc m 0x070 [port] n).moved m (49 + port) n 0).pmc m 0x080 [i] p.recs.length

/-- One packet decision of a port. -/
def execPortTransmit (port : Nat) (s : State) : Host.Outcome State Fault Refusal :=
  run s (fun d => d.act (fun m =>
    if !d.ethEn m port || !tget false (d.mast m).eg.link port || d.isFenced m ⟨.eth, port⟩ then d
    else
      let d := d.consultPort m port
      match d.portWinner m port with
      | none => d
      | some (i, t) => match d.stream m i with
        | none => d
        | some y => match y.head with
          | none => d
          | some h => d.sendPacket m port i t y h.1 h.2))

/-- Every TMPL_S seconds an IPFIX stream resends its template set (R366). -/
def execTemplateResend (stream : Nat) (s : State) : Host.Outcome State Fault Refusal :=
  run s (fun d => d.act (fun m => match d.stream m stream with
    | none => d
    | some y =>
      if y.defn.ipfix && y.stopAt.isNone && y.tmplAt + d.regF m 0x6080 32 16 * 10000000 ≤ d.beat
      then d.setStream m stream (some (y.addTemplate (d.regF m 0x6080 0 32) d.beat d.now (d.fab m).epoch)) else d))

/-- Writes to ETH_CTLp and the address registers: while EN is 1, only EN and the UDP port are taken. -/
def execEthPortWrite (off : Nat) (w : RegWr) (s : State) : Host.Outcome State Fault Refusal :=
  run s (fun d =>
    let at_ := fun (o : Nat) => inArr off (0x6000 + o) 0x40 2
    if at_ 0 then d.barWrite off w (fun m info v d =>
      let old := d.reg m off
      let n := fld v 16 14
      let keep := fld old 0 1 == 1 || n < 1280 || 9000 < n
      d.setReg m off (plainWrite info old (if keep then setFld v 16 14 (fld old 16 14) else v)))
    else if at_ 0x28 then d.barWrite off w (fun m info v d => d.setReg m off (plainWrite info (d.reg m off) v))
    else if at_ 8 || at_ 0x10 || at_ 0x18 || at_ 0x20 then d.barWrite off w (fun m info v d =>
      if d.ethEn m ((off - 0x6000) / 0x40) then d else d.setReg m off (plainWrite info (d.reg m off) v))
    else d)

/-- A received frame of `len` bytes: PTP messages are taken, every other frame is discarded and counted. -/
def execEthFrameReceive (m : MastId) (port len : Nat) (f : EthFrame) (s : State) : Host.Outcome State Fault Refusal :=
  run s (fun d =>
    if 2 ≤ port || !d.ethEn m port || !tget false (d.mast m).eg.link port then d
    else
      let d := (d.pmc m 0x071 [port] len).moved m (49 + port) 0 len
      match f with
      | .ptp => d
      | .otherFrame => d.count m (ethReg port + 0x30) 0 32 1
      | .badFcs => d.count m (ethReg port + 0x30) 32 32 1)

def Dev.setLink (d : Dev) (m : MastId) (port : Nat) (up : Bool) : Dev :=
  d.onEg m (fun e => { e with link := tset false e.link port up })

/-- An Ethernet link goes down: source 198 + port (R378). -/
def execEthernetLinkLost (m : MastId) (port : Nat) (s : State) : Host.Outcome State Fault Refusal :=
  run s (fun d =>
    if port < 2 && tget false (d.mast m).eg.link port then (d.setLink m port false).report m (198 + port) 1 port 0 none else d)

/-- An Ethernet link comes up on an enabled port. -/
def execEthernetLinkUp (m : MastId) (port : Nat) (s : State) : Host.Outcome State Fault Refusal :=
  run s (fun d => if port < 2 && d.ethEn m port then d.setLink m port true else d)

/-- Over 1,000 uncorrectable RS-FEC codewords in 1 s: the port is fenced (R378). -/
def execRsFecErrorLimit (m : MastId) (port codewords : Nat) (s : State) : Host.Outcome State Fault Refusal :=
  run s (fun d =>
    if port < 2 && 1000 < codewords then
      (d.report m (198 + port) 2 port (BitVec.ofNat 32 codewords) (some ⟨.eth, port⟩)).ethFenced m (some ⟨.eth, port⟩) else d)

/-! ## Bandwidth and snapshots (R373, R374) -/

/-- Bytes over a window of `win` watches as whole MB/s, rounded half up. -/
def mbps (bytes win : Nat) : Nat := (rhuDiv bytes (20 * win)).toNat

/-- The end of a bandwidth window on a mast: the bytes counted in it, and `hbm`, those of each HBM channel that no other row moves
(OUT written, IN read). -/
def execBandwidthWindowEnd (m : MastId) (hbm : List (Nat × Nat)) (s : State) : Host.Outcome State Fault Refusal :=
  run s (fun d =>
    let win := d.effF m 0xC000 0 16
    if win == 0 || d.now.ns % (win * 20000) != 0 then d
    else
      let now := d.now
      d.onEg m (fun e =>
        let add := fun (i : Nat) => if 16 ≤ i && i < 48 then hbm.getD (i - 16) (0, 0) else (0, 0)
        let sum := fun (i : Nat) => let v := tget (0, 0) e.bwNow i; (v.1 + (add i).1, v.2 + (add i).2)
        { e with
          bw := (List.range 51).foldl (fun t i => tset (0, 0) t i (mbps (sum i).1 win, mbps (sum i).2 win)) []
          bwEnd := now, bwNow := [] }))

/-- COUNTER_SNAP: its latch is the end of the last beat before the next watch boundary. -/
def execCounterSnap (ring seq : Nat) (slot : SlotOut) (clear : Bool) (s : State) : Host.Outcome State Fault Refusal :=
  run s (fun d => d.start ring seq 0x63 (fun m x d => d.need m x 4 (fun d =>
    d.slotOut m x slot (fun st d => d.complete m x st) (fun d =>
      d.onEg m (fun e => { e with snap := e.snap ++ [(ring, seq, slot.ref, clear)] })))))

/-- The payload of a snapshot. -/
def Dev.snapshot (d : Dev) (m : MastId) : Payload :=
  let e := (d.mast m).eg
  .counters [midx m, d.effF m 0xC000 0 16, e.gen, e.bwEnd.sec, e.bwEnd.ns] e.wrap
    ((List.range 256).map (tget 0 e.ctr)) ((List.range 51).map (tget (0, 0) e.bw))

/-- A snapshot written into its slot with its latch instant, and its descriptor completed. -/
def Dev.giveSnapshot (d : Dev) (m : MastId) (lat : Stamp) (p : Payload) (j : Nat × Nat × Nat × Bool) : Dev :=
  match d.findDesc m j.1 j.2.1 with
  | none => d
  | some x =>
    let now := d.now
    let d := ({ d with now := lat } : Dev).writeOut m x j.2.2.1 0x63 2512 (d.fab m).epoch p
    ({ d with now := now } : Dev).complete m x .ok

/-- The latch, at the end of a watch's last beat. -/
def execCounterSnapLatch (s : State) : Host.Outcome State Fault Refusal :=
  run s (fun d => d.act (fun m =>
    let jobs := (d.mast m).eg.snap
    if d.now.ns % 20000 != 19900 || jobs.isEmpty then d
    else
      let p := d.snapshot m
      let clear := jobs.any (fun j => j.2.2.2)
      let d := d.onEg m (fun e => if clear then { e with snap := [], ctr := [], wrap := [] } else { e with snap := [] })
      d.each jobs (fun j d => d.giveSnapshot m (nextLabel d.now) p j)))

/-! ## Counter selection (R369, R372) -/

/-- The INST values of an event, `none` where it is not listed. -/
def pmcInst (ev inst : Nat) : Option Bool :=
  match ev with
  | 0x000 => some (inst == 0) | 0x001 => some (inst == 0) | 0x002 => some (inst == 0)
  | 0x010 => some (inst == 0) | 0x011 => some true | 0x012 => some (inst == 0) | 0x013 => some (inst == 0)
  | 0x014 => some (inst == 0) | 0x015 => some (inst == 0) | 0x020 => some (inst == 0) | 0x021 => some true
  | 0x022 => some (inst == 0) | 0x030 => some (inst < 64 || inst == 0xFF)
  | 0x031 => some (inst / 8 < 4 && inst % 8 < 7) | 0x032 => some (inst / 8 < 3 && inst % 8 < 7)
  | 0x040 => some (inst < 16) | 0x041 => some (inst < 16) | 0x042 => some (inst < 16) | 0x043 => some (inst < 16)
  | 0x050 => some (inst < 32) | 0x051 => some (inst < 32)
  | 0x060 => some (inst == 0) | 0x061 => some (inst == 0) | 0x062 => some (inst == 0) | 0x063 => some (inst == 0)
  | 0x070 => some (inst < 2) | 0x071 => some (inst < 2) | 0x072 => some (inst < 2)
  | 0x080 => some true | 0x081 => some true | 0x090 => some (inst < 4) | 0x091 => some (inst < 16)
  | _ => none

/-- May PMC_SELk hold this value? -/
def pmcSelOk (v : Reg64) : Bool := pmcInst (fld v 0 12) (fld v 12 8) == some true && !(fld v 0 12 == 0 && fld v 20 1 == 1)

/-- PMC_SELk: reprogrammed at the next watch boundary, or refused with REJ. -/
def execPmcSelWrite (k : Nat) (w : RegWr) (s : State) : Host.Outcome State Fault Refusal :=
  run s (fun d =>
    if 256 ≤ k then d
    else d.barWrite (0xC800 + 8 * k) w (fun m info v d =>
      let off := 0xC800 + 8 * k
      if !pmcSelOk v then d.flag m 0xC008 32
      else (d.setReg m off (plainWrite info (d.reg m off) v)).onEg m (fun e =>
        { e with selWritten := if e.selWritten.contains k then e.selWritten else e.selWritten ++ [k] })))

end Sys2Proof.Machine
end

