-- ==== Sys2Proof/Machine/Glean.lean ====
section
/-! DEFINITION. The flight record and the capture units (chapter 12). Watch w of a capture is the watch that begins 200 w beats
after the trigger watch. -/

namespace Sys2Proof.Machine

/-! ## The flight record (R330 to R335) -/

/-- Depth of the ring in watches, with `f` HBM channels fenced (R330, R384). -/
def Dev.depth (d : Dev) (m : MastId) : Nat :=
  let f := ((d.flt m).fences.filter (fun x => x.unit.kind == .hbm)).length
  96636764160 / (64 + 18432 * d.enabledTiles.length) * (32 - f) / 32

/-- The flight record starts empty from the watch that begins now (R331). -/
def Dev.restartRecord (d : Dev) (m : MastId) : Dev :=
  let now := d.beat
  d.onGln m (fun g => { g with recording := true, startAt := some now, frames := [], build := none, gap := false })

/-- A cell's record of the watch that ends (R333). -/
def Dev.cellRec (d : Dev) (m : MastId) (t l : Nat) (began : Nat) : CellRec :=
  let x := d.tile t
  let c := x.cell l
  let scan := x.conv.scanBeat == began && x.alive
  let a := c.mon.h0.head?
  let b := c.mon.h1.head?
  let on := fun (p : Samp → Bool) (s : Option Samp) => scan && (match s with | some v => p v | none => false)
  let flags := [on Samp.settle a, on Samp.settle b, on Samp.ovr a, on Samp.ovr b, c.htr.capped, scan && c.mon.moving,
    scan && x.conv.parkSeen, d.cellFenced m (t * laneCount + l), c.drv.live, scan && x.conv.loopScan, !scan,
    scan && c.mon.exit, c.htr.kept]
  { cell := t * laneCount + l
    A := if scan then (a.map Samp.code).getD 0 else 0
    B := if scan then (b.map Samp.code).getD 0 else 0
    htr := c.htr.applied
    O := if scan then c.mon.o else c.drv.O
    mode := c.lp.mode
    flags := BitVec.ofNat 13 (flags.zipIdx.foldl (fun n e => n + b2n e.1 * 2 ^ e.2) 0)
    E := if scan then c.mon.e else c.drv.E x.parkLow }

/-- The epoch in force immediately before the beat in progress. -/
def Dev.epochBefore (d : Dev) (m : MastId) : Nat :=
  let f := d.fab m
  if f.lastStrike == some d.beat then f.epoch - 1 else f.epoch

/-- At a watch boundary the frame of the watch that ends is gathered; one not written by now is dropped (R335). -/
def Dev.gatherFrame (d : Dev) (m : MastId) : Dev :=
  let g := (d.mast m).gln
  let began := d.beat - 200
  let d := match g.build with
    | some _ => (d.onGln m (fun g => { g with gap := true, build := none })).flag m 0x4808 33
    | none => d
  let ok := g.recording && (match g.startAt with | some s => s ≤ began && 200 ≤ d.beat | none => false)
  let recs := d.enabledTiles.flatMap (fun t => (List.range laneCount).map (fun l => d.cellRec m t l began))
  let new := (d.fab m).lastStrike == some d.beat
  let ep := d.epochBefore m
  let now := d.now
  d.onGln m (fun g => { g with
    build := if ok then some ⟨stampOf (stampNs now - 20000), began, g.gap, g.epoch0, if new then g.strikes.dropLast else g.strikes,
      recs⟩ else none
    strikes := if new then [0] else [], epoch0 := ep })

/-- A frame joins the ring, the oldest making room. -/
def Dev.putFrame (d : Dev) (m : MastId) (f : Frame) : Dev :=
  let n := d.depth m
  d.onGln m (fun g =>
    let l := g.frames ++ [{ f with gap := g.gap }]
    { g with frames := l.drop (l.length - n), build := none, gap := false, written := true })

/-- A frame not whole by the end of watch n + 1 is dropped. -/
def execFrameDropped (s : State) : Host.Outcome State Fault Refusal :=
  run s (fun d => d.act (fun m => match (d.mast m).gln.build with
    | some f =>
      if f.beat + 399 ≤ d.beat then (d.onGln m (fun g => { g with gap := true, build := none })).flag m 0x4808 33 else d
    | none => d))

/-! ## Arming (R341, R342) -/

def Dev.unit (d : Dev) (m : MastId) (u : Nat) : Option Unit_ := tget none (d.mast m).gln.units u

def Dev.setUnit (d : Dev) (m : MastId) (u : Nat) (x : Unit_) : Dev :=
  d.onGln m (fun g => { g with units := tset none g.units u (some x) })

def Dev.unitIdle (d : Dev) (m : MastId) (u : Nat) : Bool :=
  match d.unit m u with
  | some x => x.state == .idle
  | none => true

/-- Bytes of a block. -/
def blockBytes (thin count : Nat) : Nat := 64 + (if thin == 0 then 12 else 24) * count

/-- K(pre, post) of R342: blocks for watches -pre to post. -/
def blockCount (thin div pre post : Nat) : Nat :=
  let L := 2 ^ (thin + div)
  if thin == 0 then pre / L + post / L + 1 else (pre + L - 1) / L + post / L + 1

/-- The largest post for which K(pre, post) is at most C. -/
def clampPost (thin div pre C : Nat) : Nat :=
  let L := 2 ^ (thin + div)
  (C - 1 - (if thin == 0 then pre / L else (pre + L - 1) / L)) * L + L - 1

/-- The checks of R96 on each of the consecutive slots. -/
def Dev.slotsBad (d : Dev) (m : MastId) (x : Desc) (ref : Nat) (owners : List Nat) : Nat → Option Status
  | 0 => none
  | n + 1 =>
    match d.slotsBad m x ref owners n with
    | some st => some st
    | none =>
      if refWin (ref + n) != refWin ref then some .slotRange else d.slotBad m x (ref + n) (owners.getD n 0)

/-- CAP_ARM. -/
def execCapArm (ring seq unit causeEn startDiv thin first count pre post : Nat) (slot : SlotOut) (owners : List Nat)
    (nslots : Nat) (at_ : Stamp) (s : State) : Host.Outcome State Fault Refusal :=
  run s (fun d => d.start ring seq 0x50 (fun m x d => d.need m x 3 (fun d =>
    let time := bit causeEn 2
    let inst := roundUpBeat at_
    let size := d.slotSize m (refWin slot.ref) - 64
    let blk := blockBytes thin count
    let cap0 := (size - 832) / blk
    let capN := size / blk
    let C := cap0 + (nslots - 1) * capN
    let d := d.each (List.range nslots) (fun i d => d.settleHold m x (slot.ref + i) (owners.getD i 0) slot.err)
    if !d.unitIdle m unit then d.complete m x .capBusy
    else if count == 0 || cellCount < first + count ||
        (List.range 16).any (fun t => !(d.tile t).enabled && t * laneCount < first + count && first < (t + 1) * laneCount) then
      d.complete m x .portInvalid
    else if causeEn == 0 || 8 < startDiv || 7 < thin || d.depth m ≤ pre || (time && 999999999 < at_.ns) then d.complete m x .capRange
    else if x.lost then d.complete m x .hostLost
    else if slot.err then (d.pcieErr m 0 x.ctx).complete m x .memLost
    else match d.slotsBad m x slot.ref owners nslots with
      | some st => d.complete m x st
      | none =>
        if time && stampNs inst ≤ stampNs d.now then d.complete m x .tooLate
        else if nslots == 0 || cap0 == 0 || capN == 0 || C < blockCount thin startDiv pre 0 then d.complete m x .capRange
        else
          let fits := blockCount thin startDiv pre post ≤ C
          let slots := (List.range nslots).map (slot.ref + ·)
          let last := match d.unit m unit with
            | some v => v.cause
            | none => 0
          let u : Unit_ :=
            { state := .armed, owner := some (ring, seq), causeEn := causeEn, startDiv := startDiv, thin := thin, first := first
              count := count, pre := pre, post := if fits then post else clampPost thin startDiv pre C, clamp := !fits
              at_ := if time then some inst else none, slots := slots, cap0 := cap0, capN := capN, events := [], halId := 0
              cause := last, trigBeat := 0, trigTime := ⟨0, 0⟩, trigEpoch := 0, div := startDiv, next := 0, gap := false
              anyGap := false, rateStep := false, stepAt := none, slotIx := 0, kept := [], cancelled := false }
          (d.each slots (fun r d => d.holdSlot m x r)).setUnit m unit u)))

/-! ## Events and triggers (R336 to R340) -/

/-- A rising edge on TRIG_IN, `ns` into the beat in progress: stamped to 4 ns. -/
def execTrigInRise (ns : Nat) (s : State) : Host.Outcome State Fault Refusal :=
  run s (fun d => d.act (fun m => d.gleanEvent m .trigIn d.beat (stampPlus d.now (ns % 100 / 4 * 4)) none 0))

/-- A unit's AT instant arrives, or a step has passed over it (R313, R336). -/
def execCaptureTimeEvent (unit : Nat) (s : State) : Host.Outcome State Fault Refusal :=
  run s (fun d => d.act (fun m => match d.unit m unit with
    | none => d
    | some u => match u.at_ with
      | none => d
      | some t =>
        if u.state == .idle || stampNs d.now < stampNs t then d
        else
          let d := d.setUnit m unit { u with
            at_ := none, events := if u.state == .armed then u.events ++ [(.time, d.beat, d.now, 0)] else u.events }
          if d.effF m 0x4800 1 1 == 1 && d.regF m 0x5060 0 1 == 1 then
            let e := (d.beat, d.now)
            d.onMast m (fun x => { x with hal := { x.hal with pend := x.hal.pend ++ [e] } })
          else d))

/-- The label of a beat gone by. -/
def Dev.stampAt (d : Dev) (b : Nat) : Stamp := stampOf (stampNs d.now - 100 * (d.beat - b))

/-- CAP_FIRE (R346): an event at the beat of the descriptor's acceptance (R336). -/
def execCapFire (ring seq unit : Nat) (s : State) : Host.Outcome State Fault Refusal :=
  run s (fun d => d.start ring seq 0x51 (fun m x d => d.need m x 3 (fun d =>
    match d.unit m unit with
    | some u =>
      if u.state == .armed && bit u.causeEn 5 then
        (d.setUnit m unit { u with events := u.events ++ [(.host, x.acceptedAt, d.stampAt x.acceptedAt, 0)] }).complete m x .ok
      else d.complete m x .badState
    | none => d.complete m x .badState)))

/-- The first beat of the watch that contains a beat. -/
def Dev.watchStart (d : Dev) (b : Nat) : Nat :=
  let back := d.beat - b
  b - (d.now.ns + 20000 * back - 100 * back) % 20000 / 100

/-- At beat b + 200 the unit settles its trigger: RUNNING, and TRIG_OUT rises. -/
def execTriggerSettle (unit : Nat) (s : State) : Host.Outcome State Fault Refusal :=
  run s (fun d => d.act (fun m => match d.unit m unit with
    | none => d
    | some u => match (u.events.map (fun e => e.2.1)).min? with
      | none => d
      | some b =>
        if u.state != .armed || d.beat < b + 200 then d
        else
          let es := u.events.filter (fun e => e.2.1 == b)
          let t := (es.map (fun e => stampNs e.2.2.1)).min?.getD 0
          let hal := ((es.find? (fun e => e.1 == .halyard)).map (fun e => e.2.2.2)).getD 0
          let d := d.setUnit m unit { u with
            state := .running, cause := maskOf (es.map (fun e => causeBit e.1)), trigBeat := b, trigTime := stampOf t, halId := hal
            trigEpoch := (d.fab m).epochAt b, div := u.startDiv, next := -(u.pre : Int) }
          if d.effF m 0x4800 6 1 == 1 then
            let e := d.beat + 10
            ({ d with pins := { d.pins with trigOut := true } } : Dev).onGln m (fun g => { g with trigOut := some e })
          else d))

/-- 1 µs after the last settle TRIG_OUT falls. -/
def execTrigOutEnd (s : State) : Host.Outcome State Fault Refusal :=
  run s (fun d => d.act (fun m => match (d.mast m).gln.trigOut with
    | none => d
    | some e =>
      if e ≤ d.beat then
        ({ d with pins := { d.pins with trigOut := false } } : Dev).onGln m (fun g => { g with trigOut := none })
      else d))

/-! ## Delivery (R343 to R347) -/

/-- The frame of watch w of a capture. -/
def Dev.frameOf (d : Dev) (m : MastId) (u : Unit_) (w : Int) : Option Frame :=
  (d.mast m).gln.frames.find? (fun f => (f.beat : Int) == d.watchStart u.trigBeat + 200 * w)

/-- May the frame of watch w still be written? -/
def Dev.framePending (d : Dev) (m : MastId) (u : Unit_) (w : Int) : Bool :=
  let b : Int := d.watchStart u.trigBeat + 200 * w
  (d.beat : Int) < b + 200 || (match (d.mast m).gln.build with | some f => (f.beat : Int) == b | none => false)

/-- Watches of one decimation step or thinned group. -/
def Unit_.len (u : Unit_) : Nat := 2 ^ (u.thin + u.div)

/-- The next kept watch at or after `w`, without thinning. -/
def Unit_.kept? (u : Unit_) (w : Int) : Int := if u.thin == 0 then -((-w) / (u.len : Int)) * u.len else w

/-- The frames of a thinned block from watch w on: to the end of its group, before a strike watch, a missing frame or the
end of POST; `none` while a frame is still to come. -/
def Dev.group (d : Dev) (m : MastId) (u : Unit_) (g : Int) (w : Int) : Nat → Option (List Frame)
  | 0 => some []
  | n + 1 =>
    if w / (u.len : Int) != g || (u.post : Int) < w then some []
    else match d.frameOf m u w with
      | none => if d.framePending m u w then none else some []
      | some f => if f.strikes.isEmpty then (d.group m u g (w + 1) n).map (f :: ·) else some []

/-- Least, greatest and mean of a list, zero where it is empty (R347). -/
def stats (l : List Nat) : List Nat := [l.min?.getD 0, l.max?.getD 0, if l.isEmpty then 0 else (rhuDiv l.sum l.length).toNat]

/-- One thinned cell record. -/
def thinRec (rs : List CellRec) : List Nat :=
  let qa := rs.filter (fun r => !(r.flags.getLsbD 0 || r.flags.getLsbD 2 || r.flags.getLsbD 10))
  let qb := rs.filter (fun r => !(r.flags.getLsbD 1 || r.flags.getLsbD 3 || r.flags.getLsbD 10))
  let fl := (rs.foldl (fun (a : BitVec 13) r => a ||| r.flags) 0).toNat + 8192 * b2n qa.isEmpty + 16384 * b2n qb.isEmpty
  stats (qa.map CellRec.A) ++ stats (qb.map CellRec.B) ++ stats (rs.map CellRec.htr) ++
    [(rs.map CellRec.O).min?.getD 0, (rs.map CellRec.O).max?.getD 0, fl]

def plainRec (r : CellRec) : List Nat := [r.A, r.B, r.htr, r.O + 4096 * r.mode, r.flags.toNat, r.E]

/-- A block's frame header (R332): time, DIV and flags, epoch, strikes, watches, scan offsets. -/
def Dev.blockHead (d : Dev) (u : Unit_) (f : Frame) (n : Nat) : List Nat :=
  [f.time.sec, u.thin + u.div + 16 * b2n u.gap + 32 * b2n u.rateStep + 64 * b2n (u.thin != 0), f.time.ns, f.epoch,
    maskOf f.strikes, n] ++ (List.range 16).map (fun t => if (d.tile t).enabled then Config.scanOfs t f.beat % 256 else 0)

/-- A block of the range from its frames. -/
def Dev.block (d : Dev) (u : Unit_) (fs : List Frame) (f : Frame) : List Nat :=
  let inR := fun (g : Frame) => g.recs.filter (fun r => u.first ≤ r.cell && r.cell < u.first + u.count)
  d.blockHead u f fs.length ++
    (if u.thin == 0 then (inR f).flatMap plainRec
     else (inR f).flatMap (fun r => thinRec (fs.filterMap (fun g => (inR g).find? (fun q => q.cell == r.cell)))))

/-- The capture header of the first slot (R342). -/
def Dev.capHead (d : Dev) (m : MastId) (unit : Nat) (u : Unit_) : List Nat :=
  [unit, u.cause, u.halId, b2n u.clamp, u.first, u.count, u.pre, u.post, u.startDiv + 16 * u.thin, u.trigTime.sec, u.trigTime.ns,
    u.trigEpoch, d.depth m] ++
    (List.range 768).map (fun i => if (d.tile (i / 48)).enabled then toField 8 (Config.skew (i / 48) (i % 48)) else 0)

/-- The slot being filled goes back with the blocks it holds (R343). -/
def Dev.returnCap (d : Dev) (m : MastId) (unit : Nat) (u : Unit_) (inc : Bool) : Dev :=
  match u.owner.bind (fun o => d.findDesc m o.1 o.2), u.slots[u.slotIx]? with
  | some x, some ref =>
    let head := if u.slotIx == 0 then d.capHead m unit u else []
    let len := if u.kept.isEmpty then 0 else (if u.slotIx == 0 then 832 else 0) + u.kept.length * blockBytes u.thin u.count
    (d.giveSlot m x ref 0x50 len u.trigEpoch false false inc (.capture head u.kept)).setUnit m unit
      { u with slotIx := u.slotIx + 1, kept := [] }
  | _, _ => d

/-- A block put into the slots; one that no slot takes is lost (R345). -/
def Dev.putBlock (d : Dev) (m : MastId) (unit : Nat) (u : Unit_) (b : List Nat) (next : Int) : Dev :=
  if u.slots.length ≤ u.slotIx then d.setUnit m unit { u with next := next, anyGap := true }
  else
    let u := { u with kept := u.kept ++ [b], next := next, anyGap := u.anyGap || u.gap, gap := false, rateStep := false }
    let d := d.setUnit m unit u
    if (if u.slotIx == 0 then u.cap0 else u.capN) ≤ u.kept.length then d.returnCap m unit u false else d

/-- The next kept watch, or thinned block, is read from the flight record, charged to the telemetry class (R343); an absent frame is
skipped. -/
def execCaptureWatchRead (unit : Nat) (s : State) : Host.Outcome State Fault Refusal :=
  run s (fun d => d.act (fun m => match d.unit m unit with
    | none => d
    | some u =>
      let w := u.kept? u.next
      if (u.state != .running && u.state != .draining) || (u.post : Int) < w then d
      else match d.frameOf m u w with
        | none => if d.framePending m u w then d else d.setUnit m unit { u with next := w + 1, gap := true }
        | some f =>
          let cost := fun (n : Nat) => n * (1 + (12 * u.count + 63) / 64)
          if u.thin == 0 || !f.strikes.isEmpty then d.hbmGo m 4 (cost 1) (fun d => d.putBlock m unit u (d.block u [f] f) (w + 1))
          else match d.group m u (w / (u.len : Int)) w u.len with
            | none => d
            | some fs => d.hbmGo m 4 (cost fs.length) (fun d => d.putBlock m unit u (d.block u fs f) (w + fs.length))))

/-- LAG of a unit (R344). -/
def Dev.lag (d : Dev) (m : MastId) (u : Unit_) : Nat :=
  match (d.mast m).gln.frames.getLast? with
  | none => 0
  | some f => (((f.beat : Int) - d.watchStart u.trigBeat) / 200 - u.kept? u.next).toNat

/-- A rate step at a watch boundary while LAG is above half the depth: at once, then every 4,096 watches it stays there. -/
def execCaptureRateStep (unit : Nat) (s : State) : Host.Outcome State Fault Refusal :=
  run s (fun d => d.act (fun m => match d.unit m unit with
    | none => d
    | some u =>
      let due := match u.stepAt with
        | none => true
        | some b => b + 819200 ≤ d.beat
      if (u.state == .running || u.state == .draining) && d.watchEdge && d.depth m < 2 * d.lag m u && due && u.div < 8 then
        d.setUnit m unit { u with div := u.div + 1, rateStep := true, stepAt := some d.beat }
      else d))

/-- At a watch boundary a unit whose LAG is back at half the depth starts its count afresh. -/
def Dev.lagOk (d : Dev) (m : MastId) : Dev :=
  d.each [0, 1, 2, 3] (fun k d => match d.unit m k with
    | some u => if u.stepAt.isSome && 2 * d.lag m u ≤ d.depth m then d.setUnit m k { u with stepAt := none } else d
    | none => d)

/-- The end of watch POST: DRAINING. -/
def execCaptureStop (unit : Nat) (s : State) : Host.Outcome State Fault Refusal :=
  run s (fun d => d.act (fun m => match d.unit m unit with
    | none => d
    | some u =>
      if u.state == .running && d.watchStart u.trigBeat + 200 * (u.post + 1) ≤ d.beat then
        d.setUnit m unit { u with state := .draining }
      else d))

/-- The status of a capture that ended on its own or by CAP_CANCEL (R345). -/
def Unit_.status (u : Unit_) : Status :=
  if u.cancelled then .capCancelled else if u.anyGap then .capGap else if u.clamp then .postClamp else .ok

/-- Every slot still held goes back, the record is written, and the unit is IDLE (R345). -/
def Dev.endCapture (d : Dev) (m : MastId) (unit : Nat) (st : Status) (inc : Bool) : Dev :=
  match d.unit m unit with
  | none => d
  | some u =>
    let d := d.each (List.range (u.slots.length - u.slotIx)) (fun _ d => match d.unit m unit with
      | some v => d.returnCap m unit v inc
      | none => d)
    let d := match u.owner.bind (fun o => d.findDesc m o.1 o.2) with
      | some x => d.completeAt m x st (if u.state == UState.armed then (d.fab m).epoch else u.trigEpoch) none false
      | none => d
    match d.unit m unit with
    | some v => d.setUnit m unit { v with state := .idle, owner := none, events := [], slots := [], at_ := none }
    | none => d

/-- The last kept watch is read. -/
def execCaptureDrainEnd (unit : Nat) (s : State) : Host.Outcome State Fault Refusal :=
  run s (fun d => d.act (fun m => match d.unit m unit with
    | none => d
    | some u =>
      if u.state == .draining && (u.post : Int) < u.kept? u.next then d.endCapture m unit u.status false else d))

/-- CAP_CANCEL (R346). -/
def execCapCancel (ring seq unit : Nat) (s : State) : Host.Outcome State Fault Refusal :=
  run s (fun d => d.start ring seq 0x52 (fun m x d => d.need m x 3 (fun d =>
    match d.unit m unit with
    | none => d.complete m x .badState
    | some u => match u.state with
      | .idle => d.complete m x .badState
      | .armed => (d.endCapture m unit .capCancelled false).complete m x .ok
      | .running =>
        let w := (d.beat - d.watchStart u.trigBeat) / 200
        (d.setUnit m unit { u with post := Nat.min u.post w, cancelled := true }).complete m x .ok
      | .draining => (d.endCapture m unit .capCancelled false).complete m x .ok)))

end Sys2Proof.Machine
end

