-- ==== Sys2Proof/Machine/Security.lean ====
section
/-! DEFINITION. Receipts, certificates, key programming and revocation (chapter 17). Signatures are
those of Machine/Ecdsa.lean. -/

namespace Sys2Proof.Machine

def Dev.onSec (d : Dev) (m : MastId) (f : List RcptJob → List RcptJob) : Dev := d.onMast m (fun x => { x with sec := f x.sec })

/-! ## Receipts (R443 to R447) -/

/-- A context's bucket refilled to now, in 2^-20 of a receipt (assumption 26). -/
def Ctx.refill (c : Ctx) (rate burst beat : Nat) : Ctx :=
  { c with tokens := Nat.min (c.tokens + rate * (beat - c.refillBeat) * 2 ^ 20 / 10000000) (burst * 2 ^ 20), refillBeat := beat }

/-- RECEIPT: epoch, slot, rate; then it waits to be signed. -/
def execReceipt (ring seq epoch : Nat) (slot : SlotOut) (nonce : BitVec 256) (s : State) : Host.Outcome State Fault Refusal :=
  run s (fun d => d.start ring seq 0x70 (fun m x d => d.need m x 5 (fun d =>
    let d := d.settleHold m x slot.ref slot.owner slot.err
    let f := d.fab m
    let e := if epoch == 2 ^ 64 - 1 then f.epoch else epoch
    if f.epoch < e || e + 1048575 < f.epoch || d.epochLost m e then d.complete m x .mapEpoch
    else d.slotOut m x slot (fun st d => d.complete m x st) (fun d =>
      if d.slotSize m (refWin slot.ref) < 624 then d.complete m x .slotRange
      else
        let now := d.beat
        let c := (d.ctx m x.ctx).map (fun c => c.refill (d.regF m 0x9008 0 8) (d.regF m 0x9008 8 8) now)
        match c with
        | some c =>
          if c.tokens < 2 ^ 20 || 17 ≤ (d.mast m).sec.length then
            ((d.setCtx m x.ctx (some c)).complete m x .receiptRate).count m 0x9010 32 16 1
          else (d.setCtx m x.ctx (some { c with tokens := c.tokens - 2 ^ 20 })).onSec m (fun l => l ++ [⟨ring, seq, e, nonce⟩])
        | none => d.complete m x .receiptRate))))

/-- The bytes that MAP_READ of an epoch writes, DEGRADED taken as 0 (R141, R444). -/
def Fab.mapBytes (f : Fab) (e : Nat) : List Byte :=
  let map := f.mapAt e
  (Payload.map f.ports (lowStamp ((f.strikeOf e).getD ⟨0, 0⟩)) ((List.range f.ports).map (fun p => match mapOut map p with
      | some q => q + 32768
      | none => 0))).bytes

/-- The last TAG of the sheaf that created an epoch. -/
def Fab.tagOf (f : Fab) (e : Nat) : Bits384 :=
  match f.journal.find? (fun j => j.epoch == e) with
  | some j => j.tag
  | none => 0

/-- Bytes 0 to 463 of a receipt (R445), which the signature covers. -/
def Dev.receiptBytes (d : Dev) (m : MastId) (k : Nat) (j : RcptJob) : List Byte :=
  let x := d.mast m
  let f := x.fab
  let t := (f.strikeOf j.epoch).getD ⟨0, 0⟩
  let crc := match f.topo with
    | some z => z.table.crc
    | none => 0
  let revoked := maskOf ((List.range 4).filter (fun i => match x.boot.otp[i]? with | some o => o.revoked | none => false))
  let bind := ((List.range 16).map (fun t => tget 0 x.kern.bound t * 16 ^ t)).sum
  layout [(4, 0x54525A46), (2, 1), (1, midx m + 2 * x.tim.state.code), (1, 0), (8, j.epoch), (6, t.sec), (2, 0), (4, t.ns),
    (2, f.ports), (2, k), (8, x.pen.epoch), (6, d.now.sec), (2, 0), (4, d.now.ns), (4, crc), (16, Config.serial.toNat),
    (32, j.nonce.toNat)] ++
    digestBytes (sha384 (f.mapBytes j.epoch)) ++ digestBytes x.boot.fwMeas ++
    layout [(4, x.boot.fwVersion), (4, x.boot.fwKey + 4 * revoked), (8, bind)] ++
    (List.range 4).flatMap (fun h => match tget none x.kern.handles (h + 1) with
      | some g => digestBytes g.meas
      | none => leBytes 48 0) ++
    leBytes 8 0 ++ leBytes 48 (f.tagOf j.epoch).toNat

/-- The identity key's signature (R441, R445); the per-message number is a fresh free value below n. -/
def Dev.sign (d : Dev) (msg : List Byte) (k : Nat × Nat → Dev → Dev) : Dev :=
  k (ecdsaSign Config.identityKey (Config.signNonce d.free % (ecN - 1) + 1) msg) { d with free := d.free + 1 }

/-- The receipt first in line is signed. -/
def execReceiptSigned (s : State) : Host.Outcome State Fault Refusal :=
  run s (fun d => d.act (fun m =>
    match (d.mast m).sec with
    | [] => d
    | j :: rest =>
      let d := d.onSec m (fun _ => rest)
      match d.findDesc m j.ring j.seq with
      | none => d
      | some x =>
        let body := d.receiptBytes m x.ctx j
        d.sign body (fun sig d =>
          let d := d.count m 0x9010 0 32 1
          let time := if j.epoch == 0 then none else (d.fab m).strikeOf j.epoch
          (d.writeOut m x (x.slots.headD 0) 0x70 560 j.epoch (.receipt body sig.1 sig.2)).completeAt m x .ok j.epoch time false)))

/-! ## Certificates (R442) -/

/-- The payload's length: COUNT, two lengths and the two certificates. -/
def certsLen : Nat := 12 + (Config.certDer 0).length + (Config.certDer 1).length

/-- IDENT_READ. -/
def execIdentRead (ring seq : Nat) (slot : SlotOut) (s : State) : Host.Outcome State Fault Refusal :=
  run s (fun d => d.start ring seq 0x71 (fun m x d =>
    d.slotOut m x slot (fun st d => d.complete m x st) (fun d =>
      if d.slotSize m (refWin slot.ref) < 64 + certsLen then d.complete m x .slotRange
      else (d.writeOut m x slot.ref 0x71 certsLen (d.fab m).epoch (.certs [Config.certDer 0, Config.certDer 1])).complete m x .ok)))

/-! ## Keys (R439, R440, R456) -/

/-- A key record written into the NOR key area under the A/B rule. -/
def Nor.putKey (n : Nor) (slot : Nat) (r : KeyRec) : Nor :=
  let put := fun (seq : Nat) (places : List Byte) =>
    some (keyCopy (seq % 2 ^ 32) (places.take (128 * slot) ++ keyPlace (some r) ++ places.drop (128 * slot + 128)))
  match n.newestKeys with
  | some (a, false) => { n with keyB := put (a.seq + 1) (a.bytes.drop 64) }
  | some (b, true) => { n with keyA := put (b.seq + 1) (b.bytes.drop 64) }
  | none => { n with keyA := put 0 (List.replicate 512 0xFF) }

/-- KEY_PROGRAM's burn on one mast: HASH, USE and PROG where the slot is blank, then the NOR record. -/
def Boot.program (b : Boot) (slot : Nat) (key : KeyRec) : Boot :=
  let otp := b.otp.zipIdx.map (fun e =>
    if e.2 == slot && !e.1.prog then ({ e.1 with hash := key.hash, prog := true, use := true } : OtpSlot) else e.1)
  { b with otp := otp, nor := b.nor.putKey slot key }

/-- KEY_REVOKE's burn on one mast: a slot with REVOKED set is usable no more (R434). -/
def Boot.revoke (b : Boot) (slot : Nat) : Boot :=
  { b with usable := b.usable.set slot false, otp := b.otp.zipIdx.map (fun e => if e.2 == slot then { e.1 with revoked := true } else e.1) }

/-- A burn on one mast. -/
def Boot.burn (b : Boot) (i : Burn) : Boot :=
  match i with
  | .program slot key => b.program slot key
  | .revoke slot => b.revoke slot

/-- The holder burns its OTP; the standby has the mirrored command and is yet to acknowledge its own burn (R439). -/
def Dev.burnKeys (d : Dev) (m : MastId) (x : Desc) (i : Burn) : Dev :=
  let wait := fun (y : Desc) => { y with burn := some i }
  ((d.onBoot m (fun b => b.burn i)).onDesc m x.ring x.ent.seq wait).onDesc (peerOf m) x.ring x.ent.seq wait

/-- The standby has burnt its own: the descriptor completes. -/
def Dev.burnt (d : Dev) (m : MastId) (x : Desc) (i : Burn) : Dev :=
  (d.onBoot (peerOf m) (fun b => b.burn i)).complete m x .ok

/-- What KEY_PROGRAM's table answers, `none` where it burns. -/
def Boot.programStatus (b : Boot) (target : Nat) (key : KeyRec) : Option Status :=
  match b.otp[target]? with
  | none => some .badState
  | some k =>
    if target < 2 || k.revoked then some .badState
    else if k.prog then (if k.hash == key.hash then none else some .keyRefused)
    else if onCurve key.x key.y then none else some .keyRefused

/-- KEY_PROGRAM; its payload is the record and the slot number. -/
def execKeyProgram (ring seq : Nat) (slot : SlotIn) (s : State) : Host.Outcome State Fault Refusal :=
  let key := keyRecOf slot.bytes
  let target := fieldAt slot.bytes 96 1
  run s (fun d => d.start ring seq 0x73 (fun m x d => d.need m x 9 (fun d =>
    let d := d.settleHold m x slot.ref slot.owner slot.err
    if !(d.mast m).pen.protect then d.complete m x .badState
    else d.slotIn m x slot (fun st d => d.complete m x st) (fun d =>
      let d := d.returnIn m x slot false
      if slot.kind != 0x73 || slot.len != 97 then d.complete m x .keyRefused
      else match (d.mast m).boot.programStatus target key with
        | some st => d.complete m x st
        | none => d.burnKeys m x (.program target key)))))

/-- What KEY_REVOKE's cases answer, `none` where it burns. A payload whose MAGIC or reserved bits are wrong is refused
(assumption 100). -/
def Dev.revokeStatus (d : Dev) (m : MastId) (p : RevokePay) : Option Status :=
  let b := (d.mast m).boot
  let usable := fun i => b.usable.getD i false
  match b.otp[p.target]?, b.otp[p.signer]? with
  | some k, some g =>
    if !p.magicOk || !usable p.signer || g.use != k.use || p.serial != Config.serial || !b.nor.sigOk p.signer p.msg p.r p.s then
      some .keyRefused
    else
      let others := (List.range 4).filter (fun i => i != p.target && usable i && b.slotUse i == some false)
      let inUse := (d.mast m).kern.handles.any (fun h => match h.2 with | some g => g.sig.keySlot == p.target | none => false)
      if !k.prog || k.revoked || (!k.use && usable p.target && others.isEmpty) || inUse then some .badState else none
  | _, _ => some .keyRefused

/-- KEY_REVOKE. -/
def execKeyRevoke (ring seq : Nat) (slot : SlotIn) (s : State) : Host.Outcome State Fault Refusal :=
  run s (fun d => d.start ring seq 0x72 (fun m x d => d.need m x 9 (fun d =>
    let d := d.settleHold m x slot.ref slot.owner slot.err
    if !(d.mast m).pen.protect then d.complete m x .badState
    else d.slotIn m x slot (fun st d => d.complete m x st) (fun d =>
      let d := d.returnIn m x slot false
      if slot.kind != 0x72 || slot.len != 128 || slot.bytes.length != 128 then d.complete m x .keyRefused
      else match d.revokeStatus m (revokePay slot.bytes) with
        | some st => d.complete m x st
        | none => d.burnKeys m x (.revoke (revokePay slot.bytes).target)))))

end Sys2Proof.Machine
end

