-- ==== Sys2Proof/Machine/Seed.lean ====
section
/-! DEFINITION. Saving the seed image (R295 to R299). -/

namespace Sys2Proof.Machine

/-- SEED_SAVE: CAL_BUSY while a save is in progress. -/
def execSeedSave (ring seq : Nat) (s : State) : Host.Outcome State Fault Refusal :=
  run s (fun d => d.start ring seq 0x42 (fun m x d => d.need m x 7 (fun d =>
    if (d.cal m).save.isSome then d.complete m x .calBusy
    else if d.calLost m (d.enabledTiles.map (· * laneCount)) then d.complete m x .memLost
    else d.onCal m (fun c => { c with save := some (ring, seq), saved := none }))))

/-- The surface of a tile's heaters: fitted by least squares over its OK cells (R298). Where those fix no single fit the spec states
none, and the coefficients are free. -/
def tileSurf (sq t : Nat) (x : Tile) : List Nat :=
  let ok := (List.range laneCount).filter (fun l => (x.cell l).cal.method != 0 && (x.cell l).cal.outcome == 0)
  match fitSurface (ok.map (fun l => (l, (x.cell l).cal.bias))) with
  | some s => s.map toF32
  | none => (List.range 6).map (fun i => (Config.seedSurface sq t i).toNat)

/-- A tile's trim block in force (R279). -/
def Tile.trimBytes (x : Tile) (t : Nat) : List Byte := x.trims.getD (trimBlock (Config.factoryTrims t))

/-- The image of the calibration in force (R295 to R298). -/
def Dev.image (d : Dev) (m : MastId) (sq : Nat) : SeedImage :=
  let ts := d.enabledTiles
  let head : SeedHead :=
    { tiles := maskOf ts, seq := sq
      topoCrc := match (d.fab m).topo with
        | some t => t.table.crc
        | none => 0
      partCode := d.part.code, calEpoch := (d.cal m).epoch, time := lowStamp d.now
      serial := (Config.serial.setWidth 64).toNat }
  seedBytes head (ts.flatMap (fun t => tileBytes t (d.tile t) ((d.tile t).trimBytes t) (tileSurf sq t (d.tile t))))
    (ts.flatMap (fun t => tileEscapes t (d.tile t) (tileSurf sq t (d.tile t))))

/-- The write begins on one mast: the erases come first. -/
def Nor.beginSave (n : Nor) (g : SeedImage) : Nor :=
  { n with job := some ⟨0, (g.len + 65535) / 65536, 1, (g.len + 255) / 256, n.saveSlot, g⟩ }

/-- Can the active mast reach the standby's NOR: over the gaff link, while the standby runs (R14)? -/
def Dev.peerUp (d : Dev) (m : MastId) : Bool :=
  let b := (d.mast (peerOf m)).boot
  (d.mast m).pen.gaff && b.running && b.refclk && b.stage != .reset && b.stage != .halted

/-- The snapshot at the first watch boundary after acceptance, and the saves on both masts. The sequence number is one above
the newest image's; with none held it is free. -/
def execSeedSnapshot (s : State) : Host.Outcome State Fault Refusal :=
  run s (fun d => d.act (fun m =>
    if (d.cal m).save.isNone || (d.cal m).saved.isSome || !d.watchEdge then d
    else
      let go := fun (sq : Nat) (d : Dev) =>
        let g := d.image m sq
        let ep := (d.cal m).epoch
        let d := (d.onBoot m (fun b => { b with nor := b.nor.beginSave g })).onCal m (fun c => { c with saved := some ep })
        if d.peerUp m then d.onBoot (peerOf m) (fun b => { b with nor := b.nor.beginSave g }) else d
      match (d.mast m).boot.nor.newest with
      | some g => go ((g.seq + 1) % 2 ^ 32) d
      | none => d.drawNat (fun n d => go (n % 2 ^ 32) d)))

/-- A 64 KiB sector erase ends on one mast; sectors are erased in ascending order. -/
def execNorEraseDone (m : MastId) (s : State) : Host.Outcome State Fault Refusal :=
  run s (fun d => d.onBoot m (fun b => match b.nor.job with
    | none => b
    | some j =>
      if j.sectors ≤ j.erased then b
      else { b with nor := { b.nor.onSlot j.slot (fun l => eraseSector l j.erased) with job := some { j with erased := j.erased + 1 } } }))

/-- A page of the write is programmed: ascending from the second, the header page last, with which the image is whole. -/
def Nor.program (n : Nor) (j : NorJob) : Nor :=
  let last := j.pages ≤ j.page
  let k := if last then 0 else j.page
  { n.onSlot j.slot (fun l => programPage l k j.img.bytes) with job := if last then none else some { j with page := j.page + 1 } }

/-- Does a NOR device hold the image? -/
def Nor.holds (n : Nor) (g : SeedImage) : Bool := [n.seedA, n.seedB].any (fun l => l.take g.len == g.bytes)

/-- Both copies are settled: SEED_SAVE completes, with SEED_PEER and source 208 where the standby's is not written or the standby
is down (R295). -/
def Dev.saveDone (d : Dev) (m : MastId) : Dev :=
  let n := (d.mast m).boot.nor
  match (d.cal m).save, (d.cal m).saved, n.job, n.newest with
  | some (r, q), some ep, none, some g =>
    let peer := (d.mast (peerOf m)).boot.nor
    if d.peerUp m && peer.job.isSome then d
    else
      let d := d.onCal m (fun c => { c with save := none, saved := none })
      let ok := d.peerUp m && peer.holds g
      let d := if ok then d else d.report m 208 1 0 (BitVec.ofNat 32 peer.saveSlot) none
      match d.findDesc m r q with
      | some x => d.completeAt m x (if ok then .ok else .seedPeer) ep none false
      | none => d
  | _, _, _, _ => d

/-- A page program ends on one mast. -/
def execNorPageProgramDone (m : MastId) (s : State) : Host.Outcome State Fault Refusal :=
  run s (fun d =>
    match (d.mast m).boot.nor.job with
    | none => d
    | some j =>
      if j.erased < j.sectors then d
      else (d.onBoot m (fun b => { b with nor := b.nor.program j })).act (fun h =>
        (d.onBoot m (fun b => { b with nor := b.nor.program j })).saveDone h))

end Sys2Proof.Machine
end

