-- ==== Sys2Proof/Machine/Pennant.lean ====
section
/-! DEFINITION. The lease, the mirror and the acceptance journal, taking the pennant (chapter 15, R138, R389). A frame or word
in transit is a mark in State of what was sent; the command of its arrival looks at the mark. -/

namespace Sys2Proof.Machine

def Dev.pen (d : Dev) (m : MastId) : Pen := (d.mast m).pen

/-- A mast's die and firmware run, so that it can be a standby. -/
def Dev.runs (d : Dev) (m : MastId) : Bool :=
  let b := (d.mast m).boot
  b.running && b.refclk && b.stage != .reset && b.stage != .halted

/-! ## The lease (R396 to R400) -/

/-- Renewals at every label whose nanoseconds are a multiple of 25,000, to every enabled tile. -/
def execRenewalSend (s : State) : Host.Outcome State Fault Refusal :=
  run s (fun d => d.act (fun m =>
    if d.now.ns % 25000 != 0 then d
    else
      let now := d.beat
      let none_ := (d.stagedTiles m).isEmpty
      (d.each d.enabledTiles (fun t d => (d.unlane m t (fun f => f.cls == 2)).command m t 2 [now + 1000] [])).onPen m (fun p =>
        { p with sent := some now, lastFull := if none_ then now else p.lastFull })))

/-- A tile takes the lease end of the last renewal sent: 100 µs after its sending. -/
def execRenewalFrame (tile : Nat) (s : State) : Host.Outcome State Fault Refusal :=
  run s (fun d => d.act (fun m =>
    match (d.pen m).sent with
    | none => d
    | some b =>
      if d.takes m tile && (d.tile tile).leaseRuns d.beat && !d.waiting m tile 2 [b + 1000] && (d.stay m tile).gone != some b then
        d.onTile tile (fun x => { x with link := { x.link with leaseEnd := b + 1000 } }) else d))

/-- The holder receives a tile's acknowledgement; the renewal that every unfenced tile has acknowledged counts for R400. -/
def execRenewalAck (tile : Nat) (s : State) : Host.Outcome State Fault Refusal :=
  run s (fun d => d.act (fun m =>
    match (d.pen m).sent with
    | none => d
    | some b =>
      if !d.takes m tile || (d.tile tile).link.leaseEnd != b + 1000 then d
      else if tget 0 (d.pen m).acks tile == b + 1000 then d
      else d.upGo m tile 2 (fun d =>
        let d := d.onPen m (fun p => { p with acks := tset 0 p.acks tile (b + 1000) })
        if (d.stagedTiles m).all (fun t => tget 0 (d.pen m).acks t == b + 1000) then d.onPen m (fun p => { p with lastFull := b })
        else d)))

/-- From the lease end on, a tile takes nothing of the old epoch: writes and codes that wait are dropped, and every output and
code in force is held. -/
def execLeaseEnd (tile : Nat) (s : State) : Host.Outcome State Fault Refusal :=
  run s (fun d =>
    let x := d.tile tile
    if !x.alive || !x.enabled || x.leaseRuns d.beat then d
    else d.onTile tile (fun x => ({ x with imm := [], parkW := none } : Tile).mapCells (fun c =>
      { c with htr := { c.htr with next := none } })))

/-- 90 µs after the last renewal that every enabled unfenced tile acknowledged, the holder stops by itself. -/
def execHolderSelfStop (s : State) : Host.Outcome State Fault Refusal :=
  run s (fun d => d.act (fun m =>
    if !(d.stagedTiles m).isEmpty && (d.pen m).lastFull + 900 ≤ d.beat then d.onPen m (fun p => { p with stopped := true }) else d))

/-- The mast that does not hold the pennant, while one does. -/
def Dev.standby (d : Dev) : Option MastId := d.holder.map peerOf

/-- The standby receives a tile's idle frame: its pennant epoch, the time left on its lease, and whether it has ended. -/
def execIdleFrame (tile : Nat) (s : State) : Host.Outcome State Fault Refusal :=
  run s (fun d => match d.standby with
    | none => d
    | some sb =>
      let x := d.tile tile
      if !d.runs sb || !x.alive || !x.enabled then d
      else
        let ended := !x.leaseRuns d.beat
        d.onPen sb (fun p =>
          let seen := p.seen.filter (· != tile)
          let gone := p.ended.filter (· != tile)
          { p with
            seen := if ended then seen else seen ++ [tile], ended := if ended then gone ++ [tile] else gone
            idle := tset (0, 0) p.idle tile (x.link.pen, x.link.leaseEnd - d.beat) }))

/-! ## The mirror and the journal (R22, R42, R385, R401, R403) -/

def Hif.onRing (h : Hif) (i : Nat) (f : Ring → Ring) : Hif :=
  match tget none h.rings i with
  | none => h
  | some r => { h with rings := tset none h.rings i (some (f r)) }

/-- A record known to be written or kept ends its descriptor. -/
def Hif.ended (h : Hif) (r : Record) : Hif :=
  let hit := fun (x : Desc) => x.sentAt.isNone && x.ring == r.cmdRing && x.ent.seq == r.seq
  match h.inflight.find? hit with
  | none => h
  | some x => ({ h with inflight := h.inflight.filter (fun y => !hit y) } : Hif).onRing x.cpl (fun q =>
      { q with reserved := q.reserved - 1 })

/-- A list without the first entry that meets a condition. -/
def dropFirst (p : BackRec → Bool) (l : List BackRec) : List BackRec := l.takeWhile (fun b => !p b) ++ (l.dropWhile (fun b => !p b)).drop 1

/-- What a journal entry tells of the holder's rings, records, backlog, loss marks and held list. -/
def Hif.replay (h : Hif) (e : JEnt) : Hif :=
  match e.ev with
  | .accept x =>
    let h := { h with inflight := h.inflight ++ [x] }
    (h.onRing x.ring (fun r => { r with next := (x.ent.seq + 1) % 2 ^ 32, miss := 0 })).onRing x.cpl (fun r =>
      { r with reserved := r.reserved + 1 })
  | .record i ix r q =>
    let h := (h.ended r).onRing i (fun q => { q with written := q.written + 1 })
    let kept := fun (b : BackRec) => b.cpl == i && b.r.cmdRing == r.cmdRing && b.r.seq == r.seq && b.r.opcode == r.opcode
    let h := if r.backlog then
        { h with backlog := dropFirst kept h.backlog, lossMarks := dropFirst kept h.lossMarks } else h
    { h with recent := h.recent ++ [(e.beat, i, ix, r, q)] }
  | .back b => { h.ended b.r with backlog := h.backlog ++ [b] }
  | .late b => { h with backlog := backAgain b h.backlog }
  | .held x => { h with held := h.held ++ [x] }
  | .loss b => { h with lossMarks := h.lossMarks.filter (fun c => c.r.cmdRing != b.r.cmdRing) ++ [b] }
  | .unheld w => { h with held := h.held.filter (fun x => x.win != w) }
  | .dropped => { h with backlog := [], lossMarks := [] }

/-- Fences of tile-side units, which are mirrored (R385). -/
def tileSide (f : Fence) : Bool := f.unit.kind == .cell || f.unit.kind == .lane || f.unit.kind == .converter

/-- What is mirrored of a core's memory and registers: the mirror words of the kernel that it runs (R212). -/
def Core.mirrored (c : Core) : Core :=
  let mine := fun (a : Nat) => 0x10000 ≤ a && a < 0x10000 + 384 * c.stateBytes && (a - 0x10000) % c.stateBytes < 4
  { coreReset with stateBytes := c.stateBytes, mem := c.mem.filter (fun e => mine e.1) }

/-- The mirror of the watch that ends: the sequencer's and the ring engine's state, the loop state, the mirror words. -/
def Dev.mirrorOf (d : Dev) (m : MastId) : Snap :=
  let x := d.mast m
  { beat := d.beat, jseq := x.pen.jseq, regs := x.regs, eff := x.eff, stage := x.boot.stage, status := x.boot.status
    busy := x.boot.busy, hif := x.hif, fab := x.fab
    cores := x.cores.foldr (fun e r => tset coreReset r e.1 e.2.mirrored) []
    mir := d.enabledTiles.map (fun t => (t, some (d.tile t).mirror)), kern := x.kern, cal := x.cal, tim := x.tim
    units := x.gln.units, streams := x.eg.streams, fences := x.flt.fences.filter tileSide, sec := x.sec, pwr := x.pwr }

/-- The standby's registers with the rw fields of the holder's mirrored writes. -/
def mirrorRegs (m : MastId) (own src : Tbl Reg64) : Tbl Reg64 :=
  ((own ++ src).map Prod.fst).foldl (fun t off => match regInfo off with
    | some info =>
      if !standbyTakes off then
        let z := regReset m off
        tset z t off ((tget z src off &&& info.rw) ||| (tget z own off &&& ~~~ info.rw))
      else t
    | none => t) own

/-- The standby's following of the timebase (R310): the holder's discipline, its own ports' findings. -/
def Tim.follow (own src : Tim) : Tim :=
  { own with
    state := src.state, steps := src.steps, rate := src.rate, hold := src.hold, offset := src.offset, run := src.run
    hist := src.hist, step := src.step, setSec := src.setSec, ppsAt := src.ppsAt, fresh := src.fresh, gmAt := src.gmAt }

/-- The standby takes a mirror, and replays the journal entries made after it. -/
def Mast.adopt (x : Mast) (sb : MastId) (s : Snap) (now : Nat) : Mast :=
  let later := x.pen.journal.filter (fun e => s.jseq ≤ e.seq)
  let early := x.boot.stage == .reset || x.boot.stage == .boot || x.boot.stage == .halted
  { x.takeKern s.kern with
    boot := { x.boot with stage := if early then x.boot.stage else s.stage, status := s.status, busy := s.busy }
    regs := mirrorRegs sb x.regs s.regs, eff := mirrorRegs sb x.eff s.eff
    hif := later.foldl Hif.replay { s.hif with running := false, polled := false }
    fab := s.fab, cores := s.cores, mir := s.mir, cal := s.cal, tim := x.tim.follow s.tim
    gln := { x.gln with units := s.units }, eg := { x.eg with streams := s.streams }
    flt := { x.flt with fences := x.flt.fences.filter (fun f => !tileSide f) ++ s.fences }
    sec := s.sec, pwr := s.pwr
    pen := { x.pen with
      journal := x.pen.journal.filter (fun e => s.jseq ≤ e.seq || s.beat ≤ e.beat + 100)
      mirrorBeat := some now, snapBeat := s.beat } }

/-- The first beat of the watch in progress. -/
def Dev.thisWatch (d : Dev) : Nat := d.beat - d.now.ns % 20000 / 100

/-! ## Deferred effects (R402) -/

/-- The mirrored tables of lasting effects: contexts and rings opened and closed, streams, a topology swap. -/
def Dev.mirrorTables (d : Dev) (m : MastId) : Dev :=
  let x := d.mast m
  if !(x.pen.gaff && d.runs (peerOf m)) then d
  else d.onMast (peerOf m) (fun y =>
    let rings := (((x.hif.rings ++ y.hif.rings).map Prod.fst).eraseDups).foldl (fun t i =>
      match tget none x.hif.rings i, tget none y.hif.rings i with
      | none, _ => tset none t i none
      | some r, none => tset none t i (some r)
      | some r, some q => if r.ent == q.ent then
          tset none t i (some { q with weight := r.weight, newShape := r.newShape, rate := r.rate, burst := r.burst })
        else tset none t i (some r)) y.hif.rings
    { y with hif := { y.hif with ctxs := x.hif.ctxs, rings := rings }, fab := { y.fab with swap := x.fab.swap }
             eg := { y.eg with streams := x.eg.streams } })

/-- The effect that a descriptor waited to have. -/
def Dev.lastingEffect (d : Dev) (m : MastId) (x : Desc) (i : Instr) : Dev :=
  match i with
  | .ctxOpen _ _ index ent => d.ctxOpenBody index ent m x
  | .ctxRebind _ _ index => d.ctxRebindBody index m x
  | .ctxClose _ _ index dbs => d.ctxCloseBody index dbs m x
  | .ctxCloseForce _ _ index => d.ctxCloseForceBody index m x
  | .ringReg _ _ index ent => d.ringRegBody index ent m x
  | .ringUnreg _ _ index force => d.ringUnregBody index force m x
  | .topoSwap _ _ slot => d.topoSwap slot m x
  | .kernelLoadDone _ _ => d.kernelStored m x
  | .kernelBind _ _ tile handle => d.kernelBind tile handle m x
  | .kernelDrop _ _ handle => d.kernelDrop handle m x
  | .streamOpen _ _ stream slot => d.streamOpenBody stream slot m x
  | .streamClose _ _ stream => d.streamCloseBody stream m x
  | .shapeSet _ _ kind index rate burst weight => d.shapeSetBody kind index rate burst weight m x
  | _ => d

/-- A deferred descriptor goes on: its effect, and its mirror. -/
def Dev.undefer (d : Dev) (m : MastId) (ring seq : Nat) : Dev :=
  match d.findDesc m ring seq with
  | none => d
  | some x => match x.defer with
    | none => match x.burn with
      | some i => d.burnt m x i
      | none => d
    | some i =>
      let d := d.onDesc m ring seq (fun y => { y with defer := none })
      (d.lastingEffect m { x with defer := none } i).mirrorTables m

/-- The standby's acknowledgement of a mirrored effect. -/
def execMirrorAcknowledgement (ring seq : Nat) (s : State) : Host.Outcome State Fault Refusal :=
  run s (fun d => d.act (fun m => if (d.pen m).gaff && d.runs (peerOf m) then d.undefer m ring seq else d))

/-- PROTECTED (R403): link trained, the standby READY in its mirror, holding a mirror of the watch before the last. While it
is 0 nothing waits for an acknowledgement (R402). -/
def Dev.judgeProtect (d : Dev) : Dev :=
  match d.holder with
  | none => d
  | some m =>
    let sb := peerOf m
    let fresh := match (d.pen sb).mirrorBeat with
      | some b => d.thisWatch ≤ b + 200
      | none => false
    let ok := (d.pen m).gaff && d.runs sb && (d.mast sb).boot.stage == .ready && fresh
    let d := (d.onPen m (fun p => { p with protect := ok })).onPen sb (fun p => { p with protect := ok })
    if ok then d
    else d.each ((d.hif m).inflight.filter (fun x => x.defer.isSome)) (fun x d => d.undefer m x.ring x.ent.seq)

/-- The mirror of a watch arrives at the standby. -/
def execGaffMirror (s : State) : Host.Outcome State Fault Refusal :=
  run s (fun d => match d.holder with
    | none => d
    | some m => match (d.pen m).mirrorOut with
      | none => d
      | some g =>
        let sb := peerOf m
        if !(d.pen m).gaff || !d.runs sb then d
        else
          let now := d.beat
          ((d.onPen m (fun p => { p with mirrorOut := none })).onMast sb (fun x => x.adopt sb g now)).judgeProtect)

/-- The next journal entry arrives. -/
def execJournalEntry (s : State) : Host.Outcome State Fault Refusal :=
  run s (fun d => match d.holder with
    | none => d
    | some m => match (d.pen m).toSend with
      | [] => d
      | e :: r =>
        let sb := peerOf m
        if !(d.pen m).gaff || !d.runs sb then d
        else (d.onPen m (fun p => { p with toSend := r })).onMast sb (fun x =>
          { x with hif := x.hif.replay e, pen := { x.pen with journal := x.pen.journal ++ [e] } }))

/-- A mast without the pennant restarts its firmware, takes a full mirror and rejoins. -/
def execStandbyRejoin (s : State) : Host.Outcome State Fault Refusal :=
  run s (fun d => match d.holder with
    | none => d
    | some m =>
      let sb := peerOf m
      if !(d.pen m).gaff || !d.runs sb || d.serving != some m then d
      else
        let g := d.mirrorOf m
        let now := d.beat
        let p := d.pen m
        let d := d.onMast sb (fun x => ({ x with pen := { x.pen with
          epoch := p.epoch, holderIdx := p.holderIdx, cause := p.cause, last := p.last, stopped := false, busy := none
          yielding := false, released := false, journal := [], toSend := [], mirrorOut := none, seen := [], ended := []
          claimAt := none } } : Mast).adopt sb g now)
        (d.onPen m (fun p => { p with toSend := [] })).judgeProtect)

/-! ## The gaff link (R378, R403, R413) -/

/-- The gaff link trains or returns: the holder sends its PEN_CTL. -/
def execGaffLinkTrained (s : State) : Host.Outcome State Fault Refusal :=
  run s (fun d =>
    if d.fore.pen.gaff || !d.runs .fore || !d.runs .main then d
    else
      let now := d.beat
      let up := fun (p : Pen) => { p with gaff := true, gaffUpAt := now }
      let d := (d.onPen .fore up).onPen .main up
      match d.holder with
      | some m =>
        let v := d.reg m 0xA000
        d.onPen m (fun p => { p with ctlSync := some v })
      | none => d)

/-- The link goes down, or the peer is HALTED: source 203 and PROTECTED 0. -/
def execGaffLinkDown (peerHalted : Bool) (s : State) : Host.Outcome State Fault Refusal :=
  run s (fun d =>
    if peerHalted then
      d.act (fun m => (((d.onBoot (peerOf m) (fun b => { b with stage := .halted })).report m 203 2 0 1 none).judgeProtect).saveDone m)
    else if !d.fore.pen.gaff then d
    else
      let now := d.beat
      let down := fun (p : Pen) => { p with gaff := false, gaffDownAt := now }
      let d := (d.onPen .fore down).onPen .main down
      let d := (d.each ([MastId.fore, MastId.main].filter d.runs) (fun m d => d.report m 203 2 0 0 none)).judgeProtect
      d.act (fun m => d.saveDone m))

/-- PEN_CTL: applied at once, and sent over the gaff link. -/
def execPenCtlWrite (w : RegWr) (s : State) : Host.Outcome State Fault Refusal :=
  run s (fun d => d.barWrite 0xA000 w (fun m info v d =>
    let r := plainWrite info (d.reg m 0xA000) v
    let d := d.setReg m 0xA000 r
    if (d.pen m).gaff then d.onPen m (fun p => { p with ctlSync := some r }) else d))

/-- The other mast applies the value received. -/
def execPenCtlSync (s : State) : Host.Outcome State Fault Refusal :=
  run s (fun d => d.each [MastId.fore, MastId.main] (fun m d => match (d.pen m).ctlSync with
    | none => d
    | some v =>
      let d := d.onPen m (fun p => { p with ctlSync := none })
      if (d.pen m).gaff && d.runs (peerOf m) then d.setReg (peerOf m) 0xA000 v else d))

/-! ## Claims (R399, R404, R406) -/

/-- Claim frames go to every enabled tile. -/
def Dev.claim (d : Dev) (sb : MastId) (cause : Nat) : Dev :=
  let now := d.beat
  let e := (d.pen sb).epoch + 1
  (d.each d.enabledTiles (fun t d => d.command sb t 2 [e, now + 1000] [])).onPen sb (fun p =>
    { p with claimAt := some now, claimCause := cause, accepted := [], arms := [] })

/-- Is the journal stale: was the link down at some instant of the watch before the lease ran out at `e`, and is the journal
not complete since (R406)? -/
def Dev.stale (d : Dev) (sb : MastId) (e : Nat) : Bool :=
  let p := d.pen sb
  let through := p.gaffUpAt + 200 ≤ e && (p.gaff || e ≤ p.gaffDownAt)
  !(0 < p.gaffUpAt && through) && !(p.gaff && (d.pen (peerOf sb)).toSend.isEmpty)

/-- Every tile that the standby reaches reports its lease ended, and it reaches one. -/
def execPennantClaim (s : State) : Host.Outcome State Fault Refusal :=
  run s (fun d => match d.standby with
    | none => d
    | some sb =>
      let p := d.pen sb
      let reach := d.enabledTiles.filter (fun t => p.seen.contains t || p.ended.contains t)
      if !d.runs sb || p.claimAt.isSome || reach.isEmpty || !reach.all p.ended.contains then d
      else
        let e := (reach.map (fun t => (d.tile t).link.leaseEnd)).foldl Nat.max 0
        if !d.stale sb e then d.claim sb 3
        else if d.regF sb 0xA000 1 1 == 1 then d.claim sb 4
        else d)

/-- The standby whose claim is in progress. -/
def Dev.claimant (d : Dev) : Option (MastId × Nat) :=
  match d.standby with
  | none => none
  | some sb => (d.pen sb).claimAt.map (fun b => (sb, b))

/-- A tile takes the claim's epoch and lease end: staged sheafs go, its arm records return. -/
def Tile.claimed (x : Tile) (epoch leaseEnd : Nat) : Tile :=
  { x with imm := [], parkW := none, link := { x.link with
      pen := epoch, leaseEnd := leaseEnd, released := false, staged := [], armed := none, ack := none
      arms := x.link.arms.map (fun a => if a.state == 0 then { a with state := 2 } else a) } }

/-- A claim frame: accepted once the lease ran out or a release came, else refused and counted. -/
def execClaimFrame (tile : Nat) (s : State) : Host.Outcome State Fault Refusal :=
  run s (fun d => match d.claimant with
    | none => d
    | some (sb, b) =>
      let x := d.tile tile
      let ep := (d.pen sb).epoch + 1
      if !x.alive || !x.enabled || (d.pen sb).accepted.contains tile || d.waiting sb tile 2 [ep, b + 1000] ||
        (d.stay sb tile).gone == some b then d
      else if x.link.pen < ep && (!x.leaseRuns d.beat || x.link.released) then
        d.upGo sb tile 2 (fun d =>
          let y := x.claimed ep (b + 1000)
          (d.setTile tile y).onPen sb (fun p =>
            { p with accepted := p.accepted ++ [tile], arms := p.arms ++ y.link.arms.map (fun a => (tile, a))
                     acks := tset 0 p.acks tile (b + 1000) }))
      else d.count sb 0xA010 32 16 1)

/-- A tile not reached within 10 µs of the claim is fenced as TILE on the new holder's stay. -/
def execClaimReachTimeout (tile : Nat) (s : State) : Host.Outcome State Fault Refusal :=
  run s (fun d => match d.claimant with
    | none => d
    | some (sb, b) =>
      if (d.tile tile).enabled && b + 100 ≤ d.beat && !(d.pen sb).accepted.contains tile then d.fence sb ⟨.tile, tile⟩ tile
      else d)

/-! ## Settlement (R138, R405, R406) -/

/-- Does the journal show a record of a descriptor? -/
def Dev.recorded (d : Dev) (sb : MastId) (ring seq : Nat) : Bool :=
  (d.pen sb).journal.any (fun e => match e.ev with
    | .record _ _ r _ => r.cmdRing == ring && r.seq == seq
    | .back b => b.r.cmdRing == ring && b.r.seq == seq
    | _ => false)

/-- Ring, sequence, SHEAF_ID and opcode of the descriptor an arm record names; none for a heal strike. -/
def armDesc (a : Arm) : Option (Nat × Nat × Nat × Nat) :=
  match a.key with
  | .sheaf r i => some (r, a.seq, i, 0x11)
  | .swap r q => some (r, q, 0, 0x32)
  | .heal => none

/-- The record of a sheaf settled from arm records: its descriptor's, or one built from the arm record. -/
def Dev.armRecord (d : Dev) (sb : MastId) (a : Arm) (st : Status) (ep : Nat) (tm : Option Stamp) : Dev :=
  match armDesc a with
  | none => d
  | some (r, q, i, op) => match d.findDesc sb r q with
    | some x => d.completeAt sb x st ep tm true
    | none =>
      if d.recorded sb r q then d
      else match d.ring sb r with
        | none => d
        | some g => d.deliver sb g.ent.cplTarget a.ctx
            { opcode := op, phase := false, backlog := false, timeValid := tm.isSome, status := st, tag := a.tag, seq := q
              cmdRing := r, sheafId := i, epoch := ep, time := lowStamp (tm.getD ⟨0, 0⟩) } false false

/-- The SET_LOOP actions of a late strike join the mirrored parameters (R193); PERIOD is the tile's own. -/
def Dev.mirrorLoops (d : Dev) (sb : MastId) (y : Sheaf) : Dev :=
  d.onMast sb (fun x => { x with mir := x.mir.map (fun e => (e.1, e.2.map (fun g => { g with
    pend := g.pend ++ (tget [] y.work.changes e.1).filterMap (fun c => match c with
      | .loop l k v => if k == 1 then none else some (if l < laneCount then some l else none, k, v)
      | _ => none) }))) })

/-- A strike that the mirror does not hold yet: as the mirrored sheaf says, or with a free map where its solve is not held; the
cells it changed on the tiles `short` that did not apply it are then free too (assumption 105). -/
def Dev.lateStrike (d : Dev) (sb : MastId) (a : Arm) (short : List Nat) : Dev :=
  let f := { d.fab sb with epoch := a.epoch - 1 }
  match f.sheafs.find? (fun y => y.key == a.key && y.work.solved && y.work.tsid == a.tsid) with
  | some y => (d.onFab sb (fun _ => f.strike y a.strike a.strikeBeat)).mirrorLoops sb y
  | none =>
    let n := f.ports
    let map := freeMap n d.free
    let lost := fun (t : Nat) => (List.range laneCount).filterMap (fun l =>
      if Config.freeBool (d.free + 2 * n + t * laneCount + l) then some (Change.drive l .clearW) else none)
    let gone := mapDiff f.map map
    let come := mapDiff map f.map
    let g := { f with
      epoch := a.epoch, strikeTime := some a.strike, lastStrike := some a.strikeBeat, map := map
      portEpoch := ((gone ++ come).flatMap (fun c : Nat × Nat => [c.1, c.2])).foldl (fun t p => tset 0 t p a.epoch) f.portEpoch
      lastTsid := some (a.tsid, a.strikeBeat), lastChanges := short.foldl (fun l t => tset [] l t (lost t)) []
      missed := [], repaired := false
      sheafs := f.sheafs.filter (fun y => y.key != a.key), order := f.order.filter (· != a.key) }
    { d.onFab sb (fun _ => g.note ⟨a.epoch, a.strike, a.strikeBeat, gone, come, 0⟩) with
      free := d.free + 2 * n + 16 * laneCount }

/-- One epoch found applied in the arm records: it stands; tiles of its mask that did not apply it are treated as in R135. -/
def Dev.settleEpoch (d : Dev) (sb : MastId) (e : Nat) : Dev :=
  let hits := (d.pen sb).arms.filter (fun r => r.2.state == 1 && r.2.epoch == e)
  match hits with
  | [] => d
  | (_, a) :: _ =>
    let short := (bitsOf a.mask 16).filter (fun t => !hits.any (fun r => r.1 == t))
    let d := d.lateStrike sb a short
    let d := if a.key == .heal then d.healStruck sb e a.strike else d
    let d := d.each short (fun t d => d.missedTwice sb t a.tsid)
    d.armRecord sb a .ok e (some a.strike)

/-- Every sheaf settled: epochs applied, in order; then every other sheaf aborts, but a heal strike begins anew. -/
def Dev.settle (d : Dev) (sb : MastId) (stale : Bool) : Dev :=
  let e0 := (d.fab sb).epoch
  let top := ((d.pen sb).arms.filter (fun r => r.2.state == 1)).foldl (fun n r => Nat.max n r.2.epoch) e0
  let d := d.each ((List.range (top - e0)).map (e0 + 1 + ·)) (fun e d => d.settleEpoch sb e)
  if stale then d.onFab sb (fun f => { f with sheafs := [], order := f.order.filter (· == .heal) })
  else
    let known := (d.fab sb).sheafs.map Sheaf.key
    let arms := (d.pen sb).arms.map Prod.snd
    let struck := fun (a : Arm) => arms.any (fun b => b.state == 1 && b.tsid == a.tsid && b.epoch == a.epoch)
    let lost := arms.foldl (fun (l : List Arm) a =>
      if struck a || a.armedAt < (d.pen sb).snapBeat || known.contains a.key || l.any (fun b => b.key == a.key && b.seq == a.seq)
      then l else l ++ [a]) []
    let ep := (d.fab sb).epoch
    let d := d.each lost (fun a d => d.armRecord sb a .mastChange ep none)
    let d := d.abortWhere sb (fun y => y.key != .heal) .mastChange
    match d.findSheaf sb .heal with
    | some y => d.undo sb y
    | none => d

/-- The opcodes of R402. -/
def lastingOp (op : Nat) : Bool := [0x01, 0x02, 0x03, 0x04, 0x05, 0x30, 0x80, 0x81, 0x82, 0x60, 0x61, 0x62].contains op

/-- The rest of an acknowledged lasting effect: contexts and rings that were draining close. -/
def Dev.finishLasting (d : Dev) (sb : MastId) (x : Desc) : Dev :=
  let d := match x.wait with
    | .drainCtx k true => match d.ctx sb k with
      | some c => d.setCtx sb k (some { c with fetchStop := false })
      | none => d
    | .drainCtx k false =>
      (d.each (d.ringsOf sb k) (fun i d => d.setRing sb i none)).setCtx sb k none
    | .drainRing i => d.setRing sb i none
    | .none => d
  d.complete sb x .ok

/-- Slots returned with INCOMPLETE set. -/
def Dev.giveBack (d : Dev) (m : MastId) (x : Desc) : Dev :=
  d.each x.slots (fun r d => d.giveSlot m x r 0 0 0 false false true (.unchanged 0))

/-- One descriptor that the journal shows accepted and without a record. -/
def Dev.reconcile (d : Dev) (sb : MastId) (x : Desc) : Dev :=
  let unit := (List.range 4).find? (fun k => match d.unit sb k with
    | some u => u.owner == some (x.ring, x.ent.seq)
    | none => false)
  let queued := (d.mast sb).cal.queue.any (fun r => match r.src with
    | .desc a b => a == x.ring && b == x.ent.seq
    | _ => false)
  match unit with
  | some k =>
    match (d.unit sb k).map Unit_.state with
    | some UState.armed => d
    | _ => d.endCapture sb k .mastChange true
  | none =>
    if queued then d
    else if x.burn.isSome then
      (d.onBoot sb (fun b => match x.burn with
        | some i => b.burn i
        | none => b)).complete sb x .ok
    else if lastingOp x.ent.opcode && x.started && x.defer.isNone then d.finishLasting sb x
    else ((d.giveBack sb x).dropJobs sb x.ring x.ent.seq).complete sb x .mastChange

/-- The running Thresh pass ends, its cells and lenders written back (R292). -/
def Dev.endPass (d : Dev) (sb : MastId) : Dev :=
  match (d.mast sb).cal.pass with
  | none => d
  | some _ => (d.writeBack sb (d.swept sb)).onCal sb (fun c => { c with pass := none, lastStatus := .mastChange, save := none })

/-- Loops under a new holder: windows restart, and each tile's loops are loaded at its next loop-period boundary (R189, R190). A
tile's loops that are not closed have nothing to load. -/
def Dev.startLoops (d : Dev) : Dev :=
  d.onTiles d.enabledTiles (fun _ x => ({ x with loopDue := true } : Tile).mapCells (fun c =>
    { c with lp := { c.lp with win := [], restart := true, first := true } }))

/-- Streams reopen with fresh queues, sequence numbers from 0 (R361); those that were closing are gone. -/
def Dev.reopenStreams (d : Dev) (sb : MastId) : Dev :=
  let from_ := d.nextWatch
  let now := d.now
  let beat := d.beat
  let ep := (d.fab sb).epoch
  d.onEg sb (fun e => { e with streams := e.streams.filterMap (fun s => match s.2 with
    | none => none
    | some y =>
      if y.closing.isSome then none
      else
        let z : Stream := { Stream.fresh y.defn y.owner from_ (tget 0 e.V y.defn.port) beat with
          weight := y.weight, rate := y.rate, burst := y.burst, newShape := y.newShape, tokens := y.burst * 2 ^ 20 }
        some (s.1, some (if y.defn.ipfix then z.addTemplate (d.regF sb 0x6080 0 32) beat now ep else z))) })

/-- Tests of the old holder end; the new holder tests every mirrored tile-side unit fenced and not LASTING (R389). -/
def Dev.freshTests (d : Dev) (sb : MastId) : Dev :=
  let clear := fun (f : Flt) => { f with queue := [], running := [] }
  let d := (d.onFlt sb clear).onFlt (peerOf sb) clear
  d.onFlt sb (fun f => { f with queue := ((f.fences.filter (fun x => tileSide x && !x.lasting)).map Fence.unit).take 64 })

/-- Records that the journal shows written in the last 10 µs of its entries, written again as they were. -/
def Dev.rewrite (d : Dev) (sb : MastId) : Dev :=
  let j := (d.pen sb).journal
  let last := j.foldl (fun n e => Nat.max n e.beat) 0
  d.each j (fun e d => match e.ev with
    | .record i ix r _ => match d.ring sb i with
      | some g => if last ≤ e.beat + 100 then d.emit (.record sb i ix (g.ent.cplAddr ix) r) else d
      | none => d
    | _ => d)

/-- A stale claim: one MAST_CHANGE record for each command ring, which then stands until CTX_REBIND. -/
def Dev.staleRings (d : Dev) (sb : MastId) : Dev :=
  let d := d.onHif sb (fun h => { h with inflight := [] })
  let d := d.each ((d.hif sb).rings.map Prod.fst) (fun i d => match d.ring sb i with
    | none => d
    | some r =>
      if !r.hasCmd then d
      else (d.deliver sb r.ent.cplTarget r.ent.ctx
        { opcode := 0, phase := false, backlog := false, timeValid := false, status := .mastChange, tag := 0, seq := r.next
          cmdRing := i, sheafId := 0, epoch := (d.fab sb).epoch, time := ⟨0, 0⟩ } false false).onRing sb i (fun r =>
            { r with stalled := true }))
  d.flag sb 0xA010 4

/-- What every change of mast leaves in the PEN_ blocks: the new holder's, and the old one's where the gaff link tells it. -/
def Dev.newHolder (d : Dev) (sb : MastId) (b cause : Nat) : Dev :=
  let old := peerOf sb
  let now := d.now
  let ep := (d.pen sb).epoch + 1
  let keep := cause == 1 || cause == 2
  let g := (d.pen sb).gaff
  let clear := fun (x : Mast) => { x with
    stays := tmap (fun s : Stay => { s with down := { s.down with wait := [], again := [] }, gone := none }) stayReset x.stays }
  let d := (d.onMast sb clear).onMast old clear
  let d := d.onPen sb (fun p => { p with
    holder := true, epoch := ep, holderIdx := midx sb, cause := cause, last := now, claimAt := none, lastFull := b
    sent := some b, stopped := false, busy := none, yielding := false, released := false, journal := [], toSend := []
    arms := [], accepted := [], seen := [], ended := [], mirrorOut := none, announce := true, due := true })
  let d := d.onPen old (fun p =>
    let p := { p with holder := false, stopped := !keep, busy := none, due := false, yielding := false, released := false, toSend := []
                      journal := [], mirrorOut := none, seen := [], ended := [], mirrorBeat := none, protect := false }
    if g then { p with epoch := ep, holderIdx := midx sb, cause := cause, last := now } else p)
  let d := (d.count sb 0xA010 16 16 1).when g (fun d => d.count old 0xA010 16 16 1)
  if keep then
    let m := d.mirrorOf sb
    let at_ := d.beat
    (d.onMast old (fun x => x.adopt old m at_)).judgeProtect
  else d.judgeProtect

/-- With every enabled tile's arm records read or the tile fenced, the new holder settles and takes over. -/
def execPennantSettlement (s : State) : Host.Outcome State Fault Refusal :=
  run s (fun d => match d.claimant with
    | none => d
    | some (sb, b) =>
      let p := d.pen sb
      if p.accepted.isEmpty || !d.enabledTiles.all (fun t => p.accepted.contains t || d.isFenced sb ⟨.tile, t⟩) then d
      else
        let cause := p.claimCause
        let stale := cause == 4
        let d := (d.endPass sb).settle sb stale
        let d := if stale then d.staleRings sb
          else
            let left := ((d.hif sb).inflight.filter (fun x => x.sentAt.isNone))
            (d.rewrite sb).each left (fun x d => d.reconcile sb x)
        let d := ((d.startLoops).reopenStreams sb).freshTests sb
        let d := d.onTiles d.enabledTiles (fun _ x => { x with temps := [] })
        let d := d.onBoot sb (fun x => if x.busy.isSome then
          { x with busy := none, status := .mastChange, stage := if x.stage == .arming then .seeded else x.stage } else x)
        let d := d.onGln sb (fun g => { g with recording := false, frames := [], build := none, startAt := none })
        let ready := (d.mast sb).boot.stage == .ready && d.hifEn sb
        let now := d.beat
        let d := d.onHif sb (fun h => { h with
          running := ready, polled := false, firstPoll := true, pollAt := now
          rings := h.rings.map (fun e => (e.1, e.2.map (fun r => { r with granted := 0 }))) })
        let d := d.newHolder sb b cause
        let d := d.report sb 204 1 0 (BitVec.ofNat 32 cause) none
        if d.regF sb 0xA000 2 1 == 1 then d.msix sb 1 else d)

/-! ## Voluntary handover (R410 to R412) -/

/-- PEN_CMD.HANDOVER. -/
def execHandover (w : RegWr) (s : State) : Host.Outcome State Fault Refusal :=
  run s (fun d => d.barWrite 0xA008 w (fun m _ v d =>
    if fld v 0 1 == 0 then d
    else if d.holder != some m || !(d.pen m).protect || (d.pen m).busy.isSome || (d.mast m).boot.stage != .ready then
      d.flag m 0xA010 3
    else
      let now := d.beat
      d.onPen m (fun p => { p with busy := some 1, busyAt := now })))

/-- H, the first watch boundary after the handover was started: fetching and decisions stop. -/
def execHandoverBegin (s : State) : Host.Outcome State Fault Refusal :=
  run s (fun d => d.act (fun m =>
    if d.watchEdge && (d.pen m).busy.isSome && (d.pen m).busyAt < d.beat && !(d.pen m).yielding then
      let now := d.beat
      (d.onPen m (fun p => { p with yielding := true, hAt := now })).onHif m (fun h => { h with running := false })
    else d))

/-- H + 20 µs: release frames and the handover word leave, and the holder stops. -/
def execHandoverRelease (s : State) : Host.Outcome State Fault Refusal :=
  run s (fun d => d.act (fun m =>
    if (d.pen m).yielding && (d.pen m).hAt + 200 ≤ d.beat then
      let e := (d.pen m).epoch
      (d.each d.enabledTiles (fun t d => d.command m t 2 [e] [])).onPen m (fun p =>
        { p with released := true, stopped := true })
    else d))

/-- A tile receives a release frame for its current epoch. -/
def execReleaseFrame (tile : Nat) (s : State) : Host.Outcome State Fault Refusal :=
  run s (fun d => match d.holder with
    | none => d
    | some m =>
      if (d.pen m).released && !d.waiting m tile 2 [(d.pen m).epoch] && (d.tile tile).alive && (d.tile tile).link.pen == (d.pen m).epoch then
        d.onTile tile (fun x => { x with link := { x.link with released := true } })
      else d)

/-- The standby receives the handover word and claims at once. -/
def execHandoverWord (s : State) : Host.Outcome State Fault Refusal :=
  run s (fun d => match d.holder with
    | none => d
    | some m =>
      let sb := peerOf m
      if (d.pen m).released && (d.pen m).gaff && d.runs sb && (d.pen sb).claimAt.isNone then
        d.claim sb ((d.pen m).busy.getD 1)
      else d)

end Sys2Proof.Machine
end

