-- ==== Sys2Proof/Machine/Memory.lean ====
section
/-! DEFINITION. SRAM, HBM, the CRC units, the Yard, REFCLK (chapter 18, R482). -/

namespace Sys2Proof.Machine

def Dev.onMem (d : Dev) (m : MastId) (f : Mem → Mem) : Dev := d.onMast m (fun x => { x with mem := f x.mem })

/-! ## SRAM and HBM (R449 to R453) -/

/-- A corrected SRAM error: counted, source 197. -/
def Dev.sramCorrected (d : Dev) (m : MastId) (bank : Nat) : Dev :=
  (d.count m 0xB028 32 16 1).report m 197 0 bank (BitVec.ofNat 32 bank) none

/-- A corrected HBM error: counted, source 164 + channel, detail the address bits [37:6]. -/
def Dev.hbmCorrected (d : Dev) (m : MastId) (channel : Nat) (addr : BitVec 38) : Dev :=
  (d.count m 0xB028 0 32 1).report m (164 + channel) 0 channel (addr.extractLsb' 6 32) none

/-- The Thresh pass that a descriptor started ends (R292). -/
def Dev.endPassOf (d : Dev) (m : MastId) (src : PassFrom) : Dev :=
  match (d.mast m).cal.pass with
  | some p => if p.req.src == src then (d.endPass m).onCal m (fun c => { c with lastStatus := .memLost }) else d
  | none => d

/-- A descriptor whose operation needed lost data ends with MEM_LOST (R451, R466). -/
def Dev.endLost (d : Dev) (m : MastId) (x : Desc) : Dev :=
  match (List.range 4).find? (fun k => match d.unit m k with
    | some u => u.owner == some (x.ring, x.ent.seq)
    | none => false) with
  | some k => d.endCapture m k .memLost true
  | none =>
    let src := PassFrom.desc x.ring x.ent.seq
    let d := (d.endPassOf m src).onCal m (fun c => { c with queue := c.queue.filter (fun r => r.src != src) })
    (d.dropJobs m x.ring x.ent.seq).complete m x .memLost

/-- The operation of a descriptor ends for want of an SRAM word: its sheaf, before the strike is decided, or the descriptor
itself while it has no record. -/
def Dev.loseOp (d : Dev) (m : MastId) (ring seq : Nat) : Dev :=
  match (d.fab m).sheafs.find? (fun y => y.owner == some (ring, seq)) with
  | some y => if y.decided then d else d.abortSheaf m y.key .memLost
  | none => match d.findDesc m ring seq with
    | some x => if x.sentAt.isSome then d else d.endLost m x
    | none => d

/-- A read finds an SRAM error. An uncorrectable one fences the bank and leaves the word poisoned until it is written; a read of
a poisoned word is counted. Either ends the operation that needed the word on the serving mast. `need` is its descriptor, `written`
the bank's words written since the last such read (assumption 113). -/
def execSramEccError (m : MastId) (bank word : Nat) (found : SramFound) (need : Option (Nat × Nat)) (written : List Nat) (s : State) :
    Host.Outcome State Fault Refusal :=
  run s (fun d =>
    if 64 ≤ bank || 131072 ≤ word then d
    else
      let d := d.onMem m (fun x => { x with poison := x.poison.filter (fun w => !(w.1 == bank && written.contains w.2)) })
      let ends := fun (d : Dev) => match need with
        | some o => if d.holder == some m then d.loseOp m o.1 o.2 else d
        | none => d
      match found with
      | .corrected => d.sramCorrected m bank
      | .uncorrectable =>
        let d := d.onMem m (fun x => { x with poison := if x.poison.contains (bank, word) then x.poison else x.poison ++ [(bank, word)] })
        ends (d.report m 196 3 bank (BitVec.ofNat 32 bank) (some ⟨.sram, bank⟩))
      | .poisoned => if (d.mast m).mem.poison.contains (bank, word) then ends (d.count m 0xB028 48 16 1) else d)

/-- The copy into the spare, or back, finishes; a bank restored is served by itself again. -/
def execSramBankCopyDone (m : MastId) (s : State) : Host.Outcome State Fault Refusal :=
  run s (fun d => d.onMem m (fun x =>
    if x.copying.isNone then x
    else if x.restoring then { x with spareFor := none, copying := none, restoring := false }
    else { x with copying := none }))

/-- A transfer finds an HBM error; an uncorrectable one fences the channel. -/
def execHbmEccError (m : MastId) (channel : Nat) (addr : BitVec 38) (uncorrectable : Bool) (s : State) :
    Host.Outcome State Fault Refusal :=
  run s (fun d =>
    if 32 ≤ channel then d
    else if uncorrectable then d.report m (164 + channel) 2 channel (addr.extractLsb' 6 32) (some ⟨.hbm, channel⟩)
    else d.hbmCorrected m channel addr)

/-- The rebuild ends: both copies hold what the device holds. -/
def execHbmRebuildDone (m : MastId) (s : State) : Host.Outcome State Fault Refusal :=
  run s (fun d => d.onMem m (fun x => if x.rebuild then { x with nearOk := true, farOk := true, rebuild := false } else x))

/-- The scrub of R452: every word it corrects is a corrected error. -/
def execMemoryScrub (m : MastId) (hbm : List (Nat × BitVec 38)) (sram : List Nat) (s : State) :
    Host.Outcome State Fault Refusal :=
  run s (fun d =>
    let d := d.each (hbm.filter (fun e => e.1 < 32)) (fun e d => d.hbmCorrected m e.1 e.2)
    d.each (sram.filter (· < 64)) (fun b d => d.sramCorrected m b))

/-! ## The Yard (R463 to R465) -/

/-- A request to an address no target decodes. -/
def execDefaultTargetAccess (m : MastId) (master : Nat) (write : Bool) (addr : BitVec 38) (s : State) :
    Host.Outcome State Fault Refusal :=
  run s (fun d =>
    let d := (d.emit (.yardError m master write)).report m 202 2 0 (addr.setWidth 32) none
    let d := d.count m 0xB010 16 16 1
    if d.regF m 0xB010 5 1 == 1 then d
    else (((d.setReg m 0xB008 (addr.setWidth 64)).setRegF m 0xB010 0 4 master).setRegF m 0xB010 4 1 (b2n write)).setRegF m
      0xB010 5 1 1)

/-- YRD_ERR_CLR. -/
def execYrdErrClr (w : RegWr) (s : State) : Host.Outcome State Fault Refusal :=
  run s (fun d => d.barWrite 0xB018 w (fun m _ v d =>
    if fld v 0 1 == 1 then (d.setReg m 0xB008 0).setRegF m 0xB010 0 6 0 else d))

/-- The core clock crosses 1.0 GHz while no request is held: register slices are used above it. -/
def execYardBypassSwitch (m : MastId) (fast : Bool) (s : State) : Host.Outcome State Fault Refusal :=
  run s (fun d => d.onMem m (fun x => { x with bypass := !fast }))

/-! ## CRC-32C (R457 to R459) -/

def Dev.crcState (d : Dev) (m : MastId) : Word := (d.mast m).mem.crc

def Dev.feed (d : Dev) (m : MastId) (l : List Byte) : Dev := d.onMem m (fun x => { x with crc := l.foldl crcByte x.crc })

/-- INIT. -/
def execInit (m : MastId) (s : State) : Host.Outcome State Fault Refusal :=
  run s (fun d => d.onMem m (fun x => { x with crc := 0xFFFFFFFF }))

/-- FEED.B. -/
def execFeedB (m : MastId) (v : BitVec 8) (s : State) : Host.Outcome State Fault Refusal := run s (fun d => d.feed m [v])

/-- FEED.H. -/
def execFeedH (m : MastId) (v : BitVec 16) (s : State) : Host.Outcome State Fault Refusal :=
  run s (fun d => d.feed m [v.extractLsb' 0 8, v.extractLsb' 8 8])

/-- FEED.W. -/
def execFeedW (m : MastId) (v : BitVec 32) (s : State) : Host.Outcome State Fault Refusal :=
  run s (fun d => d.feed m [v.extractLsb' 0 8, v.extractLsb' 8 8, v.extractLsb' 16 8, v.extractLsb' 24 8])

/-- RESULT: the state is unchanged. -/
def execResult (m : MastId) (s : State) : Host.Outcome State Fault Refusal :=
  run s (fun d => d.emit (.crc m (d.crcState m ^^^ 0xFFFFFFFF)))

/-- Does a request go before another: higher QoS, then older, then the lower master index (R459, R462)? -/
def ScanReq.before (a b : ScanReq) : Bool :=
  b.qos < a.qos || (a.qos == b.qos && (a.at_ < b.at_ || (a.at_ == b.at_ && a.master < b.master)))

/-- The request to run next. -/
def nextScan : List ScanReq → Option ScanReq
  | [] => none
  | a :: r => match nextScan r with
    | none => some a
    | some b => if b.before a then some b else some a

/-- The scan engine, idle, starts its next request. -/
def execCrcScanStart (m : MastId) (s : State) : Host.Outcome State Fault Refusal :=
  run s (fun d => d.onMem m (fun x =>
    if x.scan.isSome then x
    else match nextScan x.scans with
      | none => x
      | some r => { x with scan := some r, scans := x.scans.erase r }))

/-- The scan finishes over the bytes it read. -/
def execCrcScanDone (m : MastId) (bytes : List Byte) (s : State) : Host.Outcome State Fault Refusal :=
  run s (fun d => match (d.mast m).mem.scan with
    | none => d
    | some r =>
      if bytes.length != r.len then d
      else (d.onMem m (fun x => { x with scan := none })).emit (.crc m (crc32c bytes)))

/-! ## REFCLK (R482) -/

/-- REFCLK is absent for more than 1 µs: the mast stops. -/
def execRefclkLoss (m : MastId) (s : State) : Host.Outcome State Fault Refusal :=
  run s (fun d => d.onBoot m (fun b => { b with refclk := false }))

/-- REFCLK returns: the mast restarts; one that held the pennant holds it no more by itself and rejoins under R403. -/
def execRefclkReturn (m : MastId) (s : State) : Host.Outcome State Fault Refusal :=
  run s (fun d =>
    if (d.mast m).boot.refclk then d
    else (d.onBoot m (fun b => { b with refclk := true })).onPen m (fun p => { p with stopped := p.holder }))

end Sys2Proof.Machine
end

