-- ==== Sys2Proof/Machine/Power.lean ====
section
/-! DEFINITION. Power domains, the heater rail, reefing, junction temperature, PMBus (chapter 16, R278, R485). -/

namespace Sys2Proof.Machine

def Dev.onPwr (d : Dev) (m : MastId) (f : Pwr → Pwr) : Dev := d.onMast m (fun x => { x with pwr := f x.pwr })

/-- FAULT_N is high: no PEND bit is set on either mast, and no trip holds (R382, R428). -/
def Dev.faultN (d : Dev) : Bool :=
  d.aon.tripped.isNone && [MastId.fore, MastId.main].all (fun m =>
    [0x7080, 0x7088, 0x7090, 0x7098].all (fun off => d.reg m off == 0))

/-! ## Domains (R414 to R418) -/

/-- The inrush of a request, in 0.1 A, by its lowest domain. -/
def inrush (dom : Nat) : Nat :=
  if 16 ≤ dom then 14
  else match dom % 8 with
    | 0 => 30
    | 5 => 10
    | 6 => 6
    | 7 => 8
    | _ => 15

/-- Requests admitted by one slot, strictly in order, up to 8.0 A; and those that wait. -/
def letIn : Nat → List Nat → List Nat × List Nat
  | _, [] => ([], [])
  | room, q :: r =>
    if inrush q ≤ room then let a := letIn (room - inrush q) r; (q :: a.1, a.2) else ([], q :: r)

/-- The mast whose collector records a request left waiting: a mast domain's own, a tile's the holder's. -/
def Dev.wakeMast (d : Dev) (dom : Nat) : MastId :=
  if dom < 8 then .fore else if dom < 16 then .main else d.holder.getD .fore

/-- An admission slot: each request that its first slot leaves waiting is recorded. -/
def execAdmissionSlot (s : State) : Host.Outcome State Fault Refusal :=
  run s (fun d =>
    if d.beat < d.aon.slotAt then d
    else
      let a := letIn 80 d.aon.queue
      let new := a.2.filter (fun q => !d.aon.late.contains q)
      let on := d.beat + 500
      let next := d.beat + 1000
      let d := { d with aon := { d.aon with
        queue := a.2, waking := d.aon.waking ++ a.1.map (fun q => (q, on)), slotAt := next, late := a.2 } }
      d.each new (fun q d => d.report (d.wakeMast q) 207 0 0 (BitVec.ofNat 32 q) none))

/-- A tile whose analogue domain comes alive: outputs at the park code, trims loading, converters calibrating (R61, R254). -/
def Dev.tileUp (d : Dev) (t : Nat) : Dev :=
  let m := d.holder.getD .fore
  let P := d.regF m (0x4500 + 8 * t) 0 12
  let g := d.regF m (0x4500 + 8 * t) 16 1 == 1
  let lp := d.regF m (0x4600 + 8 * t) 8 1 == 1
  let low := !d.pins.parkN
  let c := { cellReset with drv := { cellReset.drv with P := P, O := P } }
  (d.setTile t { tileReset with
    alive := true, selfcal := some (d.beat + 10000), parkLow := low, gainReq := if g then some true else none, refDue := true
    conv := { tileReset.conv with parkSeen := low, lpReq := if lp then some true else none }, dflt := c }).setTones m t

/-- A domain, with its tile's other one, is alive 50 µs after its slot. -/
def execDomainAlive (domain : Nat) (s : State) : Host.Outcome State Fault Refusal :=
  run s (fun d =>
    if !d.aon.waking.any (fun w => w.1 == domain && w.2 ≤ d.beat) then d
    else
      let bits := if 16 ≤ domain then msk domain 2 else msk domain 1
      let d := { d with aon := { d.aon with
        waking := d.aon.waking.filter (fun w => w.1 != domain), on := d.aon.on ||| bits.setWidth 48 } }
      if 16 ≤ domain && domain < 48 then d.tileUp ((domain - 16) / 2) else d)

/-- Stages from POWERED onwards. -/
def Stage.powered? (g : Stage) : Bool := g == .powered || g == .seeded || g == .arming || g == .ready

/-- A tile enabled after POWERED comes into service: spare cells, in OPEN mode with OPEN_CODE 0. -/
def execTileEnabled (tile : Nat) (s : State) : Host.Outcome State Fault Refusal :=
  run s (fun d => d.act (fun m =>
    let x := d.tile tile
    if !d.watchEdge || !x.alive || x.selfcal.isSome || x.enabled || !(d.mast m).boot.stage.powered? then d
    else
      let late := (d.mast m).boot.stage == .arming || (d.mast m).boot.stage == .ready
      let d := (d.enableTile m tile).onTile tile (fun x => ({ x with ramp := if late then 9 else 0 } : Tile).mapCells (fun c =>
        { c with lp := { c.lp with mode := 2, openCode := 0 }, cal := calNone }))
      d.restartRecord m))

/-- A tile disabled under R418 goes off at the watch boundary, whatever its wake-up had reached. -/
def execTileDisable (tile : Nat) (s : State) : Host.Outcome State Fault Refusal :=
  run s (fun d =>
    if !d.watchEdge || 16 ≤ tile || !(d.tile tile).disabling then d
    else
      let dom := 16 + 2 * tile
      let was := (d.tile tile).enabled
      let d := { d.setTile tile tileReset with aon := { d.aon with
        on := d.aon.on &&& ~~~ ((msk dom 2).setWidth 48), queue := d.aon.queue.filter (· != dom)
        waking := d.aon.waking.filter (fun w => w.1 != dom), late := d.aon.late.filter (· != dom) } }
      d.act (fun m => if was then (d.restage m).restartRecord m else d))

/-! ## Sprints and the rail's allowance (R420, R421, R431) -/

/-- H of R420 without a sprint. -/
def Dev.baseAllowance (d : Dev) (m : MastId) : Nat :=
  let x := (d.mast m).pwr
  let cont := d.effF m 0x8008 0 20
  if !x.form && d.effF m 0x8100 0 1 == 1 then cont * (10 - (x.actLevel - 1)) / 10 else cont

/-- H of R420. -/
def Dev.allowance? (d : Dev) (m : MastId) : Nat :=
  if (d.mast m).pwr.sprint.isSome then d.effF m 0x8008 20 20 else d.baseAllowance m

/-- A sprint ends; the wait of 10 s begins. `capped`: by its 200 ms limit. -/
def Dev.endSprint (d : Dev) (m : MastId) (capped : Bool) : Dev :=
  let now := d.beat
  let d := d.onPwr m (fun x => { x with sprint := none, sprintLow := 0, waitUntil := some (now + 100000000) })
  if capped then (d.report m 207 0 0 0xFFFFFFFF none).count m 0x8010 32 16 1 else d

/-- Has the sprint in force lasted 200 ms? -/
def Dev.sprintOver (d : Dev) (m : MastId) : Bool :=
  match (d.mast m).pwr.sprint with
  | some b => b + 2000000 ≤ d.beat
  | none => false

/-- The sprint's limit, at a watch boundary. -/
def execSprintLimit (s : State) : Host.Outcome State Fault Refusal :=
  run s (fun d => d.act (fun m => if d.watchEdge && d.sprintOver m then d.endSprint m true else d))

/-- The wait's end. -/
def Dev.endWait (d : Dev) (m : MastId) : Dev :=
  let now := d.beat
  d.onPwr m (fun x => match x.waitUntil with
    | some b => if b ≤ now then { x with waitUntil := none } else x
    | none => x)

def execSprintWaitEnd (s : State) : Host.Outcome State Fault Refusal :=
  run s (fun d => d.act (fun m => d.endWait m))

/-- PWR_HTR: CONT_MW is judged, then SPRINT_MW against what results. -/
def execPwrHtrWrite (w : RegWr) (s : State) : Host.Outcome State Fault Refusal :=
  run s (fun d => d.barWrite 0x8008 w (fun m info v d =>
    let old := d.reg m 0x8008
    let c := fld v 0 20
    let cont := if 1000 ≤ c && c ≤ 60000 then c else fld old 0 20
    let p := fld v 20 20
    let spr := if cont ≤ p && p ≤ 96000 then p else Nat.max (fld old 20 20) cont
    d.setReg m 0x8008 (setFld (setFld (plainWrite info old v) 0 20 cont) 20 20 spr)))

/-! ## Tile temperatures, rates and levels (R278, R422 to R425) -/

/-- The rate of rise of a tile, in 0.01 K/s, once it has 100 ms of readings. -/
def Tile.rate (x : Tile) : Option Int :=
  match x.temps.head?, x.temps[100]? with
  | some a, some b => some (10 * (a - b))
  | _, _ => none

/-- RATE_MAX. -/
def Dev.rateMax (d : Dev) : Int := ((d.enabledTiles.filterMap (fun t => (d.tile t).rate)).max?).getD 0

/-- The candidate of R423 for a rate: thresholds 1.00 to 5.00 K/s. -/
def levelOf (r : Int) : Nat := ((List.range 5).filter (fun k => (((100 * (k + 1) : Nat) : Int) ≤ r : Bool))).length

/-- A change of level is recorded: severity 0 for none and NOTICE, 1 for REEF1 to REEF4. -/
def Dev.setLevel (d : Dev) (m : MastId) (l : Nat) : Dev :=
  (d.onPwr m (fun x => { x with level := l, dwell := none })).report m 206 (if l < 2 then 0 else 1) 0 (BitVec.ofNat 32 l) none

/-- The level and the dwell after one update. -/
def Dev.hover (d : Dev) (m : MastId) : Dev :=
  let r := d.rateMax
  let c := levelOf r
  let d := d.onPwr m (fun x => { x with rateMax := r })
  let l := (d.mast m).pwr.level
  if l < c then d.setLevel m c
  else d.onPwr m (fun x => { x with
    dwell := if c < l && r ≤ 100 * (l : Int) - 50 then some (Nat.min (x.dwell.getD 0 + 1) 65535) else none })

/-- A tile takes a reading: the mean of its four sensors. The first one after its domain came alive is its TEMP_REF. -/
def Tile.reading (x : Tile) (sensors : List Int) : Tile :=
  let T := rhuDiv sensors.sum 4
  { x with temp := T, temp0 := x.temp0.or (some T), temps := if x.enabled then (T :: x.temps).take 101 else [], tempRef := if x.refDue then T else x.tempRef, refDue := false }

/-- Every instant whose nanoseconds are a multiple of 1,000,000: temperatures, triggers, rates and the level. -/
def execTemperatureUpdate (sensors : List (List Int)) (s : State) : Host.Outcome State Fault Refusal :=
  run s (fun d =>
    if d.now.ns % 1000000 != 0 then d
    else
      let d := d.onTiles d.aliveTiles (fun t x => x.reading ((sensors.getD t []).take 4))
      d.act (fun m =>
        let trig := (List.range 16).filter (fun t => bit (d.cal m).trig t || d.trigDue m t)
        (d.onCal m (fun c => { c with trig := maskOf trig })).hover m))

/-- A dwell of 1,000 updates lowers the level by one step. -/
def execHoverDwellEnd (s : State) : Host.Outcome State Fault Refusal :=
  run s (fun d => d.act (fun m => match (d.mast m).pwr.dwell with
    | some n => if 1000 ≤ n then d.setLevel m ((d.mast m).pwr.level - 1) else d
    | none => d))

/-! ## Junction temperature (R427 to R429) -/

/-- A sample of TJ_MAX, in 0.01 °C: the holder's warning at 100 °C, the always-on domain's count below 90 °C after a trip. -/
def execJunctionSample (tj : Int) (s : State) : Host.Outcome State Fault Refusal :=
  run s (fun d =>
    let d := if d.aon.tripped.isSome then { d with aon := { d.aon with cool := if tj < 9000 then d.aon.cool + 1 else 0 } } else d
    d.act (fun m =>
      let set := 10000 ≤ tj && !(d.mast m).pwr.jwarn
      let now := d.beat
      let d := d.onPwr m (fun x => { x with
        tj := tj, jwarn := x.jwarn || set, jcool := if tj ≤ 9800 then x.jcool.or (some now) else none })
      if set then d.report m 206 2 0 6 none else d))

/-- TJ_MAX has stayed at or below 98 °C for 1 s. -/
def execJunctionWarningClear (s : State) : Host.Outcome State Fault Refusal :=
  run s (fun d => d.act (fun m => match (d.mast m).pwr.jcool with
    | some b => if b + 10000000 ≤ d.beat then d.onPwr m (fun x => { x with jwarn := false }) else d
    | none => d))

/-- The page program that a trip lets finish (R300): only the last one leaves anything that a boot can find. -/
def Nor.tripJob (n : Nor) : Option NorJob := n.job.filter (fun j => j.sectors ≤ j.erased && j.pages ≤ j.page)

/-- A sensor reaches 115 °C. -/
def execThermalTrip (s : State) : Host.Outcome State Fault Refusal :=
  run s (fun d =>
    if d.aon.tripped.isSome then d
    else
      let jf := d.fore.boot.nor.tripJob
      let jm := d.main.boot.nor.tripJob
      let d := d.allReset
      let d := d.onBoot .fore (fun b => { b with nor := { b.nor with job := jf } })
      let d := d.onBoot .main (fun b => { b with nor := { b.nor with job := jm } })
      { d with aon := { d.aon with tripped := some 0, trips := satAdd 16 d.aon.trips 1, cool := 0 } })

/-- 2 ms after the trip the NOR devices go off. -/
def execNorHoldupEnd (s : State) : Host.Outcome State Fault Refusal :=
  run s (fun d => match d.aon.tripped with
    | some b => if b + 20000 ≤ d.beat then
        let cut := fun (b : Boot) => { b with nor := { b.nor with job := none } }
        let d := (d.onBoot .fore cut).onBoot .main cut
        { d with aon := { d.aon with norOn := false } }
      else d
    | none => d)

/-- Ten seconds of samples below 90 °C, 1 ms apart, with PORESET_N high: the restart. -/
def execThermalRestart (bootSel : BitVec 2) (s : State) : Host.Outcome State Fault Refusal :=
  run s (fun d =>
    if d.aon.tripped.isNone || !d.pins.poresetN || d.aon.cool < 10001 then d
    else ({ d with aon := { d.aon with tripped := none, last := true, norOn := true, cool := 0 } } : Dev).powerUp bootSel)

/-! ## PMBus (R485) -/

/-- STATUS_WORD of every enabled address, `none` where it is not acknowledged. -/
def Dev.pmbusRead (d : Dev) (m : MastId) (replies : List (Nat × Option Nat)) : Dev :=
  d.each (bitsOf (d.regF m 0x8028 0 16) 16) (fun i d =>
    let d := d.emit (.pmbus (0x40 + i))
    match (replies.find? (fun r => r.1 == i)).bind Prod.snd with
    | some v => (d.setRegF m 0x8028 (16 + i) 1 (if v == 0 then 0 else 1)).setRegF m 0x8028 (32 + i) 1 0
    | none => d.setRegF m 0x8028 (32 + i) 1 1)

/-- Every 100 ms. -/
def execPmbusPoll (replies : List (Nat × Option Nat)) (s : State) : Host.Outcome State Fault Refusal :=
  run s (fun d => d.act (fun m =>
    let due : Bool := match (d.mast m).pwr.pmbAt with
      | some b => b + 1000000 ≤ d.beat
      | none => true
    let now := d.beat
    if due then (d.pmbusRead m replies).onPwr m (fun x => { x with pmbAt := some now }) else d))

/-- A falling edge of PMB_ALERT_N. -/
def execPmbAlertNFall (replies : List (Nat × Option Nat)) (s : State) : Host.Outcome State Fault Refusal :=
  run s (fun d => d.act (fun m => d.pmbusRead m replies))

end Sys2Proof.Machine
end

