-- ==== Sys2Proof/Machine/Package.lean ====
section
/-! DEFINITION. Attach-field sites, lands, rails and pins (R468 to R472, R476, R479 to R481). -/

namespace Sys2Proof.Machine

/-! ## Attach-field sites (R468, R469) -/

/-- What an attach-field site is, with its lane. -/
inductive SiteFn where
  | fd (lane : Nat)
  | htr (lane : Nat)
  | m0 (lane : Nat)
  | m1 (lane : Nat)
  | hret | gnd | vpd
deriving DecidableEq, Repr

/-- The function of the site at local row r and column c of a tile's block. -/
def blockSite (r c : Nat) : SiteFn :=
  let lane := 18 * r + c / 5
  if 86 ≤ r then (if c % 5 == 4 then .vpd else .gnd)
  else match c % 5 with
    | 4 => if r % 2 == 0 then .hret else .gnd
    | k => if laneCount ≤ lane then .gnd
      else match k with
        | 0 => .fd lane
        | 1 => .htr lane
        | 2 => .m0 lane
        | _ => .m1 lane

/-- The tile whose block holds site (R, C), and its function there; `none` off the field and, on the D8, above an empty position
(R2). -/
def siteFn (part : Part) (R C : Nat) : Option (Nat × SiteFn) :=
  let t := 4 * (R / 90) + C / 90
  if 360 ≤ R || 360 ≤ C || (part == .d8 && 8 ≤ t) then none else some (t, blockSite (R % 90) (C % 90))

/-- A site's centre from the package centre, in µm, x to the east and y to the north. -/
def siteCentre (R C : Nat) : Int × Int := (130 * (C : Int) - 23335, 23335 - 130 * (R : Int))

/-- The site of a cell's fast-drive output; HTR, M0 and M1 are the three to its east. -/
def cellSite (cell : Nat) : Nat × Nat :=
  let t := cell / laneCount
  let l := cell % laneCount
  (90 * (t / 4) + l / 18, 90 * (t % 4) + 5 * (l % 18))

/-! ## Lands (R470, R471) -/

/-- The signal lands of one mast, down rows 25 to 72. -/
def mastLands : List String :=
  ["USB4_TX0_P", "USB4_TX0_N", "USB4_TX1_P", "USB4_TX1_N", "USB4_RX0_P", "USB4_RX0_N", "USB4_RX1_P", "USB4_RX1_N",
   "USB4_SBTX", "USB4_SBRX", "USB2_DP", "USB2_DN"] ++
  (["ETH0_TX", "ETH0_RX", "ETH1_TX", "ETH1_RX"].flatMap (fun e => ["0", "1", "2", "3"].flatMap (fun i =>
    [e ++ i ++ "_P", e ++ i ++ "_N"]))) ++
  ["REFCLK_P", "REFCLK_N", "VCORE_SNS", "VSNS_GND"]

/-- The shared signal lands, along row 96 from column 38. -/
def sharedLands : List String :=
  ["PORESET_N", "PARK_N", "FAULT_N", "TRIG_IN", "TRIG_OUT", "PPS_IN", "PPS_OUT", "BOOT_SEL[0]", "BOOT_SEL[1]", "PMB_SCL",
   "PMB_SDA", "PMB_ALERT_N", "TEST_EN", "HALYARD_CLK_P", "HALYARD_CLK_N", "HALYARD_TRIG_P", "HALYARD_TRIG_N", "VHTR_SNS",
   "VHTR_SNS_GND", "VDRV_SNS", "VDRV_SNS_GND"]

/-- The supply rails; VCORE and VHBM are each mast's own. -/
inductive Rail where
  | vcore (m : MastId) | vhbm (m : MastId) | vser | vtd | vta | vdrv | vhtr | vio | vaon
deriving DecidableEq, Repr

/-- A land: a mast's signal, a shared signal, a rail or ground. -/
inductive Land where
  | mast (m : MastId) (name : String)
  | shared (name : String)
  | rail (r : Rail)
  | gnd
deriving DecidableEq, Repr

/-- The regions of the power lands: first and last row, first and last column. -/
def railRegions : List (Rail × Nat × Nat × Nat × Nat) :=
  [(.vcore .fore, 25, 54, 4, 27), (.vcore .main, 25, 54, 70, 93), (.vhbm .fore, 55, 59, 4, 27), (.vhbm .main, 55, 59, 70, 93),
   (.vser, 60, 64, 4, 19), (.vser, 60, 64, 78, 93), (.vtd, 25, 32, 34, 63), (.vta, 65, 69, 33, 64), (.vdrv, 86, 87, 43, 54),
   (.vhtr, 88, 92, 29, 68), (.vio, 95, 95, 41, 56), (.vaon, 95, 95, 59, 70)]

/-- Land r.c, rows and columns 1 to 96; in column 1 the names take the suffix of fore, in column 96 that of main. -/
def landAt (r c : Nat) : Land :=
  let power := match railRegions.find? (fun e => e.2.1 ≤ r && r ≤ e.2.2.1 && e.2.2.2.1 ≤ c && c ≤ e.2.2.2.2) with
    | some e => .rail e.1
    | none => .gnd
  if c == 1 || c == 96 then
    (if 25 ≤ r && r ≤ 72 then .mast (if c == 1 then .fore else .main) (mastLands.getD (r - 25) "") else power)
  else if r == 96 && 38 ≤ c && c ≤ 58 then .shared (sharedLands.getD (c - 38) "")
  else power

/-! ## Rails and conditions (R472, R476) -/

/-- The bounds of a rail at its lands, in 0.1 mV. -/
def Rail.bounds : Rail → Nat × Nat
  | .vcore _ | .vtd => (7275, 7725)
  | .vhbm _ => (10670, 11330)
  | .vser => (8730, 9270)
  | .vta => (17640, 18360)
  | .vdrv => (63700, 66300)
  | .vhtr => (45000, 55000)
  | .vio | .vaon => (17100, 18900)

/-- A rail within its tolerance. Outside it, while PORESET_N is high, the block is outside its operating conditions (R473). -/
def Rail.ok (r : Rail) (level : Nat) : Bool := r.bounds.1 ≤ level && level ≤ r.bounds.2

/-- Operating conditions of R476: junctions 0 °C to 100 °C, the frame 0 °C to 75 °C and HBM at or below 95 °C, in 0.01 °C; at most
15 W from the photonic die, in mW. -/
def withinConditions (junction frame hbm heat : Int) : Bool :=
  0 ≤ junction && junction ≤ 10000 && 0 ≤ frame && frame ≤ 7500 && hbm ≤ 9500 && heat ≤ 15000

/-! ## Pins (R479 to R481) -/

/-- VPD of a tile in mV: 2.00 V while its analogue domain is alive, else off. -/
def Tile.vpd (x : Tile) : Nat := if x.alive then 2000 else 0

/-- The level an unconnected input reads: only PMB_ALERT_N is pulled up. -/
def pullLevel (pin : String) : Bool := pin == "PMB_ALERT_N"

/-- The masts' shared output pins as R481 gives them. -/
structure PinStates where
  faultN : Bool
  trigOut : Bool
  ppsOut : Bool
  halyard : Option MastId
deriving DecidableEq, Repr

/-- FAULT_N by its PEND bits and the trip; the Halyard lands driven by the holder while TIM_HAL_CTL.EN is 1. -/
def Dev.pinStates (d : Dev) : PinStates :=
  ⟨d.faultN, d.pins.trigOut, d.pins.ppsOut, d.holder.filter (fun m => d.regF m 0x5060 0 1 == 1)⟩

end Sys2Proof.Machine
end

