-- ==== Sys2Proof/Machine/RegRead.lean ====
section
/-! DEFINITION. Register reads (R11, R41, R489, R490, chapter 20): every ro field from the state it reports, rc fields cleared. -/

namespace Sys2Proof.Machine

/-- Fields put in place: low bit, width, value. -/
def pack (l : List (Nat × Nat × Nat)) : Reg64 := l.foldl (fun r f => r ||| BitVec.ofNat 64 (f.2.2 % 2 ^ f.2.1 * 2 ^ f.1)) 0

/-- A count of fences of a kind. -/
def Dev.fenced (d : Dev) (m : MastId) (k : UnitKind) : Nat := ((d.flt m).fences.filter (fun f => f.unit.kind == k)).length

/-- Requests, records, slots: HIF_STS (R69). -/
def Dev.hifSts (d : Dev) (m : MastId) : Reg64 :=
  let h := d.hif m
  pack [(0, 15, h.inflight.length), (16, 15, h.backlog.length), (32, 1, b2n (d.hifEn m && h.running)), (34, 1, b2n (!h.held.isEmpty))]

/-- FAB_SHEAF_STS (R143): OPEN counts sheafs, SCHED those committed with AT. -/
def Dev.sheafSts (d : Dev) (m : MastId) : Reg64 :=
  let s := (d.fab m).sheafs.filter (fun x => x.key.isSheaf)
  pack [(0, 11, s.length), (16, 9, (s.filter (fun x => x.at_.isSome)).length), (32, 1, b2n d.pins.parkSeen),
    (33, 1, b2n (d.pause m != 0))]

/-- FAB_TOPO_STS (R153). -/
def Fab.topoSts (f : Fab) : Reg64 :=
  pack [(0, 4, f.kind), (4, 4, match f.topo with | some t => t.table.log2n | none => 0), (8, 8, f.topoErr),
    (16, 16, f.topoErrEntry), (32, 15, match f.topo with | some t => t.table.spares | none => 0)]

/-- FAB_SEED_STS (R304). -/
def Nor.seedSts (n : Nor) : Reg64 :=
  let A := slotImage n.seedA
  let B := slotImage n.seedB
  let b := match A, B with
    | some a, some b => serialAfter b.seq a.seq
    | none, some _ => true
    | _, _ => false
  pack [(0, 1, b2n A.isSome), (1, 1, b2n B.isSome), (2, 1, b2n b),
    (32, 32, match n.newest with | some g => g.seq | none => 0)]

/-- A log entry as its four 64-bit words (R381). -/
def LogEnt.word (e : LogEnt) (m : MastId) (i : Nat) : Reg64 :=
  match i with
  | 0 => pack [(0, 8, e.source), (8, 2, e.sev), (10, 1, midx m), (11, 5, e.kind), (16, 16, e.unit), (32, 32, e.seq)]
  | 1 => BitVec.ofNat 64 e.epoch
  | 2 => BitVec.ofNat 64 (e.time.sec % 2 ^ 48)
  | _ => pack [(0, 32, e.time.ns), (32, 32, e.info.toNat)]

/-- FLT_FENCE_CNT (R392): CELLS counts cells fenced for any reason. -/
def Dev.fenceCnt (d : Dev) (m : MastId) : Reg64 :=
  pack [(0, 16, ((List.range cellCount).filter (d.cellFenced m)).length), (16, 5, d.fenced m .tile), (21, 7, d.fenced m .core),
    (28, 3, d.fenced m .cluster), (32, 6, d.fenced m .hbm), (38, 2, d.fenced m .eth), (40, 7, d.fenced m .sram),
    (47, 13, d.fenced m .ctx), (60, 4, d.fenced m .strike)]

/-- PEN_STS's ro fields (R413). -/
def Dev.penSts (d : Dev) (m : MastId) : Reg64 :=
  let p := d.pen m
  pack [(0, 1, p.holderIdx), (1, 1, b2n p.protect), (2, 1, b2n p.busy.isSome), (5, 3, p.cause)]

/-- SEC_KEYS (R447). -/
def Boot.keys (b : Boot) : Reg64 :=
  pack ((16, 2, b.fwKey) :: (b.otp.zipIdx.flatMap (fun e =>
    [(4 * e.2, 1, b2n e.1.prog), (4 * e.2 + 1, 1, b2n e.1.use), (4 * e.2 + 2, 1, b2n e.1.revoked),
      (4 * e.2 + 3, 1, b2n (b.usable.getD e.2 false))])))

/-- The ro fields of the registers that are no array. -/
def Dev.roOne (d : Dev) (m : MastId) (off : Nat) : Reg64 :=
  let x := d.mast m
  let up := !((d.mast (peerOf m)).boot.stage == .reset || (d.mast (peerOf m)).boot.stage == .boot || (d.mast (peerOf m)).boot.stage == .halted)
  match off with
  | 0x0000 => idPart d.part
  | 0x0008 => pack [(0, 32, x.boot.fwVersion), (32, 1, x.boot.fwSlot), (33, 1, b2n x.boot.recovery)]
  | 0x0010 => pack [(0, 1, midx m), (1, 1, b2n x.pen.holder), (2, 1, b2n (x.pen.gaff && up))]
  | 0x0018 => pack [(0, 4, x.boot.stage.code), (16, 16, x.boot.status.code), (32, 1, b2n x.boot.busy.isSome)]
  | 0x1030 => d.hifSts m
  | 0x4038 => BitVec.ofNat 64 x.fab.epoch
  | 0x4040 => d.sheafSts m
  | 0x4050 => x.fab.topoSts
  | 0x4058 => match x.fab.topo with
    | some t => pack [(0, 32, t.table.crc)]
    | none => 0
  | 0x4060 => pack [(8, 1, x.fab.active), (9, 1, b2n (d.shadowOk m)), (10, 1, b2n x.fab.shadowBusy)]
  | 0x4070 => BitVec.ofNat 64 x.fab.cellEpoch
  | 0x4708 => pack [(0, 1, b2n x.cal.pass.isSome), (1, 1, b2n x.cal.save.isSome), (8, 4, x.cal.queue.length),
      (16, 16, x.cal.lastStatus.code), (32, 16, x.cal.trig), (48, 16, x.cal.rounds)]
  | 0x4710 => BitVec.ofNat 64 x.cal.epoch
  | 0x4718 => (d.mast (d.holder.getD m)).boot.nor.seedSts
  | 0x4808 => pack [(0, 32, d.depth m), (32, 1, b2n (x.gln.recording && x.gln.written))]
  | 0x5010 => BitVec.ofNat 64 (d.now.sec % 2 ^ 48)
  | 0x5018 => pack [(0, 32, x.tim.latchNs)]
  | 0x5028 => pack [(0, 3, x.tim.state.code), (3, 1, x.tim.port), (8, 8, x.tim.steps)]
  | 0x5030 => pack [(0, 32, toField 32 x.tim.rate), (32, 32, toField 32 x.tim.hold)]
  | 0x5038 => pack [(0, 32, toField 32 (clampI (-(2 ^ 31)) (2 ^ 31 - 1) x.tim.offset)), (32, 32, fitN 7 (2 ^ 32 - 1) (rhuDiv (tget 0 x.tim.mpd x.tim.port) 1000))]
  | 0x5040 => x.tim.gm
  | 0x5070 => pack [(0, 1, b2n x.hal.lock), (1, 1, b2n x.hal.timeOk)]
  | 0x6080 => Config.ipfixPen.setWidth 64
  | 0x7008 => pack [(0, 1, b2n ([0x7080, 0x7088, 0x7090, 0x7098].any (fun o => d.reg m o != 0))), (8, 7, x.flt.queue.length),
      (16, 4, x.flt.running.length)]
  | 0x7010 => match x.flt.first with
    | some e => pack [(0, 8, e.source), (8, 2, e.sev), (10, 1, 1), (16, 16, e.unit), (32, 32, e.seq)]
    | none => 0
  | 0x7020 => pack [(0, 32, x.flt.seq)]
  | 0x70C8 => d.fenceCnt m
  | 0x8010 => pack [(0, 1, b2n x.pwr.sprint.isSome), (1, 1, b2n x.pwr.waitUntil.isSome), (8, 6, d.aon.queue.length)]
  | 0x8018 => d.aon.on.setWidth 64
  | 0x8020 => pack [(0, 32, ((List.range 16).map (fun t => (d.tile t).est)).sum), (32, 32, ((List.range 16).map (fun t => (d.tile t).allow)).sum)]
  | 0x8028 => d.reg m 0x8028
  | 0x8108 => pack [(0, 3, x.pwr.level), (3, 1, b2n x.pwr.form), (4, 1, b2n x.pwr.jwarn), (8, 16, toField 16 x.pwr.rateMax),
      (32, 16, toField 16 x.pwr.tj), (48, 16, x.pwr.dwell.getD 0)]
  | 0x8110 => pack [(0, 16, d.aon.trips), (16, 1, b2n d.aon.last)]
  | 0x9000 => x.boot.keys
  | 0x9010 => pack [(48, 5, x.sec.length - 1)]
  | 0xA010 => d.penSts m
  | 0xA018 => BitVec.ofNat 64 x.pen.epoch
  | 0xA020 => pack [(0, 48, x.pen.last.sec)]
  | 0xA028 => pack [(0, 32, x.pen.last.ns)]
  | 0xB000 => pack [(0, 1, b2n x.mem.bypass), (1, 1, b2n x.mem.spareFor.isSome), (8, 6, x.mem.spareFor.getD 0)]
  | 0xB008 => d.reg m 0xB008
  | 0xB010 => d.reg m 0xB010
  | 0xB020 => pack [(0, 32, maskOf ((List.range 32).filter (fun c => d.isFenced m ⟨.hbm, c⟩))), (32, 1, b2n x.mem.nearOk),
      (33, 1, b2n x.mem.farOk), (34, 1, b2n x.mem.rebuild)]
  | 0xC008 => pack [(0, 32, x.eg.gen)]
  | 0x3F800 => d.reg m 0x3F800
  | _ => 0

/-- The ro fields of a tile's registers. -/
def Dev.roTile (d : Dev) (m : MastId) (base t : Nat) : Reg64 :=
  let x := d.tile t
  let k := (d.mast m).kern
  match base with
  | 0x4100 => pack [(0, 3, x.par.period), (8, 5, x.phase), (16, 16, x.railMv), (32, 16, x.rs)]
  | 0x4480 =>
    let p := k.pend.find? (fun p => p.1 == t)
    pack [(0, 3, tget 0 k.bound t), (4, 3, match p with | some p => p.2.1 | none => 0), (7, 1, b2n p.isSome)]
  | 0x4500 => pack [(17, 1, b2n x.gain), (18, 1, b2n x.gainReq.isSome)]
  | 0x4580 => pack [(0, 20, x.allow), (20, 20, x.est)]
  | 0x4600 => pack [(9, 1, b2n x.conv.lpNow)]
  | 0x4680 => pack [(32, 1, b2n (x.alive && x.watched)), (33, 1, b2n x.selfcal.isSome)]
  | 0x4780 => pack [(0, 16, toField 16 x.temp), (16, 16, toField 16 x.tempRef), (48, 1, b2n x.uncal)]
  | 0x8140 => match x.rate with
    | some r => pack [(0, 16, toField 16 r), (16, 1, 1)]
    | none => 0
  | _ => 0

/-- Every ro field of a register. -/
def Dev.ro (d : Dev) (m : MastId) (off : Nat) : Reg64 :=
  let x := d.mast m
  match ([0x4100, 0x4480, 0x4500, 0x4580, 0x4600, 0x4680, 0x4780, 0x8140] : List Nat).find? (fun b => inArr off b 8 16) with
  | some b => d.roTile m b ((off - b) / 8)
  | none =>
    if inArr off 0x4460 8 4 then
      let h := (off - 0x4460) / 8 + 1
      match d.handle m h with
      | some g => pack [(0, 32, g.kernelId), (32, 16, g.kernelVer), (48, 1, 1), (49, 1, b2n (d.handleBound m h))]
      | none => pack [(49, 1, b2n (d.handleBound m h))]
    else if inArr off 0x4810 8 4 then
      match d.unit m ((off - 0x4810) / 8) with
      | some u =>
        let st := match u.state with
          | .idle => 0
          | .armed => 1
          | .running => 2
          | .draining => 3
        pack [(0, 2, st), (8, 6, u.cause), (16, 4, u.div),
          (32, 32, if u.state == .running || u.state == .draining then Nat.min (d.lag m u) (2 ^ 32 - 1) else 0)]
      | none => 0
    else if inArr off 0x6000 0x40 2 then pack [(1, 1, b2n (tget false x.eg.link ((off - 0x6000) / 0x40)))]
    else if inArr off 0x6800 8 256 then
      match d.stream m ((off - 0x6800) / 8) with
      | some s => pack [(0, 1, 1), (1, 1, s.defn.port), (16, 16, s.owner)]
      | none => 0
    else if inArr off 0x7030 8 4 then
      let q := d.regF m 0x7028 0 32
      match x.flt.log.find? (fun e => e.seq == q) with
      | some e => e.word m ((off - 0x7030) / 8)
      | none => 0
    else if inArr off 0x9040 8 6 then BitVec.ofNat 64 (fieldAt (digestBytes x.boot.fwMeas) (off - 0x9040) 8)
    else if inArr off 0x9080 8 2 then (Config.serial >>> (64 * ((off - 0x9080) / 8))).setWidth 64
    else d.roOne m off

/-- The value of a register: stored fields with the ro fields; wo fields and reserved bits read zero (R10, R11). -/
def Dev.regValue (d : Dev) (m : MastId) (off : Nat) : Reg64 :=
  match regInfo off with
  | none => 0
  | some i => (d.reg m off &&& (i.rw ||| i.w1c ||| i.rc)) ||| (d.ro m off &&& i.ro)

/-- A read of a register or half of it: the value, then its rc fields within the half cleared; a read of TIM_NOW_S latches
TIM_NOW_NS (R329). No rc field spans both halves. A read of another width or alignment returns zero and does nothing (R41). -/
def Dev.readRegAt (d : Dev) (m : MastId) (off : Nat) (half : Half) (ns : Nat) : Dev :=
  if !d.barUp m then d
  else
    let v := d.regValue m off &&& halfMask half
    let d := d.emit (.regRead m off v)
    let d := if off == 0x5010 && half != .other then d.onMast m (fun x => { x with tim := { x.tim with latchNs := ns } }) else d
    match regInfo off with
    | some i => if i.rc == 0 then d else d.setReg m off (d.reg m off &&& ~~~ (i.rc &&& halfMask half))
    | none => d

/-- A read at the label in force. -/
def Dev.readReg (d : Dev) (m : MastId) (off : Nat) (half : Half) : Dev := d.readRegAt m off half d.now.ns

/-- A read of a set-up register. -/
def execRcRegisterRead (off : Nat) (mast : MastId) (half : Half) (s : State) : Host.Outcome State Fault Refusal :=
  run s (fun d => d.readReg mast off half)

/-- A read of TIM_NOW_S, in a timebase cycle of the beat in progress (R307, R329). -/
def execTimNowSRead (m : MastId) (cycle : Nat) (s : State) : Host.Outcome State Fault Refusal :=
  run s (fun d => d.readRegAt m 0x5010 .whole (d.now.ns + (d.tim m).nsAt cycle))

/-! ## Writes of the common row (R41, R42, R52, R53, R489, R490) -/

/-- A FAB_BRING write with exactly one command bit starts that command. -/
def Dev.bringStart (d : Dev) (m : MastId) (b : Bring) : Dev :=
  match b with
  | .topoLoad => d.topoLoadStart m
  | .power => d.powerStart m
  | .seedRestore => d.seedRestoreStart m
  | .calFull => d.calFullStart m
  | .loopArm => d.loopArmStart m

/-- A FAB_BRING write: one bit starts its command; several answer NOT_PERMITTED unless a command runs; none does nothing. -/
def Dev.bringWrite (d : Dev) (w : RegWr) : Dev :=
  d.barWrite 0x4020 w (fun m _ v d =>
    match bitsOf v.toNat 5 with
    | [] => d
    | [b] => match bringOf b with
      | some c => d.bringStart m c
      | none => d
    | _ => if (d.mast m).boot.busy.isSome then d else d.onBoot m (fun x => { x with status := .notPermitted }))

/-- A write to a set-up register that has no row of its own; FAB_BRING's commands have theirs, and its writes act here as well. -/
def execSetupRegisterWrite (off : Nat) (w : RegWr) (s : State) : Host.Outcome State Fault Refusal :=
  run s (fun d =>
    if ownRow off then d
    else if off == 0x4020 then d.bringWrite w
    else d.barWrite off w (fun m info v d => d.plainTaken m off info v))

end Sys2Proof.Machine
end

