-- ==== Sys2Proof/Machine/Tiller.lean ====
section
/-! DEFINITION. Slot-A operations of a Tiller core (R218, R219, R222, R223, R228) and the no-operation (R214). -/

namespace Sys2Proof.Machine

/-- Opcode 0 in a slot does nothing (R214); in slot B it ends the bundle. -/
def execNoOperation (core : Nat) (slot : Slot) (s : State) : Host.Outcome State Fault Refusal :=
  run s (fun d => match slot with
    | .a => d.coreA core (.noOperation core .a) id
    | .b => d.slotB core (.noOperation core .b) id)

/-! ## Loads and stores -/

/-- A load of `n` bytes by a memory operation whose block is `al` bytes; `put` queues the result. -/
def Dev.loadA (d : Dev) (k : Nat) (i : Instr) (f : MemF) (al n : Nat) (put : Nat → Core → Core) : Dev :=
  d.slotA k i (fun m d =>
    let r := d.load m k n (alignTo al ((d.core m k).addr f).1)
    r.2.onCore m k (fun c => (put r.1 c).postMod f))

/-- A store of `n` bytes by a memory operation; `val` reads what is stored. -/
def Dev.storeA (d : Dev) (k : Nat) (i : Instr) (f : MemF) (n : Nat) (val : Core → Nat) : Dev :=
  d.coreA k i (fun c => (c.store (alignTo n (c.addr f).1) n (val c)).postMod f)

/-- LD.W: d ← mem32. -/
def execLdW (core : Nat) (f : MemF) (s : State) : Host.Outcome State Fault Refusal :=
  run s (fun d => d.loadA core (.ldW core f) f 4 4 (fun v c => c.dueD .a 3 f.d (BitVec.ofNat 32 v)))

/-- LD.H: d ← sign-extended mem16. -/
def execLdH (core : Nat) (f : MemF) (s : State) : Host.Outcome State Fault Refusal :=
  run s (fun d => d.loadA core (.ldH core f) f 2 2 (fun v c => c.dueD .a 3 f.d ((BitVec.ofNat 16 v).signExtend 32)))

/-- LD.HU: d ← zero-extended mem16. -/
def execLdHu (core : Nat) (f : MemF) (s : State) : Host.Outcome State Fault Refusal :=
  run s (fun d => d.loadA core (.ldHu core f) f 2 2 (fun v c => c.dueD .a 3 f.d (BitVec.ofNat 32 v)))

/-- LD.D: an even-odd pair from 64 bits. -/
def execLdD (core : Nat) (f : MemF) (s : State) : Host.Outcome State Fault Refusal :=
  run s (fun d => d.loadA core (.ldD core f) f 8 8 (fun v c =>
    (c.dueD .a 3 f.d (BitVec.ofNat 32 v)).dueD .a 3 (pairOf f.d) (BitVec.ofNat 32 (v / 2 ^ 32))))

/-- ST.W: mem32 ← d. -/
def execStW (core : Nat) (f : MemF) (s : State) : Host.Outcome State Fault Refusal :=
  run s (fun d => d.storeA core (.stW core f) f 4 (fun c => (c.dr f.d).toNat))

/-- ST.H: mem16 ← d[15:0]. -/
def execStH (core : Nat) (f : MemF) (s : State) : Host.Outcome State Fault Refusal :=
  run s (fun d => d.storeA core (.stH core f) f 2 (fun c => (c.dr f.d).toNat % 65536))

/-- ST.D: mem64 ← d+1:d. -/
def execStD (core : Nat) (f : MemF) (s : State) : Host.Outcome State Fault Refusal :=
  run s (fun d => d.storeA core (.stD core f) f 8 (fun c => (c.dr f.d).toNat + 2 ^ 32 * (c.dr (pairOf f.d)).toNat))

/-- LD.A: ak ← bytes 0 to 8 of a 16-byte block, in every view from i + 3. -/
def execLdA (core : Nat) (f : MemF) (s : State) : Host.Outcome State Fault Refusal :=
  run s (fun d => d.loadA core (.ldA core f) f 16 9 (fun v c =>
    let a : Acc := BitVec.ofNat 72 v
    ((c.due .a 3 (.acc 0 f.d.toNat) a).due .a 3 (.acc 1 f.d.toNat) a).due .a 3 (.acc 2 f.d.toNat) a))

/-- ST.A: 16 bytes ← ak sign-extended to 128 bits. -/
def execStA (core : Nat) (f : MemF) (s : State) : Host.Outcome State Fault Refusal :=
  run s (fun d => d.storeA core (.stA core f) f 16 (fun c => ((c.ar 2 (f.d.setWidth 2)).signExtend 128).toNat))

/-- LDS: special register ← mem32; a reserved index is illegal (R224). -/
def execLds (core : Nat) (f : MemF) (s : State) : Host.Outcome State Fault Refusal :=
  run s (fun d => if !f.wf then d else d.srA core f.d (fun m d =>
    let r := d.load m core 4 (alignTo 4 ((d.core m core).addr f).1)
    r.2.onCore m core (fun c => (c.due .a 3 (srDest f.d.toNat) (BitVec.ofNat 72 r.1)).postMod f)))

/-- STS: mem32 ← special register. -/
def execSts (core : Nat) (f : MemF) (s : State) : Host.Outcome State Fault Refusal :=
  run s (fun d => if !f.wf then d else d.srA core f.d (fun m d =>
    d.onCore m core (fun c => (c.store (alignTo 4 (c.addr f).1) 4 (c.sr f.d.toNat).toNat).postMod f)))

/-! ## Address, offset and special registers -/

/-- MOVIP: p ← IMM18. -/
def execMovip (core : Nat) (p : BitVec 3) (imm : BitVec 18) (s : State) : Host.Outcome State Fault Refusal :=
  run s (fun d => d.coreA core (.movip core p imm) (fun c => c.due .a 1 (.p p.toNat) (imm.setWidth 72)))

/-- ADDP: pK ← pJ + IMM. -/
def execAddp (core : Nat) (pk pj : BitVec 3) (imm : BitVec 15) (s : State) : Host.Outcome State Fault Refusal :=
  run s (fun d => d.coreA core (.addp core pk pj imm) (fun c =>
    c.due .a 1 (.p pk.toNat) ((c.pr pj + imm.signExtend 18).setWidth 72)))

/-- MOVDP: pK ← (dN + IMM)[17:0]. -/
def execMovdp (core : Nat) (pk : BitVec 3) (dn : BitVec 6) (imm : BitVec 15) (s : State) :
    Host.Outcome State Fault Refusal :=
  run s (fun d => d.coreA core (.movdp core pk dn imm) (fun c =>
    c.due .a 1 (.p pk.toNat) (((c.dr dn).setWidth 18 + imm.signExtend 18).setWidth 72)))

/-- MOVIM: mK ← IMM16, signed. -/
def execMovim (core : Nat) (mk : BitVec 3) (imm : BitVec 16) (s : State) : Host.Outcome State Fault Refusal :=
  run s (fun d => d.coreA core (.movim core mk imm) (fun c =>
    c.due .a 1 (.m mk.toNat) ((imm.signExtend 18).setWidth 72)))

/-- MFS: dN ← special register. -/
def execMfs (core : Nat) (dn sr : BitVec 6) (s : State) : Host.Outcome State Fault Refusal :=
  run s (fun d => d.srA core sr (fun m d => d.onCore m core (fun c => c.dueD .a 1 dn (c.sr sr.toNat))))

/-- MTS: special register ← dN. -/
def execMts (core : Nat) (dn sr : BitVec 6) (s : State) : Host.Outcome State Fault Refusal :=
  run s (fun d => d.srA core sr (fun m d =>
    d.onCore m core (fun c => c.due .a 2 (srDest sr.toNat) ((c.dr dn).setWidth 72))))

/-- MOVLC: LC ← IMM16, unsigned. -/
def execMovlc (core : Nat) (imm : BitVec 16) (s : State) : Host.Outcome State Fault Refusal :=
  run s (fun d => d.coreA core (.movlc core imm) (fun c => c.due .a 2 .lc (imm.setWidth 72)))

/-! ## Branches (R222) -/

/-- Bundle i + OFF; an index below 0 comes out beyond every CODE_LEN. -/
def Core.rel (c : Core) (off : BitVec 16) : Nat := (((c.pc : Int) + off.toInt) % 262144).toNat

/-- A branch to i + OFF on a condition. -/
def Dev.branchIf (d : Dev) (k : Nat) (i : Instr) (off : BitVec 16) (cond : Core → Bool) (f : Core → Core) : Dev :=
  d.branchA k i (fun c => if cond c then some (c.rel off) else none) f

/-- B. -/
def execB (core : Nat) (off : BitVec 16) (s : State) : Host.Outcome State Fault Refusal :=
  run s (fun d => d.branchIf core (.b core off) off (fun _ => true) id)

/-- BEQZ: branch if dN = 0. -/
def execBeqz (core : Nat) (dn : BitVec 6) (off : BitVec 16) (s : State) : Host.Outcome State Fault Refusal :=
  run s (fun d => d.branchIf core (.beqz core dn off) off (fun c => c.dr dn == 0) id)

/-- BNEZ: branch if dN ≠ 0. -/
def execBnez (core : Nat) (dn : BitVec 6) (off : BitVec 16) (s : State) : Host.Outcome State Fault Refusal :=
  run s (fun d => d.branchIf core (.bnez core dn off) off (fun c => c.dr dn != 0) id)

/-- BLTZ: branch if dN < 0. -/
def execBltz (core : Nat) (dn : BitVec 6) (off : BitVec 16) (s : State) : Host.Outcome State Fault Refusal :=
  run s (fun d => d.branchIf core (.bltz core dn off) off (fun c => (c.dr dn).msb) id)

/-- BGEZ: branch if dN ≥ 0. -/
def execBgez (core : Nat) (dn : BitVec 6) (off : BitVec 16) (s : State) : Host.Outcome State Fault Refusal :=
  run s (fun d => d.branchIf core (.bgez core dn off) off (fun c => !(c.dr dn).msb) id)

/-- BCNT: LC ← LC - 1; branch if the new LC ≠ 0. -/
def execBcnt (core : Nat) (off : BitVec 16) (s : State) : Host.Outcome State Fault Refusal :=
  run s (fun d => d.branchIf core (.bcnt core off) off (fun c => c.r.lc - 1 != 0)
    (fun c => c.due .a 2 .lc ((c.r.lc - 1).setWidth 72)))

/-- CALL: p7 ← i + 2; branch. -/
def execCall (core : Nat) (off : BitVec 16) (s : State) : Host.Outcome State Fault Refusal :=
  run s (fun d => d.branchIf core (.call core off) off (fun _ => true)
    (fun c => c.due .a 1 (.p 7) (BitVec.ofNat 72 (c.pc + 2))))

/-- RET: branch to bundle p7. -/
def execRet (core : Nat) (s : State) : Host.Outcome State Fault Refusal :=
  run s (fun d => d.branchA core (.ret core) (fun c => some (c.pr 7).toNat) id)

/-- RETI: branch to IPC; IE and STAT ← IST. -/
def execReti (core : Nat) (s : State) : Host.Outcome State Fault Refusal :=
  run s (fun d => d.branchA core (.reti core) (fun c => some c.r.ipc.toNat)
    (fun c => (c.due .a 2 .ie ((c.r.ist.extractLsb' 0 1).setWidth 72)).due .a 2 .stat
      ((c.r.ist.extractLsb' 1 2).setWidth 72)))

/-! ## Filter tap, waiting, interrupt enable -/

/-- TAPM: one filter tap and one element of the delay line shifted (R223). -/
def execTapm (core : Nat) (ak : BitVec 2) (clr : Bool) (pd pc : BitVec 3) (s : State) :
    Host.Outcome State Fault Refusal :=
  run s (fun d => d.slotA core (.tapm core ak clr pd pc) (fun m d =>
    let c := d.core m core
    let x := d.load m core 4 (alignTo 4 (c.pr pd))
    let y := x.2.load m core 2 (alignTo 2 (c.pr pc))
    let p := product (BitVec.ofNat 32 x.1) (BitVec.ofNat 16 y.1)
    y.2.onCore m core (fun c =>
      let c := { c with tap := some ak.toNat }
      let c := c.dueMac .a ak (macStep clr false (c.ar 0 ak) p)
      let c := c.store (alignTo 4 (c.pr pd + 4)) 4 x.1
      (c.due .a 1 (.p pd.toNat) ((c.pr pd - 4).setWidth 72)).due .a 1 (.p pc.toNat) ((c.pr pc + 2).setWidth 72))))

/-- WAIT: issue is suspended after this bundle (R228). -/
def execWait (core : Nat) (s : State) : Host.Outcome State Fault Refusal :=
  run s (fun d => d.coreA core (.wait core) (fun c => { c with run := .waiting }))

/-- The condition that ends a WAIT: an entry is unread, or an enabled interrupt is pending, whatever IE holds (R228). -/
def Core.wakes (c : Core) : Bool := c.sqProd != c.sqCons || (c.ipend &&& c.imask) != 0

/-- Issue resumes 2 cycles after the condition; how long it was suspended before that is free (assumption 16). -/
def execWaitResume (core : Nat) (s : State) : Host.Outcome State Fault Refusal :=
  run s (fun d => d.act (fun m =>
    let c := d.core m core
    if c.run == .waiting && c.wakes then
      d.drawNat (fun n d =>
        let live := d.liveRun m core
        d.onCore m core (fun c => { (if c.slotA then c.close else c).pass (2 + n) with run := live }))
    else d))

/-- EI: IE ← E; no effect in an image without a handler (R225). -/
def execEi (core : Nat) (e : Bool) (s : State) : Host.Outcome State Fault Refusal :=
  run s (fun d => d.coreA core (.ei core e) (fun c =>
    if c.handler.isSome then c.due .a 1 .ie (BitVec.ofNat 72 (b2n e)) else c))

end Sys2Proof.Machine
end

