-- ==== Sys2Proof/Machine/TillerB.lean ====
section
/-! DEFINITION. Slot-B operations of a Tiller core (R215 to R217, R220). -/

namespace Sys2Proof.Machine

/-- A three-register ALU operation ready `n` bundles on. -/
def Dev.aluB (d : Dev) (k : Nat) (i : Instr) (f : AluF) (n : Nat) (op : Word → Word → AluRes) : Dev :=
  d.slotB k i (fun c => c.dueAlu n f.d (op (c.dr f.a) (c.dr f.b)))

/-- ADD. -/
def execAdd (core : Nat) (f : AluF) (s : State) : Host.Outcome State Fault Refusal :=
  run s (fun d => d.aluB core (.add core f) f 1 (aluAdd f.s))

/-- SUB. -/
def execSub (core : Nat) (f : AluF) (s : State) : Host.Outcome State Fault Refusal :=
  run s (fun d => d.aluB core (.sub core f) f 1 (aluSub f.s))

/-- AND. -/
def execAnd (core : Nat) (f : AluF) (s : State) : Host.Outcome State Fault Refusal :=
  run s (fun d => d.aluB core (.and core f) f 1 (fun a b => pureRes (a &&& b)))

/-- OR. -/
def execOr (core : Nat) (f : AluF) (s : State) : Host.Outcome State Fault Refusal :=
  run s (fun d => d.aluB core (.or core f) f 1 (fun a b => pureRes (a ||| b)))

/-- XOR. -/
def execXor (core : Nat) (f : AluF) (s : State) : Host.Outcome State Fault Refusal :=
  run s (fun d => d.aluB core (.xor core f) f 1 (fun a b => pureRes (a ^^^ b)))

/-- SHL: dA << dB[4:0]. -/
def execShl (core : Nat) (f : AluF) (s : State) : Host.Outcome State Fault Refusal :=
  run s (fun d => d.aluB core (.shl core f) f 1 (fun a b => aluShl f.s a (shAmt b)))

/-- SHR: logical, truncating. -/
def execShr (core : Nat) (f : AluF) (s : State) : Host.Outcome State Fault Refusal :=
  run s (fun d => d.aluB core (.shr core f) f 1 (fun a b => aluShr a (shAmt b)))

/-- SHRA: arithmetic, rounded half up. -/
def execShra (core : Nat) (f : AluF) (s : State) : Host.Outcome State Fault Refusal :=
  run s (fun d => d.aluB core (.shra core f) f 1 (fun a b => aluShra a (shAmt b)))

/-- MIN, signed. -/
def execMin (core : Nat) (f : AluF) (s : State) : Host.Outcome State Fault Refusal :=
  run s (fun d => d.aluB core (.min core f) f 1 aluMin)

/-- MAX, signed. -/
def execMax (core : Nat) (f : AluF) (s : State) : Host.Outcome State Fault Refusal :=
  run s (fun d => d.aluB core (.max core f) f 1 aluMax)

/-- ZSEL: dA where dB = 0, else 0. -/
def execZsel (core : Nat) (f : AluF) (s : State) : Host.Outcome State Fault Refusal :=
  run s (fun d => d.aluB core (.zsel core f) f 1 aluZsel)

/-- MULH, ready from i + 2. -/
def execMulh (core : Nat) (f : AluF) (s : State) : Host.Outcome State Fault Refusal :=
  run s (fun d => d.aluB core (.mulh core f) f 2 (aluMulh f.s))

/-- DIVQ, ready from i + 10. -/
def execDivq (core : Nat) (f : AluF) (s : State) : Host.Outcome State Fault Refusal :=
  run s (fun d => d.aluB core (.divq core f) f 10 aluDivq)

/-- ADDI: dA + IMM12, signed. -/
def execAddi (core : Nat) (d a : BitVec 6) (imm : BitVec 12) (sat : Bool) (s : State) :
    Host.Outcome State Fault Refusal :=
  run s (fun x => x.slotB core (.addi core d a imm sat) (fun c =>
    c.dueAlu 1 d (aluAdd sat (c.dr a) (imm.signExtend 32))))

/-- SHI: a shift by AMT of the kind given; S is used by kind SHL. -/
def execShi (core : Nat) (d a : BitVec 6) (kind : ShKind) (amt : BitVec 5) (sat : Bool) (s : State) :
    Host.Outcome State Fault Refusal :=
  run s (fun x => x.slotB core (.shi core d a kind amt sat) (fun c =>
    c.dueAlu 1 d (match kind with
      | .shl => aluShl sat (c.dr a) amt.toNat
      | .shr => aluShr (c.dr a) amt.toNat
      | .shra => aluShra (c.dr a) amt.toNat)))

/-- MOVI: IMM16 sign-extended. -/
def execMovi (core : Nat) (d : BitVec 6) (imm : BitVec 16) (s : State) : Host.Outcome State Fault Refusal :=
  run s (fun x => x.slotB core (.movi core d imm) (fun c => c.dueD .b 1 d (imm.signExtend 32)))

/-- MOVHI: dD[31:16] ← IMM16; dD[15:0] kept. -/
def execMovhi (core : Nat) (d : BitVec 6) (imm : BitVec 16) (s : State) : Host.Outcome State Fault Refusal :=
  run s (fun x => x.slotB core (.movhi core d imm) (fun c =>
    c.dueD .b 1 d (imm ++ (c.dr d).extractLsb' 0 16)))

/-- MAC (R217, R220). -/
def execMac (core : Nat) (ak : BitVec 2) (x c : BitVec 6) (h neg clr : Bool) (s : State) :
    Host.Outcome State Fault Refusal :=
  run s (fun d => d.slotB core (.mac core ak x c h neg clr) (fun q =>
    q.dueMac .b ak (macStep clr neg (q.ar 0 ak) (product (q.dr x) (halfOf h (q.dr c))))))

/-- MAC2: a(2·PAIR) with dX and dC[15:0], a(2·PAIR + 1) with dY and dC[31:16]. -/
def execMac2 (core : Nat) (pair : Bool) (x y c : BitVec 6) (neg clr : Bool) (s : State) :
    Host.Outcome State Fault Refusal :=
  run s (fun d => d.slotB core (.mac2 core pair x y c neg clr) (fun q =>
    let lo : BitVec 2 := if pair then 2 else 0
    let hi : BitVec 2 := if pair then 3 else 1
    (q.dueMac .b lo (macStep clr neg (q.ar 0 lo) (product (q.dr x) (halfOf false (q.dr c))))).dueMac .b hi
      (macStep clr neg (q.ar 0 hi) (product (q.dr y) (halfOf true (q.dr c))))))

/-- NARROW, ready from i + 2. -/
def execNarrow (core : Nat) (d : BitVec 6) (ak : BitVec 2) (sh : BitVec 5) (sat : Bool) (s : State) :
    Host.Outcome State Fault Refusal :=
  run s (fun x => x.slotB core (.narrow core d ak sh sat) (fun c => c.dueAlu 2 d (narrowAcc sat (c.ar 1 ak) sh)))

/-- MVA, ready from i + 2. -/
def execMva (core : Nat) (d : BitVec 6) (ak part : BitVec 2) (s : State) : Host.Outcome State Fault Refusal :=
  run s (fun x => x.slotB core (.mva core d ak part) (fun c => c.dueD .b 2 d (accPart (c.ar 1 ak) part.toNat)))

/-- MTA: that part of ak from dA from i + 2; ST.A reads it from i + 3 (R219). -/
def execMta (core : Nat) (a : BitVec 6) (ak part : BitVec 2) (s : State) : Host.Outcome State Fault Refusal :=
  run s (fun x => x.slotB core (.mta core a ak part) (fun c =>
    let v : BitVec 72 := (c.dr a).setWidth 72
    ((c.due .b 2 (.accPart 0 ak.toNat part.toNat) v).due .b 2 (.accPart 1 ak.toNat part.toNat) v).due .b 3
      (.accPart 2 ak.toNat part.toNat) v))

/-- ROT: RB ← K, or (RB + K) mod 32, from the next bundle (R215). -/
def execRot (core : Nat) (abs : Bool) (k : BitVec 5) (s : State) : Host.Outcome State Fault Refusal :=
  run s (fun x => x.slotB core (.rot core abs k) (fun c =>
    c.due .b 1 .rb (if abs then k.setWidth 72 else (c.r.rb + k).setWidth 72)))

end Sys2Proof.Machine
end

