-- ==== Sys2Proof/Machine/Watch.lean ====
section
/-! DEFINITION. Beat and watch boundaries: the timebase's edges, heater codes with cap and dither, loop periods, scans, register
values taking effect, the heater rail, periodic telemetry, the flight record's frames (R22, R24, R30, R63, R181, R182, R200,
R249 to R253, R256, R260, R307 to R309, R321, R331, R335, R363, R369, R372, R401, R420, R421, R424 to R426, R491). -/

namespace Sys2Proof.Machine

/-! ## Beats (R24, R307 to R309) -/

/-- The timebase is held at 0: PORESET_N low, or a thermal trip (R49, R307). -/
def Dev.stands (d : Dev) : Bool := !d.pins.poresetN || d.aon.tripped.isSome

/-- The mean of a list of rates, rounded half up. -/
def meanRate (l : List Int) : Int := rhuDiv l.sum l.length

/-- A beat spent in LOCKED enters HOLD's mean of the last 16 s (R314). -/
def Tim.lockedBeat (t : Tim) : Tim :=
  if t.state == .locked then
    let h := (t.rate :: t.hist).take 160000000
    { t with hist := h, hold := meanRate h }
  else t

/-- The next beat's label: TIM_SET's seconds apply at a second boundary (R311). -/
def Dev.label (d : Dev) : Stamp :=
  let t := nextLabel d.now
  match d.serving with
  | some m => match (d.tim m).setSec with
    | some s => if t.ns == 0 then ⟨s % 2 ^ 48, 0⟩ else t
    | none => t
  | none => t

/-- Tiller cycles that a cluster has charged to a class in the watch so far. -/
def Dev.tillSpent (d : Dev) (m : MastId) (c cls : Nat) : Nat :=
  (((d.mast m).cores.filter (fun e : Nat × Core => e.1 / 16 == c)).map (fun e => match cls with
    | 0 => e.2.spentLoop
    | 1 => e.2.spentDither
    | k => tget 0 e.2.spentSvc k)).sum

/-- Tiller cycles charged since they were last counted (R369). -/
def Dev.tillCount (d : Dev) (m : MastId) : Dev :=
  d.each (List.range 28) (fun i d =>
    let at_ := 8 * (i / 7) + i % 7
    let n := d.tillSpent m (i / 7) (i % 7)
    let old := tget 0 (d.mast m).bud.told at_
    d.when (old < n) (fun d => (d.pmc m 0x031 [at_] (n - old)).onBud m (fun b => { b with told := tset 0 b.told at_ n })))

/-- What a beat counts (R369): cycles of the mast core (R464), beats, and the levels that the model knows. -/
def Dev.beatCounts (d : Dev) (m : MastId) : Dev :=
  if (d.mast m).boot.stage == .reset then d
  else
    let n := if (d.mast m).mem.bypass then 80 else 160
    let d := ((d.pmcLevel m 0x001 0 1 n).pmc m 0x002 [0] 1).tillCount m
    let d := d.each ((d.mast m).stays.map Prod.fst) (fun t d => d.pmcLevel m 0x043 t (d.stay m t).down.wait.length n)
    if d.serving == some m then
      let h := d.hif m
      let q := fun (p : Nat) => ((d.mast m).eg.streams.map (fun e => match e.2 with
        | some s => if s.defn.port == p then s.queued else 0
        | none => 0)).sum
      (((d.pmcLevel m 0x062 0 h.inflight.length n).pmcLevel m 0x063 0 h.backlog.length n).pmcLevel m 0x072 0 (q 0) n).pmcLevel m
        0x072 1 (q 1) n
    else d

/-- A loop period begins on a tile: the phase index advances once its loops are closed (R182), and the fast-drive steps of the
period before are what the law uses (R185). -/
def Tile.newPeriod (x : Tile) : Tile :=
  ({ x with phase := if x.closed then (x.phase + 1) % 17 else 0 } : Tile).mapCells (fun c =>
    { c with lp := { c.lp with dstepPrev := c.lp.dstep, dstep := 0 } })

/-- A follower's time steps to the code it decided to take, where a Halyard cycle starts (R327). -/
def Dev.halStep (d : Dev) (m : MastId) : Dev :=
  match (d.mast m).hal.apply with
  | some t => if d.now.ns % 16000 == 0 then
      (d.stepTime m (roundUpBeat t)).onHal m (fun h => { h with apply := none }) else d
  | none => d

/-- A kernel context stalled on a full queue of posts charges the beat's 120 cycles (R202, R209, R228). -/
def Dev.stalls (d : Dev) (m : MastId) : Dev :=
  d.each (((d.mast m).cores.filter (fun e : Nat × Core => e.2.run == .stalled)).map Prod.fst) (fun k d => d.onCore m k (fun c =>
    { c with spentLoop := if c.cls then c.spentLoop else c.spentLoop + 120
             spentDither := if c.cls then c.spentDither + 120 else c.spentDither }))

/-- A beat edge: its label, PPS_OUT, what it counts, the phase of a loop period that begins, and the immediate and PARK writes
that reach the channels (R240). -/
def execBeatBoundary (s : State) : Host.Outcome State Fault Refusal :=
  run s (fun d =>
    let b := d.beat + 1
    if d.stands then { d with beat := b }
    else
      let label := d.label
      let d := { d with beat := b, now := label, pins := { d.pins with parkSeen := !d.pins.parkN } }
      let d := d.act (fun m =>
        let d := if d.now.ns == 0 then d.onTim m (fun t => { t with setSec := none }) else d
        ((d.onTim m Tim.lockedBeat).halStep m).pps m)
      let d := d.act (fun m => let t := ((d.tim m).nextBeat).acc; (d.onTim .fore (fun x => { x with acc := t })).onTim .main (fun x => { x with acc := t }))
      let d := (d.beatCounts .fore).beatCounts .main
      let d := ((d.act (fun m => d.stalls m)).pumpAll .fore).pumpAll .main
      let d := d.onTiles (d.aliveTiles.filter (fun t => d.loopEdge t)) (fun _ x => x.newPeriod)
      d.each d.aliveTiles (fun t d => d.applyImm t))

/-! ## Heater codes at a watch boundary (R249 to R253) -/

/-- G_i measured over the watch that ends, for a channel whose code in force was at least 1,024 (R252). -/
def Tile.measure (x : Tile) (cond : List (Nat × Nat)) : Tile :=
  cond.foldl (fun x e => x.onCell e.1 (fun c => if 1024 ≤ c.htr.inForce then { c with htr := { c.htr with G := e.2 } } else c)) x

/-- Current limits at the boundary: a report where one was not engaged at the boundary before (R252). -/
def Tile.limits (x : Tile) (lanes : List Nat) : Tile :=
  let new := lanes.filter (fun l => !(x.cell l).htr.limit)
  let y := x.mapCells (fun c => { c with htr := { c.htr with limit := false } })
  let y := lanes.foldl (fun y l => y.onCell l (fun c => { c with htr := { c.htr with limit := true } })) y
  new.foldl (fun y l => y.say (.heater l (x.cell l).htr.inForce)) y

/-- A fenced lane's code is 0; while its Winnow test runs, 16,384 (R384, R386). -/
def Dev.laneCodes (d : Dev) (t : Nat) : List (Nat × Nat) :=
  let m := d.server
  let f := d.flt m
  (f.fences.filter (fun e => e.unit.kind == .lane && e.unit.idx / laneCount == t)).map (fun e =>
    (e.unit.idx % laneCount, if f.running.any (fun r => r.unit == e.unit) then 16384 else 0))

/-- Step 1 of R250: the next code where one may be taken at this boundary, else the code in force. A tile whose lease has run out
takes none (R398). Before LOOP_ARM's first step an OPEN cell keeps code 0 (R254). -/
def Cell.pick (c : Cell) (loop leased begun : Bool) : Nat :=
  if !leased then c.htr.inForce
  else match c.htr.next with
    | some (p, v) =>
      if 2 ≤ p then v
      else if c.lp.mode == 2 then if loop && begun then c.lp.openCode else c.htr.inForce
      else if p == 0 || loop then v else c.htr.inForce
    | none => if c.lp.mode == 2 && loop && begun then c.lp.openCode else c.htr.inForce

/-- Is the channel's code subject to the cap: a cell in CLOSED or HOLD whose lane is not fenced (R250, R384)? -/
def Cell.cappable (c : Cell) : Bool := c.lp.mode != 2 && (match c.htr.next with | some (p, _) => p < 3 | none => true)

/-- P of R251 in units of 10^-12 W ÷ 65,536², from each channel's undithered code. -/
def Tile.power (x : Tile) (mv : Nat) (code : Cell → Nat) : Nat :=
  x.sumCells (fun c => c.htr.G * heaterVolts mv (code c) * heaterVolts mv (code c))

/-- The same units in one mW. -/
def mwUnit : Nat := 65536 * 65536 * 1000000000

/-- R251: the undithered code of every channel after the cap, as a function of the channel. -/
def Tile.capCode (x : Tile) (mv : Nat) (pick : Cell → Nat) : Cell → Nat :=
  let room := x.allow * mwUnit
  if x.power mv pick ≤ room then pick
  else
    let hold := fun (c : Cell) => if c.cappable && c.htr.inForce < pick c then c.htr.inForce else pick c
    let P := x.power mv hold
    if P ≤ room then hold
    else
      let k := isqrt (2 ^ 30 * room / P)
      fun c => if c.cappable then hold c * k / 32768 else hold c

/-- What a boundary does with one channel: the cap's code is in force, the dither is added in CLOSED and HOLD once the loops are
closed, and the next code is used up. -/
def Cell.applyCode (c : Cell) (x : Tile) (loop : Bool) (pick code : Cell → Nat) : Cell :=
  let v := code c
  let dith : Int := if x.closed && c.cappable then x.par.dither c.lp.tone x.phase else 0
  let keep := match c.htr.next with
    | some (p, _) => p == 1 && !loop && c.lp.mode != 2
    | none => false
  { c with htr := { c.htr with
      inForce := v, applied := clampN 0 65535 ((v : Int) + dith), capped := v != pick c
      next := if keep then c.htr.next else none } }

/-- The codes of a tile at a boundary. -/
def Tile.applyCodes (x : Tile) (mv : Nat) (loop leased : Bool) : Tile :=
  let pick := fun (c : Cell) => c.pick loop leased (x.ramp != 0)
  let code := x.capCode mv pick
  let y := x.mapCells (fun c => c.applyCode x loop pick code)
  { y with est := Nat.min 1048575 (rhuDiv (y.power mv (fun c => c.htr.inForce)) mwUnit).toNat
           cappedNow := !y.allCells (fun c => !c.htr.capped) }

/-- While a tile's loops are open, the tones of swept cells in a round run from the round's start (R288). -/
def Dev.roundDither (d : Dev) (m : MastId) (t : Nat) : Dev :=
  match (d.cal m).pass with
  | none => d
  | some p =>
    if (d.tile t).closed then d
    else
      let n := (d.beat - tget 0 p.roundBeat t) / d.T t
      d.each (p.cells.filter (fun c => c.cell / laneCount == t && p.member c)) (fun c d => d.onTile t (fun x =>
        x.onCell (c.cell % laneCount) (fun z => { z with htr := { z.htr with
          applied := clampN 0 65535 ((z.htr.inForce : Int) + x.par.dither z.lp.tone n) } })))

/-- A tile's heaters at a watch boundary. -/
def Dev.heaters (d : Dev) (t mv : Nat) : Dev :=
  let lanes := d.laneCodes t
  let loop := d.loopEdge t
  let leased := (d.tile t).leaseRuns d.beat
  let d := d.onTile t (fun x =>
    (lanes.foldl (fun x e => x.onCell e.1 (fun c => { c with htr := { c.htr with next := some (3, e.2) } })) x).applyCodes mv loop
      leased)
  let n := (d.tile t).sumCells (fun c => b2n c.htr.capped)
  let d := if n == 0 then d else d.act (fun m => d.count m (0x4580 + 8 * t) 40 16 n)
  d.act (fun m => d.roundDither m t)

/-! ## Loop periods and LOOP_ARM (R63, R179, R182, R189, R190, R208, R211) -/

/-- A period ends: a cell for which its core computed no law restarts its window (R179), and whether its code came is known. -/
def Tile.endPeriod (x : Tile) : Tile :=
  x.mapCells (fun c => { c with
    lp := { c.lp with computed := false, win := if c.lp.mode != 2 && !c.lp.computed then [] else c.lp.win }
    htr := { c.htr with arrived := false } })

/-- A loop-period boundary as a tile's cores see it: PERIOD_CNT, the BOUND interrupt; the shipped law drops what it has not
consumed (R211). -/
def Dev.corePeriod (d : Dev) (m : MastId) (t : Nat) : Dev :=
  d.each [4 * t, 4 * t + 1, 4 * t + 2, 4 * t + 3] (fun k d => d.onCore m k (fun c =>
    { c with periodCnt := c.periodCnt + 1, ipend := c.ipend ||| 1, sqCons := if c.run == .shipped then c.sqProd else c.sqCons }))

/-- The loops of a tile under a new holder, at its next loop-period boundary: F and the parameters as the mirror has them, and a
bumpless load to each code in force (R190, R193). The tile's own PERIOD stays (R182). Where no mirror came, the values that the
tile works by stay. -/
def Dev.loadLoops (d : Dev) (m : MastId) (t : Nat) : Dev :=
  if !(d.tile t).loopDue then d
  else
    let d := d.onTile t (fun x => { x with loopDue := false })
    let d := match tget none (d.mast m).mir t with
      | none => d
      | some g => d.onTile t (fun x =>
        let y := { x with
          par := { g.par with period := x.par.period }, pend := g.pend ++ x.pend.filter (fun e => !g.pend.contains e)
          dflt := { x.dflt with lp := x.dflt.lp.take g.dflt }, cells := [] }
        ((x.cells.map Prod.fst) ++ g.cells.map Prod.fst).foldl (fun y l =>
          y.setCell l { x.cell l with lp := (x.cell l).lp.take (g.cell l) }) y)
    d.onTile t (fun x => x.mapCells (fun c => c.bumpless x.par x.railMv c.htr.inForce c.lp.F))

/-- A step of LOOP_ARM's ramp: the next of eight codes of each cell not in OPEN mode. -/
def Tile.rampStep (x : Tile) : Tile :=
  let k := x.ramp + 1
  ({ x with ramp := k } : Tile).mapCells (fun c =>
    if c.lp.mode == 2 then c else { c with htr := c.htr.offer 0 (rhuDiv ((c.cal.bias : Int) * k) 8).toNat })

/-- A tile's loops close: phase 0, and every cell's bumpless load of its restored bias with F = 0. -/
def Tile.close (x : Tile) : Tile :=
  ({ x with closed := true, phase := 0 } : Tile).mapCells (fun c => c.bumpless x.par x.railMv c.cal.bias 0)

/-- LOOP_ARM's ramp at a watch boundary: the first one makes the stage ARMING. -/
def Dev.ramp (d : Dev) (m : MastId) : Dev :=
  if (d.mast m).boot.busy != some .loopArm then d
  else
    let first := (d.mast m).boot.stage == .seeded
    let d := if first then d.onBoot m (fun b => { b with stage := .arming, readyAt := none }) else d
    let ts := d.enabledTiles.filter (fun t => !(d.tile t).closed && (first || (d.tile t).ramp < 8))
    d.onTiles ts (fun _ x => ({ x with ramp := if first then 0 else x.ramp } : Tile).rampStep)

/-- A tile enabled after LOOP_ARM may close from the next boundary on. -/
def Tile.lateReady (x : Tile) : Tile := if x.ramp == 9 then { x with ramp := 8 } else x

/-- READY comes 3 loop periods of the slowest enabled tile after the last closure (R63). -/
def Dev.setReadyAt (d : Dev) (m : MastId) : Dev :=
  let b := (d.mast m).boot
  if b.busy == some .loopArm && b.stage == .arming && b.readyAt.isNone && d.enabledTiles.all (fun t => (d.tile t).closed) then
    let at_ := d.beat + 3 * d.enabledTiles.foldl (fun n t => Nat.max n (d.T t)) 0
    d.onBoot m (fun b => { b with readyAt := some at_ })
  else d

/-- One alive tile at a watch boundary, with the VHTR it measures. -/
def Dev.tileWatch (d : Dev) (t mv : Nat) (cond : List (Nat × Nat)) (lanes : List Nat) : Dev :=
  let loop := d.loopEdge t
  let scans := (d.tile t).selfcal.isNone && (!(d.tile t).conv.lpNow || loop)
  let d := d.onTile t (fun x =>
    let x := if scans then { x with railMv := mv, rs := x.par.rsReg mv } else x
    (x.measure cond).limits lanes)
  let d := if loop then
      let d := d.onTile t (fun x => if x.closed then x.endPeriod else x)
      let d := if (d.tile t).enabled then d.act (fun m => (d.corePeriod m t).loadLoops m t) else d
      let d := d.takeParams t
      d.onTile t (fun x => if x.ramp == 8 && !x.closed then x.close else x)
    else d
  let d := d.heaters t mv
  let d := d.onTile t (fun x => x.lateReady.mapCells (fun c => { c with
    before := none, htr := { c.htr with kept := c.htr.overrun, overrun := false } }))
  d.startScan t mv

/-! ## The heater rail (R420, R421, R424, R425) -/

/-- The level acts, the reef form is chosen, a sprint ends or starts, and ALLOW is shared out. -/
def Dev.railWatch (d : Dev) (m : MastId) : Dev :=
  let ts := d.enabledTiles
  let form := 8 < ts.length && d.part == .d16
  let d := d.onPwr m (fun x => { x with actLevel := x.level, form := form })
  let x := (d.mast m).pwr
  let d := if x.sprint.isNone then d
    else if d.sprintOver m then d.endSprint m true
    else if 50 ≤ x.sprintLow || 2 ≤ x.actLevel then d.endSprint m false
    else d
  let d := d.endWait m
  let x := (d.mast m).pwr
  let now := d.beat
  let d := if d.effF m 0x8000 0 1 == 1 && x.sprint.isNone && x.waitUntil.isNone && x.actLevel < 2 && x.cappedPrev then
      (d.onPwr m (fun x => { x with sprint := some now, sprintLow := 0 })).count m 0x8010 16 16 1
    else d
  let H := d.allowance? m
  d.onTiles ts (fun _ x => { x with allow := H / ts.length })

/-- After the tiles have formed their codes: what the next boundary judges sprints by. -/
def Dev.railAfter (d : Dev) (m : MastId) : Dev :=
  let ts := d.enabledTiles
  let base := d.baseAllowance m / ts.length
  let low := ts.all (fun t => (d.tile t).est ≤ base)
  let capped := ts.any (fun t => (d.tile t).cappedNow)
  d.onPwr m (fun x => { x with cappedPrev := capped, sprintLow := if x.sprint.isSome && low then x.sprintLow + 1 else 0 })

/-- Swept cells that the cap reached in phases A, C or D are interrupted (R292). -/
def Dev.capInterrupt (d : Dev) (m : MastId) : Dev :=
  match (d.cal m).pass with
  | none => d
  | some p => d.interrupt m (fun c =>
      [1, 3, 4].contains (tget 0 p.phase (c.cell / laneCount)) && (d.cell c.cell).htr.capped)
      (fun _ => false)

/-! ## Register values and counters (R311, R372, R490, R491) -/

/-- A change of SRC in force: ACQUIRING, or FREERUN. -/
def Dev.srcTaken (d : Dev) (m : MastId) (old : Nat) : Dev :=
  let new := d.src m
  if new == old then d
  else d.onTim m (fun t => { t with 
      state := if new == 0 then .freerun else .acquiring, run := 0, gmAt := none, fresh := t.state == .freerun && new != 0 })

/-- PMC selections written since the last boundary: counters zeroed, GEN advanced once. -/
def Egress.reprogram (e : Egress) : Egress :=
  if e.selWritten.isEmpty then e
  else { e with
    ctr := e.selWritten.foldl (fun t k => tset 0 t k 0) e.ctr, wrap := e.wrap.filter (fun k => !e.selWritten.contains k)
    gen := (e.gen + 1) % 2 ^ 32, selWritten := [] }

/-- Every accepted register value takes effect on a mast. -/
def Dev.latchMast (d : Dev) (m : MastId) : Dev :=
  let old := d.src m
  let d := d.onMast m (fun x => x.latch)
  let d := d.onEg m Egress.reprogram
  if d.serving == some m then d.srcTaken m old else d

/-- Budgets reset, waiting frames and cores that stood for want of allowance go on (R16, R17, R34, R228). -/
def Dev.resetBudgets (d : Dev) (m : MastId) : Dev :=
  ((d.tillCount m).stayWatch m).each ((d.mast m).cores.map Prod.fst) (fun k d =>
    let live := d.liveRun m k
    d.onCore m k (fun c => { c with
      spentLoop := 0, spentDither := 0, spentSvc := [], lateLogged := false, run := if c.run == .budget then live else c.run }))

/-! ## Telemetry (R363, R366, R426) -/

/-- Does a stream take a periodic record at this boundary? -/
def Stream.duePeriodic (x : Stream) (sel ns beat : Nat) : Bool :=
  x.defn.sel.getLsbD sel && x.defn.period != 0 && ns % (20000 * x.defn.period) == 0 && x.produces beat

/-- A periodic record for every stream that takes it. -/
def Dev.telPeriodic (d : Dev) (m : MastId) (sel : Nat) (r : TelRec) : Dev :=
  d.each ((d.mast m).eg.streams.map Prod.fst) (fun s d => match d.stream m s with
    | some x => if !x.defn.ipfix && x.duePeriodic sel d.now.ns d.beat then d.queueTel m s r else d
    | none => d)

/-- The LOOP record. -/
def Dev.loopTel (d : Dev) (m : MastId) : TelRec :=
  let ts := d.enabledTiles
  ⟨0x03, d.now, (d.fab m).epoch, ts.flatMap (fun t =>
    ((0x4100 + 8 * t) :: [0, 1, 2, 3].map (fun j => 0x4200 + 8 * (4 * t + j))).flatMap (fun o => leBytes 8 (d.regValue m o).toNat))⟩

/-- The TIME record. -/
def Dev.timeTel (d : Dev) (m : MastId) : TelRec :=
  ⟨0x06, d.now, (d.fab m).epoch, [0x5028, 0x5030, 0x5038, 0x5040].flatMap (fun o => leBytes 8 (d.regValue m o).toNat)⟩

/-- The THERMAL record. -/
def Dev.thermalTel (d : Dev) (m : MastId) : TelRec :=
  let x := (d.mast m).pwr
  let ts := d.enabledTiles
  let flags := x.level + 8 * b2n x.form + 16 * b2n x.sprint.isSome + 32 * b2n x.waitUntil.isSome + 64 * b2n x.jwarn
  ⟨0x07, d.now, (d.fab m).epoch,
    layout ([(1, flags), (1, ts.length), (2, toField 16 x.rateMax), (2, toField 16 x.tj), (2, 0), (4, (ts.map (fun t => (d.tile t).est)).sum),
      (4, (ts.map (fun t => (d.tile t).allow)).sum)] ++
      ts.flatMap (fun t => [(2, toField 16 (d.tile t).temp), (2, match (d.tile t).rate with | some r => toField 16 r | none => 0x8000)]))⟩

/-- Counter k's IPFIX data record, in network order (R366). -/
def Dev.ipfixRec (d : Dev) (m : MastId) (ep k : Nat) : TelRec :=
  let e := (d.mast m).eg
  ⟨0x100, d.now, ep, beBytes 8 (ntpTime d.now) ++ beBytes 8 ep ++ beBytes 2 k ++ beBytes 4 (fld (d.eff m (0xC800 + 8 * k)) 0 32) ++
    beBytes 8 (tget 0 e.ctr k) ++ beBytes 1 (b2n (e.wrap.contains k))⟩

/-- COUNTERS records and IPFIX exports: the counts before anything of this boundary. -/
def Dev.countersTel (d : Dev) (m : MastId) : Dev :=
  let ep := d.epochBefore m
  let r : TelRec := ⟨0x08, d.now, ep, (d.snapshot m).bytes⟩
  let data := (List.range 256).map (d.ipfixRec m ep)
  d.each ((d.mast m).eg.streams.map Prod.fst) (fun s d => match d.stream m s with
    | some x =>
      if !x.duePeriodic 7 d.now.ns d.beat then d
      else if x.defn.ipfix then d.each data (fun r d => d.queueTel m s r)
      else d.queueTel m s r
    | none => d)

/-- The records of a watch boundary. -/
def Dev.watchTel (d : Dev) (m : MastId) : Dev :=
  let p := (d.mast m).pen
  let d := if p.announce then
      (d.tel m 9 ⟨0x0A, d.now, (d.fab m).epoch, layout [(8, p.epoch), (8, midx m)]⟩).onPen m (fun p => { p with announce := false })
    else d
  ((d.telPeriodic m 2 (d.loopTel m)).telPeriodic m 5 (d.timeTel m)).telPeriodic m 6 (d.thermalTel m)

/-! ## The flight record (R332, R335, R363) -/

/-- CELL records of a frame for one stream, as many cells in each as one packet holds. -/
def cellTel (hdr : List Byte) (f : Frame) (per first : Nat) : Nat → List CellRec → List TelRec
  | 0, _ => []
  | n + 1, l =>
    if l.isEmpty then []
    else
      let now := l.take per
      ⟨0x02, f.time, f.epoch, hdr ++ layout [(2, first), (2, now.length)] ++ (now.flatMap plainRec).flatMap (leBytes 2)⟩ ::
        cellTel hdr f per (first + per) n (l.drop per)

/-- The header of a frame (R332). -/
def Dev.frameHead (d : Dev) (f : Frame) : List Byte := headOut (
  [f.time.sec, 16 * b2n f.gap, f.time.ns, f.epoch, maskOf f.strikes, 1] ++
    (List.range 16).map (fun t => if (d.tile t).enabled then Config.scanOfs t f.beat % 256 else 0))

/-- Transfers of 64 bytes that hold the header of a frame and `n` cell records (R332, R333). -/
def frameXfers (n : Nat) : Nat := 1 + (12 * n + 63) / 64

/-- The CELL records of a frame in the ring for one stream. -/
def Dev.cellRead (d : Dev) (m : MastId) (s : Nat) (x : Stream) (f : Frame) : Dev :=
  let per := (d.mtu m x.defn.port - pktHead x.defn - 92) / 12
  let cells := f.recs.filter (fun r => x.defn.first ≤ r.cell && r.cell < x.defn.first + x.defn.count)
  d.hbmGo m 4 (frameXfers cells.length) (fun d =>
    (d.each (cellTel (d.frameHead f) f per x.defn.first cells.length cells) (fun r d => d.queueTel m s r)).onGln m (fun g =>
      { g with cellDue := g.cellDue.filter (· != (s, f.beat)) }))

/-- Streams read the frames they still take CELL records from, charged to the telemetry class (R363); a frame that the ring no
longer holds gives none. -/
def Dev.cellReads (d : Dev) (m : MastId) : Dev :=
  d.each (d.mast m).gln.cellDue (fun e d =>
    match d.stream m e.1, (d.mast m).gln.frames.find? (fun f => f.beat == e.2) with
    | some x, some f => d.cellRead m e.1 x f
    | _, _ => d.onGln m (fun g => { g with cellDue := g.cellDue.filter (· != e) }))

/-- Every stream that takes CELL records of a frame is to read it. -/
def Dev.frameTel (d : Dev) (m : MastId) (f : Frame) : Dev :=
  let due := ((d.mast m).eg.streams.map Prod.fst).filter (fun s => match d.stream m s with
    | some x => !x.defn.ipfix && x.duePeriodic 1 f.time.ns d.beat
    | none => false)
  (d.onGln m (fun g => { g with cellDue := g.cellDue ++ due.map (fun s => (s, f.beat)) })).cellReads m

/-- During watch n + 1 the frame of watch n is written, charged to the Glean-write class (R335). -/
def execFlightRecordFrame (s : State) : Host.Outcome State Fault Refusal :=
  run s (fun d => d.act (fun m => match (d.mast m).gln.build with
    | some f => d.hbmGo m 3 (1 + 288 * d.enabledTiles.length) (fun d => (d.putFrame m f).frameTel m f)
    | none => d))

/-! ## The watch boundary -/

/-- What the holder sends to the standby of the watch that ends (R22, R401). -/
def Dev.sendMirror (d : Dev) (m : MastId) : Dev :=
  if (d.mast m).pen.gaff then
    let g := d.mirrorOf m
    d.onPen m (fun p => { p with mirrorOut := some g })
  else d

/-- The flight record begins where the holder is powered and it does not run (R331). -/
def Dev.recordOn (d : Dev) (m : MastId) : Dev :=
  if (d.mast m).boot.stage.powered? && !(d.mast m).gln.recording then d.restartRecord m else d

/-- A watch boundary. `vhtr` is the rail each tile measures, in mV; `cond` the conductances measured, in µS by cell; `limited` the
cells whose current limit is engaged. -/
def execWatchBoundary (vhtr : List Nat) (cond : List (Nat × Nat)) (limited : List Nat) (s : State) :
    Host.Outcome State Fault Refusal :=
  run s (fun d =>
    if d.stands || !d.watchEdge || d.lastWatch == some d.beat then d
    else
      let now := d.beat
      let d := { d with lastWatch := some now }
      let d := d.act (fun m => (((d.gatherFrame m).recordOn m).countersTel m).sendMirror m)
      let d := ((((d.latchMast .fore).latchMast .main).channelsBack .fore).channelsBack .main).judgeProtect
      let d := d.act (fun m => ((((d.when (d.mast m).pen.due (fun d => d.startCores m))).resetBudgets m).railWatch m).ramp m)
      let d := d.each d.aliveTiles (fun t d =>
        let mine := fun (c : Nat) => c / laneCount == t
        d.tileWatch t (vhtr.getD t (d.tile t).railMv)
          ((cond.filter (fun e => mine e.1)).map (fun e => (e.1 % laneCount, e.2))) ((limited.filter mine).map (· % laneCount)))
      d.act (fun m => ((((((d.railAfter m).capInterrupt m).setReadyAt m).calLatch m).lagOk m).cellReads m).watchTel m))

end Sys2Proof.Machine
end

