-- ==== Sys2Proof/Machine/Dispatch.lean ====
section
/-! DEFINITION. One arm per command: a direct call of its meaning. -/

namespace Sys2Proof.Machine

/-- The effect of a command on everything but the queue. -/
def exec (i : Instr) (s : State) : Host.Outcome State Fault Refusal :=
  match i with
  | .poresetNRise bootSel => Sys2Proof.Machine.execPoresetNRise bootSel s
  | .poresetNFall => Sys2Proof.Machine.execPoresetNFall s
  | .bootImageVerified m => Sys2Proof.Machine.execBootImageVerified m s
  | .usb4LinkTraining m mode => Sys2Proof.Machine.execUsb4LinkTraining m mode s
  | .pcieTunnelEstablished m => Sys2Proof.Machine.execPcieTunnelEstablished m s
  | .pennantBootTimeout => Sys2Proof.Machine.execPennantBootTimeout s
  | .ident m => Sys2Proof.Machine.execIdent m s
  | .load m img => Sys2Proof.Machine.execLoad m img s
  | .norWrite m img => Sys2Proof.Machine.execNorWrite m img s
  | .status m => Sys2Proof.Machine.execStatus m s
  | .setupRegisterWrite off w => Sys2Proof.Machine.execSetupRegisterWrite off w s
  | .timNowSRead m cycle => Sys2Proof.Machine.execTimNowSRead m cycle s
  | .fabTileEnWrite w => Sys2Proof.Machine.execFabTileEnWrite w s
  | .topoLoad m => Sys2Proof.Machine.execTopoLoad m s
  | .topoTableFetched bytes => Sys2Proof.Machine.execTopoTableFetched bytes s
  | .power m => Sys2Proof.Machine.execPower m s
  | .selfCalibrationDone tile => Sys2Proof.Machine.execSelfCalibrationDone tile s
  | .seedRestore m => Sys2Proof.Machine.execSeedRestore m s
  | .seedRestoreDone => Sys2Proof.Machine.execSeedRestoreDone s
  | .calFull m => Sys2Proof.Machine.execCalFull m s
  | .loopArm m => Sys2Proof.Machine.execLoopArm m s
  | .stageReady => Sys2Proof.Machine.execStageReady s
  | .pcieReset m => Sys2Proof.Machine.execPcieReset m s
  | .usb4LinkDown m => Sys2Proof.Machine.execUsb4LinkDown m s
  | .hifEnable w ctx0 ring0 => Sys2Proof.Machine.execHifEnable w ctx0 ring0 s
  | .hifDisable w => Sys2Proof.Machine.execHifDisable w s
  | .backlogDrop m => Sys2Proof.Machine.execBacklogDrop m s
  | .hifAddrWrite off w => Sys2Proof.Machine.execHifAddrWrite off w s
  | .hifPollWrite w => Sys2Proof.Machine.execHifPollWrite w s
  | .hostLoss => Sys2Proof.Machine.execHostLoss s
  | .hostLossDrained => Sys2Proof.Machine.execHostLossDrained s
  | .poll => Sys2Proof.Machine.execPoll s
  | .summaryLineReturn line sweep => Sys2Proof.Machine.execSummaryLineReturn line sweep s
  | .doorbellBurstReturn dbs spec bad => Sys2Proof.Machine.execDoorbellBurstReturn dbs spec bad s
  | .fetchGrant => Sys2Proof.Machine.execFetchGrant s
  | .descriptorFetchReturn ring ents err => Sys2Proof.Machine.execDescriptorFetchReturn ring ents err s
  | .coalescingTimeout ring => Sys2Proof.Machine.execCoalescingTimeout ring s
  | .inflightTailExpiry ring seq => Sys2Proof.Machine.execInflightTailExpiry ring seq s
  | .nop ring seq => Sys2Proof.Machine.execNop ring seq s
  | .badOpcode ring seq => Sys2Proof.Machine.execBadOpcode ring seq s
  | .ctxOpen ring seq index ent => Sys2Proof.Machine.execCtxOpen ring seq index ent s
  | .ctxRebind ring seq index => Sys2Proof.Machine.execCtxRebind ring seq index s
  | .ctxRebindComplete ring seq ent rings => Sys2Proof.Machine.execCtxRebindComplete ring seq ent rings s
  | .ctxClose ring seq index dbs => Sys2Proof.Machine.execCtxClose ring seq index dbs s
  | .ctxCloseForce ring seq index => Sys2Proof.Machine.execCtxCloseForce ring seq index s
  | .ctxCloseComplete ring seq => Sys2Proof.Machine.execCtxCloseComplete ring seq s
  | .ringReg ring seq index ent => Sys2Proof.Machine.execRingReg ring seq index ent s
  | .ringUnreg ring seq index force => Sys2Proof.Machine.execRingUnreg ring seq index force s
  | .ringUnregComplete ring seq => Sys2Proof.Machine.execRingUnregComplete ring seq s
  | .winCfgWrite win w => Sys2Proof.Machine.execWinCfgWrite win w s
  | .sheafOpen ring seq readAll baseNow presolved preserve reefFail baseEpoch => Sys2Proof.Machine.execSheafOpen ring seq readAll baseNow presolved preserve reefFail baseEpoch s
  | .sheafCommit ring seq at_ => Sys2Proof.Machine.execSheafCommit ring seq at_ s
  | .sheafAbort ring seq => Sys2Proof.Machine.execSheafAbort ring seq s
  | .connect ring seq inp out => Sys2Proof.Machine.execConnect ring seq inp out s
  | .disconnect ring seq port side => Sys2Proof.Machine.execDisconnect ring seq port side s
  | .move ring seq keep old new side => Sys2Proof.Machine.execMove ring seq keep old new side s
  | .assert ring seq inp out => Sys2Proof.Machine.execAssert ring seq inp out s
  | .setCell ring seq cell mode code => Sys2Proof.Machine.execSetCell ring seq cell mode code s
  | .setLoop ring seq cell tileScope param value => Sys2Proof.Machine.execSetLoop ring seq cell tileScope param value s
  | .setPark ring seq cell tileScope code => Sys2Proof.Machine.execSetPark ring seq cell tileScope code s
  | .tag ring seq data => Sys2Proof.Machine.execTag ring seq data s
  | .permute ring seq slot => Sys2Proof.Machine.execPermute ring seq slot s
  | .cells ring seq slot => Sys2Proof.Machine.execCells ring seq slot s
  | .mapRead ring seq epoch slot => Sys2Proof.Machine.execMapRead ring seq epoch slot s
  | .mapReadDone ring seq => Sys2Proof.Machine.execMapReadDone ring seq s
  | .epochNow ring seq => Sys2Proof.Machine.execEpochNow ring seq s
  | .scheduledDuePoint ring sheafId => Sys2Proof.Machine.execScheduledDuePoint ring sheafId s
  | .scheduledDecisionBeat ring sheafId => Sys2Proof.Machine.execScheduledDecisionBeat ring sheafId s
  | .sheafTurn => Sys2Proof.Machine.execSheafTurn s
  | .routeSolveDone res => Sys2Proof.Machine.execRouteSolveDone res s
  | .migrationShadowSettled => Sys2Proof.Machine.execMigrationShadowSettled s
  | .decisionToStrike => Sys2Proof.Machine.execDecisionToStrike s
  | .stagingFrame tile tsid => Sys2Proof.Machine.execStagingFrame tile tsid s
  | .armFrameSend => Sys2Proof.Machine.execArmFrameSend s
  | .armFrame tile crcOk => Sys2Proof.Machine.execArmFrame tile crcOk s
  | .stageAcknowledgement tile => Sys2Proof.Machine.execStageAcknowledgement tile s
  | .stageRefusal tile => Sys2Proof.Machine.execStageRefusal tile s
  | .strikeWordSend => Sys2Proof.Machine.execStrikeWordSend s
  | .disarmFrame tile tsid => Sys2Proof.Machine.execDisarmFrame tile tsid s
  | .strikeWord tile startOk crcOk tsid pennant => Sys2Proof.Machine.execStrikeWord tile startOk crcOk tsid pennant s
  | .strikeBeat => Sys2Proof.Machine.execStrikeBeat s
  | .shadowRefreshDone sets => Sys2Proof.Machine.execShadowRefreshDone sets s
  | .armedSheafTimeout tile => Sys2Proof.Machine.execArmedSheafTimeout tile s
  | .strikeMissReport tile => Sys2Proof.Machine.execStrikeMissReport tile s
  | .repairWordSend => Sys2Proof.Machine.execRepairWordSend s
  | .strayStrikeReport tile tsid => Sys2Proof.Machine.execStrayStrikeReport tile tsid s
  | .fabStrikeWrite w => Sys2Proof.Machine.execFabStrikeWrite w s
  | .topoSwap ring seq slot => Sys2Proof.Machine.execTopoSwap ring seq slot s
  | .topoSwapApply => Sys2Proof.Machine.execTopoSwapApply s
  | .plan ring seq inSlot outSlot => Sys2Proof.Machine.execPlan ring seq inSlot outSlot s
  | .planeSwap ring seq => Sys2Proof.Machine.execPlaneSwap ring seq s
  | .healStrikeTurn => Sys2Proof.Machine.execHealStrikeTurn s
  | .driverCheck tile readback => Sys2Proof.Machine.execDriverCheck tile readback s
  | .driverMismatchReport tile => Sys2Proof.Machine.execDriverMismatchReport tile s
  | .beatBoundary => Sys2Proof.Machine.execBeatBoundary s
  | .watchBoundary vhtr cond limited => Sys2Proof.Machine.execWatchBoundary vhtr cond limited s
  | .conversion tile light => Sys2Proof.Machine.execConversion tile light s
  | .exitReport tile => Sys2Proof.Machine.execExitReport tile s
  | .lowPowerWake tile => Sys2Proof.Machine.execLowPowerWake tile s
  | .fabMonTileWrite tile w => Sys2Proof.Machine.execFabMonTileWrite tile w s
  | .sampleFrame tile lane => Sys2Proof.Machine.execSampleFrame tile lane s
  | .loopLaw core slot => Sys2Proof.Machine.execLoopLaw core slot s
  | .heaterCodeFrame core => Sys2Proof.Machine.execHeaterCodeFrame core s
  | .heaterCodeDeadline => Sys2Proof.Machine.execHeaterCodeDeadline s
  | .flightRecordFrame => Sys2Proof.Machine.execFlightRecordFrame s
  | .frameDropped => Sys2Proof.Machine.execFrameDropped s
  | .fabBudWrite off w => Sys2Proof.Machine.execFabBudWrite off w s
  | .allowanceSpent resource cls unit => Sys2Proof.Machine.execAllowanceSpent resource cls unit s
  | .stayFrameCrcFail tile second frameType => Sys2Proof.Machine.execStayFrameCrcFail tile second frameType s
  | .noOperation core slot => Sys2Proof.Machine.execNoOperation core slot s
  | .ldW core f => Sys2Proof.Machine.execLdW core f s
  | .ldH core f => Sys2Proof.Machine.execLdH core f s
  | .ldHu core f => Sys2Proof.Machine.execLdHu core f s
  | .ldD core f => Sys2Proof.Machine.execLdD core f s
  | .stW core f => Sys2Proof.Machine.execStW core f s
  | .stH core f => Sys2Proof.Machine.execStH core f s
  | .stD core f => Sys2Proof.Machine.execStD core f s
  | .ldA core f => Sys2Proof.Machine.execLdA core f s
  | .stA core f => Sys2Proof.Machine.execStA core f s
  | .lds core f => Sys2Proof.Machine.execLds core f s
  | .sts core f => Sys2Proof.Machine.execSts core f s
  | .movip core p imm => Sys2Proof.Machine.execMovip core p imm s
  | .addp core pk pj imm => Sys2Proof.Machine.execAddp core pk pj imm s
  | .movdp core pk dn imm => Sys2Proof.Machine.execMovdp core pk dn imm s
  | .movim core mk imm => Sys2Proof.Machine.execMovim core mk imm s
  | .mfs core dn sr => Sys2Proof.Machine.execMfs core dn sr s
  | .mts core dn sr => Sys2Proof.Machine.execMts core dn sr s
  | .b core off => Sys2Proof.Machine.execB core off s
  | .beqz core dn off => Sys2Proof.Machine.execBeqz core dn off s
  | .bnez core dn off => Sys2Proof.Machine.execBnez core dn off s
  | .bltz core dn off => Sys2Proof.Machine.execBltz core dn off s
  | .bgez core dn off => Sys2Proof.Machine.execBgez core dn off s
  | .bcnt core off => Sys2Proof.Machine.execBcnt core off s
  | .call core off => Sys2Proof.Machine.execCall core off s
  | .ret core => Sys2Proof.Machine.execRet core s
  | .reti core => Sys2Proof.Machine.execReti core s
  | .movlc core imm => Sys2Proof.Machine.execMovlc core imm s
  | .tapm core ak clr pd pc => Sys2Proof.Machine.execTapm core ak clr pd pc s
  | .wait core => Sys2Proof.Machine.execWait core s
  | .waitResume core => Sys2Proof.Machine.execWaitResume core s
  | .ei core e => Sys2Proof.Machine.execEi core e s
  | .add core f => Sys2Proof.Machine.execAdd core f s
  | .sub core f => Sys2Proof.Machine.execSub core f s
  | .and core f => Sys2Proof.Machine.execAnd core f s
  | .or core f => Sys2Proof.Machine.execOr core f s
  | .xor core f => Sys2Proof.Machine.execXor core f s
  | .shl core f => Sys2Proof.Machine.execShl core f s
  | .shr core f => Sys2Proof.Machine.execShr core f s
  | .shra core f => Sys2Proof.Machine.execShra core f s
  | .min core f => Sys2Proof.Machine.execMin core f s
  | .max core f => Sys2Proof.Machine.execMax core f s
  | .zsel core f => Sys2Proof.Machine.execZsel core f s
  | .mulh core f => Sys2Proof.Machine.execMulh core f s
  | .divq core f => Sys2Proof.Machine.execDivq core f s
  | .addi core d a imm sat => Sys2Proof.Machine.execAddi core d a imm sat s
  | .shi core d a kind amt sat => Sys2Proof.Machine.execShi core d a kind amt sat s
  | .movi core d imm => Sys2Proof.Machine.execMovi core d imm s
  | .movhi core d imm => Sys2Proof.Machine.execMovhi core d imm s
  | .mac core ak x c h neg clr => Sys2Proof.Machine.execMac core ak x c h neg clr s
  | .mac2 core pair x y c neg clr => Sys2Proof.Machine.execMac2 core pair x y c neg clr s
  | .narrow core d ak sh sat => Sys2Proof.Machine.execNarrow core d ak sh sat s
  | .mva core d ak part => Sys2Proof.Machine.execMva core d ak part s
  | .mta core d ak part => Sys2Proof.Machine.execMta core d ak part s
  | .rot core abs k => Sys2Proof.Machine.execRot core abs k s
  | .illegalBundle core bundle => Sys2Proof.Machine.execIllegalBundle core bundle s
  | .interruptEntry core => Sys2Proof.Machine.execInterruptEntry core s
  | .kernelBudgetStop core => Sys2Proof.Machine.execKernelBudgetStop core s
  | .serviceContextRun core cycles => Sys2Proof.Machine.execServiceContextRun core cycles s
  | .codeOut core word => Sys2Proof.Machine.execCodeOut core word s
  | .sqCons core value => Sys2Proof.Machine.execSqCons core value s
  | .kernelLoad ring seq slot handle => Sys2Proof.Machine.execKernelLoad ring seq slot handle s
  | .kernelLoadDone ring seq => Sys2Proof.Machine.execKernelLoadDone ring seq s
  | .kernelBind ring seq tile handle => Sys2Proof.Machine.execKernelBind ring seq tile handle s
  | .kernelBindApply tile => Sys2Proof.Machine.execKernelBindApply tile s
  | .kernelDrop ring seq handle => Sys2Proof.Machine.execKernelDrop ring seq handle s
  | .slewStep cell => Sys2Proof.Machine.execSlewStep cell s
  | .immediateWrite cell tgt pennant thresh crcOk => Sys2Proof.Machine.execImmediateWrite cell tgt pennant thresh crcOk s
  | .parkNFall => Sys2Proof.Machine.execParkNFall s
  | .parkNRise => Sys2Proof.Machine.execParkNRise s
  | .parkRelease => Sys2Proof.Machine.execParkRelease s
  | .gainTake tile => Sys2Proof.Machine.execGainTake tile s
  | .fabDrvTileWrite tile w => Sys2Proof.Machine.execFabDrvTileWrite tile w s
  | .heaterLimitReport tile => Sys2Proof.Machine.execHeaterLimitReport tile s
  | .temperatureUpdate sensors => Sys2Proof.Machine.execTemperatureUpdate sensors s
  | .calPass ring seq tiles ditherOnly shadow spares noTrim => Sys2Proof.Machine.execCalPass ring seq tiles ditherOnly shadow spares noTrim s
  | .passStart => Sys2Proof.Machine.execPassStart s
  | .passPlanDone plan => Sys2Proof.Machine.execPassPlanDone plan s
  | .roundStart tile again => Sys2Proof.Machine.execRoundStart tile again s
  | .threshPhaseEnd tile => Sys2Proof.Machine.execThreshPhaseEnd tile s
  | .dwell tile conv use raw ovr refOk => Sys2Proof.Machine.execDwell tile conv use raw ovr refOk s
  | .ditherTimeout cell => Sys2Proof.Machine.execDitherTimeout cell s
  | .applicationBoundary => Sys2Proof.Machine.execApplicationBoundary s
  | .calRead ring seq first count slot => Sys2Proof.Machine.execCalRead ring seq first count slot s
  | .calReadDone ring seq => Sys2Proof.Machine.execCalReadDone ring seq s
  | .seedSave ring seq => Sys2Proof.Machine.execSeedSave ring seq s
  | .seedSnapshot => Sys2Proof.Machine.execSeedSnapshot s
  | .norEraseDone m => Sys2Proof.Machine.execNorEraseDone m s
  | .norPageProgramDone m => Sys2Proof.Machine.execNorPageProgramDone m s
  | .syncMessage m port msg => Sys2Proof.Machine.execSyncMessage m port msg s
  | .followUp m port seq origin correction corr => Sys2Proof.Machine.execFollowUp m port seq origin correction corr s
  | .announceMessage m port msg => Sys2Proof.Machine.execAnnounceMessage m port msg s
  | .delayReq m port ns => Sys2Proof.Machine.execDelayReq m port ns s
  | .delayResp m port seq received correction logInterval => Sys2Proof.Machine.execDelayResp m port seq received correction logInterval s
  | .announceReceiptTimeout m => Sys2Proof.Machine.execAnnounceReceiptTimeout m s
  | .holdoverEnd m => Sys2Proof.Machine.execHoldoverEnd m s
  | .ppsInEdge ns corr => Sys2Proof.Machine.execPpsInEdge ns corr s
  | .ppsInLoss => Sys2Proof.Machine.execPpsInLoss s
  | .timebaseStep => Sys2Proof.Machine.execTimebaseStep s
  | .timCtlWrite w => Sys2Proof.Machine.execTimCtlWrite w s
  | .timSet w => Sys2Proof.Machine.execTimSet w s
  | .timPtpWrite port w => Sys2Proof.Machine.execTimPtpWrite port w s
  | .ppsOutEnd => Sys2Proof.Machine.execPpsOutEnd s
  | .halyardClockLoss => Sys2Proof.Machine.execHalyardClockLoss s
  | .halyardTriggerSymbol sym slot => Sys2Proof.Machine.execHalyardTriggerSymbol sym slot s
  | .halyardTimeCode sym => Sys2Proof.Machine.execHalyardTimeCode sym s
  | .halyardSlot => Sys2Proof.Machine.execHalyardSlot s
  | .trigInRise ns => Sys2Proof.Machine.execTrigInRise ns s
  | .captureTimeEvent unit => Sys2Proof.Machine.execCaptureTimeEvent unit s
  | .capArm ring seq unit causeEn startDiv thin first count pre post slot owners nslots at_ => Sys2Proof.Machine.execCapArm ring seq unit causeEn startDiv thin first count pre post slot owners nslots at_ s
  | .capFire ring seq unit => Sys2Proof.Machine.execCapFire ring seq unit s
  | .capCancel ring seq unit => Sys2Proof.Machine.execCapCancel ring seq unit s
  | .triggerSettle unit => Sys2Proof.Machine.execTriggerSettle unit s
  | .trigOutEnd => Sys2Proof.Machine.execTrigOutEnd s
  | .captureWatchRead unit => Sys2Proof.Machine.execCaptureWatchRead unit s
  | .captureRateStep unit => Sys2Proof.Machine.execCaptureRateStep unit s
  | .captureStop unit => Sys2Proof.Machine.execCaptureStop unit s
  | .captureDrainEnd unit => Sys2Proof.Machine.execCaptureDrainEnd unit s
  | .streamOpen ring seq stream slot => Sys2Proof.Machine.execStreamOpen ring seq stream slot s
  | .streamClose ring seq stream => Sys2Proof.Machine.execStreamClose ring seq stream s
  | .streamCloseDrained stream => Sys2Proof.Machine.execStreamCloseDrained stream s
  | .streamCloseTimeout stream => Sys2Proof.Machine.execStreamCloseTimeout stream s
  | .shapeSet ring seq kind index rate burst weight => Sys2Proof.Machine.execShapeSet ring seq kind index rate burst weight s
  | .packetCloseTimeout stream => Sys2Proof.Machine.execPacketCloseTimeout stream s
  | .portTransmit port => Sys2Proof.Machine.execPortTransmit port s
  | .calendarTick => Sys2Proof.Machine.execCalendarTick s
  | .templateResend stream => Sys2Proof.Machine.execTemplateResend stream s
  | .bandwidthWindowEnd m hbm => Sys2Proof.Machine.execBandwidthWindowEnd m hbm s
  | .counterSnap ring seq slot clear => Sys2Proof.Machine.execCounterSnap ring seq slot clear s
  | .counterSnapLatch => Sys2Proof.Machine.execCounterSnapLatch s
  | .pmcSelWrite k w => Sys2Proof.Machine.execPmcSelWrite k w s
  | .ethPortWrite off w => Sys2Proof.Machine.execEthPortWrite off w s
  | .ethFrameReceive m port len f => Sys2Proof.Machine.execEthFrameReceive m port len f s
  | .ethernetLinkLost m port => Sys2Proof.Machine.execEthernetLinkLost m port s
  | .rsFecErrorLimit m port codewords => Sys2Proof.Machine.execRsFecErrorLimit m port codewords s
  | .faultReport m reports => Sys2Proof.Machine.execFaultReport m reports s
  | .faultVectorHoldoffEnd m => Sys2Proof.Machine.execFaultVectorHoldoffEnd m s
  | .pcieErrorCompletion kind index => Sys2Proof.Machine.execPcieErrorCompletion kind index s
  | .winnowTestStart m => Sys2Proof.Machine.execWinnowTestStart m s
  | .winnowTestEnd m u seen => Sys2Proof.Machine.execWinnowTestEnd m u seen s
  | .winnowTestTimeout m u => Sys2Proof.Machine.execWinnowTestTimeout m u s
  | .fltFenceCmd w => Sys2Proof.Machine.execFltFenceCmd w s
  | .fltFirstClr w => Sys2Proof.Machine.execFltFirstClr w s
  | .fltPendWrite n w => Sys2Proof.Machine.execFltPendWrite n w s
  | .renewalSend => Sys2Proof.Machine.execRenewalSend s
  | .renewalFrame tile => Sys2Proof.Machine.execRenewalFrame tile s
  | .renewalAck tile => Sys2Proof.Machine.execRenewalAck tile s
  | .leaseEnd tile => Sys2Proof.Machine.execLeaseEnd tile s
  | .holderSelfStop => Sys2Proof.Machine.execHolderSelfStop s
  | .idleFrame tile => Sys2Proof.Machine.execIdleFrame tile s
  | .pennantClaim => Sys2Proof.Machine.execPennantClaim s
  | .claimFrame tile => Sys2Proof.Machine.execClaimFrame tile s
  | .claimReachTimeout tile => Sys2Proof.Machine.execClaimReachTimeout tile s
  | .pennantSettlement => Sys2Proof.Machine.execPennantSettlement s
  | .releaseFrame tile => Sys2Proof.Machine.execReleaseFrame tile s
  | .handover w => Sys2Proof.Machine.execHandover w s
  | .handoverBegin => Sys2Proof.Machine.execHandoverBegin s
  | .handoverRelease => Sys2Proof.Machine.execHandoverRelease s
  | .handoverWord => Sys2Proof.Machine.execHandoverWord s
  | .journalEntry => Sys2Proof.Machine.execJournalEntry s
  | .gaffMirror => Sys2Proof.Machine.execGaffMirror s
  | .mirrorAcknowledgement ring seq => Sys2Proof.Machine.execMirrorAcknowledgement ring seq s
  | .penCtlWrite w => Sys2Proof.Machine.execPenCtlWrite w s
  | .penCtlSync => Sys2Proof.Machine.execPenCtlSync s
  | .gaffLinkDown peerHalted => Sys2Proof.Machine.execGaffLinkDown peerHalted s
  | .standbyRejoin => Sys2Proof.Machine.execStandbyRejoin s
  | .admissionSlot => Sys2Proof.Machine.execAdmissionSlot s
  | .domainAlive domain => Sys2Proof.Machine.execDomainAlive domain s
  | .tileEnabled tile => Sys2Proof.Machine.execTileEnabled tile s
  | .tileDisable tile => Sys2Proof.Machine.execTileDisable tile s
  | .sprintLimit => Sys2Proof.Machine.execSprintLimit s
  | .sprintWaitEnd => Sys2Proof.Machine.execSprintWaitEnd s
  | .hoverDwellEnd => Sys2Proof.Machine.execHoverDwellEnd s
  | .junctionSample tj => Sys2Proof.Machine.execJunctionSample tj s
  | .junctionWarningClear => Sys2Proof.Machine.execJunctionWarningClear s
  | .thermalTrip => Sys2Proof.Machine.execThermalTrip s
  | .norHoldupEnd => Sys2Proof.Machine.execNorHoldupEnd s
  | .thermalRestart bootSel => Sys2Proof.Machine.execThermalRestart bootSel s
  | .pwrHtrWrite w => Sys2Proof.Machine.execPwrHtrWrite w s
  | .pmbusPoll replies => Sys2Proof.Machine.execPmbusPoll replies s
  | .pmbAlertNFall replies => Sys2Proof.Machine.execPmbAlertNFall replies s
  | .receipt ring seq epoch slot nonce => Sys2Proof.Machine.execReceipt ring seq epoch slot nonce s
  | .receiptSigned => Sys2Proof.Machine.execReceiptSigned s
  | .identRead ring seq slot => Sys2Proof.Machine.execIdentRead ring seq slot s
  | .keyProgram ring seq slot => Sys2Proof.Machine.execKeyProgram ring seq slot s
  | .keyRevoke ring seq slot => Sys2Proof.Machine.execKeyRevoke ring seq slot s
  | .sramEccError m bank word found need written => Sys2Proof.Machine.execSramEccError m bank word found need written s
  | .sramBankCopyDone m => Sys2Proof.Machine.execSramBankCopyDone m s
  | .hbmEccError m channel addr uncorrectable => Sys2Proof.Machine.execHbmEccError m channel addr uncorrectable s
  | .hbmRebuildDone m => Sys2Proof.Machine.execHbmRebuildDone m s
  | .memoryScrub m hbm sram => Sys2Proof.Machine.execMemoryScrub m hbm sram s
  | .defaultTargetAccess m master write addr => Sys2Proof.Machine.execDefaultTargetAccess m master write addr s
  | .yrdErrClr w => Sys2Proof.Machine.execYrdErrClr w s
  | .yardBypassSwitch m fast => Sys2Proof.Machine.execYardBypassSwitch m fast s
  | .init m => Sys2Proof.Machine.execInit m s
  | .feedB m v => Sys2Proof.Machine.execFeedB m v s
  | .feedH m v => Sys2Proof.Machine.execFeedH m v s
  | .feedW m v => Sys2Proof.Machine.execFeedW m v s
  | .result m => Sys2Proof.Machine.execResult m s
  | .crcScanStart m => Sys2Proof.Machine.execCrcScanStart m s
  | .crcScanDone m bytes => Sys2Proof.Machine.execCrcScanDone m bytes s
  | .refclkLoss m => Sys2Proof.Machine.execRefclkLoss m s
  | .refclkReturn m => Sys2Proof.Machine.execRefclkReturn m s
  | .rcRegisterRead off mast half => Sys2Proof.Machine.execRcRegisterRead off mast half s
  | .gaffLinkTrained => Sys2Proof.Machine.execGaffLinkTrained s
  | .ethernetLinkUp m port => Sys2Proof.Machine.execEthernetLinkUp m port s
  | .halyardClockLock rate => Sys2Proof.Machine.execHalyardClockLock rate s
  | .powerFailure => Sys2Proof.Machine.execPowerFailure s

end Sys2Proof.Machine
end

