-- ==== Sys2Proof/Laws/State.lean ====
section
/-! SUPPORT. What each update of the block leaves alone, field by field, and what it makes a read of the same field give. -/

namespace Sys2Proof.Machine

/-! ## Sparse tables -/

theorem tget_terase_self {α : Type} (d : α) (t : Tbl α) (k : Nat) : tget d (terase t k) k = d := by
  induction t with
  | nil => rfl
  | cons e r ih =>
    obtain ⟨j, v⟩ := e
    by_cases h : j = k
    · simpa [terase, h] using ih
    · simpa [terase, h, tget] using ih

theorem tget_terase_ne {α : Type} (d : α) (t : Tbl α) (k j : Nat) (h : j ≠ k) : tget d (terase t k) j = tget d t j := by
  induction t with
  | nil => rfl
  | cons e r ih =>
    obtain ⟨i, v⟩ := e
    by_cases hi : i = k
    · subst hi
      have : ¬ i = j := fun e => h e.symm
      simpa [terase, tget, this] using ih
    · by_cases hj : i = j
      · subst hj
        simp [terase, tget, hi]
      · simpa [terase, tget, hi, hj] using ih

theorem tget_tinsert_self {α : Type} (d : α) (t : Tbl α) (k : Nat) (v : α) (h : ∀ e ∈ t, e.1 ≠ k) :
    tget d (tinsert k v t) k = v := by
  induction t with
  | nil => simp [tinsert, tget]
  | cons e r ih =>
    obtain ⟨j, w⟩ := e
    have hj : j ≠ k := h (j, w) (by simp)
    have hr : ∀ e ∈ r, e.1 ≠ k := fun e he => h e (by simp [he])
    by_cases hk : k < j
    · simp [tinsert, hk, tget]
    · simp [tinsert, hk, tget, hj, ih hr]

theorem tget_tinsert_ne {α : Type} (d : α) (t : Tbl α) (k j : Nat) (v : α) (h : j ≠ k) :
    tget d (tinsert k v t) j = tget d t j := by
  induction t with
  | nil => simp [tinsert, tget, Ne.symm h]
  | cons e r ih =>
    obtain ⟨i, w⟩ := e
    by_cases hk : k < i
    · simp [tinsert, hk, tget, Ne.symm h]
    · simp [tinsert, hk, tget, ih]

theorem terase_no_key {α : Type} (t : Tbl α) (k : Nat) : ∀ e ∈ terase t k, e.1 ≠ k := by
  intro e he
  simpa using (List.mem_filter.mp he).2

/-- A key just written reads as written. -/
@[simp] theorem tget_tset_self {α : Type} [DecidableEq α] (d : α) (t : Tbl α) (k : Nat) (v : α) :
    tget d (tset d t k v) k = v := by
  unfold tset
  split
  · next h => rw [tget_terase_self, h]
  · exact tget_tinsert_self d _ k v (terase_no_key t k)

/-- Every other key reads as before. -/
theorem tget_tset_ne {α : Type} [DecidableEq α] (d : α) (t : Tbl α) (k j : Nat) (v : α) (h : j ≠ k) :
    tget d (tset d t k v) j = tget d t j := by
  unfold tset
  split
  · exact tget_terase_ne d t k j h
  · rw [tget_tinsert_ne d _ k j v h, tget_terase_ne d t k j h]

theorem terase_sublist {α : Type} (t : Tbl α) (k : Nat) : (terase t k).Sublist t := List.filter_sublist

theorem tinsert_keys_mem {α : Type} (k : Nat) (v : α) (t : Tbl α) (j : Nat) (h : j ∈ (tinsert k v t).map Prod.fst) :
    j = k ∨ j ∈ t.map Prod.fst := by
  induction t with
  | nil => simpa [tinsert] using h
  | cons e r ih =>
    obtain ⟨i, w⟩ := e
    by_cases hk : k < i
    · simpa [tinsert, hk] using h
    · simp only [tinsert, hk, if_false, List.map_cons, List.mem_cons] at h ⊢
      rcases h with h | h
      · exact Or.inr (Or.inl h)
      · rcases ih h with h | h
        · exact Or.inl h
        · exact Or.inr (Or.inr h)

theorem tinsert_rising {α : Type} (k : Nat) (v : α) (t : Tbl α) (ht : (t.map Prod.fst).Pairwise (· < ·))
    (hk : ∀ e ∈ t, e.1 ≠ k) : ((tinsert k v t).map Prod.fst).Pairwise (· < ·) := by
  induction t with
  | nil => simp [tinsert]
  | cons e r ih =>
    obtain ⟨i, w⟩ := e
    simp only [List.map_cons, List.pairwise_cons] at ht
    have hik : i ≠ k := hk (i, w) (by simp)
    by_cases hlt : k < i
    · simp only [tinsert, hlt, if_true, List.map_cons, List.pairwise_cons]
      refine ⟨?_, ht.1, ht.2⟩
      intro j hj
      rcases List.mem_cons.mp hj with h | h
      · simpa [h] using hlt
      · exact Nat.lt_trans hlt (ht.1 j h)
    · simp only [tinsert, hlt, if_false, List.map_cons, List.pairwise_cons]
      refine ⟨?_, ih ht.2 (fun e he => hk e (by simp [he]))⟩
      intro j hj
      rcases tinsert_keys_mem k v r j hj with h | h
      · omega
      · exact ht.1 j h

/-- Every write keeps the canonical form. -/
theorem twf_tset {α : Type} [DecidableEq α] (d : α) (t : Tbl α) (k : Nat) (v : α) (h : twf d t = true) :
    twf d (tset d t k v) = true := by
  simp only [twf, Bool.and_eq_true, List.all_eq_true, decide_eq_true_eq] at h ⊢
  have he : ∀ e ∈ terase t k, e.2 ≠ d := fun e he => h.1 e ((terase_sublist t k).subset he)
  have hp : ((terase t k).map Prod.fst).Pairwise (· < ·) := h.2.sublist ((terase_sublist t k).map _)
  unfold tset
  split
  · exact ⟨he, hp⟩
  · next hv =>
    refine ⟨?_, tinsert_rising k v _ hp (terase_no_key t k)⟩
    intro e hm
    clear hp h
    generalize terase t k = u at he hm
    induction u with
    | nil => simp [tinsert] at hm; simpa [hm] using hv
    | cons a r ih =>
      obtain ⟨i, w⟩ := a
      by_cases hlt : k < i
      · simp only [tinsert, hlt, if_true, List.mem_cons] at hm
        rcases hm with rfl | rfl | hm
        · exact hv
        · exact he _ (List.mem_cons_self ..)
        · exact he _ (List.mem_cons_of_mem _ hm)
      · simp only [tinsert, hlt, if_false, List.mem_cons] at hm
        rcases hm with rfl | hm
        · exact he _ (List.mem_cons_self ..)
        · exact ih (fun e h => he e (List.mem_cons_of_mem _ h)) hm

/-! ## Masts -/

@[simp] theorem Dev.mast_setMast (d : Dev) (m : MastId) (x : Mast) : (d.setMast m x).mast m = x := by cases m <;> rfl
@[simp] theorem Dev.mast_setMast_peer (d : Dev) (m : MastId) (x : Mast) :
    (d.setMast m x).mast (peerOf m) = d.mast (peerOf m) := by cases m <;> rfl
@[simp] theorem Dev.mast_onMast (d : Dev) (m : MastId) (f : Mast → Mast) : (d.onMast m f).mast m = f (d.mast m) := by
  simp [Dev.onMast]
@[simp] theorem Dev.mast_onMast_peer (d : Dev) (m : MastId) (f : Mast → Mast) :
    (d.onMast m f).mast (peerOf m) = d.mast (peerOf m) := by simp [Dev.onMast]
@[simp] theorem peerOf_peerOf (m : MastId) : peerOf (peerOf m) = m := by cases m <;> rfl

/-- A register just set holds the value. -/
@[simp] theorem Dev.reg_setReg (d : Dev) (m : MastId) (off : Nat) (v : Reg64) : (d.setReg m off v).reg m off = v := by
  simp [Dev.reg, Dev.setReg]
/-- Every other register of the mast holds what it held. -/
theorem Dev.reg_setReg_ne (d : Dev) (m : MastId) (off o : Nat) (v : Reg64) (h : o ≠ off) :
    tget (regReset m off) ((d.setReg m off v).mast m).regs o = tget (regReset m off) (d.mast m).regs o := by
  simp [Dev.setReg, tget_tset_ne _ _ _ _ _ h]
/-- A core just set is that core. -/
@[simp] theorem Dev.core_setCore (d : Dev) (m : MastId) (k : Nat) (c : Core) : (d.setCore m k c).core m k = c := by
  simp [Dev.core, Dev.setCore]
theorem Dev.core_setCore_ne (d : Dev) (m : MastId) (k j : Nat) (c : Core) (h : j ≠ k) :
    (d.setCore m k c).core m j = d.core m j := by simp [Dev.core, Dev.setCore, tget_tset_ne _ _ _ _ _ h]
@[simp] theorem Dev.tile_setTile (d : Dev) (t : Nat) (x : Tile) : (d.setTile t x).tile t = x := by
  simp [Dev.tile, Dev.setTile]
theorem Dev.tile_setTile_ne (d : Dev) (t u : Nat) (x : Tile) (h : u ≠ t) : (d.setTile t x).tile u = d.tile u := by
  simp [Dev.tile, Dev.setTile, tget_tset_ne _ _ _ _ _ h]
@[simp] theorem Tile.cell_setCell (x : Tile) (l : Nat) (c : Cell) : (x.setCell l c).cell l = c := by
  simp [Tile.cell, Tile.setCell]
theorem Tile.cell_setCell_ne (x : Tile) (l k : Nat) (c : Cell) (h : k ≠ l) : (x.setCell l c).cell k = x.cell k := by
  simp [Tile.cell, Tile.setCell, tget_tset_ne _ _ _ _ _ h]
/-- A table changed throughout reads as the change of what it read. -/
@[simp] theorem tget_tmap {α : Type} [DecidableEq α] (f : α → α) (d : α) (t : Tbl α) (k : Nat) :
    tget (f d) (tmap f d t) k = f (tget d t k) := by
  unfold tmap
  induction t with
  | nil => rfl
  | cons e r ih =>
    obtain ⟨j, v⟩ := e
    by_cases hj : j = k
    · subst hj; simp [tget]
    · simp only [List.foldr_cons, tget, hj, if_false]
      rw [tget_tset_ne _ _ _ _ _ (Ne.symm hj), ih]

@[simp] theorem Tile.cell_mapCells (x : Tile) (f : Cell → Cell) (l : Nat) : (x.mapCells f).cell l = f (x.cell l) :=
  tget_tmap f x.dflt x.cells l

@[simp] theorem Dev.ring_setRing (d : Dev) (m : MastId) (i : Nat) (r : Option Ring) : (d.setRing m i r).ring m i = r := by
  simp [Dev.ring, Dev.setRing, Dev.hif, Dev.onHif]
@[simp] theorem Dev.ctx_setCtx (d : Dev) (m : MastId) (k : Nat) (c : Option Ctx) : (d.setCtx m k c).ctx m k = c := by
  simp [Dev.ctx, Dev.setCtx, Dev.hif, Dev.onHif]
@[simp] theorem Dev.stream_setStream (d : Dev) (m : MastId) (i : Nat) (x : Option Stream) :
    (d.setStream m i x).stream m i = x := by simp [Dev.stream, Dev.setStream, Dev.onEg]
@[simp] theorem Dev.unit_setUnit (d : Dev) (m : MastId) (i : Nat) (x : Unit_) : (d.setUnit m i x).unit m i = some x := by
  simp [Dev.unit, Dev.setUnit, Dev.onGln]
@[simp] theorem Dev.out_emit (d : Dev) (o : Out) : (d.emit o).out = d.out ++ [o] := rfl

/-! ## What each update leaves alone -/

@[simp] theorem Dev.part_setMast (d : Dev) (m : MastId) (x : Mast) :
    (d.setMast m x).part = d.part := by cases m <;> rfl
@[simp] theorem Dev.beat_setMast (d : Dev) (m : MastId) (x : Mast) :
    (d.setMast m x).beat = d.beat := by cases m <;> rfl
@[simp] theorem Dev.now_setMast (d : Dev) (m : MastId) (x : Mast) :
    (d.setMast m x).now = d.now := by cases m <;> rfl
@[simp] theorem Dev.tiles_setMast (d : Dev) (m : MastId) (x : Mast) :
    (d.setMast m x).tiles = d.tiles := by cases m <;> rfl
@[simp] theorem Dev.aon_setMast (d : Dev) (m : MastId) (x : Mast) :
    (d.setMast m x).aon = d.aon := by cases m <;> rfl
@[simp] theorem Dev.pins_setMast (d : Dev) (m : MastId) (x : Mast) :
    (d.setMast m x).pins = d.pins := by cases m <;> rfl
@[simp] theorem Dev.out_setMast (d : Dev) (m : MastId) (x : Mast) :
    (d.setMast m x).out = d.out := by cases m <;> rfl
@[simp] theorem Dev.free_setMast (d : Dev) (m : MastId) (x : Mast) :
    (d.setMast m x).free = d.free := by cases m <;> rfl
@[simp] theorem Dev.lastWatch_setMast (d : Dev) (m : MastId) (x : Mast) :
    (d.setMast m x).lastWatch = d.lastWatch := by cases m <;> rfl
@[simp] theorem Dev.part_onMast (d : Dev) (m : MastId) (f : Mast → Mast) :
    (d.onMast m f).part = d.part := by simp [Dev.onMast]
@[simp] theorem Dev.beat_onMast (d : Dev) (m : MastId) (f : Mast → Mast) :
    (d.onMast m f).beat = d.beat := by simp [Dev.onMast]
@[simp] theorem Dev.now_onMast (d : Dev) (m : MastId) (f : Mast → Mast) :
    (d.onMast m f).now = d.now := by simp [Dev.onMast]
@[simp] theorem Dev.tiles_onMast (d : Dev) (m : MastId) (f : Mast → Mast) :
    (d.onMast m f).tiles = d.tiles := by simp [Dev.onMast]
@[simp] theorem Dev.aon_onMast (d : Dev) (m : MastId) (f : Mast → Mast) :
    (d.onMast m f).aon = d.aon := by simp [Dev.onMast]
@[simp] theorem Dev.pins_onMast (d : Dev) (m : MastId) (f : Mast → Mast) :
    (d.onMast m f).pins = d.pins := by simp [Dev.onMast]
@[simp] theorem Dev.out_onMast (d : Dev) (m : MastId) (f : Mast → Mast) :
    (d.onMast m f).out = d.out := by simp [Dev.onMast]
@[simp] theorem Dev.free_onMast (d : Dev) (m : MastId) (f : Mast → Mast) :
    (d.onMast m f).free = d.free := by simp [Dev.onMast]
@[simp] theorem Dev.lastWatch_onMast (d : Dev) (m : MastId) (f : Mast → Mast) :
    (d.onMast m f).lastWatch = d.lastWatch := by simp [Dev.onMast]
@[simp] theorem Dev.part_setReg (d : Dev) (m : MastId) (off : Nat) (v : Reg64) :
    (d.setReg m off v).part = d.part := by simp [Dev.setReg]
@[simp] theorem Dev.beat_setReg (d : Dev) (m : MastId) (off : Nat) (v : Reg64) :
    (d.setReg m off v).beat = d.beat := by simp [Dev.setReg]
@[simp] theorem Dev.now_setReg (d : Dev) (m : MastId) (off : Nat) (v : Reg64) :
    (d.setReg m off v).now = d.now := by simp [Dev.setReg]
@[simp] theorem Dev.tiles_setReg (d : Dev) (m : MastId) (off : Nat) (v : Reg64) :
    (d.setReg m off v).tiles = d.tiles := by simp [Dev.setReg]
@[simp] theorem Dev.aon_setReg (d : Dev) (m : MastId) (off : Nat) (v : Reg64) :
    (d.setReg m off v).aon = d.aon := by simp [Dev.setReg]
@[simp] theorem Dev.pins_setReg (d : Dev) (m : MastId) (off : Nat) (v : Reg64) :
    (d.setReg m off v).pins = d.pins := by simp [Dev.setReg]
@[simp] theorem Dev.out_setReg (d : Dev) (m : MastId) (off : Nat) (v : Reg64) :
    (d.setReg m off v).out = d.out := by simp [Dev.setReg]
@[simp] theorem Dev.free_setReg (d : Dev) (m : MastId) (off : Nat) (v : Reg64) :
    (d.setReg m off v).free = d.free := by simp [Dev.setReg]
@[simp] theorem Dev.lastWatch_setReg (d : Dev) (m : MastId) (off : Nat) (v : Reg64) :
    (d.setReg m off v).lastWatch = d.lastWatch := by simp [Dev.setReg]
@[simp] theorem Dev.part_setRegF (d : Dev) (m : MastId) (off lo w v : Nat) :
    (d.setRegF m off lo w v).part = d.part := by simp [Dev.setRegF]
@[simp] theorem Dev.beat_setRegF (d : Dev) (m : MastId) (off lo w v : Nat) :
    (d.setRegF m off lo w v).beat = d.beat := by simp [Dev.setRegF]
@[simp] theorem Dev.now_setRegF (d : Dev) (m : MastId) (off lo w v : Nat) :
    (d.setRegF m off lo w v).now = d.now := by simp [Dev.setRegF]
@[simp] theorem Dev.tiles_setRegF (d : Dev) (m : MastId) (off lo w v : Nat) :
    (d.setRegF m off lo w v).tiles = d.tiles := by simp [Dev.setRegF]
@[simp] theorem Dev.aon_setRegF (d : Dev) (m : MastId) (off lo w v : Nat) :
    (d.setRegF m off lo w v).aon = d.aon := by simp [Dev.setRegF]
@[simp] theorem Dev.pins_setRegF (d : Dev) (m : MastId) (off lo w v : Nat) :
    (d.setRegF m off lo w v).pins = d.pins := by simp [Dev.setRegF]
@[simp] theorem Dev.out_setRegF (d : Dev) (m : MastId) (off lo w v : Nat) :
    (d.setRegF m off lo w v).out = d.out := by simp [Dev.setRegF]
@[simp] theorem Dev.free_setRegF (d : Dev) (m : MastId) (off lo w v : Nat) :
    (d.setRegF m off lo w v).free = d.free := by simp [Dev.setRegF]
@[simp] theorem Dev.lastWatch_setRegF (d : Dev) (m : MastId) (off lo w v : Nat) :
    (d.setRegF m off lo w v).lastWatch = d.lastWatch := by simp [Dev.setRegF]
@[simp] theorem Dev.part_flag (d : Dev) (m : MastId) (off b : Nat) :
    (d.flag m off b).part = d.part := by simp [Dev.flag]
@[simp] theorem Dev.beat_flag (d : Dev) (m : MastId) (off b : Nat) :
    (d.flag m off b).beat = d.beat := by simp [Dev.flag]
@[simp] theorem Dev.now_flag (d : Dev) (m : MastId) (off b : Nat) :
    (d.flag m off b).now = d.now := by simp [Dev.flag]
@[simp] theorem Dev.tiles_flag (d : Dev) (m : MastId) (off b : Nat) :
    (d.flag m off b).tiles = d.tiles := by simp [Dev.flag]
@[simp] theorem Dev.aon_flag (d : Dev) (m : MastId) (off b : Nat) :
    (d.flag m off b).aon = d.aon := by simp [Dev.flag]
@[simp] theorem Dev.pins_flag (d : Dev) (m : MastId) (off b : Nat) :
    (d.flag m off b).pins = d.pins := by simp [Dev.flag]
@[simp] theorem Dev.out_flag (d : Dev) (m : MastId) (off b : Nat) :
    (d.flag m off b).out = d.out := by simp [Dev.flag]
@[simp] theorem Dev.free_flag (d : Dev) (m : MastId) (off b : Nat) :
    (d.flag m off b).free = d.free := by simp [Dev.flag]
@[simp] theorem Dev.lastWatch_flag (d : Dev) (m : MastId) (off b : Nat) :
    (d.flag m off b).lastWatch = d.lastWatch := by simp [Dev.flag]
@[simp] theorem Dev.part_count (d : Dev) (m : MastId) (off lo w k : Nat) :
    (d.count m off lo w k).part = d.part := by simp [Dev.count]
@[simp] theorem Dev.beat_count (d : Dev) (m : MastId) (off lo w k : Nat) :
    (d.count m off lo w k).beat = d.beat := by simp [Dev.count]
@[simp] theorem Dev.now_count (d : Dev) (m : MastId) (off lo w k : Nat) :
    (d.count m off lo w k).now = d.now := by simp [Dev.count]
@[simp] theorem Dev.tiles_count (d : Dev) (m : MastId) (off lo w k : Nat) :
    (d.count m off lo w k).tiles = d.tiles := by simp [Dev.count]
@[simp] theorem Dev.aon_count (d : Dev) (m : MastId) (off lo w k : Nat) :
    (d.count m off lo w k).aon = d.aon := by simp [Dev.count]
@[simp] theorem Dev.pins_count (d : Dev) (m : MastId) (off lo w k : Nat) :
    (d.count m off lo w k).pins = d.pins := by simp [Dev.count]
@[simp] theorem Dev.out_count (d : Dev) (m : MastId) (off lo w k : Nat) :
    (d.count m off lo w k).out = d.out := by simp [Dev.count]
@[simp] theorem Dev.free_count (d : Dev) (m : MastId) (off lo w k : Nat) :
    (d.count m off lo w k).free = d.free := by simp [Dev.count]
@[simp] theorem Dev.lastWatch_count (d : Dev) (m : MastId) (off lo w k : Nat) :
    (d.count m off lo w k).lastWatch = d.lastWatch := by simp [Dev.count]
@[simp] theorem Dev.part_pmc (d : Dev) (m : MastId) (ev : Nat) (l : List Nat) (k : Nat) :
    (d.pmc m ev l k).part = d.part := by simp [Dev.pmc]
@[simp] theorem Dev.beat_pmc (d : Dev) (m : MastId) (ev : Nat) (l : List Nat) (k : Nat) :
    (d.pmc m ev l k).beat = d.beat := by simp [Dev.pmc]
@[simp] theorem Dev.now_pmc (d : Dev) (m : MastId) (ev : Nat) (l : List Nat) (k : Nat) :
    (d.pmc m ev l k).now = d.now := by simp [Dev.pmc]
@[simp] theorem Dev.tiles_pmc (d : Dev) (m : MastId) (ev : Nat) (l : List Nat) (k : Nat) :
    (d.pmc m ev l k).tiles = d.tiles := by simp [Dev.pmc]
@[simp] theorem Dev.aon_pmc (d : Dev) (m : MastId) (ev : Nat) (l : List Nat) (k : Nat) :
    (d.pmc m ev l k).aon = d.aon := by simp [Dev.pmc]
@[simp] theorem Dev.pins_pmc (d : Dev) (m : MastId) (ev : Nat) (l : List Nat) (k : Nat) :
    (d.pmc m ev l k).pins = d.pins := by simp [Dev.pmc]
@[simp] theorem Dev.out_pmc (d : Dev) (m : MastId) (ev : Nat) (l : List Nat) (k : Nat) :
    (d.pmc m ev l k).out = d.out := by simp [Dev.pmc]
@[simp] theorem Dev.free_pmc (d : Dev) (m : MastId) (ev : Nat) (l : List Nat) (k : Nat) :
    (d.pmc m ev l k).free = d.free := by simp [Dev.pmc]
@[simp] theorem Dev.lastWatch_pmc (d : Dev) (m : MastId) (ev : Nat) (l : List Nat) (k : Nat) :
    (d.pmc m ev l k).lastWatch = d.lastWatch := by simp [Dev.pmc]
@[simp] theorem Dev.part_pmcLevel (d : Dev) (m : MastId) (ev i v n : Nat) :
    (d.pmcLevel m ev i v n).part = d.part := by simp [Dev.pmcLevel]
@[simp] theorem Dev.beat_pmcLevel (d : Dev) (m : MastId) (ev i v n : Nat) :
    (d.pmcLevel m ev i v n).beat = d.beat := by simp [Dev.pmcLevel]
@[simp] theorem Dev.now_pmcLevel (d : Dev) (m : MastId) (ev i v n : Nat) :
    (d.pmcLevel m ev i v n).now = d.now := by simp [Dev.pmcLevel]
@[simp] theorem Dev.tiles_pmcLevel (d : Dev) (m : MastId) (ev i v n : Nat) :
    (d.pmcLevel m ev i v n).tiles = d.tiles := by simp [Dev.pmcLevel]
@[simp] theorem Dev.aon_pmcLevel (d : Dev) (m : MastId) (ev i v n : Nat) :
    (d.pmcLevel m ev i v n).aon = d.aon := by simp [Dev.pmcLevel]
@[simp] theorem Dev.pins_pmcLevel (d : Dev) (m : MastId) (ev i v n : Nat) :
    (d.pmcLevel m ev i v n).pins = d.pins := by simp [Dev.pmcLevel]
@[simp] theorem Dev.out_pmcLevel (d : Dev) (m : MastId) (ev i v n : Nat) :
    (d.pmcLevel m ev i v n).out = d.out := by simp [Dev.pmcLevel]
@[simp] theorem Dev.free_pmcLevel (d : Dev) (m : MastId) (ev i v n : Nat) :
    (d.pmcLevel m ev i v n).free = d.free := by simp [Dev.pmcLevel]
@[simp] theorem Dev.lastWatch_pmcLevel (d : Dev) (m : MastId) (ev i v n : Nat) :
    (d.pmcLevel m ev i v n).lastWatch = d.lastWatch := by simp [Dev.pmcLevel]
@[simp] theorem Dev.part_onHif (d : Dev) (m : MastId) (f : Hif → Hif) :
    (d.onHif m f).part = d.part := by simp [Dev.onHif]
@[simp] theorem Dev.beat_onHif (d : Dev) (m : MastId) (f : Hif → Hif) :
    (d.onHif m f).beat = d.beat := by simp [Dev.onHif]
@[simp] theorem Dev.now_onHif (d : Dev) (m : MastId) (f : Hif → Hif) :
    (d.onHif m f).now = d.now := by simp [Dev.onHif]
@[simp] theorem Dev.tiles_onHif (d : Dev) (m : MastId) (f : Hif → Hif) :
    (d.onHif m f).tiles = d.tiles := by simp [Dev.onHif]
@[simp] theorem Dev.aon_onHif (d : Dev) (m : MastId) (f : Hif → Hif) :
    (d.onHif m f).aon = d.aon := by simp [Dev.onHif]
@[simp] theorem Dev.pins_onHif (d : Dev) (m : MastId) (f : Hif → Hif) :
    (d.onHif m f).pins = d.pins := by simp [Dev.onHif]
@[simp] theorem Dev.out_onHif (d : Dev) (m : MastId) (f : Hif → Hif) :
    (d.onHif m f).out = d.out := by simp [Dev.onHif]
@[simp] theorem Dev.free_onHif (d : Dev) (m : MastId) (f : Hif → Hif) :
    (d.onHif m f).free = d.free := by simp [Dev.onHif]
@[simp] theorem Dev.lastWatch_onHif (d : Dev) (m : MastId) (f : Hif → Hif) :
    (d.onHif m f).lastWatch = d.lastWatch := by simp [Dev.onHif]
@[simp] theorem Dev.part_setRing (d : Dev) (m : MastId) (i : Nat) (r : Option Ring) :
    (d.setRing m i r).part = d.part := by simp [Dev.setRing]
@[simp] theorem Dev.beat_setRing (d : Dev) (m : MastId) (i : Nat) (r : Option Ring) :
    (d.setRing m i r).beat = d.beat := by simp [Dev.setRing]
@[simp] theorem Dev.now_setRing (d : Dev) (m : MastId) (i : Nat) (r : Option Ring) :
    (d.setRing m i r).now = d.now := by simp [Dev.setRing]
@[simp] theorem Dev.tiles_setRing (d : Dev) (m : MastId) (i : Nat) (r : Option Ring) :
    (d.setRing m i r).tiles = d.tiles := by simp [Dev.setRing]
@[simp] theorem Dev.aon_setRing (d : Dev) (m : MastId) (i : Nat) (r : Option Ring) :
    (d.setRing m i r).aon = d.aon := by simp [Dev.setRing]
@[simp] theorem Dev.pins_setRing (d : Dev) (m : MastId) (i : Nat) (r : Option Ring) :
    (d.setRing m i r).pins = d.pins := by simp [Dev.setRing]
@[simp] theorem Dev.out_setRing (d : Dev) (m : MastId) (i : Nat) (r : Option Ring) :
    (d.setRing m i r).out = d.out := by simp [Dev.setRing]
@[simp] theorem Dev.free_setRing (d : Dev) (m : MastId) (i : Nat) (r : Option Ring) :
    (d.setRing m i r).free = d.free := by simp [Dev.setRing]
@[simp] theorem Dev.lastWatch_setRing (d : Dev) (m : MastId) (i : Nat) (r : Option Ring) :
    (d.setRing m i r).lastWatch = d.lastWatch := by simp [Dev.setRing]
@[simp] theorem Dev.part_setCtx (d : Dev) (m : MastId) (k : Nat) (c : Option Ctx) :
    (d.setCtx m k c).part = d.part := by simp [Dev.setCtx]
@[simp] theorem Dev.beat_setCtx (d : Dev) (m : MastId) (k : Nat) (c : Option Ctx) :
    (d.setCtx m k c).beat = d.beat := by simp [Dev.setCtx]
@[simp] theorem Dev.now_setCtx (d : Dev) (m : MastId) (k : Nat) (c : Option Ctx) :
    (d.setCtx m k c).now = d.now := by simp [Dev.setCtx]
@[simp] theorem Dev.tiles_setCtx (d : Dev) (m : MastId) (k : Nat) (c : Option Ctx) :
    (d.setCtx m k c).tiles = d.tiles := by simp [Dev.setCtx]
@[simp] theorem Dev.aon_setCtx (d : Dev) (m : MastId) (k : Nat) (c : Option Ctx) :
    (d.setCtx m k c).aon = d.aon := by simp [Dev.setCtx]
@[simp] theorem Dev.pins_setCtx (d : Dev) (m : MastId) (k : Nat) (c : Option Ctx) :
    (d.setCtx m k c).pins = d.pins := by simp [Dev.setCtx]
@[simp] theorem Dev.out_setCtx (d : Dev) (m : MastId) (k : Nat) (c : Option Ctx) :
    (d.setCtx m k c).out = d.out := by simp [Dev.setCtx]
@[simp] theorem Dev.free_setCtx (d : Dev) (m : MastId) (k : Nat) (c : Option Ctx) :
    (d.setCtx m k c).free = d.free := by simp [Dev.setCtx]
@[simp] theorem Dev.lastWatch_setCtx (d : Dev) (m : MastId) (k : Nat) (c : Option Ctx) :
    (d.setCtx m k c).lastWatch = d.lastWatch := by simp [Dev.setCtx]
@[simp] theorem Dev.part_onDesc (d : Dev) (m : MastId) (ring seq : Nat) (f : Desc → Desc) :
    (d.onDesc m ring seq f).part = d.part := by simp [Dev.onDesc]
@[simp] theorem Dev.beat_onDesc (d : Dev) (m : MastId) (ring seq : Nat) (f : Desc → Desc) :
    (d.onDesc m ring seq f).beat = d.beat := by simp [Dev.onDesc]
@[simp] theorem Dev.now_onDesc (d : Dev) (m : MastId) (ring seq : Nat) (f : Desc → Desc) :
    (d.onDesc m ring seq f).now = d.now := by simp [Dev.onDesc]
@[simp] theorem Dev.tiles_onDesc (d : Dev) (m : MastId) (ring seq : Nat) (f : Desc → Desc) :
    (d.onDesc m ring seq f).tiles = d.tiles := by simp [Dev.onDesc]
@[simp] theorem Dev.aon_onDesc (d : Dev) (m : MastId) (ring seq : Nat) (f : Desc → Desc) :
    (d.onDesc m ring seq f).aon = d.aon := by simp [Dev.onDesc]
@[simp] theorem Dev.pins_onDesc (d : Dev) (m : MastId) (ring seq : Nat) (f : Desc → Desc) :
    (d.onDesc m ring seq f).pins = d.pins := by simp [Dev.onDesc]
@[simp] theorem Dev.out_onDesc (d : Dev) (m : MastId) (ring seq : Nat) (f : Desc → Desc) :
    (d.onDesc m ring seq f).out = d.out := by simp [Dev.onDesc]
@[simp] theorem Dev.free_onDesc (d : Dev) (m : MastId) (ring seq : Nat) (f : Desc → Desc) :
    (d.onDesc m ring seq f).free = d.free := by simp [Dev.onDesc]
@[simp] theorem Dev.lastWatch_onDesc (d : Dev) (m : MastId) (ring seq : Nat) (f : Desc → Desc) :
    (d.onDesc m ring seq f).lastWatch = d.lastWatch := by simp [Dev.onDesc]
@[simp] theorem Dev.part_pushJournal (d : Dev) (m : MastId) (j : JEv) :
    (d.pushJournal m j).part = d.part := by simp [Dev.pushJournal]
@[simp] theorem Dev.beat_pushJournal (d : Dev) (m : MastId) (j : JEv) :
    (d.pushJournal m j).beat = d.beat := by simp [Dev.pushJournal]
@[simp] theorem Dev.now_pushJournal (d : Dev) (m : MastId) (j : JEv) :
    (d.pushJournal m j).now = d.now := by simp [Dev.pushJournal]
@[simp] theorem Dev.tiles_pushJournal (d : Dev) (m : MastId) (j : JEv) :
    (d.pushJournal m j).tiles = d.tiles := by simp [Dev.pushJournal]
@[simp] theorem Dev.aon_pushJournal (d : Dev) (m : MastId) (j : JEv) :
    (d.pushJournal m j).aon = d.aon := by simp [Dev.pushJournal]
@[simp] theorem Dev.pins_pushJournal (d : Dev) (m : MastId) (j : JEv) :
    (d.pushJournal m j).pins = d.pins := by simp [Dev.pushJournal]
@[simp] theorem Dev.out_pushJournal (d : Dev) (m : MastId) (j : JEv) :
    (d.pushJournal m j).out = d.out := by simp [Dev.pushJournal]
@[simp] theorem Dev.free_pushJournal (d : Dev) (m : MastId) (j : JEv) :
    (d.pushJournal m j).free = d.free := by simp [Dev.pushJournal]
@[simp] theorem Dev.lastWatch_pushJournal (d : Dev) (m : MastId) (j : JEv) :
    (d.pushJournal m j).lastWatch = d.lastWatch := by simp [Dev.pushJournal]
@[simp] theorem Dev.part_queueScan (d : Dev) (m : MastId) (a b c : Nat) :
    (d.queueScan m a b c).part = d.part := by simp [Dev.queueScan]
@[simp] theorem Dev.beat_queueScan (d : Dev) (m : MastId) (a b c : Nat) :
    (d.queueScan m a b c).beat = d.beat := by simp [Dev.queueScan]
@[simp] theorem Dev.now_queueScan (d : Dev) (m : MastId) (a b c : Nat) :
    (d.queueScan m a b c).now = d.now := by simp [Dev.queueScan]
@[simp] theorem Dev.tiles_queueScan (d : Dev) (m : MastId) (a b c : Nat) :
    (d.queueScan m a b c).tiles = d.tiles := by simp [Dev.queueScan]
@[simp] theorem Dev.aon_queueScan (d : Dev) (m : MastId) (a b c : Nat) :
    (d.queueScan m a b c).aon = d.aon := by simp [Dev.queueScan]
@[simp] theorem Dev.pins_queueScan (d : Dev) (m : MastId) (a b c : Nat) :
    (d.queueScan m a b c).pins = d.pins := by simp [Dev.queueScan]
@[simp] theorem Dev.out_queueScan (d : Dev) (m : MastId) (a b c : Nat) :
    (d.queueScan m a b c).out = d.out := by simp [Dev.queueScan]
@[simp] theorem Dev.free_queueScan (d : Dev) (m : MastId) (a b c : Nat) :
    (d.queueScan m a b c).free = d.free := by simp [Dev.queueScan]
@[simp] theorem Dev.lastWatch_queueScan (d : Dev) (m : MastId) (a b c : Nat) :
    (d.queueScan m a b c).lastWatch = d.lastWatch := by simp [Dev.queueScan]
@[simp] theorem Dev.part_onFab (d : Dev) (m : MastId) (f : Fab → Fab) :
    (d.onFab m f).part = d.part := by simp [Dev.onFab]
@[simp] theorem Dev.beat_onFab (d : Dev) (m : MastId) (f : Fab → Fab) :
    (d.onFab m f).beat = d.beat := by simp [Dev.onFab]
@[simp] theorem Dev.now_onFab (d : Dev) (m : MastId) (f : Fab → Fab) :
    (d.onFab m f).now = d.now := by simp [Dev.onFab]
@[simp] theorem Dev.tiles_onFab (d : Dev) (m : MastId) (f : Fab → Fab) :
    (d.onFab m f).tiles = d.tiles := by simp [Dev.onFab]
@[simp] theorem Dev.aon_onFab (d : Dev) (m : MastId) (f : Fab → Fab) :
    (d.onFab m f).aon = d.aon := by simp [Dev.onFab]
@[simp] theorem Dev.pins_onFab (d : Dev) (m : MastId) (f : Fab → Fab) :
    (d.onFab m f).pins = d.pins := by simp [Dev.onFab]
@[simp] theorem Dev.out_onFab (d : Dev) (m : MastId) (f : Fab → Fab) :
    (d.onFab m f).out = d.out := by simp [Dev.onFab]
@[simp] theorem Dev.free_onFab (d : Dev) (m : MastId) (f : Fab → Fab) :
    (d.onFab m f).free = d.free := by simp [Dev.onFab]
@[simp] theorem Dev.lastWatch_onFab (d : Dev) (m : MastId) (f : Fab → Fab) :
    (d.onFab m f).lastWatch = d.lastWatch := by simp [Dev.onFab]
@[simp] theorem Dev.part_onFlt (d : Dev) (m : MastId) (f : Flt → Flt) :
    (d.onFlt m f).part = d.part := by simp [Dev.onFlt]
@[simp] theorem Dev.beat_onFlt (d : Dev) (m : MastId) (f : Flt → Flt) :
    (d.onFlt m f).beat = d.beat := by simp [Dev.onFlt]
@[simp] theorem Dev.now_onFlt (d : Dev) (m : MastId) (f : Flt → Flt) :
    (d.onFlt m f).now = d.now := by simp [Dev.onFlt]
@[simp] theorem Dev.tiles_onFlt (d : Dev) (m : MastId) (f : Flt → Flt) :
    (d.onFlt m f).tiles = d.tiles := by simp [Dev.onFlt]
@[simp] theorem Dev.aon_onFlt (d : Dev) (m : MastId) (f : Flt → Flt) :
    (d.onFlt m f).aon = d.aon := by simp [Dev.onFlt]
@[simp] theorem Dev.pins_onFlt (d : Dev) (m : MastId) (f : Flt → Flt) :
    (d.onFlt m f).pins = d.pins := by simp [Dev.onFlt]
@[simp] theorem Dev.out_onFlt (d : Dev) (m : MastId) (f : Flt → Flt) :
    (d.onFlt m f).out = d.out := by simp [Dev.onFlt]
@[simp] theorem Dev.free_onFlt (d : Dev) (m : MastId) (f : Flt → Flt) :
    (d.onFlt m f).free = d.free := by simp [Dev.onFlt]
@[simp] theorem Dev.lastWatch_onFlt (d : Dev) (m : MastId) (f : Flt → Flt) :
    (d.onFlt m f).lastWatch = d.lastWatch := by simp [Dev.onFlt]
@[simp] theorem Dev.part_onPen (d : Dev) (m : MastId) (f : Pen → Pen) :
    (d.onPen m f).part = d.part := by simp [Dev.onPen]
@[simp] theorem Dev.beat_onPen (d : Dev) (m : MastId) (f : Pen → Pen) :
    (d.onPen m f).beat = d.beat := by simp [Dev.onPen]
@[simp] theorem Dev.now_onPen (d : Dev) (m : MastId) (f : Pen → Pen) :
    (d.onPen m f).now = d.now := by simp [Dev.onPen]
@[simp] theorem Dev.tiles_onPen (d : Dev) (m : MastId) (f : Pen → Pen) :
    (d.onPen m f).tiles = d.tiles := by simp [Dev.onPen]
@[simp] theorem Dev.aon_onPen (d : Dev) (m : MastId) (f : Pen → Pen) :
    (d.onPen m f).aon = d.aon := by simp [Dev.onPen]
@[simp] theorem Dev.pins_onPen (d : Dev) (m : MastId) (f : Pen → Pen) :
    (d.onPen m f).pins = d.pins := by simp [Dev.onPen]
@[simp] theorem Dev.out_onPen (d : Dev) (m : MastId) (f : Pen → Pen) :
    (d.onPen m f).out = d.out := by simp [Dev.onPen]
@[simp] theorem Dev.free_onPen (d : Dev) (m : MastId) (f : Pen → Pen) :
    (d.onPen m f).free = d.free := by simp [Dev.onPen]
@[simp] theorem Dev.lastWatch_onPen (d : Dev) (m : MastId) (f : Pen → Pen) :
    (d.onPen m f).lastWatch = d.lastWatch := by simp [Dev.onPen]
@[simp] theorem Dev.part_onEg (d : Dev) (m : MastId) (f : Egress → Egress) :
    (d.onEg m f).part = d.part := by simp [Dev.onEg]
@[simp] theorem Dev.beat_onEg (d : Dev) (m : MastId) (f : Egress → Egress) :
    (d.onEg m f).beat = d.beat := by simp [Dev.onEg]
@[simp] theorem Dev.now_onEg (d : Dev) (m : MastId) (f : Egress → Egress) :
    (d.onEg m f).now = d.now := by simp [Dev.onEg]
@[simp] theorem Dev.tiles_onEg (d : Dev) (m : MastId) (f : Egress → Egress) :
    (d.onEg m f).tiles = d.tiles := by simp [Dev.onEg]
@[simp] theorem Dev.aon_onEg (d : Dev) (m : MastId) (f : Egress → Egress) :
    (d.onEg m f).aon = d.aon := by simp [Dev.onEg]
@[simp] theorem Dev.pins_onEg (d : Dev) (m : MastId) (f : Egress → Egress) :
    (d.onEg m f).pins = d.pins := by simp [Dev.onEg]
@[simp] theorem Dev.out_onEg (d : Dev) (m : MastId) (f : Egress → Egress) :
    (d.onEg m f).out = d.out := by simp [Dev.onEg]
@[simp] theorem Dev.free_onEg (d : Dev) (m : MastId) (f : Egress → Egress) :
    (d.onEg m f).free = d.free := by simp [Dev.onEg]
@[simp] theorem Dev.lastWatch_onEg (d : Dev) (m : MastId) (f : Egress → Egress) :
    (d.onEg m f).lastWatch = d.lastWatch := by simp [Dev.onEg]
@[simp] theorem Dev.part_onGln (d : Dev) (m : MastId) (f : Glean → Glean) :
    (d.onGln m f).part = d.part := by simp [Dev.onGln]
@[simp] theorem Dev.beat_onGln (d : Dev) (m : MastId) (f : Glean → Glean) :
    (d.onGln m f).beat = d.beat := by simp [Dev.onGln]
@[simp] theorem Dev.now_onGln (d : Dev) (m : MastId) (f : Glean → Glean) :
    (d.onGln m f).now = d.now := by simp [Dev.onGln]
@[simp] theorem Dev.tiles_onGln (d : Dev) (m : MastId) (f : Glean → Glean) :
    (d.onGln m f).tiles = d.tiles := by simp [Dev.onGln]
@[simp] theorem Dev.aon_onGln (d : Dev) (m : MastId) (f : Glean → Glean) :
    (d.onGln m f).aon = d.aon := by simp [Dev.onGln]
@[simp] theorem Dev.pins_onGln (d : Dev) (m : MastId) (f : Glean → Glean) :
    (d.onGln m f).pins = d.pins := by simp [Dev.onGln]
@[simp] theorem Dev.out_onGln (d : Dev) (m : MastId) (f : Glean → Glean) :
    (d.onGln m f).out = d.out := by simp [Dev.onGln]
@[simp] theorem Dev.free_onGln (d : Dev) (m : MastId) (f : Glean → Glean) :
    (d.onGln m f).free = d.free := by simp [Dev.onGln]
@[simp] theorem Dev.lastWatch_onGln (d : Dev) (m : MastId) (f : Glean → Glean) :
    (d.onGln m f).lastWatch = d.lastWatch := by simp [Dev.onGln]
@[simp] theorem Dev.part_onBoot (d : Dev) (m : MastId) (f : Boot → Boot) :
    (d.onBoot m f).part = d.part := by simp [Dev.onBoot]
@[simp] theorem Dev.beat_onBoot (d : Dev) (m : MastId) (f : Boot → Boot) :
    (d.onBoot m f).beat = d.beat := by simp [Dev.onBoot]
@[simp] theorem Dev.now_onBoot (d : Dev) (m : MastId) (f : Boot → Boot) :
    (d.onBoot m f).now = d.now := by simp [Dev.onBoot]
@[simp] theorem Dev.tiles_onBoot (d : Dev) (m : MastId) (f : Boot → Boot) :
    (d.onBoot m f).tiles = d.tiles := by simp [Dev.onBoot]
@[simp] theorem Dev.aon_onBoot (d : Dev) (m : MastId) (f : Boot → Boot) :
    (d.onBoot m f).aon = d.aon := by simp [Dev.onBoot]
@[simp] theorem Dev.pins_onBoot (d : Dev) (m : MastId) (f : Boot → Boot) :
    (d.onBoot m f).pins = d.pins := by simp [Dev.onBoot]
@[simp] theorem Dev.out_onBoot (d : Dev) (m : MastId) (f : Boot → Boot) :
    (d.onBoot m f).out = d.out := by simp [Dev.onBoot]
@[simp] theorem Dev.free_onBoot (d : Dev) (m : MastId) (f : Boot → Boot) :
    (d.onBoot m f).free = d.free := by simp [Dev.onBoot]
@[simp] theorem Dev.lastWatch_onBoot (d : Dev) (m : MastId) (f : Boot → Boot) :
    (d.onBoot m f).lastWatch = d.lastWatch := by simp [Dev.onBoot]
@[simp] theorem Dev.part_onCal (d : Dev) (m : MastId) (f : CalSt → CalSt) :
    (d.onCal m f).part = d.part := by simp [Dev.onCal]
@[simp] theorem Dev.beat_onCal (d : Dev) (m : MastId) (f : CalSt → CalSt) :
    (d.onCal m f).beat = d.beat := by simp [Dev.onCal]
@[simp] theorem Dev.now_onCal (d : Dev) (m : MastId) (f : CalSt → CalSt) :
    (d.onCal m f).now = d.now := by simp [Dev.onCal]
@[simp] theorem Dev.tiles_onCal (d : Dev) (m : MastId) (f : CalSt → CalSt) :
    (d.onCal m f).tiles = d.tiles := by simp [Dev.onCal]
@[simp] theorem Dev.aon_onCal (d : Dev) (m : MastId) (f : CalSt → CalSt) :
    (d.onCal m f).aon = d.aon := by simp [Dev.onCal]
@[simp] theorem Dev.pins_onCal (d : Dev) (m : MastId) (f : CalSt → CalSt) :
    (d.onCal m f).pins = d.pins := by simp [Dev.onCal]
@[simp] theorem Dev.out_onCal (d : Dev) (m : MastId) (f : CalSt → CalSt) :
    (d.onCal m f).out = d.out := by simp [Dev.onCal]
@[simp] theorem Dev.free_onCal (d : Dev) (m : MastId) (f : CalSt → CalSt) :
    (d.onCal m f).free = d.free := by simp [Dev.onCal]
@[simp] theorem Dev.lastWatch_onCal (d : Dev) (m : MastId) (f : CalSt → CalSt) :
    (d.onCal m f).lastWatch = d.lastWatch := by simp [Dev.onCal]
@[simp] theorem Dev.part_onPass (d : Dev) (m : MastId) (f : Pass → Pass) :
    (d.onPass m f).part = d.part := by simp [Dev.onPass]
@[simp] theorem Dev.beat_onPass (d : Dev) (m : MastId) (f : Pass → Pass) :
    (d.onPass m f).beat = d.beat := by simp [Dev.onPass]
@[simp] theorem Dev.now_onPass (d : Dev) (m : MastId) (f : Pass → Pass) :
    (d.onPass m f).now = d.now := by simp [Dev.onPass]
@[simp] theorem Dev.tiles_onPass (d : Dev) (m : MastId) (f : Pass → Pass) :
    (d.onPass m f).tiles = d.tiles := by simp [Dev.onPass]
@[simp] theorem Dev.aon_onPass (d : Dev) (m : MastId) (f : Pass → Pass) :
    (d.onPass m f).aon = d.aon := by simp [Dev.onPass]
@[simp] theorem Dev.pins_onPass (d : Dev) (m : MastId) (f : Pass → Pass) :
    (d.onPass m f).pins = d.pins := by simp [Dev.onPass]
@[simp] theorem Dev.out_onPass (d : Dev) (m : MastId) (f : Pass → Pass) :
    (d.onPass m f).out = d.out := by simp [Dev.onPass]
@[simp] theorem Dev.free_onPass (d : Dev) (m : MastId) (f : Pass → Pass) :
    (d.onPass m f).free = d.free := by simp [Dev.onPass]
@[simp] theorem Dev.lastWatch_onPass (d : Dev) (m : MastId) (f : Pass → Pass) :
    (d.onPass m f).lastWatch = d.lastWatch := by simp [Dev.onPass]
@[simp] theorem Dev.part_onPwr (d : Dev) (m : MastId) (f : Pwr → Pwr) :
    (d.onPwr m f).part = d.part := by simp [Dev.onPwr]
@[simp] theorem Dev.beat_onPwr (d : Dev) (m : MastId) (f : Pwr → Pwr) :
    (d.onPwr m f).beat = d.beat := by simp [Dev.onPwr]
@[simp] theorem Dev.now_onPwr (d : Dev) (m : MastId) (f : Pwr → Pwr) :
    (d.onPwr m f).now = d.now := by simp [Dev.onPwr]
@[simp] theorem Dev.tiles_onPwr (d : Dev) (m : MastId) (f : Pwr → Pwr) :
    (d.onPwr m f).tiles = d.tiles := by simp [Dev.onPwr]
@[simp] theorem Dev.aon_onPwr (d : Dev) (m : MastId) (f : Pwr → Pwr) :
    (d.onPwr m f).aon = d.aon := by simp [Dev.onPwr]
@[simp] theorem Dev.pins_onPwr (d : Dev) (m : MastId) (f : Pwr → Pwr) :
    (d.onPwr m f).pins = d.pins := by simp [Dev.onPwr]
@[simp] theorem Dev.out_onPwr (d : Dev) (m : MastId) (f : Pwr → Pwr) :
    (d.onPwr m f).out = d.out := by simp [Dev.onPwr]
@[simp] theorem Dev.free_onPwr (d : Dev) (m : MastId) (f : Pwr → Pwr) :
    (d.onPwr m f).free = d.free := by simp [Dev.onPwr]
@[simp] theorem Dev.lastWatch_onPwr (d : Dev) (m : MastId) (f : Pwr → Pwr) :
    (d.onPwr m f).lastWatch = d.lastWatch := by simp [Dev.onPwr]
@[simp] theorem Dev.part_onTim (d : Dev) (m : MastId) (f : Tim → Tim) :
    (d.onTim m f).part = d.part := by simp [Dev.onTim]
@[simp] theorem Dev.beat_onTim (d : Dev) (m : MastId) (f : Tim → Tim) :
    (d.onTim m f).beat = d.beat := by simp [Dev.onTim]
@[simp] theorem Dev.now_onTim (d : Dev) (m : MastId) (f : Tim → Tim) :
    (d.onTim m f).now = d.now := by simp [Dev.onTim]
@[simp] theorem Dev.tiles_onTim (d : Dev) (m : MastId) (f : Tim → Tim) :
    (d.onTim m f).tiles = d.tiles := by simp [Dev.onTim]
@[simp] theorem Dev.aon_onTim (d : Dev) (m : MastId) (f : Tim → Tim) :
    (d.onTim m f).aon = d.aon := by simp [Dev.onTim]
@[simp] theorem Dev.pins_onTim (d : Dev) (m : MastId) (f : Tim → Tim) :
    (d.onTim m f).pins = d.pins := by simp [Dev.onTim]
@[simp] theorem Dev.out_onTim (d : Dev) (m : MastId) (f : Tim → Tim) :
    (d.onTim m f).out = d.out := by simp [Dev.onTim]
@[simp] theorem Dev.free_onTim (d : Dev) (m : MastId) (f : Tim → Tim) :
    (d.onTim m f).free = d.free := by simp [Dev.onTim]
@[simp] theorem Dev.lastWatch_onTim (d : Dev) (m : MastId) (f : Tim → Tim) :
    (d.onTim m f).lastWatch = d.lastWatch := by simp [Dev.onTim]
@[simp] theorem Dev.part_onHal (d : Dev) (m : MastId) (f : Hal → Hal) :
    (d.onHal m f).part = d.part := by simp [Dev.onHal]
@[simp] theorem Dev.beat_onHal (d : Dev) (m : MastId) (f : Hal → Hal) :
    (d.onHal m f).beat = d.beat := by simp [Dev.onHal]
@[simp] theorem Dev.now_onHal (d : Dev) (m : MastId) (f : Hal → Hal) :
    (d.onHal m f).now = d.now := by simp [Dev.onHal]
@[simp] theorem Dev.tiles_onHal (d : Dev) (m : MastId) (f : Hal → Hal) :
    (d.onHal m f).tiles = d.tiles := by simp [Dev.onHal]
@[simp] theorem Dev.aon_onHal (d : Dev) (m : MastId) (f : Hal → Hal) :
    (d.onHal m f).aon = d.aon := by simp [Dev.onHal]
@[simp] theorem Dev.pins_onHal (d : Dev) (m : MastId) (f : Hal → Hal) :
    (d.onHal m f).pins = d.pins := by simp [Dev.onHal]
@[simp] theorem Dev.out_onHal (d : Dev) (m : MastId) (f : Hal → Hal) :
    (d.onHal m f).out = d.out := by simp [Dev.onHal]
@[simp] theorem Dev.free_onHal (d : Dev) (m : MastId) (f : Hal → Hal) :
    (d.onHal m f).free = d.free := by simp [Dev.onHal]
@[simp] theorem Dev.lastWatch_onHal (d : Dev) (m : MastId) (f : Hal → Hal) :
    (d.onHal m f).lastWatch = d.lastWatch := by simp [Dev.onHal]
@[simp] theorem Dev.part_onKern (d : Dev) (m : MastId) (f : Kern → Kern) :
    (d.onKern m f).part = d.part := by simp [Dev.onKern]
@[simp] theorem Dev.beat_onKern (d : Dev) (m : MastId) (f : Kern → Kern) :
    (d.onKern m f).beat = d.beat := by simp [Dev.onKern]
@[simp] theorem Dev.now_onKern (d : Dev) (m : MastId) (f : Kern → Kern) :
    (d.onKern m f).now = d.now := by simp [Dev.onKern]
@[simp] theorem Dev.tiles_onKern (d : Dev) (m : MastId) (f : Kern → Kern) :
    (d.onKern m f).tiles = d.tiles := by simp [Dev.onKern]
@[simp] theorem Dev.aon_onKern (d : Dev) (m : MastId) (f : Kern → Kern) :
    (d.onKern m f).aon = d.aon := by simp [Dev.onKern]
@[simp] theorem Dev.pins_onKern (d : Dev) (m : MastId) (f : Kern → Kern) :
    (d.onKern m f).pins = d.pins := by simp [Dev.onKern]
@[simp] theorem Dev.out_onKern (d : Dev) (m : MastId) (f : Kern → Kern) :
    (d.onKern m f).out = d.out := by simp [Dev.onKern]
@[simp] theorem Dev.free_onKern (d : Dev) (m : MastId) (f : Kern → Kern) :
    (d.onKern m f).free = d.free := by simp [Dev.onKern]
@[simp] theorem Dev.lastWatch_onKern (d : Dev) (m : MastId) (f : Kern → Kern) :
    (d.onKern m f).lastWatch = d.lastWatch := by simp [Dev.onKern]
@[simp] theorem Dev.part_setStream (d : Dev) (m : MastId) (i : Nat) (x : Option Stream) :
    (d.setStream m i x).part = d.part := by simp [Dev.setStream]
@[simp] theorem Dev.beat_setStream (d : Dev) (m : MastId) (i : Nat) (x : Option Stream) :
    (d.setStream m i x).beat = d.beat := by simp [Dev.setStream]
@[simp] theorem Dev.now_setStream (d : Dev) (m : MastId) (i : Nat) (x : Option Stream) :
    (d.setStream m i x).now = d.now := by simp [Dev.setStream]
@[simp] theorem Dev.tiles_setStream (d : Dev) (m : MastId) (i : Nat) (x : Option Stream) :
    (d.setStream m i x).tiles = d.tiles := by simp [Dev.setStream]
@[simp] theorem Dev.aon_setStream (d : Dev) (m : MastId) (i : Nat) (x : Option Stream) :
    (d.setStream m i x).aon = d.aon := by simp [Dev.setStream]
@[simp] theorem Dev.pins_setStream (d : Dev) (m : MastId) (i : Nat) (x : Option Stream) :
    (d.setStream m i x).pins = d.pins := by simp [Dev.setStream]
@[simp] theorem Dev.out_setStream (d : Dev) (m : MastId) (i : Nat) (x : Option Stream) :
    (d.setStream m i x).out = d.out := by simp [Dev.setStream]
@[simp] theorem Dev.free_setStream (d : Dev) (m : MastId) (i : Nat) (x : Option Stream) :
    (d.setStream m i x).free = d.free := by simp [Dev.setStream]
@[simp] theorem Dev.lastWatch_setStream (d : Dev) (m : MastId) (i : Nat) (x : Option Stream) :
    (d.setStream m i x).lastWatch = d.lastWatch := by simp [Dev.setStream]
@[simp] theorem Dev.part_setUnit (d : Dev) (m : MastId) (i : Nat) (x : Unit_) :
    (d.setUnit m i x).part = d.part := by simp [Dev.setUnit]
@[simp] theorem Dev.beat_setUnit (d : Dev) (m : MastId) (i : Nat) (x : Unit_) :
    (d.setUnit m i x).beat = d.beat := by simp [Dev.setUnit]
@[simp] theorem Dev.now_setUnit (d : Dev) (m : MastId) (i : Nat) (x : Unit_) :
    (d.setUnit m i x).now = d.now := by simp [Dev.setUnit]
@[simp] theorem Dev.tiles_setUnit (d : Dev) (m : MastId) (i : Nat) (x : Unit_) :
    (d.setUnit m i x).tiles = d.tiles := by simp [Dev.setUnit]
@[simp] theorem Dev.aon_setUnit (d : Dev) (m : MastId) (i : Nat) (x : Unit_) :
    (d.setUnit m i x).aon = d.aon := by simp [Dev.setUnit]
@[simp] theorem Dev.pins_setUnit (d : Dev) (m : MastId) (i : Nat) (x : Unit_) :
    (d.setUnit m i x).pins = d.pins := by simp [Dev.setUnit]
@[simp] theorem Dev.out_setUnit (d : Dev) (m : MastId) (i : Nat) (x : Unit_) :
    (d.setUnit m i x).out = d.out := by simp [Dev.setUnit]
@[simp] theorem Dev.free_setUnit (d : Dev) (m : MastId) (i : Nat) (x : Unit_) :
    (d.setUnit m i x).free = d.free := by simp [Dev.setUnit]
@[simp] theorem Dev.lastWatch_setUnit (d : Dev) (m : MastId) (i : Nat) (x : Unit_) :
    (d.setUnit m i x).lastWatch = d.lastWatch := by simp [Dev.setUnit]
@[simp] theorem Dev.part_setCore (d : Dev) (m : MastId) (k : Nat) (c : Core) :
    (d.setCore m k c).part = d.part := by simp [Dev.setCore]
@[simp] theorem Dev.beat_setCore (d : Dev) (m : MastId) (k : Nat) (c : Core) :
    (d.setCore m k c).beat = d.beat := by simp [Dev.setCore]
@[simp] theorem Dev.now_setCore (d : Dev) (m : MastId) (k : Nat) (c : Core) :
    (d.setCore m k c).now = d.now := by simp [Dev.setCore]
@[simp] theorem Dev.tiles_setCore (d : Dev) (m : MastId) (k : Nat) (c : Core) :
    (d.setCore m k c).tiles = d.tiles := by simp [Dev.setCore]
@[simp] theorem Dev.aon_setCore (d : Dev) (m : MastId) (k : Nat) (c : Core) :
    (d.setCore m k c).aon = d.aon := by simp [Dev.setCore]
@[simp] theorem Dev.pins_setCore (d : Dev) (m : MastId) (k : Nat) (c : Core) :
    (d.setCore m k c).pins = d.pins := by simp [Dev.setCore]
@[simp] theorem Dev.out_setCore (d : Dev) (m : MastId) (k : Nat) (c : Core) :
    (d.setCore m k c).out = d.out := by simp [Dev.setCore]
@[simp] theorem Dev.free_setCore (d : Dev) (m : MastId) (k : Nat) (c : Core) :
    (d.setCore m k c).free = d.free := by simp [Dev.setCore]
@[simp] theorem Dev.lastWatch_setCore (d : Dev) (m : MastId) (k : Nat) (c : Core) :
    (d.setCore m k c).lastWatch = d.lastWatch := by simp [Dev.setCore]
@[simp] theorem Dev.part_onCore (d : Dev) (m : MastId) (k : Nat) (f : Core → Core) :
    (d.onCore m k f).part = d.part := by simp [Dev.onCore]
@[simp] theorem Dev.beat_onCore (d : Dev) (m : MastId) (k : Nat) (f : Core → Core) :
    (d.onCore m k f).beat = d.beat := by simp [Dev.onCore]
@[simp] theorem Dev.now_onCore (d : Dev) (m : MastId) (k : Nat) (f : Core → Core) :
    (d.onCore m k f).now = d.now := by simp [Dev.onCore]
@[simp] theorem Dev.tiles_onCore (d : Dev) (m : MastId) (k : Nat) (f : Core → Core) :
    (d.onCore m k f).tiles = d.tiles := by simp [Dev.onCore]
@[simp] theorem Dev.aon_onCore (d : Dev) (m : MastId) (k : Nat) (f : Core → Core) :
    (d.onCore m k f).aon = d.aon := by simp [Dev.onCore]
@[simp] theorem Dev.pins_onCore (d : Dev) (m : MastId) (k : Nat) (f : Core → Core) :
    (d.onCore m k f).pins = d.pins := by simp [Dev.onCore]
@[simp] theorem Dev.out_onCore (d : Dev) (m : MastId) (k : Nat) (f : Core → Core) :
    (d.onCore m k f).out = d.out := by simp [Dev.onCore]
@[simp] theorem Dev.free_onCore (d : Dev) (m : MastId) (k : Nat) (f : Core → Core) :
    (d.onCore m k f).free = d.free := by simp [Dev.onCore]
@[simp] theorem Dev.lastWatch_onCore (d : Dev) (m : MastId) (k : Nat) (f : Core → Core) :
    (d.onCore m k f).lastWatch = d.lastWatch := by simp [Dev.onCore]
@[simp] theorem Dev.part_emit (d : Dev) (o : Out) : (d.emit o).part = d.part := rfl
@[simp] theorem Dev.beat_emit (d : Dev) (o : Out) : (d.emit o).beat = d.beat := rfl
@[simp] theorem Dev.now_emit (d : Dev) (o : Out) : (d.emit o).now = d.now := rfl
@[simp] theorem Dev.tiles_emit (d : Dev) (o : Out) : (d.emit o).tiles = d.tiles := rfl
@[simp] theorem Dev.aon_emit (d : Dev) (o : Out) : (d.emit o).aon = d.aon := rfl
@[simp] theorem Dev.pins_emit (d : Dev) (o : Out) : (d.emit o).pins = d.pins := rfl
@[simp] theorem Dev.free_emit (d : Dev) (o : Out) : (d.emit o).free = d.free := rfl
@[simp] theorem Dev.lastWatch_emit (d : Dev) (o : Out) : (d.emit o).lastWatch = d.lastWatch := rfl
@[simp] theorem Dev.fore_emit (d : Dev) (o : Out) : (d.emit o).fore = d.fore := rfl
@[simp] theorem Dev.main_emit (d : Dev) (o : Out) : (d.emit o).main = d.main := rfl
@[simp] theorem Dev.part_setTile (d : Dev) (t : Nat) (x : Tile) : (d.setTile t x).part = d.part := rfl
@[simp] theorem Dev.beat_setTile (d : Dev) (t : Nat) (x : Tile) : (d.setTile t x).beat = d.beat := rfl
@[simp] theorem Dev.now_setTile (d : Dev) (t : Nat) (x : Tile) : (d.setTile t x).now = d.now := rfl
@[simp] theorem Dev.aon_setTile (d : Dev) (t : Nat) (x : Tile) : (d.setTile t x).aon = d.aon := rfl
@[simp] theorem Dev.pins_setTile (d : Dev) (t : Nat) (x : Tile) : (d.setTile t x).pins = d.pins := rfl
@[simp] theorem Dev.out_setTile (d : Dev) (t : Nat) (x : Tile) : (d.setTile t x).out = d.out := rfl
@[simp] theorem Dev.free_setTile (d : Dev) (t : Nat) (x : Tile) : (d.setTile t x).free = d.free := rfl
@[simp] theorem Dev.lastWatch_setTile (d : Dev) (t : Nat) (x : Tile) : (d.setTile t x).lastWatch = d.lastWatch := rfl
@[simp] theorem Dev.fore_setTile (d : Dev) (t : Nat) (x : Tile) : (d.setTile t x).fore = d.fore := rfl
@[simp] theorem Dev.main_setTile (d : Dev) (t : Nat) (x : Tile) : (d.setTile t x).main = d.main := rfl
@[simp] theorem Dev.part_onTile (d : Dev) (t : Nat) (f : Tile → Tile) : (d.onTile t f).part = d.part := rfl
@[simp] theorem Dev.beat_onTile (d : Dev) (t : Nat) (f : Tile → Tile) : (d.onTile t f).beat = d.beat := rfl
@[simp] theorem Dev.now_onTile (d : Dev) (t : Nat) (f : Tile → Tile) : (d.onTile t f).now = d.now := rfl
@[simp] theorem Dev.aon_onTile (d : Dev) (t : Nat) (f : Tile → Tile) : (d.onTile t f).aon = d.aon := rfl
@[simp] theorem Dev.pins_onTile (d : Dev) (t : Nat) (f : Tile → Tile) : (d.onTile t f).pins = d.pins := rfl
@[simp] theorem Dev.out_onTile (d : Dev) (t : Nat) (f : Tile → Tile) : (d.onTile t f).out = d.out := rfl
@[simp] theorem Dev.free_onTile (d : Dev) (t : Nat) (f : Tile → Tile) : (d.onTile t f).free = d.free := rfl
@[simp] theorem Dev.lastWatch_onTile (d : Dev) (t : Nat) (f : Tile → Tile) : (d.onTile t f).lastWatch = d.lastWatch := rfl
@[simp] theorem Dev.fore_onTile (d : Dev) (t : Nat) (f : Tile → Tile) : (d.onTile t f).fore = d.fore := rfl
@[simp] theorem Dev.main_onTile (d : Dev) (t : Nat) (f : Tile → Tile) : (d.onTile t f).main = d.main := rfl

@[simp] theorem Dev.part_onBud (d : Dev) (m : MastId) (f : Budget → Budget) :
    (d.onBud m f).part = d.part := by simp [Dev.onBud]
@[simp] theorem Dev.beat_onBud (d : Dev) (m : MastId) (f : Budget → Budget) :
    (d.onBud m f).beat = d.beat := by simp [Dev.onBud]
@[simp] theorem Dev.now_onBud (d : Dev) (m : MastId) (f : Budget → Budget) :
    (d.onBud m f).now = d.now := by simp [Dev.onBud]
@[simp] theorem Dev.tiles_onBud (d : Dev) (m : MastId) (f : Budget → Budget) :
    (d.onBud m f).tiles = d.tiles := by simp [Dev.onBud]
@[simp] theorem Dev.aon_onBud (d : Dev) (m : MastId) (f : Budget → Budget) :
    (d.onBud m f).aon = d.aon := by simp [Dev.onBud]
@[simp] theorem Dev.pins_onBud (d : Dev) (m : MastId) (f : Budget → Budget) :
    (d.onBud m f).pins = d.pins := by simp [Dev.onBud]
@[simp] theorem Dev.out_onBud (d : Dev) (m : MastId) (f : Budget → Budget) :
    (d.onBud m f).out = d.out := by simp [Dev.onBud]
@[simp] theorem Dev.free_onBud (d : Dev) (m : MastId) (f : Budget → Budget) :
    (d.onBud m f).free = d.free := by simp [Dev.onBud]
@[simp] theorem Dev.lastWatch_onBud (d : Dev) (m : MastId) (f : Budget → Budget) :
    (d.onBud m f).lastWatch = d.lastWatch := by simp [Dev.onBud]
@[simp] theorem Dev.mast_onBud (d : Dev) (m : MastId) (f : Budget → Budget) :
    (d.onBud m f).mast m = { d.mast m with bud := f (d.mast m).bud } := by simp [Dev.onBud]
@[simp] theorem Dev.mast_onBud_peer (d : Dev) (m : MastId) (f : Budget → Budget) :
    (d.onBud m f).mast (peerOf m) = d.mast (peerOf m) := by simp [Dev.onBud]
@[simp] theorem Dev.part_onStay (d : Dev) (m : MastId) (t : Nat) (f : Stay → Stay) :
    (d.onStay m t f).part = d.part := by simp [Dev.onStay]
@[simp] theorem Dev.beat_onStay (d : Dev) (m : MastId) (t : Nat) (f : Stay → Stay) :
    (d.onStay m t f).beat = d.beat := by simp [Dev.onStay]
@[simp] theorem Dev.now_onStay (d : Dev) (m : MastId) (t : Nat) (f : Stay → Stay) :
    (d.onStay m t f).now = d.now := by simp [Dev.onStay]
@[simp] theorem Dev.tiles_onStay (d : Dev) (m : MastId) (t : Nat) (f : Stay → Stay) :
    (d.onStay m t f).tiles = d.tiles := by simp [Dev.onStay]
@[simp] theorem Dev.aon_onStay (d : Dev) (m : MastId) (t : Nat) (f : Stay → Stay) :
    (d.onStay m t f).aon = d.aon := by simp [Dev.onStay]
@[simp] theorem Dev.pins_onStay (d : Dev) (m : MastId) (t : Nat) (f : Stay → Stay) :
    (d.onStay m t f).pins = d.pins := by simp [Dev.onStay]
@[simp] theorem Dev.out_onStay (d : Dev) (m : MastId) (t : Nat) (f : Stay → Stay) :
    (d.onStay m t f).out = d.out := by simp [Dev.onStay]
@[simp] theorem Dev.free_onStay (d : Dev) (m : MastId) (t : Nat) (f : Stay → Stay) :
    (d.onStay m t f).free = d.free := by simp [Dev.onStay]
@[simp] theorem Dev.lastWatch_onStay (d : Dev) (m : MastId) (t : Nat) (f : Stay → Stay) :
    (d.onStay m t f).lastWatch = d.lastWatch := by simp [Dev.onStay]
@[simp] theorem Dev.mast_onStay_peer (d : Dev) (m : MastId) (t : Nat) (f : Stay → Stay) :
    (d.onStay m t f).mast (peerOf m) = d.mast (peerOf m) := by simp [Dev.onStay]
@[simp] theorem Dev.part_onMem (d : Dev) (m : MastId) (f : Mem → Mem) :
    (d.onMem m f).part = d.part := by simp [Dev.onMem]
@[simp] theorem Dev.beat_onMem (d : Dev) (m : MastId) (f : Mem → Mem) :
    (d.onMem m f).beat = d.beat := by simp [Dev.onMem]
@[simp] theorem Dev.now_onMem (d : Dev) (m : MastId) (f : Mem → Mem) :
    (d.onMem m f).now = d.now := by simp [Dev.onMem]
@[simp] theorem Dev.tiles_onMem (d : Dev) (m : MastId) (f : Mem → Mem) :
    (d.onMem m f).tiles = d.tiles := by simp [Dev.onMem]
@[simp] theorem Dev.aon_onMem (d : Dev) (m : MastId) (f : Mem → Mem) :
    (d.onMem m f).aon = d.aon := by simp [Dev.onMem]
@[simp] theorem Dev.pins_onMem (d : Dev) (m : MastId) (f : Mem → Mem) :
    (d.onMem m f).pins = d.pins := by simp [Dev.onMem]
@[simp] theorem Dev.out_onMem (d : Dev) (m : MastId) (f : Mem → Mem) :
    (d.onMem m f).out = d.out := by simp [Dev.onMem]
@[simp] theorem Dev.free_onMem (d : Dev) (m : MastId) (f : Mem → Mem) :
    (d.onMem m f).free = d.free := by simp [Dev.onMem]
@[simp] theorem Dev.lastWatch_onMem (d : Dev) (m : MastId) (f : Mem → Mem) :
    (d.onMem m f).lastWatch = d.lastWatch := by simp [Dev.onMem]
@[simp] theorem Dev.mast_onMem (d : Dev) (m : MastId) (f : Mem → Mem) :
    (d.onMem m f).mast m = { d.mast m with mem := f (d.mast m).mem } := by simp [Dev.onMem]
@[simp] theorem Dev.mast_onMem_peer (d : Dev) (m : MastId) (f : Mem → Mem) :
    (d.onMem m f).mast (peerOf m) = d.mast (peerOf m) := by simp [Dev.onMem]
@[simp] theorem Dev.part_onSec (d : Dev) (m : MastId) (f : List RcptJob → List RcptJob) :
    (d.onSec m f).part = d.part := by simp [Dev.onSec]
@[simp] theorem Dev.beat_onSec (d : Dev) (m : MastId) (f : List RcptJob → List RcptJob) :
    (d.onSec m f).beat = d.beat := by simp [Dev.onSec]
@[simp] theorem Dev.now_onSec (d : Dev) (m : MastId) (f : List RcptJob → List RcptJob) :
    (d.onSec m f).now = d.now := by simp [Dev.onSec]
@[simp] theorem Dev.tiles_onSec (d : Dev) (m : MastId) (f : List RcptJob → List RcptJob) :
    (d.onSec m f).tiles = d.tiles := by simp [Dev.onSec]
@[simp] theorem Dev.aon_onSec (d : Dev) (m : MastId) (f : List RcptJob → List RcptJob) :
    (d.onSec m f).aon = d.aon := by simp [Dev.onSec]
@[simp] theorem Dev.pins_onSec (d : Dev) (m : MastId) (f : List RcptJob → List RcptJob) :
    (d.onSec m f).pins = d.pins := by simp [Dev.onSec]
@[simp] theorem Dev.out_onSec (d : Dev) (m : MastId) (f : List RcptJob → List RcptJob) :
    (d.onSec m f).out = d.out := by simp [Dev.onSec]
@[simp] theorem Dev.free_onSec (d : Dev) (m : MastId) (f : List RcptJob → List RcptJob) :
    (d.onSec m f).free = d.free := by simp [Dev.onSec]
@[simp] theorem Dev.lastWatch_onSec (d : Dev) (m : MastId) (f : List RcptJob → List RcptJob) :
    (d.onSec m f).lastWatch = d.lastWatch := by simp [Dev.onSec]
@[simp] theorem Dev.mast_onSec (d : Dev) (m : MastId) (f : List RcptJob → List RcptJob) :
    (d.onSec m f).mast m = { d.mast m with sec := f (d.mast m).sec } := by simp [Dev.onSec]
@[simp] theorem Dev.mast_onSec_peer (d : Dev) (m : MastId) (f : List RcptJob → List RcptJob) :
    (d.onSec m f).mast (peerOf m) = d.mast (peerOf m) := by simp [Dev.onSec]
/-- What an update of a stay link does to that link, and to the mast's others. -/
@[simp] theorem Dev.stay_onStay (d : Dev) (m : MastId) (t : Nat) (f : Stay → Stay) : (d.onStay m t f).stay m t = f (d.stay m t) := by
  simp [Dev.onStay, Dev.stay]
theorem Dev.stay_onStay_ne (d : Dev) (m : MastId) (t u : Nat) (f : Stay → Stay) (h : u ≠ t) :
    (d.onStay m t f).stay m u = d.stay m u := by
  simp [Dev.onStay, Dev.stay, tget_tset_ne, h]

end Sys2Proof.Machine
end

