-- ==== Sys2Proof/Safety.lean ====
section
/-! DEFINITION. What counts as a sound state and a safe run, in the terms the claims use. -/

namespace Sys2Proof.Machine

/-- A label of R307: 48-bit seconds, nanoseconds below 1,000,000,000. -/
abbrev LabelOk (t : Stamp) : Prop := t.sec < 2 ^ 48 ∧ t.ns < 1000000000

/-- The label of a beat: a multiple of 100 ns (R24, R308). -/
abbrev BeatLabelOk (t : Stamp) : Prop := LabelOk t ∧ t.ns % 100 = 0

/-- The time of a state is sound. -/
abbrev TimeOk (s : State) : Prop := BeatLabelOk s.dev.now

/-- A core's data memory keeps the canonical form of a sparse table: addresses strictly rising, no byte at its reset value. -/
abbrev CoreMemOk (c : Core) : Prop := twf 0 c.mem = true

/-- The serving holder of a block: its mast, out of reset, with its reference clock, not stopped under R400. -/
abbrev Serves (d : Dev) (m : MastId) : Prop := d.serving = some m

/-- A set-up write that its mast accepts (R10, R41, R42): the BAR is reachable, the mast holds the pennant or the register
is one the standby takes, the offset is a register's, the access is of 32 or 64 bits, and no reserved bit is written 1. -/
abbrev Writable (d : Dev) (off : Nat) (w : RegWr) (info : RegInfo) : Prop :=
  d.barUp w.mast = true ∧ (d.holder = some w.mast ∨ standbyTakes off = true) ∧ regInfo off = some info ∧
    w.half ≠ .other ∧ reservedHit info w = false

/-- The register's bits that an accepted write leaves for checking (R489). -/
def Dev.written (d : Dev) (off : Nat) (w : RegWr) (info : RegInfo) : Reg64 := merged info (d.reg w.mast off) w

/-- A FAB_BRING command is taken (R52, R53): by the holder, not busy, in a stage listed for it. -/
abbrev Brings (d : Dev) (m : MastId) (stages : List Stage) : Prop :=
  d.barUp m = true ∧ d.holder = some m ∧ (d.mast m).boot.busy = none ∧ stages.contains (d.mast m).boot.stage = true

/-- The block with a FAB_BRING command begun: BUSY is 1. -/
def Dev.busyWith (d : Dev) (m : MastId) (b : Bring) : Dev := d.onBoot m (fun x => { x with busy := some b })

/-- The row's descriptor starts (R80, R83): accepted on the serving mast, of that opcode, not started, free of fences. -/
abbrev Starts (d : Dev) (ring seq op : Nat) (m : MastId) (x : Desc) : Prop := d.startable ring seq op = some (m, x)

/-- The block with a descriptor started. -/
def Dev.begun (d : Dev) (m : MastId) (ring seq : Nat) : Dev := d.onDesc m ring seq (fun x => { x with started := true })

/-- A slot-A operation issues (R214, R228): the mast serves, its core may issue, the operation is well formed, and the
bundle lies within CODE_LEN (R224). -/
abbrev IssuesA (d : Dev) (m : MastId) (k : Nat) (i : Instr) : Prop :=
  Serves d m ∧ d.canIssue m k = true ∧ i.opWf = true ∧ (d.core m k).openA.overrun = false

/-- The block with a slot-A operation being issued. -/
def Dev.opened (d : Dev) (m : MastId) (k : Nat) : Dev :=
  (d.onCore m k Core.openA).onCore m k (fun c => { c with slotA := true })

/-- A slot-B operation issues: in the bundle whose slot A is issued, or in one whose slot A is a no-operation. -/
abbrev IssuesB (d : Dev) (m : MastId) (k : Nat) (i : Instr) : Prop :=
  let c := d.core m k
  Serves d m ∧ i.opWf = true ∧
    (d.canIssue m k = true ∨ c.slotA = true ∧ (c.run = .waiting ∨ c.run = .stalled)) ∧
    (c.slotA = true ∨ c.overrun = false) ∧ c.tapClash i = false

/-- A host-written slot that passes R96 and R97: read without error, the reference and owner sound, LEN within the slot, the
CRC matching. -/
abbrev SlotSound (d : Dev) (m : MastId) (x : Desc) (i : SlotIn) : Prop :=
  x.lost = false ∧ i.err = false ∧ d.slotBad m x i.ref i.owner = none ∧ Sys2Proof.Machine.crcOk i = true ∧
    i.len ≤ ((d.holdSlot m x i.ref).hostIn m 64).slotSize m (refWin i.ref) - 64

/-- The block with a host-written slot held and read through. -/
def Dev.scanned (d : Dev) (m : MastId) (x : Desc) (i : SlotIn) : Dev :=
  (((d.holdSlot m x i.ref).hostIn m 64).hostIn m i.len).queueScan m 7 12 i.len

/-- A slot to be written that passes R96. -/
abbrev SlotFree (d : Dev) (m : MastId) (x : Desc) (o : SlotOut) : Prop :=
  x.lost = false ∧ o.err = false ∧ d.slotBad m x o.ref o.owner = none

/-- The block with a slot's header read and the slot held. -/
def Dev.heldOut (d : Dev) (m : MastId) (x : Desc) (o : SlotOut) : Dev := (d.holdSlot m x o.ref).hostIn m 64

/-- A command-lane frame of a tile finds a slot (R16). -/
abbrev UpFree (d : Dev) (m : MastId) (t cls : Nat) : Prop :=
  (d.stay m t).up.cmdFree d.beat = true ∧ ((d.stay m t).up.late && d.upBelow m t cls) = false

/-- The block with a command-lane frame of a tile arrived. -/
def Dev.arrived (d : Dev) (m : MastId) (t : Nat) : Dev :=
  (d.onStay m t (fun s => { s with up := s.up.cmdUse d.beat })).staySlot m t true

/-- A frame of the loop-service class finds its allowance and a slot, from the tile or to it (R15, R34). -/
abbrev CarryFree (d : Dev) (m : MastId) (t : Nat) (up : Bool) : Prop :=
  d.waits m 1 0 t = false ∧ (if up then (d.stay m t).up else (d.stay m t).down).budFree d.beat (d.budget m 1 0) 0 = true

/-- The block with such a frame crossed. -/
def Dev.carried (d : Dev) (m : MastId) (t : Nat) (up : Bool) : Dev :=
  (d.onStay m t (fun s => if up then { s with up := s.up.budUse d.beat 0 } else { s with down := s.down.budUse d.beat 0 })).staySlot
    m t up

/-- A class finds the allowance for its HBM transfers (R34). -/
abbrev HbmFree (d : Dev) (m : MastId) (cls n : Nat) : Prop :=
  d.waits m 2 cls 0 = false ∧ 0 < n ∧ 0 < d.budget m 2 cls ∧
    tget 0 (d.mast m).bud.hbm cls + Nat.min n (d.budget m 2 cls) ≤ d.budget m 2 cls

/-- The block with the transfers made. -/
def Dev.hbmUsed (d : Dev) (m : MastId) (cls n : Nat) : Dev :=
  (d.onBud m (fun b => { b with hbm := tset 0 b.hbm cls (tget 0 (d.mast m).bud.hbm cls + Nat.min n (d.budget m 2 cls)) })).hbmMoved m
    (cls == 3) n

end Sys2Proof.Machine
end

