-- ==== Sys2Proof/Laws/Ops.lean ====
section
/-! SUPPORT. What the shared operations do: a write that is accepted, an effect of the serving holder, a bring-up command, a
descriptor that starts. -/

namespace Sys2Proof.Machine

theorem Dev.act_of_serves {d : Dev} {m : MastId} (h : Serves d m) (f : MastId → Dev) : d.act f = f m := by
  have h : d.serving = some m := h
  simp [Dev.act, h]

theorem Dev.act_of_none {d : Dev} (h : d.serving = none) (f : MastId → Dev) : d.act f = d := by simp [Dev.act, h]

/-- An accepted write runs its register's meaning on the bits of R489. -/
theorem Dev.barWrite_of_writable {d : Dev} {off : Nat} {w : RegWr} {info : RegInfo} (h : Writable d off w info)
    (k : MastId → RegInfo → Reg64 → Dev → Dev) : d.barWrite off w k = k w.mast info (d.written off w info) d := by
  obtain ⟨h1, h2, h3, h5, h4⟩ := h
  rcases h2 with h2 | h2 <;> simp [Dev.barWrite, Dev.wrBits, Dev.written, h1, h2, h3, h4, h5]

/-- A standby ignores a write outside its blocks and sets WR_IGN (R42). -/
theorem Dev.barWrite_standby {d : Dev} {off : Nat} {w : RegWr} (h1 : d.barUp w.mast = true) (h2 : d.holder ≠ some w.mast)
    (h3 : standbyTakes off = false) (k : MastId → RegInfo → Reg64 → Dev → Dev) :
    d.barWrite off w k = d.flag w.mast 0x0010 3 := by
  simp [Dev.barWrite, h1, h2, h3]

theorem Dev.bring_of_brings {d : Dev} {m : MastId} {stages : List Stage} (h : Brings d m stages) (b : Bring) (k : Dev → Dev) :
    d.bring m b stages k = k (d.busyWith m b) := by
  obtain ⟨h1, h2, h3, h4⟩ := h
  simp only [Dev.bring, Dev.busyWith, h1, h2, h3, h4]; simp

theorem Dev.start_of_starts {d : Dev} {ring seq op : Nat} {m : MastId} {x : Desc} (h : Starts d ring seq op m x)
    (k : MastId → Desc → Dev → Dev) : d.start ring seq op k = k m x (d.begun m ring seq) := by
  have h : d.startable ring seq op = some (m, x) := h
  simp [Dev.start, h, Dev.begun]

theorem Dev.start_of_none {d : Dev} {ring seq op : Nat} (h : d.startable ring seq op = none)
    (k : MastId → Desc → Dev → Dev) : d.start ring seq op k = d := by simp [Dev.start, h]

/-- What a start finds: the serving mast, and a descriptor of it in flight, of the opcode, not started. -/
theorem Starts.facts {d : Dev} {ring seq op : Nat} {m : MastId} {x : Desc} (h : Starts d ring seq op m x) :
    Serves d m ∧ d.findDesc m ring seq = some x ∧ x.ent.opcode = op ∧ x.started = false := by
  have h : d.startable ring seq op = some (m, x) := h
  unfold Dev.startable at h
  split at h
  · cases h
  · next m' hs =>
    split at h
    · cases h
    · next y hy =>
      split at h
      · next hc =>
        simp only [Option.some.injEq, Prod.mk.injEq] at h
        obtain ⟨rfl, rfl⟩ := h
        simp only [Bool.and_eq_true, beq_iff_eq, Bool.not_eq_true'] at hc
        exact ⟨hs, hy, hc.1.1, hc.1.2⟩
      · cases h

/-- A slot-A operation that issues runs on the opened bundle. -/
theorem Dev.slotA_of_issues {d : Dev} {m : MastId} {k : Nat} {i : Instr} (h : IssuesA d m k i) (f : MastId → Dev → Dev) :
    d.slotA k i f = f m (d.opened m k) := by
  obtain ⟨h1, h2, h3, h4⟩ := h
  simp [Dev.slotA, Dev.opened, Dev.act_of_serves h1, h2, h3, Dev.onCore, h4]

/-- A slot-B operation that issues ends its bundle. -/
theorem Dev.slotB_of_issues {d : Dev} {m : MastId} {k : Nat} {i : Instr} (h : IssuesB d m k i) (f : Core → Core) :
    d.slotB k i f = d.onCore m k (fun c => (f c).close) := by
  obtain ⟨h1, h2, h3, h4, h5⟩ := h
  have e1 : (!((d.core m k).slotA && ((d.core m k).run == .waiting || (d.core m k).run == .stalled)) && !d.canIssue m k ||
      !i.opWf) = false := by
    rcases h3 with h3 | ⟨h3, h3' | h3'⟩ <;> simp [*]
  have e2 : (!(d.core m k).slotA && (d.core m k).overrun) = false := by rcases h4 with h4 | h4 <;> simp [h4]
  simp only [Dev.slotB, Dev.act_of_serves h1, e1, e2]
  simp [h5]

/-- A sound slot is held, read through, and its payload used. -/
theorem Dev.slotIn_of_sound {d : Dev} {m : MastId} {x : Desc} {i : SlotIn} (h : SlotSound d m x i)
    (fail : Status → Dev → Dev) (k : Dev → Dev) : d.slotIn m x i fail k = k (d.scanned m x i) := by
  obtain ⟨h1, h2, h3, h4, h5⟩ := h
  simp [Dev.slotIn, Dev.slotHold, Dev.slotOut, Dev.slotCheck, Dev.scanned, h1, h2, h3, h4, Nat.not_lt.mpr h5]

/-- A free slot is held. -/
theorem Dev.slotOut_of_free {d : Dev} {m : MastId} {x : Desc} {o : SlotOut} (h : SlotFree d m x o)
    (fail : Status → Dev → Dev) (k : Dev → Dev) : d.slotOut m x o fail k = k (d.heldOut m x o) := by
  obtain ⟨h1, h2, h3⟩ := h
  simp [Dev.slotOut, Dev.heldOut, h1, h2, h3]

/-- A frame that finds a slot arrives. -/
theorem Dev.upGo_of_free {d : Dev} {m : MastId} {t cls : Nat} (h : UpFree d m t cls) (f : Dev → Dev) :
    d.upGo m t cls f = f (d.arrived m t) := by
  obtain ⟨h1, h2⟩ := h
  simp [Dev.upGo, Dev.arrived, h1, h2]

/-- A loop-service frame that finds its slot crosses. -/
theorem Dev.carry_of_free {d : Dev} {m : MastId} {t : Nat} {up : Bool} (h : CarryFree d m t up) (f : Dev → Dev) :
    d.carry m t up f = f (d.carried m t up) := by
  obtain ⟨h1, h2⟩ := h
  simp [Dev.carry, Dev.carried, h1, h2]

/-- Transfers that find their allowance are made. -/
theorem Dev.hbmGo_of_free {d : Dev} {m : MastId} {cls n : Nat} (h : HbmFree d m cls n) (f : Dev → Dev) :
    d.hbmGo m cls n f = f (d.hbmUsed m cls n) := by
  obtain ⟨h1, h2, h3, h4⟩ := h
  have h5 : ¬ d.budget m 2 cls < tget 0 (d.mast m).bud.hbm cls + Nat.min n (d.budget m 2 cls) := by omega
  have h6 : Nat.min n (d.budget m 2 cls) ≠ 0 := by
    have : min n (d.budget m 2 cls) = Nat.min n (d.budget m 2 cls) := rfl
    omega
  unfold Dev.hbmGo Dev.hbmUsed
  simp only []
  rw [if_neg (by simp [h1, h5, h6])]

/-- A field written with its width reads back, modulo its range (R9). -/
theorem leNat_leBytes (n v : Nat) : leNat (leBytes n v) = v % 256 ^ n := by
  induction n generalizing v with
  | zero => simp [leBytes, leNat, Nat.mod_one]
  | succ n ih =>
    have : leBytes (n + 1) v = BitVec.ofNat 8 v :: leBytes n (v / 256) := by
      simp only [leBytes, List.range_succ_eq_map, List.map_cons, List.map_map]
      congr 1
      · simp
      · apply List.map_congr_left; intro i _
        simp [Nat.pow_succ, Nat.mul_comm, Nat.div_div_eq_div_mul]
    rw [this, leNat, ih, Nat.pow_succ, Nat.mul_comm _ 256, Nat.mod_mul]
    simp


end Sys2Proof.Machine
end

