-- ==== Sys2Proof/Certificates/Slice0/Obligations.lean ====
section
/-! DEFINITION. The statements for the provers: what each command does when its conditions hold, the rules of the whole
block, and what every step keeps. -/

open Sys2Proof Sys2Proof.Machine

/-- The command completes with the block as `d`, the queue untouched. -/
def Sys2Proof.Machine.Answers (c : Instr) (s : State) (d : Dev) : Prop := exec c s = .next { s with dev := d }

/-! ## Reset, boot, recovery -/

/-- Next states of boot and of the recovery boot class, under R43, R46, R49, R55, R56, R58 and R65, clause by clause.
PORESET_N rising with no trip active starts both boot ROMs on the same pins. Falling, it returns both masts to RESET. An
image that verifies runs; one that does not, with no other slot to try, leaves the mast in the recovery boot class. A link
at Gen 4 or Gen 3 dual-lane comes up. The tunnel takes a booting mast to SETUP, where the first pennant is granted if that
mast may take it; after the boot timeout it is granted to main if main may. In the recovery boot class IDENT and STATUS
answer, NOR_WRITE and LOAD of an image that verifies answer 0, and a LOAD refused in BOOT halts the mast with a status of
0x0100 to 0x05FF. Choices of the model that it rests on: log entries 76, 83, 90, 99. -/
def Obligations.BootAndRecoveryComplete : Prop :=
  (-- PORESET_N rises, no trip active: both boot ROMs sample the same pins
  (∀ (s : State) (sel : BitVec 2), s.dev.pins.poresetN = false → s.dev.aon.tripped = none →
    ∃ d : Dev, Answers (.poresetNRise sel) s d ∧ d.pins = { s.dev.pins with poresetN := true, riseBeat := s.dev.beat } ∧
      d.fore = { s.dev.fore with boot := s.dev.fore.boot.start sel s.dev.beat } ∧
      d.main = { s.dev.main with boot := s.dev.main.boot.start sel s.dev.beat } ∧
      d.fore.boot.stage = .boot ∧ d.main.boot.stage = .boot ∧ d.fore.boot.bootSel = sel ∧ d.main.boot.bootSel = sel ∧
      d.tiles = s.dev.tiles ∧ d.out = s.dev.out ∧ d.now = s.dev.now) ∧
  -- PORESET_N falls: both masts return to RESET
  (∀ s : State, ∃ d : Dev, Answers .poresetNFall s d ∧ d.pins.poresetN = false ∧ d.fore.boot.stage = .reset ∧
      d.main.boot.stage = .reset ∧ d.tiles = [] ∧ d.aon.on = 0 ∧ d.now = ⟨0, 0⟩ ∧ d.fore.fab.epoch = 0 ∧ d.fore.regs = [] ∧
      d.fore.boot.otp = s.dev.fore.boot.otp ∧ d.fore.boot.nor = { s.dev.fore.boot.nor with job := none }) ∧
  -- an image that verifies runs; one that does not makes way for the other slot
  (∀ (s : State) (m : MastId) (t : Nat) (rest : List Nat) (g : FwImage), (s.dev.mast m).boot.stage = .boot →
    (s.dev.mast m).boot.running = false → (s.dev.mast m).boot.tries = t :: rest → (s.dev.mast m).boot.nor.fw t = some g →
    ((s.dev.mast m).boot.verifies g = true → Answers (.bootImageVerified m) s (s.dev.onBoot m (fun b =>
      { b with running := true, fwVersion := g.fwVersion, fwSlot := t, recovery := false, fwKey := g.sig.keySlot,
               fwMeas := g.meas, tries := [] }))) ∧
    ((s.dev.mast m).boot.verifies g = false → rest = [] → Answers (.bootImageVerified m) s (s.dev.onBoot m (fun b =>
      { b with tries := [], recoveryClass := true })))) ∧
  -- Gen 4 or Gen 3 dual-lane comes up
  (∀ (s : State) (m : MastId) (mode : LinkMode), (s.dev.mast m).boot.running = true → mode ≠ .other →
    Answers (.usb4LinkTraining m mode) s (s.dev.onBoot m (fun b => { b with usb := true }))) ∧
  -- the tunnel takes a booting mast to SETUP; the first pennant goes to the mast that may take it
  (∀ (s : State) (m : MastId), (s.dev.mast m).boot.running = true → (s.dev.mast m).boot.usb = true →
    (s.dev.mast m).boot.stage = .boot →
    Answers (.pcieTunnelEstablished m) s
      (let d := s.dev.onBoot m (fun b => { b with tunnel := true, stage := if b.stage == .boot then .setup else b.stage })
       if d.claimsFirst m then d.firstPennant m else d)) ∧
  (∀ s : State, s.dev.claimsFirst .main = true → Answers .pennantBootTimeout s (s.dev.firstPennant .main))) ∧
  (∀ (s : State) (m : MastId) (img : FwImage), (s.dev.mast m).boot.recoveryClass = true →
    Answers (.ident m) s (s.dev.emit (.reply m 0 [(idPart s.dev.part).toNat, midx m, (s.dev.mast m).boot.stage.code])) ∧
    Answers (.status m) s (s.dev.emit (.reply m (s.dev.mast m).boot.lastResult [])) ∧
    ((s.dev.mast m).boot.verifies img = true →
      Answers (.norWrite m img) s ((s.dev.onBoot m (fun b => { b with nor := b.nor.putFw img, lastResult := 0 })).emit
        (.reply m 0 [])) ∧
      ((s.dev.mast m).boot.stage = .boot → (s.dev.mast m).boot.running = false →
        Answers (.load m img) s ((s.dev.onBoot m (fun b =>
          { b with running := true, fwVersion := img.fwVersion, fwSlot := 0, recovery := true, fwKey := img.sig.keySlot,
                   fwMeas := img.meas, tries := [], lastResult := 0 })).emit (.reply m 0 [])))) ∧
    ((s.dev.mast m).boot.verifies img = false → (s.dev.mast m).boot.stage = .boot → (s.dev.mast m).boot.running = false →
      ∃ n, 0x100 ≤ n ∧ n < 0x600 ∧ Answers (.load m img) s (({ s.dev with free := s.dev.free + 1 }.onBoot m (fun b =>
        { b with stage := .halted, lastResult := n })).emit (.reply m n []))))

/-! ## Set-up registers and bring-up -/

/-- Next states of a set-up write to a register without a row of its own, and of FAB_TILE_EN, under R2, R10, R41, R42, R51,
R53, R418, R489 and R490, clause by clause. An accepted write stores rw fields within their ranges and clears the w1c bits
written 1, on the standby as well. A write at a reserved offset, or of a width other than 32 or 64 bits, changes nothing. On
a mast without the pennant a write outside the blocks it takes sets WR_IGN. One command bit of FAB_BRING starts its command;
several, with no command running, leave STATUS NOT_PERMITTED. A FAB_TILE_EN write is taken in SETUP for fitted tiles; in
TOPO for fitted tiles unless it clears a tile of the table, waking and disabling tiles while POWER runs; past SETUP one that
clears a tile of the table sets EN_REJ; in READY one that names fitted tiles only and clears none of the table's wakes and
disables. Choices of the model that it rests on: log entries 19, 20, 24. -/
def Obligations.SetupWritesComplete : Prop :=
  (∀ (s : State) (off : Nat) (w : RegWr), ownRow off = false →
    -- accepted: rw fields in range take the written bits, w1c bits written 1 clear here and on the standby
    (∀ info, off ≠ 0x4020 → Writable s.dev off w info →
      Answers (.setupRegisterWrite off w) s
        (((s.dev.setReg w.mast off (plainWrite info (s.dev.reg w.mast off)
          (s.dev.frozen w.mast off (s.dev.reg w.mast off)
            (keepRanges off (s.dev.reg w.mast off) (s.dev.written off w info))))).unmask w.mast off).mirrorClear w.mast off
              (s.dev.written off w info &&& info.w1c))) ∧
    -- at a reserved offset of a reachable BAR that takes the write: ignored
    (off ≠ 0x4020 → s.dev.barUp w.mast = true → (s.dev.holder = some w.mast ∨ standbyTakes off = true) →
      regInfo off = none → Answers (.setupRegisterWrite off w) s s.dev) ∧
    -- on a mast without the pennant, outside the blocks it takes: ignored, WR_IGN set
    (s.dev.barUp w.mast = true → s.dev.holder ≠ some w.mast → standbyTakes off = false →
      Answers (.setupRegisterWrite off w) s (s.dev.flag w.mast 0x0010 3)) ∧
    -- an access of another width: ignored
    (off ≠ 0x4020 → s.dev.barUp w.mast = true → (s.dev.holder = some w.mast ∨ standbyTakes off = true) → w.half = .other →
      Answers (.setupRegisterWrite off w) s s.dev) ∧
    -- FAB_BRING with one command bit: the command starts
    (∀ info b c, off = 0x4020 → Writable s.dev off w info → bitsOf (s.dev.written off w info).toNat 5 = [b] →
      bringOf b = some c → Answers (.setupRegisterWrite off w) s (s.dev.bringStart w.mast c)) ∧
    -- FAB_BRING with several command bits, not busy: STATUS becomes NOT_PERMITTED and nothing else changes
    (∀ info, off = 0x4020 → Writable s.dev off w info → (s.dev.mast w.mast).boot.busy = none →
      2 ≤ (bitsOf (s.dev.written off w info).toNat 5).length →
      Answers (.setupRegisterWrite off w) s (s.dev.onBoot w.mast (fun b => { b with status := .notPermitted })))) ∧
  (∀ (s : State) (w : RegWr) (info : RegInfo), Writable s.dev 0x4010 w info →
    let old := s.dev.regF w.mast 0x4010 0 16
    let new := fld (s.dev.written 0x4010 w info) 0 16
    let clears := (s.dev.fab w.mast).tableTiles.any (fun t => bit old t && !bit new t)
    let unfit := (bitsOf new 16).any (fun t => !bit s.dev.part.fitted t)
    let kept := s.dev.setRegF w.mast 0x4010 0 16 (maskOf ((bitsOf new 16).filter (bit s.dev.part.fitted)))
    ((s.dev.mast w.mast).boot.stage = .setup ∨ (s.dev.mast w.mast).boot.stage = .topo ∧ clears = false ∧
      (s.dev.mast w.mast).boot.busy ≠ some .power → Answers (.fabTileEnWrite w) s kept) ∧
    -- while POWER is under way the new bits wake and the cleared ones go (log entry 24)
    ((s.dev.mast w.mast).boot.stage = .topo → clears = false → (s.dev.mast w.mast).boot.busy = some .power →
      Answers (.fabTileEnWrite w) s (kept.enables w.mast old)) ∧
    ((s.dev.mast w.mast).boot.stage ≠ .setup ∧ clears = true →
      Answers (.fabTileEnWrite w) s (s.dev.flag w.mast 0x8010 2)) ∧
    ((s.dev.mast w.mast).boot.stage = .ready ∧ clears = false ∧ unfit = false →
      Answers (.fabTileEnWrite w) s ((s.dev.setRegF w.mast 0x4010 0 16 new).each (List.range 16) (fun t d =>
        if bit new t then
          (d.onTile t (fun x => { x with disabling := false })).when (!bit old t) (fun d => d.wake (16 + 2 * t))
        else if d.domBusy (16 + 2 * t) then d.onTile t (fun x => { x with disabling := true })
        else d))))

/-- Next states of bring-up, under R52, R53, R60 to R64, R71, R151, R300 and R301, clause by clause. TOPO_LOAD, POWER,
SEED_RESTORE and LOOP_ARM taken by the holder in a stage listed for them set BUSY and begin: the table's read is issued, or
the tiles' wake-ups are requested. The fetched bytes, read as a table, end the load with TOPO_INVALID and the failing check,
or load the table and lead to TOPO. SEED_RESTORE ends with SEED_ABSENT, SEED_MISMATCH, or the newest image loaded and
SEEDED. Self-calibration of a tile outside POWER ends with four conversions of each converter marked. At its beat READY is
reached at epoch 0 with an empty map. A power failure ends a NOR job. Choices of the model that it rests on: log entries 21,
86, 99. -/
def Obligations.BringUpCompletes : Prop :=
  (∀ (s : State) (m : MastId),
    (Brings s.dev m [.setup, .topo] → Answers (.topoLoad m) s
      (let n := (s.dev.busyWith m .topoLoad).regF m 0x4008 0 32
       ((s.dev.busyWith m .topoLoad).emit (.hostRead m 5 0 n ((s.dev.busyWith m .topoLoad).reg m 0x4000).toNat)).hostIn m n)) ∧
    (Brings s.dev m [.topo] → Answers (.power m) s
      (((s.dev.busyWith m .power).each (bitsOf (s.dev.regF m 0x4010 0 16) 16) (fun t d => d.wake (16 + 2 * t))).powerDone m)) ∧
    (Brings s.dev m [.powered] → Answers (.seedRestore m) s (s.dev.busyWith m .seedRestore)) ∧
    (Brings s.dev m [.seeded] → Answers (.loopArm m) s (s.dev.busyWith m .loopArm)) ∧
    (Serves s.dev m → (s.dev.mast m).boot.busy = some .topoLoad → ∀ b : List Byte,
      let t := topoOf (b.take (s.dev.regF m 0x4008 0 32))
      (∀ e, topoCheck s.dev.part (s.dev.regF m 0x4010 0 16) t = some e →
        Answers (.topoTableFetched (some b)) s ((s.dev.onFab m (fun f => { f with topoErr := e.1, topoErrEntry := e.2 })).onBoot m
          (fun b => { b with busy := none, status := .topoInvalid }))) ∧
      (topoCheck s.dev.part (s.dev.regF m 0x4010 0 16) t = none →
        Answers (.topoTableFetched (some b)) s ((s.dev.loadTopo m t).onBoot m
          (fun b => { b with busy := none, status := .ok, stage := .topo })))) ∧
    (Serves s.dev m → (s.dev.mast m).boot.busy = some .seedRestore →
      ((s.dev.mast m).boot.nor.newest = none → Answers .seedRestoreDone s (s.dev.onBoot m
        (fun b => { b with busy := none, status := .seedAbsent }))) ∧
      (∀ g z, (s.dev.mast m).boot.nor.newest = some g → (s.dev.fab m).topo = some z →
        (g.topoCrc ≠ z.table.crc → Answers .seedRestoreDone s (s.dev.onBoot m
          (fun b => { b with busy := none, status := .seedMismatch }))) ∧
        (g.topoCrc = z.table.crc → Answers .seedRestoreDone s ((s.dev.loadSeed g).onBoot m
          (fun b => { b with busy := none, status := .ok, stage := .seeded })))))) ∧
  (∀ (s : State) (m : MastId) (t b : Nat), Serves s.dev m → (s.dev.tile t).selfcal = some b →
    (s.dev.tile t).alive = true → b ≤ s.dev.beat → (s.dev.mast m).boot.busy ≠ some .power →
    Answers (.selfCalibrationDone t) s (s.dev.onTile t (fun x => ({ x with selfcal := none } : Tile).markAll 4))) ∧
  (∀ (s : State) (m : MastId) (b : Nat), Serves s.dev m → (s.dev.mast m).boot.readyAt = some b →
    (s.dev.mast m).boot.busy = some .loopArm → b ≤ s.dev.beat →
    Answers .stageReady s (((s.dev.onBoot m (fun x => { x with
        readyAt := none, busy := none, status := .ok, stage := .ready })).onHif m (fun h => { h with
          running := s.dev.hifEn m, firstPoll := true, pollAt := s.dev.beat, sweep := 0 })).onFab m (fun f => { f with
            epoch := 0, map := [], portEpoch := [], strikeTime := none }))) ∧
  (∀ s : State, Answers .powerFailure s ((s.dev.onBoot .fore (fun b => { b with nor := { b.nor with job := none } })).onBoot
    .main (fun b => { b with nor := { b.nor with job := none } })))

/-! ## Fast-drive channels -/

/-- Next states of the fast-drive channels, of heater-limit reports and of FAB_DRV_TILEt, under R239 to R246, R252, R255
and R386, clause by clause. At a step beat of a tile whose analogue domain is alive, O moves toward E by at most STEP,
or is held while a Winnow test of the cell runs. An immediate write of the pennant epoch and lease in force that finds a
frame slot waits for the next beat boundary; one with a bad CRC or another epoch changes nothing. The rise of PARK_N
makes the release due two beats on. A requested gain is taken once every channel is idle at P. The fall of PARK_N puts O
and E of every channel of a powered tile at P, with T, W and the heater kept; at the release E returns to T for written
channels. A tile's heater-limit reports that find a slot are reported to the collector. A FAB_DRV write keeps STEP or
RATE written 0. With the upper half alone neither PARK nor GAIN is touched; a new PARK before ARMING is sent to a tile
that takes it; another gain has the offsets measured again and waits. Choices of the model that it rests on: log entries
1, 23, 108. -/
def Obligations.DriveEventsAndParkComplete : Prop :=
  ((-- a step beat: O moves toward E by at most STEP, and the next step beat is RATE beats on
  (∀ (s : State) (c b : Nat), c < cellCount → (s.dev.tile (c / laneCount)).alive = true →
    (s.dev.tile (c / laneCount)).parkLow = false → (s.dev.cell c).drv.step = some b → b ≤ s.dev.beat →
    let k := s.dev.drvSet (c / laneCount)
    Answers (.slewStep c) s (if s.dev.testing s.dev.server ⟨.cell, c⟩ then s.dev
      else s.dev.onCell c (fun x => { x with drv := x.drv.toward (x.drv.E false) k.1 k.2 s.dev.beat }))) ∧
  -- an immediate write of the pennant epoch in force waits for the next beat boundary
  (∀ (s : State) (c p : Nat) (g : Tgt) (thresh : Bool), c < cellCount → (s.dev.tile (c / laneCount)).alive = true →
    p = (s.dev.tile (c / laneCount)).link.pen → s.dev.beat < (s.dev.tile (c / laneCount)).link.leaseEnd →
    (thresh = true → (s.dev.cell c).drv.live = false) →
    (s.dev.stay s.dev.server (c / laneCount)).down.writeFree s.dev.beat = true →
    Answers (.immediateWrite c g p thresh true) s
      ((s.dev.onStay s.dev.server (c / laneCount) (fun z => { z with down := z.down.writeUse s.dev.beat })).onTile (c / laneCount)
        (fun x => { x with imm := x.imm ++ [(c % laneCount, g, thresh)] }))) ∧
  -- one that fails its CRC, or carries another epoch, changes nothing
  (∀ (s : State) (c p : Nat) (g : Tgt) (thresh crcOk : Bool),
    crcOk = false ∨ p ≠ (s.dev.tile (c / laneCount)).link.pen → Answers (.immediateWrite c g p thresh crcOk) s s.dev) ∧
  -- PARK_N rises: the release is due at the second beat boundary
  (∀ s : State, s.dev.pins.parkN = false → Answers .parkNRise s
    (({ s.dev with pins := { s.dev.pins with parkN := true } } : Dev).onTiles s.dev.aliveTiles
      (fun _ x => { x with parkRelease := some (s.dev.beat + 2) }))) ∧
  -- a tile takes the gain asked for once every channel is idle at P
  (∀ (s : State) (t : Nat) (g : Bool), (s.dev.tile t).gainReq = some g → (s.dev.tile t).alive = true →
    (s.dev.tile t).allParked = true →
    Answers (.gainTake t) s (s.dev.onTile t (fun x => { x with gain := g, gainReq := none })))) ∧
  (∀ s : State, Answers .parkNFall s
    (let d := ({ s.dev with pins := { s.dev.pins with parkN := false } } : Dev).onTiles s.dev.aliveTiles (fun _ x => x.park)
     d.act (fun m => d.interrupt m (fun _ => true) (fun _ => false)))) ∧
  (∀ (x : Tile) (l : Nat), (x.park.cell l).drv.O = (x.cell l).drv.P ∧ (x.park.cell l).drv.E x.park.parkLow = (x.cell l).drv.P ∧
    (x.park.cell l).drv.T = (x.cell l).drv.T ∧ (x.park.cell l).drv.W = (x.cell l).drv.W ∧
    (x.park.cell l).htr = (x.cell l).htr) ∧
  (∀ s : State, s.dev.pins.parkN = true → Answers .parkRelease s (s.dev.each s.dev.aliveTiles (fun t d =>
    match (d.tile t).parkRelease with
    | some b => if b ≤ d.beat ∧ d.pins.parkN = true then
        d.onTile t (fun x => x.release (d.drvSet t).1 (d.drvSet t).2 d.beat) else d
    | none => d))) ∧
  -- after the release, every written channel heads for the target it holds
  (∀ (x : Tile) (S R b l : Nat), ((x.release S R b).cell l).drv.E (x.release S R b).parkLow = (x.cell l).drv.E false ∧
    ((x.release S R b).cell l).drv.T = (x.cell l).drv.T ∧ ((x.release S R b).cell l).drv.P = (x.cell l).drv.P) ∧
  -- heater-limit reports of a tile that find a slot: each lane is reported to the collector, which fences it; one under its own test fails
  -- that test
  (∀ (s : State) (m : MastId) (t : Nat), Serves s.dev m → UpFree s.dev m t 3 →
    let hits := (s.dev.tile t).link.reports.filterMap (fun r => match r with
      | .heater l c => some (l, c)
      | _ => none)
    hits ≠ [] → Answers (.heaterLimitReport t) s (((s.dev.arrived m t).onTile t (fun x => { x with link := { x.link with
        reports := x.link.reports.filter (fun r => match r with
          | .heater _ _ => false
          | _ => true) } })).each hits (fun h d =>
      if d.testing m ⟨.lane, t * laneCount + h.1⟩ then d.testBad m ⟨.lane, t * laneCount + h.1⟩
      else d.report m (48 + t) 2 (t * laneCount + h.1) (BitVec.ofNat 32 h.2) (some ⟨.lane, t * laneCount + h.1⟩))))) ∧
  -- FAB_DRV_TILEt
  (∀ (s : State) (t : Nat) (w : RegWr) (info : RegInfo), t < 16 → Writable s.dev (0x4500 + 8 * t) w info →
    let m := w.mast
    let off := 0x4500 + 8 * t
    let old := s.dev.reg m off
    let v := s.dev.written off w info
    let late := (s.dev.mast m).boot.stage = .arming ∨ (s.dev.mast m).boot.stage = .ready
    let r1 := if fld v 20 12 = 0 then setFld (plainWrite info old v) 20 12 (fld old 20 12) else plainWrite info old v
    let r2 := if fld v 32 8 = 0 then setFld r1 32 8 (fld old 32 8) else r1
    let d0 := (s.dev.setReg m off r2).mirrorClear m off (v &&& info.w1c)
    let parked := d0.takes m t = true ∧ (d0.tile t).leaseRuns d0.beat = true
    -- the upper half: neither PARK nor GAIN
    (w.half = .hi → fld v 0 12 = fld old 0 12 → Answers (.fabDrvTileWrite t w) s d0) ∧
    -- GAIN as in force, PARK a new value before ARMING
    (w.half ≠ .hi → fld v 0 12 ≠ fld old 0 12 → ¬ late → (fld v 16 1 == 1) = (d0.tile t).gain → parked →
      Answers (.fabDrvTileWrite t w) s ((d0.onTile t (fun x =>
        { x with parkW := some (fld v 0 12) })).onTile t (fun x =>
        { x with gainReq := if (fld v 16 1 == 1) == x.gain then none else some (fld v 16 1 == 1) }))) ∧
    -- another gain, PARK as held: the tile's offsets are measured again, and the gain waits for every channel
    (w.half ≠ .hi → fld v 0 12 = fld old 0 12 → (fld v 16 1 == 1) ≠ (d0.tile t).gain →
      Answers (.fabDrvTileWrite t w) s ((d0.remeasure m t).onTile t (fun x =>
        { x with gainReq := if (fld v 16 1 == 1) == x.gain then none else some (fld v 16 1 == 1) }))))

/-! ## The host interface -/

/-- Next states of the host interface's control and losses, under R44, R69 to R71 and R98, clause by clause. A PCIe reset of
the holder resets MSI-X, HIF_, WIN_ and CTX_, the last three on the standby as well, and is a host loss; so is a link that
goes down, and EN cleared while it is 1. BACKLOG_DROP empties the backlog and the loss marks. EN set while the interface
does not drain opens context 0 and registers ring 0 from sound entries. At its beat a host loss of one mast is reported, and
the serving mast's interface loses its host. With nothing in flight, a drain ends with every ring and context closed.
Choices of the model that it rests on: log entries 25, 103. -/
def Obligations.HostInterfaceControlCompletes : Prop :=
  (-- a PCIe reset of the holder resets HIF_, WIN_ and CTX_ on both masts and is a host loss at the next beat boundary
  (∀ (s : State) (m : MastId), (s.dev.mast m).boot.tunnel = true → s.dev.holder = some m →
    Answers (.pcieReset m) s (((((s.dev.onMast m (fun x => x.resetRegs 0x3F000 0x40000)).keepWindows m).onMast m
      (fun x => x.resetRegs 0x1000 0x4000)).onMast (peerOf m) (fun x => x.resetRegs 0x1000 0x4000)).hostLost m 1)) ∧
  (∀ (s : State) (m : MastId), (s.dev.mast m).boot.usb = true →
    Answers (.usb4LinkDown m) s ((s.dev.onBoot m (fun b => { b with usb := false, tunnel := false })).hostLost m 0)) ∧
  -- clearing EN is a host loss
  (∀ (s : State) (w : RegWr) (info : RegInfo), Writable s.dev 0x1000 w info → fld (s.dev.written 0x1000 w info) 0 2 = 0 →
    s.dev.hifEn w.mast = true → Answers (.hifDisable w) s ((s.dev.setRegF w.mast 0x1000 0 1 0).hostLost w.mast 2)) ∧
  (∀ (s : State) (m : MastId) (info : RegInfo), Writable s.dev 0x1000 ⟨m, .whole, setFld (s.dev.reg m 0x1000) 1 1 1⟩ info →
    Answers (.backlogDrop m) s (s.dev.dropBacklog m)) ∧
  -- the backlog and the loss marks are then empty
  (∀ (d : Dev) (m : MastId), ((d.dropBacklog m).hif m).backlog = [] ∧ ((d.dropBacklog m).hif m).lossMarks = []) ∧
  -- setting EN opens context 0 and registers ring 0
  (∀ (s : State) (w : RegWr) (info : RegInfo) (c : CtxEntry) (e : RingEntry), Writable s.dev 0x1000 w info →
    fld (s.dev.written 0x1000 w info) 0 1 = 1 → fld (s.dev.written 0x1000 w info) 1 1 = 0 → s.dev.hifEn w.mast = false →
    (s.dev.hif w.mast).draining = false →
    let d := (((s.dev.setRegF w.mast 0x1000 0 1 1).onHif w.mast (fun h => { h with
      running := (s.dev.mast w.mast).boot.stage == .ready, firstPoll := true, polled := false, pollAt := s.dev.beat
      sweep := 0 })).hostIn w.mast 96).openCtx w.mast 0 c
    d.ringBasics w.mast (ring0Entry 0 e) = true → d.targetOk w.mast 0 (ring0Entry 0 e) = true →
    Answers (.hifEnable w (some c) (some e)) s (d.register w.mast 0 (ring0Entry 0 e)))) ∧
  (∀ (s : State) (m : MastId) (b cause : Nat), (s.dev.hif m).lossAt = some (b, cause) → (s.dev.hif (peerOf m)).lossAt = none →
    b ≤ s.dev.beat →
    Answers .hostLoss s
      (let d := (s.dev.onHif m (fun h => { h with lossAt := none })).report m 200 1 0 (BitVec.ofNat 32 cause) none
       if d.serving == some m then d.loseHost m else d)) ∧
  (∀ (s : State) (m : MastId), Serves s.dev m → (s.dev.hif m).draining = true → (s.dev.hif m).inflight = [] →
    Answers .hostLossDrained s (s.dev.closeAll m))

/-- A write to any of the four address registers is taken while EN is 0, and while EN is 1 it is ignored and sets ADDR_REJ
(R70). A write to HIF_POLL is taken where its INTERVAL is 1 to 1,000 and is ignored otherwise. The next poll takes the
INTERVAL written, and the poll after it is due that many beats later. -/
def Obligations.HostInterfaceRegistersFollowR70 : Prop :=
  -- the address registers are taken while EN is 0, and refused with ADDR_REJ while it is 1
  (∀ (s : State) (off : Nat) (w : RegWr) (info : RegInfo), inArr off 0x1010 8 4 = true → Writable s.dev off w info →
    Answers (.hifAddrWrite off w) s (if s.dev.hifEn w.mast then s.dev.flag w.mast 0x1030 33
      else s.dev.setReg w.mast off (s.dev.written off w info))) ∧
  -- INTERVAL is taken from 1 to 1,000
  (∀ (s : State) (w : RegWr) (info : RegInfo), Writable s.dev 0x1008 w info →
    Answers (.hifPollWrite w) s
      (if 1 ≤ fld (s.dev.written 0x1008 w info) 0 10 ∧ fld (s.dev.written 0x1008 w info) 0 10 ≤ 1000
       then s.dev.setReg w.mast 0x1008 (s.dev.written 0x1008 w info) else s.dev)) ∧
  -- the next poll takes INTERVAL
  (∀ (s : State) (m : MastId), Serves s.dev m → (s.dev.hif m).running = true → s.dev.hifEn m = true →
    (s.dev.hif m).polled = false → (s.dev.hif m).pollAt ≤ s.dev.beat → ∃ d : Dev, Answers .poll s d ∧
      (d.hif m).interval = s.dev.regF m 0x1008 0 10 ∧ (d.hif m).pollAt = s.dev.beat + s.dev.regF m 0x1008 0 10)

/-- Next states of polling, grants and acceptance on the serving mast, under R76 to R79, R81, R87, R352 to R357 and R498,
clause by clause. A due poll reads the summary line and one sweep group. The line's return finds the groups toggled and the
sweep words that moved and reads them, with the entries that follow; a line whose read met an error is reported. One grant
charges the winning ring and reads its entries. Fetched entries are accepted up to what was granted and is still available.
The burst of R25 is accepted in tag order, a word whose read met an error being read again. The vector of a ring is
signalled at its coalescing time, and a descriptor leaves the in-flight list 2 µs after its record. Choices of the model
that it rests on: log entry 26. -/
def Obligations.PollingCompletes : Prop :=
  ∀ (s : State) (m : MastId), Serves s.dev m →
    ((s.dev.hif m).running = true → s.dev.hifEn m = true → (s.dev.hif m).polled = false → (s.dev.hif m).pollAt ≤ s.dev.beat →
      let d := s.dev.onHif m (fun h => { h with
          polled := true, interval := s.dev.regF m 0x1008 0 10, pollAt := s.dev.beat + s.dev.regF m 0x1008 0 10
          rings := h.rings.map (fun e => (e.1, e.2.map (fun r => { r with again := false }))) })
      Answers .poll s ((((d.emit (.hostRead m 0 0 1 (d.sumAddr m))).hostIn m 64).readGroup m (s.dev.hif m).sweep).pmc m 0x013 [0] 1)) ∧
    -- the summary line: the groups toggled, and those whose sweep words moved, get the burst of R25
    (∀ l sweep, (s.dev.hif m).polled = true →
      let h := s.dev.hif m
      let g0 := (List.range 512).filter (fun g => h.firstPoll || l.getLsbD g != h.sumCopy.getLsbD g)
      let moved := sweep.filter (fun b => b.ring / 8 == h.sweep && tget (0, 0) h.db b.ring != (b.prod, b.cons))
      let g1 := ((moved.map (fun b => b.ring / 8)).eraseDups).filter (fun g => !g0.contains g)
      let finds := (moved.filter (fun b => g1.contains (b.ring / 8))).length
      let d := (s.dev.onHif m (fun h => { h with polled := false })).onHif m (fun h =>
        { h with sumCopy := l, firstPoll := false, sweep := (h.sweep + 1) % 512 })
      let d := (d.each moved (fun b d => d.learn m b)).when (0 < finds) (fun d => d.pmc m 0x014 [0] finds)
      Answers (.summaryLineReturn (some l) sweep) s (d.each (g0 ++ g1) (fun g d =>
        let d := d.readGroup m g
        d.each (List.range 8) (fun i d => match d.ring m (8 * g + i) with
          | some r => if r.hasCmd then d.readEntries m (8 * g + i) 4 r else d
          | none => d)))) ∧
    -- a summary line whose read met an error (R498)
    (∀ sweep, (s.dev.hif m).polled = true → Answers (.summaryLineReturn none sweep) s
      ((s.dev.onHif m (fun h => { h with polled := false })).pcieErr m 4 0xFFFF)) ∧
    -- one grant: the eligible ring with the smallest prospective tag is charged and fetched
    (∀ i n t r, s.dev.hifEn m = true → (s.dev.hif m).running = true → (s.dev.consult m).winner m = some (i, n, t) →
      let d := ((s.dev.consult m).charge m i n t).onRing m i (fun r => { r with granted := n })
      d.ring m i = some r → Answers .fetchGrant s (d.readEntries m i n r)) ∧
    -- fetched entries are accepted in sequence
    (∀ i r es err, s.dev.ring m i = some r → 0 < r.granted → s.dev.hifEn m = true →
      Answers (.descriptorFetchReturn i es err) s
        (let d := s.dev.onRing m i (fun r => { r with granted := 0 })
         if err then d.pcieErr m 0 r.ent.ctx
         else d.acceptAll m i ((es.take (if s.dev.fetching m r then Nat.min r.granted r.avail else 0)).map entryOf))) ∧
    -- the burst of R25: a word whose read met an error is read again at the next poll (R498)
    (∀ dbs spec bad, s.dev.hifEn m = true → (s.dev.hif m).running = true →
      let d := s.dev.each bad (fun i d =>
        let d := d.onHif m (fun h => { h with sumCopy := h.sumCopy ^^^ (1#512 <<< (i / 8)) })
        match d.ring m i with
        | some r => d.pcieErr m 0 r.ent.ctx
        | none => d.pcieErr m 4 i)
      Answers (.doorbellBurstReturn dbs spec bad) s
        (((d.each (dbs.filter (fun b => !bad.contains b.ring)) (fun b d => d.learn m b)).consult m).acceptBursts m
          spec.length (spec.map (fun e => (e.1, e.2.map entryOf))))) ∧
    -- the vector is signalled COAL_US after the first unsignalled record
    (∀ i r b, s.dev.ring m i = some r → r.firstUnsig = some b → r.ent.irqEn = true → b + 10 * r.ent.coalUs ≤ s.dev.beat →
      Answers (.coalescingTimeout i) s (s.dev.signalRing m i)) ∧
    -- 2 µs after its record a descriptor is no longer in flight
    (∀ i q, Answers (.inflightTailExpiry i q) s (s.dev.onHif m (fun h => { h with
      inflight := h.inflight.filter (fun x => !(x.ring == i && x.ent.seq == q && (match x.sentAt with
        | some b => b + 20 ≤ s.dev.beat
        | none => false)))
      recent := h.recent.filter (fun r => s.dev.beat < r.1 + 20) })))

/-- On a ring that is not stalled, the entry of the expected sequence puts one descriptor in flight, not started and without
a record, with the ring's context and completion target; the first three mismatches discard the entry and count it, and the
fourth stalls the ring; no mismatch puts anything in flight (within R81). -/
def Obligations.AcceptInSequence : Prop :=
  ∀ (d : Dev) (m : MastId) (i : Nat) (e : Entry) (r : Ring), d.ring m i = some r → r.stalled = false →
    (e.seq = r.next → ∃ x : Desc, x.ring = i ∧ x.ent = e ∧ x.ctx = r.ent.ctx ∧ x.cpl = r.ent.cplTarget ∧ x.started = false ∧
      x.sentAt = none ∧ ((d.acceptOne m i e).hif m).inflight = (d.hif m).inflight ++ [x]) ∧
    (e.seq ≠ r.next → r.miss < 3 →
      ((d.acceptOne m i e).hif m).inflight = (d.hif m).inflight ∧
      (d.acceptOne m i e).ring m i = some { r with miss := r.miss + 1, again := true } ∧ (d.acceptOne m i e).out = d.out) ∧
    (e.seq ≠ r.next → 3 ≤ r.miss →
      ((d.acceptOne m i e).hif m).inflight = (d.hif m).inflight ∧
      ((d.acceptOne m i e).ring m i).map Ring.stalled = some true)

/-- Next states of a WIN_CFGw write while the window's EN is 0, under R95 and R100. An enable with an invalid geometry is
refused with BAD_GEOM. A write without EN is stored. A valid enable is stored, empties the window's held list and writes
INCOMPLETE into each slot held under the same geometry. Choices of the model that it rests on: log entry 102. -/
def Obligations.WindowWriteCompletes : Prop :=
  ∀ (s : State) (win : Nat) (w : RegWr) (info : RegInfo), win < 64 → Writable s.dev (winCfg win) w info →
    let m := w.mast
    let v := s.dev.written (winCfg win) w info
    s.dev.regF m (winCfg win) 31 1 = 0 →
    (fld v 31 1 = 1 → geomOk (fld v 0 21) (fld v 24 6) = false →
      Answers (.winCfgWrite win w) s ((s.dev.setReg m (winCfg win) (setFld (plainWrite info (s.dev.reg m (winCfg win)) v) 31 1
        0)).flag m (winBase win + 16) 0)) ∧
    (fld v 31 1 = 0 →
      Answers (.winCfgWrite win w) s (s.dev.setReg m (winCfg win) (plainWrite info (s.dev.reg m (winCfg win)) v))) ∧
    (fld v 31 1 = 1 → geomOk (fld v 0 21) (fld v 24 6) = true →
      let d := s.dev.setReg m (winCfg win) (plainWrite info (s.dev.reg m (winCfg win)) v)
      let same := ((d.hif m).held.filter (fun h => h.win == win)).filter (fun h =>
        h.base == d.reg m (winBase win) && fld h.cfg 0 21 == fld v 0 21 && fld h.cfg 24 6 == fld v 24 6)
      Answers (.winCfgWrite win w) s (((d.each same (fun h d => d.markIncomplete m (win * 2 ^ 20 + h.slot))).when
        (!((d.hif m).held.filter (fun h => h.win == win)).isEmpty) (fun d => d.pushJournal m (.unheld win))).onHif m (fun h =>
        { h with held := h.held.filter (fun e => e.win != win), winSeq := tset 0 h.winSeq win 0 })))

/-! ## Administrative descriptors -/

/-- Next states of administrative descriptors, under R75, R82, R84, R85, R88 to R93 and R402, clause by clause; those with a
lasting effect while PROTECTED is 0. NOP answers OK and an unused opcode BAD_OPCODE. CTX_OPEN answers NOT_PERMITTED,
BAD_STATE, or opens the context. CTX_REBIND of an open context stops its fetching and aborts its uncommitted sheafs;
CTX_CLOSE, with or without FORCE, sets how far its rings are served; each then waits. RING_REG registers a ring from a sound
entry or answers BAD_STATE; RING_UNREG of a ring no other completes to waits. Once nothing else of the context or ring is in
flight CTX_CLOSE and RING_UNREG close and answer OK, and CTX_REBIND registers the context's rings afresh. Choices of the
model that it rests on: log entries 25, 89, 104. -/
def Obligations.AdminDescriptorsComplete : Prop :=
  (∀ (s : State) (ring seq : Nat) (m : MastId) (x : Desc),
    let d := s.dev.begun m ring seq
    (Starts s.dev ring seq 0x00 m x → Answers (.nop ring seq) s (d.complete m x .ok)) ∧
    (∀ op, opUsed op = false → Starts s.dev ring seq op m x → Answers (.badOpcode ring seq) s (d.complete m x .badOpcode)) ∧
    (∀ k ent, Starts s.dev ring seq 0x01 m x → (s.dev.mast m).pen.protect = false →
      (x.perm 9 = false → Answers (.ctxOpen ring seq k ent) s ((d.onSlots m x (fun _ => [])).complete m x .notPermitted)) ∧
      (x.perm 9 = true → 4095 < k ∨ k = 0 ∨ (d.ctx m k).isSome = true →
        Answers (.ctxOpen ring seq k ent) s (d.complete m x .badState)) ∧
      (∀ e, x.perm 9 = true → 0 < k → k ≤ 4095 → d.ctx m k = none → ent = some e →
        Answers (.ctxOpen ring seq k ent) s
          (if 63 < e.profile then (d.hostIn m 32).complete m x .badState
           else ((d.hostIn m 32).openCtx m k e).complete m x .ok))) ∧
    (∀ k c, Starts s.dev ring seq 0x02 m x → (s.dev.mast m).pen.protect = false → x.perm 9 = true → k ≤ 4095 →
      d.ctx m k = some c → Answers (.ctxRebind ring seq k) s
        (((d.setCtx m k (some { c with fetchStop := true })).closeSheafs m k Sheaf.uncommitted).waitOn m x (.drainCtx k true))) ∧
    (∀ k c, Starts s.dev ring seq 0x03 m x → (s.dev.mast m).pen.protect = false → x.perm 9 = true → 0 < k → k ≤ 4095 →
      d.ctx m k = some c →
      (∀ dbs, d.isFenced m ⟨.ctx, k⟩ = false → Answers (.ctxClose ring seq k dbs) s
        (((d.each (dbs.filter (fun b => (d.ringsOf m k).contains b.ring)) (fun b d =>
          d.onRing m b.ring (fun r => { r with prod := b.prod }))).stopRings m k false).waitOn m
          x (.drainCtx k false))) ∧
      Answers (.ctxCloseForce ring seq k) s
        (((d.stopRings m k true).closeSheafs m k (fun y => !y.decided)).waitOn m x (.drainCtx k false))) ∧
    (∀ i e, Starts s.dev ring seq 0x04 m x → (s.dev.mast m).pen.protect = false → x.perm 9 = true → i ≤ 4095 →
      d.ring m i = none → Answers (.ringReg ring seq i (some e)) s
        (let d := d.hostIn m 64
         let e := ring0Entry i e
         if d.ringBasics m e && d.targetOk m i e then (d.register m i e).complete m x .ok else d.complete m x .badState)) ∧
    (∀ i r force, Starts s.dev ring seq 0x05 m x → (s.dev.mast m).pen.protect = false → x.perm 9 = true → i ≤ 4095 →
      d.ring m i = some r →
      (r.hasCpl && (d.hif m).rings.any (fun e => e.1 != i && (match e.2 with
        | some g => g.hasCmd && g.ent.cplTarget == i
        | none => false))) = false →
      let d1 := d.onRing m i (fun r => { r with serveTo := some (if force then r.next else r.prod) })
      Answers (.ringUnreg ring seq i force) s
        ((if force then d1.abortWhere m (fun y => y.onRing i && !y.decided) .ctxClosed else d1).waitOn m x (.drainRing i)))) ∧
  (∀ (s : State) (ring seq k : Nat) (m : MastId) (x : Desc), Serves s.dev m → s.dev.findDesc m ring seq = some x →
    (x.wait = .drainCtx k false → s.dev.ctxDrained m k x = true → (s.dev.ringsOf m k).all (s.dev.ringServed m) = true →
      let d1 := s.dev.closeSheafs m k (fun y => !y.decided)
      let d2 := d1.each (d1.ringsOf m k) (fun i d => d.setRing m i none)
      let d3 := (d2.setCtx m k none).unfenceCtx m k
      Answers (.ctxCloseComplete ring seq) s
        ((d3.each (d3.streamsOf m k) (fun i d => d.closeStream m i none)).complete m x .ok)) ∧
    (x.wait = .drainRing k →
      (s.dev.hif m).inflight.all (fun y => y.ring != k || (y.ring == x.ring && y.ent.seq == x.ent.seq)) = true →
      s.dev.ringServed m k = true →
      Answers (.ringUnregComplete ring seq) s
        (((s.dev.abortWhere m (fun y => y.onRing k && !y.decided) .ctxClosed).setRing m k none).complete m x .ok)) ∧
    -- a rebind re-reads the entry and registers the context's rings afresh, as one set
    (∀ c ent rings, x.wait = .drainCtx k true → s.dev.ctx m k = some c → s.dev.ctxDrained m k x = true →
      let took := match ent with
        | some e => e.profile ≤ 63
        | none => false
      let d1 := if ent.isNone then s.dev.pcieErr m 2 k else s.dev
      let c1 := match ent with
        | some e => if e.profile ≤ 63 then { c with profile := e.profile, winMask := e.winMask } else c
        | none => c
      let d2 := (d1.setCtx m k (some { c1 with
        fetchStop := false, tokens := d1.regF m 0x9008 8 8 * 2 ^ 20, refillBeat := d1.beat })).unfenceCtx m k
      let d2 := d2.hostIn m (32 + 64 * (d2.ringsOf m k).length)
      let set := (d2.ringsOf m k).map (fun i => (i, ((rings.find? (fun e => e.1 == i)).bind Prod.snd).map (ring0Entry i)))
      let d3 := d2.each (set.filter (fun e => e.2.isNone)) (fun _ d => d.pcieErr m 2 k)
      let bad := rebindFails d3 m set (set.length + 1) []
      let good := set.filter (fun e => !bad.contains e.1)
      let d4 := d3.each set (fun e d => d.setRing m e.1 none)
      let d5 := d4.each good (fun e d => match e.2 with
        | some r => d.setRing m e.1 (some (Ring.fresh r d.beat))
        | none => d)
      Answers (.ctxRebindComplete ring seq ent rings) s
        ((d5.each good (fun e d => match e.2 with
          | some r => d.deliverTo m e.1 r
          | none => d)).complete m x (if took && bad.isEmpty then .ok else .badState))))

/-! ## Sheafs -/

/-- Next states of SHEAF_OPEN, SHEAF_COMMIT, SHEAF_ABORT and of a scheduled sheaf's due point, under R106, R109, R118, R120
and R395, clause by clause. SHEAF_OPEN with permission and fewer than 1,024 open sheafs opens one with the flags given; with
1,024 it completes with SHEAF_LIMIT; reuse of an open SHEAF_ID stops (log entry 27). SHEAF_COMMIT of a sheaf not doomed
binds it to the turn, at the AT beat if one is given and allowed, else aborts it with the AT's status or the doom's.
SHEAF_ABORT aborts a sheaf not yet decided and answers TOO_LATE for a decided one. At its due point a bound sheaf takes its
place in strike order. Choices of the model that it rests on: log entries 27, 29. -/
def Obligations.SheafControlCompletes : Prop :=
  ∀ (s : State) (ring seq : Nat) (m : MastId) (x : Desc),
    let d := s.dev.begun m ring seq
    (∀ ra bn ps pv rf base, Starts s.dev ring seq 0x10 m x → x.ent.sheafId ≠ 0 → x.perm 0 = true →
      (s.dev.sheafOf m x = none → ((d.fab m).sheafs.filter (fun y => y.key.isSheaf)).length < 1024 →
        Answers (.sheafOpen ring seq ra bn ps pv rf base) s ((d.onFab m (fun f => { f with sheafs :=
          { key := .sheaf ring x.ent.sheafId, ctx := x.ctx, commit := none, readAll := ra, baseNow := bn, presolved := ps
            preserve := pv, reefFail := rf, base := base, acts := [], hasPermute := false, cells := [], tag := 0, doomed := none
            nPort := 0, nCell := 0, phase := .open_, at_ := none, due := false, work := noWork, pool := 0, spill := 0
            spillLost := false } :: f.sheafs })).complete m x .ok)) ∧
      (s.dev.sheafOf m x = none → 1024 ≤ ((d.fab m).sheafs.filter (fun y => y.key.isSheaf)).length →
        Answers (.sheafOpen ring seq ra bn ps pv rf base) s (d.complete m x .sheafLimit)) ∧
      ((s.dev.sheafOf m x).isSome = true →
        exec (.sheafOpen ring seq ra bn ps pv rf base) s = .fault .sheafIdReuse)) ∧
    (∀ y, Starts s.dev ring seq 0x11 m x → d.openSheaf m x = some y → x.perm 0 = true →
      let d1 := d.onSheaf m y.key (fun y => { y with commit := some seq })
      (y.doomed = none → Answers (.sheafCommit ring seq none) s (d1.bind m y.key none false)) ∧
      (∀ a, y.doomed = none → d1.atBad m a (roundUpBeat a) = none →
        Answers (.sheafCommit ring seq (some a)) s (d1.bind m y.key (some (roundUpBeat a)) (d1.isDue m (roundUpBeat a)))) ∧
      (∀ a st, y.doomed = none → d1.atBad m a (roundUpBeat a) = some st →
        Answers (.sheafCommit ring seq (some a)) s (d1.abortSheaf m y.key st)) ∧
      (∀ st at_, y.doomed = some st → Answers (.sheafCommit ring seq at_) s (d1.abortSheaf m y.key st))) ∧
    (∀ y, Starts s.dev ring seq 0x12 m x → d.sheafOf m x = some y → x.perm 0 = true →
      Answers (.sheafAbort ring seq) s (if y.decided then d.completeAt m x .tooLate (d.fab m).epoch none true
        else (d.abortSheaf m y.key .aborted).completeAt m x .aborted (d.fab m).epoch none true)) ∧
    (∀ y t, Serves s.dev m → s.dev.findSheaf m (.sheaf ring seq) = some y → y.at_ = some t → y.phase = .bound →
      y.due = false → s.dev.isDue m t = true →
      Answers (.scheduledDuePoint ring seq) s ((s.dev.onSheaf m y.key (fun y => { y with due := true })).onFab m Fab.place))

/-- Next states of the sheaf actions, under R75, R106 to R108, R112 to R115 and R118, clause by clause. In an open sheaf not
doomed, with the permission, ports within the context's range and below N, and the limit kept, CONNECT, DISCONNECT, MOVE and
ASSERT append their action; SET_CELL, SET_LOOP and SET_PARK append theirs for a cell the table names; TAG sets the tag. For
CONNECT: without an open sheaf the answer is SHEAF_UNKNOWN; in a doomed sheaf it is OK and nothing else; without permission
or with a port outside the context's range the sheaf is doomed with NOT_PERMITTED, with a port in range at or above N with
PORT_INVALID, past 4,096 port actions with SHEAF_LIMIT. Choices of the model that it rests on: log entries 33, 105. -/
def Obligations.SheafActionsComplete : Prop :=
  (∀ (s : State) (ring seq : Nat) (m : MastId) (x : Desc) (y : Sheaf),
    let d := s.dev.begun m ring seq
    d.openSheaf m x = some y → y.doomed = none →
    let portTaken := fun (c : Instr) (ps : List Nat) (a : Act) => x.perm 0 = true → d.portBad m x ps = none → y.nPort < 4096 →
      Answers c s ((d.onSheaf m y.key (fun y => { y with acts := y.acts ++ [a], nPort := y.nPort + 1 })).complete m x .ok)
    let cellTaken := fun (c : Instr) (cell n : Nat) (a : Act) => x.perm 1 = true → cell < cellCount →
      ((d.fab m).entry? cell).isSome = true → y.nCell + n ≤ 24576 →
      Answers c s ((d.onSheaf m y.key (fun y => { y with acts := y.acts ++ [a], nCell := y.nCell + n })).complete m x .ok)
    (∀ p q, Starts s.dev ring seq 0x13 m x → portTaken (.connect ring seq p q) [p, q] (.connect p q)) ∧
    (∀ p side, Starts s.dev ring seq 0x14 m x → portTaken (.disconnect ring seq p side) [p] (.disconnect p side)) ∧
    (∀ k o n side, Starts s.dev ring seq 0x15 m x → portTaken (.move ring seq k o n side) [k, o, n] (.move k o n side)) ∧
    (∀ p q, Starts s.dev ring seq 0x16 m x →
      portTaken (.assert ring seq p q) (if q == 0xFFFF then [p] else [p, q]) (.assert p q)) ∧
    (∀ c mode code, Starts s.dev ring seq 0x17 m x → cellTaken (.setCell ring seq c mode code) c 1
      (if mode == 3 then .release c else .setCell c (tgtOf mode code))) ∧
    (∀ c sc p v, Starts s.dev ring seq 0x18 m x → paramBad sc p v = none →
      cellTaken (.setLoop ring seq c sc p v) c (if sc then 1536 else 1) (.setLoop c sc p v)) ∧
    (∀ c sc code, Starts s.dev ring seq 0x19 m x →
      cellTaken (.setPark ring seq c sc code) c (if sc then 1536 else 1) (.setPark c sc code)) ∧
    (∀ data, Starts s.dev ring seq 0x1A m x → x.perm 0 = true →
      Answers (.tag ring seq data) s ((d.onSheaf m y.key (fun y => { y with tag := data })).complete m x .ok))) ∧
  (∀ (s : State) (ring seq p q : Nat) (m : MastId) (x : Desc), Starts s.dev ring seq 0x13 m x →
    let d := s.dev.begun m ring seq
    let doomed := fun (y : Sheaf) (st : Status) =>
      (d.onSheaf m y.key (fun y => { y with doomed := y.doomed.or (some st) })).complete m x st
    (d.openSheaf m x = none → Answers (.connect ring seq p q) s (d.complete m x .sheafUnknown)) ∧
    (∀ y, d.openSheaf m x = some y → y.doomed.isSome = true → Answers (.connect ring seq p q) s (d.complete m x .ok)) ∧
    (∀ y, d.openSheaf m x = some y → y.doomed = none →
      (x.perm 0 = false → Answers (.connect ring seq p q) s (doomed y .notPermitted)) ∧
      (x.perm 0 = true → p < x.ports.1 ∨ x.ports.2 < p ∨ q < x.ports.1 ∨ x.ports.2 < q →
        Answers (.connect ring seq p q) s (doomed y .notPermitted)) ∧
      (x.perm 0 = true → x.ports.1 ≤ p → p ≤ x.ports.2 → x.ports.1 ≤ q → q ≤ x.ports.2 →
        (d.fab m).ports ≤ p ∨ (d.fab m).ports ≤ q → Answers (.connect ring seq p q) s (doomed y .portInvalid)) ∧
      (x.perm 0 = true → d.portBad m x [p, q] = none → 4096 ≤ y.nPort →
        Answers (.connect ring seq p q) s (doomed y .sheafLimit))))

/-- Next states of PERMUTE and CELLS in an open sheaf not doomed, under R96, R97, R116, R117 and R450: the slot sound, its
port map or cell list read from its bytes, in order and within the limits. The payload goes to the pool where it fits, else
to HBM; the slot is returned. Choices of the model that it rests on: log entries 28, 33, 35, 105. -/
def Obligations.SheafBulkActionsComplete : Prop :=
  ∀ (s : State) (ring seq : Nat) (m : MastId) (x : Desc) (y : Sheaf) (slot : SlotIn),
    let d := s.dev.begun m ring seq
    d.openSheaf m x = some y → y.doomed = none → SlotSound d m x slot →
    let back := (d.scanned m x slot).returnIn m x slot false
    let map := portMapOf slot.bytes
    let list := cellListOf slot.bytes
    (Starts s.dev ring seq 0x1B m x → x.perm 0 = true → x.ports.1 = 0 → (d.fab m).ports ≤ x.ports.2 + 1 →
      y.hasPermute = false → y.nPort + (d.fab m).ports ≤ 4096 → slot.kind = 0x11 → slot.len = 2 * (d.fab m).ports →
      map.length = (d.fab m).ports → portMapOk (d.fab m).ports map = true →
      Answers (.permute ring seq slot) s ((back.onSheaf m y.key (fun z =>
        back.stow m slot.len { z with acts := z.acts ++ [.permute map], hasPermute := true,
                                      nPort := z.nPort + (d.fab m).ports })).complete m x .ok)) ∧
    (Starts s.dev ring seq 0x1C m x → x.perm 1 = true → slot.kind = 0x12 → slot.len = 4 * list.length →
      list.length ≤ 24576 → y.nCell + list.length ≤ 24576 →
      (∀ e ∈ list, e.2.1 ≤ 2 ∧ e.1 < cellCount ∧ ((back.fab m).entry? e.1).isSome = true) →
      Answers (.cells ring seq slot) s ((back.onSheaf m y.key (fun z => back.stow m slot.len { z with
        cells := z.cells ++ list.map (fun e => (e.1, tgtOf e.2.1 e.2.2)), nCell := z.nCell + list.length })).complete m x .ok))

/-- Next states of MAP_READ and of its payload, under R106, R139 to R141, clause by clause. A MAP_READ of an epoch that the
journal holds takes its slot and begins with that epoch's port map and strike time; of an epoch still to come it answers
MAP_EPOCH. When the payload is written it has an entry for every port: 0 where the port had no circuit, else the output with
VALID, and DEGRADED or not; the descriptor completes with OK and the epoch read. Choices of the model that it rests on: log
entry 42. -/
def Obligations.MapReadsComplete : Prop :=
  (∀ (s : State) (ring seq : Nat) (m : MastId) (x : Desc), x.ent.sheafId = 0 →
    let d := s.dev.begun m ring seq
    (∀ e slot, Starts s.dev ring seq 0x1D m x → x.perm 2 = true → e ≤ (d.fab m).epoch → (d.fab m).epoch ≤ e + 1048575 →
      e < 2 ^ 64 - 1 → d.epochLost m e = false → SlotFree d m x slot → SlotFree (d.holdSlot m x slot.ref) m x slot →
      Answers (.mapRead ring seq e slot) s (((d.holdSlot m x slot.ref).heldOut m x slot).onFab m (fun f => { f with
        reads := f.reads ++ [⟨ring, seq, e, slot.ref, 0, (List.range (d.fab m).ports).map (fun p =>
          (match mapOut ((d.fab m).mapAt e) p with
            | some q => ⟨q, 0, true⟩
            | none => ⟨0, 0, false⟩ : PortEnt)),
          .map (d.fab m).ports (lowStamp (((d.fab m).strikeOf e).getD ⟨0, 0⟩)) [], true⟩] }))) ∧
    (∀ e slot, Starts s.dev ring seq 0x1D m x → x.perm 2 = true → (d.fab m).epoch < e → e ≠ 2 ^ 64 - 1 →
      Answers (.mapRead ring seq e slot) s ((d.settleHold m x slot.ref slot.owner slot.err).complete m x .mapEpoch))) ∧
  (∀ (s : State) (ring seq : Nat) (m : MastId) (j : ReadJob) (x : Desc) (n : Nat) (t : Stamp) (l : List Nat), Serves s.dev m →
    (s.dev.fab m).reads.find? (fun j => j.ring == ring && j.seq == seq) = some j → s.dev.findDesc m ring seq = some x →
    j.data = .map n t l →
    ∃ ents : List Nat, ents.length = j.map.length ∧
      (∀ (i : Nat) (e : PortEnt), j.map[i]? = some e →
        (e.valid = false → ents[i]? = some 0) ∧
        (e.valid = true → ents[i]? = some (e.out + 32768) ∨ ents[i]? = some (e.out + 16384 + 32768))) ∧
      Answers (.mapReadDone ring seq) s (((s.dev.onFab m (fun f =>
        { f with reads := f.reads.filter (fun k => !(k.ring == ring && k.seq == seq)) })).writeOut m x j.first 0x10
          (16 + 2 * (s.dev.fab m).ports) j.epoch
          (.map j.map.length t ents)).completeAt m x .ok j.epoch none false))

/-- R142: EPOCH_NOW completes with OK and the current epoch, and with the time of that epoch's strike, TIME_VALID set; the
record of a completion with a time carries its seconds mod 2^32 and nanoseconds. -/
def Obligations.EpochNowFollowsR142 : Prop :=
  (∀ (s : State) (ring seq : Nat) (m : MastId) (x : Desc), x.ent.sheafId = 0 → Starts s.dev ring seq 0x1E m x →
    let d := s.dev.begun m ring seq
    Answers (.epochNow ring seq) s
      (d.completeAt m x .ok (d.fab m).epoch (some ((d.fab m).strikeTime.getD ⟨0, 0⟩)) false)) ∧
  -- a completion with a time carries it with TIME_VALID set
  (∀ (x : Desc) (v : Status) (ep : Nat) (t : Stamp), let r := mkRecord x v ep (some t)
    r.timeValid = true ∧ r.time = ⟨t.sec % 2 ^ 32, t.ns⟩ ∧ r.epoch = ep ∧ r.status = v ∧ r.tag = x.ent.tag ∧ r.seq = x.ent.seq)

/-! ## Turns, solves, planes, plans -/

/-- Next states of the turn at the head of strike order, and the order of its checks, under R121, R123, R128, R157, R166,
R168 and R450, clause by clause. A sheaf whose spilled payload an HBM channel took with it aborts with MEM_LOST. Of any
other the first check that fails aborts it with that status; a sheaf that needs a solve gets its staged-set identifier and
working map, a solve beyond the preserving one in TWIN_BENES cancelling a refresh; any other has its changes at once. A
plane swap with PARK_N high and SHADOW_OK stages the edge cells of the other plane. The checks: PARK_N low, an epoch still
to come, a port of the read set changed since the base, a presolved base older than the cell epoch, the actions in order, a
fenced cell named. Choices of the model that it rests on: log entries 30, 36. -/
def Obligations.SheafTurnChecksInOrder : Prop :=
  (∀ (s : State) (m : MastId) (k : SKey) (rest : List SKey) (y : Sheaf), Serves s.dev m → (s.dev.fab m).order = k :: rest →
    s.dev.findSheaf m k = some y → y.phase = .bound → (s.dev.fab m).swap = none → y.key ≠ .heal →
    (k.isSheaf = true →
      (y.spillLost = true → Answers .sheafTurn s (s.dev.abortSheaf m k .memLost)) ∧
      (∀ st, y.spillLost = false → s.dev.turnCheck m y = .error st → Answers .sheafTurn s (s.dev.abortSheaf m k st)) ∧
      (∀ map, y.spillLost = false → s.dev.turnCheck m y = .ok map →
        let d := (s.dev.newTsid m k).onSheaf m k (fun y =>
          { y with spill := 0, work := { y.work with solveAt := some s.dev.beat } })
        let away := (s.dev.fab m).kind == 2 && d.beyondKeep m y map
        (y.solves = false → Answers .sheafTurn s (d.solved m k [] map false false)) ∧
        (y.solves = true → away = false → Answers .sheafTurn s
          (d.onSheaf m k (fun y => { y with work := { y.work with wmap := map, migrate := false } }))) ∧
        (y.solves = true → away = true → Answers .sheafTurn s
          ((d.onSheaf m k (fun y => { y with work := { y.work with wmap := map, migrate := true } })).onFab m (fun f =>
            { f with shadowBusy := false }))))) ∧
    (k.isSheaf = false → s.dev.pins.parkSeen = false → s.dev.shadowOk m = true → Answers .sheafTurn s
      ((s.dev.newTsid m k).solved m k ((s.dev.fab m).edgeSets (s.dev.fab m).shadow (s.dev.fab m).map) (s.dev.fab m).map
        false true))) ∧
  (∀ (d : Dev) (m : MastId) (y : Sheaf),
    let base := if y.baseNow then (d.fab m).epoch else y.base
    let stale := (y.readSet (d.fab m).ports).any (fun p => base < tget 0 (d.fab m).portEpoch p)
    (d.pins.parkSeen = true → d.turnCheck m y = .error .parked) ∧
    (d.pins.parkSeen = false → y.baseNow = false → (d.fab m).epoch < y.base → d.turnCheck m y = .error .mapEpoch) ∧
    (d.pins.parkSeen = false → ¬ (d.fab m).epoch < base → stale = true → d.turnCheck m y = .error .conflict) ∧
    (d.pins.parkSeen = false → ¬ (d.fab m).epoch < base → stale = false →
      (y.presolved = true → y.baseNow = false → base < (d.fab m).cellEpoch → d.turnCheck m y = .error .conflict) ∧
      (∀ st, y.presolved = false → runActs (d.fab m).map y.acts = .error st → d.turnCheck m y = .error st) ∧
      (∀ map, y.presolved = false → runActs (d.fab m).map y.acts = .ok map →
        (y.named.any (d.cellFenced m) = true → d.turnCheck m y = .error .cellFenced) ∧
        (y.named.any (d.cellFenced m) = false → y.reefFail = false → d.turnCheck m y = .ok map))))

/-- R123 step 4: each port-level action on the working copy of the map. CONNECT and MOVE onto a port that carries a circuit answer
PORT_BUSY, else make theirs; MOVE and ASSERT of a circuit that is not there answer ASSERT_FAILED; a true ASSERT, and a
DISCONNECT of a port without a circuit, leave the map. -/
def Obligations.PortActionsOnMap : Prop :=
  ∀ (map : List (Nat × Nat)) (p q r : Nat),
    ((mapOut map p).isSome = true ∨ (mapIn map q).isSome = true → stepMap map (.connect p q) = .error .portBusy) ∧
    (mapOut map p = none → mapIn map q = none → stepMap map (.connect p q) = .ok (mapPut map p q)) ∧
    (mapOut map p ≠ some q → stepMap map (.move p q r false) = .error .assertFailed) ∧
    (mapOut map p = some q → (mapIn map r).isSome = true → stepMap map (.move p q r false) = .error .portBusy) ∧
    (mapOut map p = some q → mapIn map r = none → stepMap map (.move p q r false) = .ok (mapPut (mapCut map p) p r)) ∧
    (q ≠ 0xFFFF → mapOut map p ≠ some q → stepMap map (.assert p q) = .error .assertFailed) ∧
    (mapOut map p = some q → q ≠ 0xFFFF → stepMap map (.assert p q) = .ok map) ∧
    (mapOut map p = none → stepMap map (.assert p 0xFFFF) = .ok map) ∧
    (mapOut map p = none → stepMap map (.disconnect p false) = .ok map) ∧
    (mapIn map q = none → stepMap map (.disconnect q true) = .ok map)

/-- R149: a Beneš network of 2^k ports carries its inputs one to one onto its outputs, whatever the states of its cells, and
every path has 2k - 1 cells. -/
def Obligations.BenesCarriesAPermutation : Prop :=
  ∀ (st : Nat → Nat → Nat × Bool) (k s o : Nat), 0 < k →
    (∀ x, x < 2 ^ k → ∃ y hops, walk (fun a b => some (st a b)) k s o x = some (y, hops) ∧ y < 2 ^ k ∧
      hops.length = 2 * k - 1) ∧
    (∀ x x' y h h', x < 2 ^ k → x' < 2 ^ k → walk (fun a b => some (st a b)) k s o x = some (y, h) →
      walk (fun a b => some (st a b)) k s o x' = some (y, h') → x = x')

/-- Next states when a solve ends, under R114, R157, R158, R162, R163, R165, R166, R172 and R354, clause by clause. With a
sheaf being solved and no plan waiting, a preserving routing is taken where the sheaf may keep its circuits; where it may
not or cannot, a full one in BENES and CLOS and a migration's in TWIN_BENES; NEEDS_REARRANGE where PRESERVE is set and no
preserving routing exists; CELL_FENCED where one exists only through fenced cells. The ring of the commit is charged for the
solve. A plan's routing is written to its slot; a plan that only fenced cells would carry answers CELL_FENCED. A migration
whose shadow writes have settled has the edge cells as its changes. A shadow refresh writes its routing through the drive
queues, preserving where it can, else the routing that the same map and fences gave before. A heal strike's turn begins a
solve in BENES and CLOS and swaps planes in TWIN_BENES. Choices of the model that it rests on: log entries 13, 37, 43, 105.
-/
def Obligations.SolvesComplete : Prop :=
  ∀ (s : State) (m : MastId), Serves s.dev m →
    let f := s.dev.fab m
    let bad := s.dev.cellFenced m
    let pay := fun (y : Sheaf) us (d : Dev) => (d.chargeSolve m y.key.ring us).solverBusy m y
    (∀ y us, f.sheafs.find? (fun y => y.phase == .solving && !y.work.solved && y.work.shadowAt.isNone) = some y →
      f.plans = [] → y.key ≠ .heal →
      let mayKeep := y.preserve || f.fresh y.work.wmap ≤ 256
      let split := f.split y.work.wmap
      (∀ sets, mayKeep = true → y.work.migrate = false → f.preserves bad split.1 split.2 sets = true →
        Answers (.routeSolveDone (.preserving sets us)) s (pay y us (s.dev.solved m y.key sets y.work.wmap false false))) ∧
      (∀ sets, s.dev.beyondKeep m y y.work.wmap = true → f.kind ≠ 2 → f.fullySolves bad y.work.wmap sets = true →
        f.asBefore bad f.active y.work.wmap sets = true →
        Answers (.routeSolveDone (.full sets us)) s
          (pay y us ((s.dev.onFab m (fun f => f.recall bad f.active y.work.wmap sets)).solved m y.key sets y.work.wmap true false))) ∧
      (∀ sets, s.dev.beyondKeep m y y.work.wmap = true → f.kind = 2 → f.shadowFull bad y.work.wmap sets = true →
        f.asBefore bad f.shadow y.work.wmap sets = true →
        (f.edgeSets f.shadow y.work.wmap).all (fun (e : CellSet) => !bad e.cell) = true →
        Answers (.routeSolveDone (.migration sets us)) s (pay y us
          (((s.dev.onFab m (fun f => { f.recall bad f.shadow y.work.wmap sets with shadowBusy := false })).driveQueue m sets true).onSheaf
            m y.key (fun z => { z with work := { z.work with migrate := true, shadowAt := some (s.dev.beat + 2) } })))) ∧
      (y.preserve = true → s.dev.keeps m y.work.wmap = (false, false) →
        Answers (.routeSolveDone (.needsRearrange us)) s (pay y us (s.dev.abortSheaf m y.key .needsRearrange))) ∧
      (mayKeep = true → s.dev.keeps m y.work.wmap = (false, true) →
        Answers (.routeSolveDone (.fenced us)) s (pay y us (s.dev.abortSheaf m y.key .cellFenced)))) ∧
    -- a plan's result, and a plan for which no routing avoids the fenced cells
    (∀ (j : PlanJob) rest x, f.sheafs.find? (fun y => y.phase == .solving && !y.work.solved && y.work.shadowAt.isNone) = none →
      f.plans = j :: rest → s.dev.findDesc m j.ring j.seq = some x →
      let g : Fab := { f with map := j.map, settings := j.settings, active := j.active }
      let d := (s.dev.onFab m (fun f => { f with plans := f.plans.drop 1 }))
      (∀ moved sets us, g.plans? bad j.want moved sets = true → Answers (.routeSolveDone (.plan moved sets us)) s
        (((d.chargeSolve m j.ring us).writeOut m x j.slot 0x31 (planLen moved sets) j.epoch (.plan j.epoch moved sets)).completeAt m x
          .ok j.epoch none false)) ∧
      (∀ us, g.canFull bad g.active true j.want = false → Answers (.routeSolveDone (.fenced us)) s
        ((d.chargeSolve m j.ring us).completeAt m x .cellFenced j.epoch none false))) ∧
    -- a migration one beat after its shadow writes
    (∀ y b, f.sheafs.find? (fun y => y.work.migrate && !y.work.solved) = some y → y.work.shadowAt = some b →
      b ≤ s.dev.beat → Answers .migrationShadowSettled s
        (s.dev.solved m y.key (f.edgeSets f.shadow y.work.wmap) y.work.wmap false true)) ∧
    -- a shadow refresh
    (∀ sets, f.shadowBusy = true → f.refreshes bad f.map sets = true →
      (f.canKeepShadow bad f.map = true → Answers (.shadowRefreshDone sets) s
        ((s.dev.driveQueue m sets false).onFab m (fun f => { f with shadowBusy := false }))) ∧
      (f.canKeepShadow bad f.map = false → f.asBefore bad f.shadow f.map sets = true → Answers (.shadowRefreshDone sets) s
        (((s.dev.onFab m (fun f => f.recall bad f.shadow f.map sets)).driveQueue m sets true).onFab m (fun f =>
          { f with shadowBusy := false })))) ∧
    -- the heal strike's turn
    (∀ rest, f.order = .heal :: rest → s.dev.findSheaf m .heal = none → s.dev.pins.parkSeen = false →
      f.shadowBusy = false → f.swap = none →
      let d := s.dev.onFab m (fun f => { f with sheafs := f.sheafs.filter (fun y => y.key != .heal) ++ [healSheaf] })
      (f.kind ≠ 2 → Answers .healStrikeTurn s ((d.newTsid m .heal).onSheaf m .heal (fun y =>
          { y with work := { y.work with wmap := f.map } }))) ∧
      (f.kind = 2 → d.shadowOk m = true → Answers .healStrikeTurn s
        ((d.newTsid m .heal).solved m .heal (f.edgeSets f.shadow f.map) f.map false true)))

/-- Next states of PLANE_SWAP, PLAN and TOPO_SWAP with PROTECTED 0, under R152, R155, R156, R162, R163 and R168, clause by
clause. PLANE_SWAP with permission answers BAD_STATE unless the fabric is TWIN_BENES, and there takes its place in strike
order. PLAN with permission, a sound port map in its input slot and a free output slot returns the input and waits for the
solver with the map, the epoch and the paths it starts from. TOPO_SWAP with permission and no open sheaf reads its table: a
table that fails a check answers TOPO_INVALID with the check's code and entry; one that passes waits. It is applied at a
watch boundary with no pass under way and an empty map, which leaves the map empty and the epoch as it was. Choices of the
model that it rests on: log entries 36, 38, 39, 102. -/
def Obligations.PlansAndSwapsComplete : Prop :=
  ∀ (s : State) (ring seq : Nat) (m : MastId) (x : Desc), x.lost = false →
    let d := s.dev.begun m ring seq
    (Starts s.dev ring seq 0x32 m x → x.perm 9 = true → (d.fab m).kind ≠ 2 →
      Answers (.planeSwap ring seq) s (d.complete m x .badState)) ∧
    (Starts s.dev ring seq 0x32 m x → x.perm 9 = true → (d.fab m).kind = 2 →
      Answers (.planeSwap ring seq) s (d.onFab m (fun f => ({ f with sheafs := f.sheafs ++ [
        { key := .swap ring seq, ctx := x.ctx, commit := some seq, readAll := false, baseNow := true, presolved := false
          preserve := false, reefFail := false, base := 0, acts := [], hasPermute := false, cells := [], tag := 0
          doomed := none, nPort := 0, nCell := 0, phase := .bound, at_ := none, due := false, work := noWork, pool := 0, spill := 0
          spillLost := false }] } : Fab).place))) ∧
    (∀ (i : SlotIn) (o : SlotOut), Starts s.dev ring seq 0x31 m x → x.perm 0 = true → i.err = false →
      d.slotBad m x i.ref i.owner = none → Sys2Proof.Machine.crcOk i = true → i.ref ≠ o.ref →
      let map := portMapOf i.bytes
      i.kind = 0x11 → i.len = 2 * (d.fab m).ports → map.length = (d.fab m).ports → portMapOk (d.fab m).ports map = true →
      let d1 := d.heldOut m x ⟨i.ref, i.owner, i.err⟩
      SlotFree d1 m x o →
      let d2 := d1.heldOut m x o
      i.len ≤ d2.slotSize m (refWin i.ref) - 64 →
      Answers (.plan ring seq i o) s ((((d2.hostIn m i.len).queueScan m 7 12 i.len).returnIn m x i false).onFab m (fun f =>
        { f with plans := f.plans ++ [⟨ring, seq, o.ref, mapOfPorts map, f.epoch, f.map, f.settings, f.active⟩] }))) ∧
    (∀ (slot : SlotIn), Starts s.dev ring seq 0x30 m x → x.perm 9 = true → (s.dev.mast m).pen.protect = false →
      (s.dev.fab m).swap = none → SlotSound d m x slot → slot.kind = 0x30 →
      let back := (d.scanned m x slot).returnIn m x slot false
      (back.fab m).sheafs.any (fun y => y.key != .heal) = false →
      let read := { topoOf slot.bytes with len := slot.len }
      (∀ e, topoCheck s.dev.part (back.regF m 0x4010 0 16) read = some e → Answers (.topoSwap ring seq slot) s
        ((back.onFab m (fun f => { f with topoErr := e.1, topoErrEntry := e.2 })).complete m x .topoInvalid)) ∧
      (topoCheck s.dev.part (back.regF m 0x4010 0 16) read = none → Answers (.topoSwap ring seq slot) s
        (back.onFab m (fun f => { f with swap := some (x.ring, x.ent.seq, topoOf slot.bytes) })))) ∧
    -- the swap is applied at a watch boundary with no pass under way and an empty map
    (∀ q t, Serves s.dev m → (s.dev.fab m).swap = some (ring, q, t) → s.dev.watchEdge = true → (s.dev.mast m).cal.pass = none →
      (s.dev.fab m).map = [] → s.dev.findDesc m ring q = some x →
      ∃ d1 : Dev, Answers .topoSwapApply s (d1.complete m x .ok) ∧ (d1.fab m).swap = none ∧ (d1.fab m).map = [] ∧
        (d1.fab m).epoch = (s.dev.fab m).epoch)

/-! ## Staging, arming, strikes -/

/-- Next states on the serving mast of staging, the decision, arming and the tiles' answers, under R16, R26 and R128 to
R132, clause by clause. A staging frame brings a tile the changes that 16 more cell changes complete. A sheaf staged
everywhere at the head of strike order is decided for the next beat, not before the last strike beat nor with a strike
inside a pause, the heal apart; a scheduled one in its decision beat. Four beats before the strike an arm frame goes to
every staged tile. A tile whose check holds arms and has an acknowledgement to send; else a refusal. The check: nothing
armed, the identifier's changes complete, their count and CRC-32C as the frame says. An acknowledgement that finds a
command-lane slot by the start of beat D + lead - 2 counts; one left from another sheaf counts for nothing; a refusal is
noted. Choices of the model that it rests on: log entries 40, 92, 105, 108. -/
def Obligations.StagingAndArmingComplete : Prop :=
  ∀ (s : State) (m : MastId) (y : Sheaf), Serves s.dev m →
    -- one staging frame: the changes that 16 more cell changes complete
    (∀ t i, s.dev.ofTsid m i = some y → y.work.solved = true → y.work.stagedOn t = false →
      (s.dev.stagedTiles m).contains t = true → ((s.dev.tile t).link.staged.filter (fun g => g.tsid != i)).length < 4 →
      s.dev.takes m t = true →
      let done := tget 0 y.work.sent t - 1
      s.dev.waiting m t 4 [i, (done + 15) / 16] = false →
      let all := tget [] y.work.changes t
      let n := Nat.min (done + 16) (Sys2Proof.Machine.sizeOf all)
      let gap := (s.dev.tile t).link.staged.any (fun g => g.tsid == i && g.gap)
      Answers (.stagingFrame t i) s (((s.dev.onTile t (fun x => { x with link := { x.link with
        staged := x.link.staged.filter (fun g => g.tsid != i) ++ [⟨i, gap, firstChanges n all⟩] } })).onSheaf m y.key
          (fun y => { y with work := { y.work with sent := tset 0 y.work.sent t (n + 1) } })).restage m)) ∧
    -- the decision: beat D is the next beat, no earlier than the last strike beat, and clear of any pause
    (∀ k rest, (s.dev.fab m).order = k :: rest → s.dev.findSheaf m k = some y → y.phase = .staged → y.at_ = none →
      s.dev.stagingDone m y = true → (s.dev.mast m).pen.yielding = false →
      (s.dev.fab m).lastStrike.getD 0 ≤ s.dev.beat + 1 →
      k = .heal ∨ s.dev.pauseEnd m ≤ s.dev.beat + 1 + s.dev.lead m →
      Answers .decisionToStrike s (s.dev.decideStrike m k (s.dev.beat + 1))) ∧
    -- a scheduled sheaf's decision beat
    (∀ ring id t, s.dev.findSheaf m (.sheaf ring id) = some y → y.at_ = some t → y.phase = .staged →
      stampNs s.dev.now + 100 * s.dev.lead m = stampNs t → (s.dev.fab m).order.head? = some (.sheaf ring id) →
      s.dev.stagingDone m y = true → (s.dev.fab m).lastStrike.getD 0 ≤ s.dev.beat → (s.dev.mast m).pen.yielding = false →
      s.dev.pauseEnd m ≤ s.dev.beat + s.dev.lead m →
      Answers (.scheduledDecisionBeat ring id) s (s.dev.decideStrike m (.sheaf ring id) s.dev.beat)) ∧
    -- beat D + lead - 4: an arm frame to every staged tile, carrying the tile's arm as it is now
    (∀ D, s.dev.struck? m = some y → y.work.D = some D → y.work.arms = false → s.dev.beat + 4 = D + y.work.lead →
      let frames : Tbl (Option Arm) := (s.dev.stagedTiles m).foldl (fun l t => tset none l t (some (s.dev.armOf m y D t))) []
      Answers .armFrameSend s ((s.dev.each (s.dev.stagedTiles m) (fun t d => d.command m t 1 [y.work.tsid, 1] [])).onSheaf m y.key
        (fun z => { z with work := { z.work with arms := true, frames := frames } }))) ∧
    -- a tile arms and acknowledges where its own check holds; else it refuses
    (∀ t g crcOk, s.dev.struck? m = some y → tget none y.work.frames t = some g → s.dev.takes m t = true →
      s.dev.waiting m t 1 [g.tsid, 1] = false →
      let taken := s.dev.onSheaf m y.key (fun z => { z with work := { z.work with frames := tset none z.work.frames t none } })
      let now := { g with armedAt := s.dev.beat }
      Answers (.armFrame t crcOk) s
        (if crcOk = true ∧ (s.dev.tile t).mayArm g = true then
          taken.onTile t (fun x => { x with link := { x.link with
            armed := some now, arms := keepArms (x.link.arms ++ [now]), ack := some (g.tsid, true) } })
         else taken.onTile t (fun x => { x with link := { x.link with ack := some (g.tsid, false) } }))) ∧
    -- the tile's check: count and CRC-32C of the changes it holds for the identifier, nothing armed
    (∀ (t : Tile) (g : Arm), t.mayArm g = true → t.link.armed = none ∧ ∃ h, h ∈ t.link.staged ∧ h.tsid = g.tsid ∧ h.gap = false ∧
      Sys2Proof.Machine.sizeOf h.changes = g.count ∧ changesCrc h.changes = g.crc) ∧
    -- an acknowledgement that arrives by the start of beat D + lead - 2, and a refusal
    (∀ t D, s.dev.struck? m = some y → y.work.D = some D → (s.dev.tile t).link.ack = some (y.work.tsid, true) →
      s.dev.beat + 2 < D + y.work.lead → UpFree s.dev m t 1 →
      Answers (.stageAcknowledgement t) s (((s.dev.arrived m t).onTile t (fun x => { x with link := { x.link with ack := none } })).onSheaf m
        y.key (fun y => { y with work := { y.work with acks := y.work.acks ++ [t] } }))) ∧
    -- one left from another sheaf settles nothing
    (∀ t i, s.dev.struck? m = some y → (s.dev.tile t).link.ack = some (i, true) → i ≠ y.work.tsid → UpFree s.dev m t 1 →
      Answers (.stageAcknowledgement t) s ((s.dev.arrived m t).onTile t (fun x => { x with link := { x.link with ack := none } }))) ∧
    (∀ t, s.dev.struck? m = some y → (s.dev.tile t).link.ack = some (y.work.tsid, false) → UpFree s.dev m t 1 →
      Answers (.stageRefusal t) s (((s.dev.arrived m t).onTile t (fun x => { x with link := { x.link with ack := none } })).onSheaf m
        y.key (fun y => { y with work := { y.work with refused := true } })))

/-- Next states of the strike word, under R20, R21, R132, R134 and R136, clause by clause. In beat D + lead - 1 the word of
a sheaf is sent where every staged tile has acknowledged, none has refused, the leases outlast the strike beat and PARK_N is
high; with PARK_N low the sheaf aborts with PARKED, else with STAGE_FAIL. A tile that receives a word: with the start bits
good and the CRC bad it reports a miss of what it has armed, or a stray; the applied sheaf's word three beats after it is
its repair word and changes nothing; a word with another pennant epoch, after the lease, of another identifier, or with
nothing armed is a stray; the word of the armed sheaf applies it and sends the repair's effect. Choices of the model that it
rests on: log entries 31, 40. -/
def Obligations.StrikeWordsComplete : Prop :=
  (∀ (s : State) (m : MastId) (y : Sheaf) (D : Nat), Serves s.dev m → s.dev.struck? m = some y → y.work.D = some D →
    y.work.word = false → s.dev.beat + 1 = D + y.work.lead → y.key ≠ .heal →
    let sound := (s.dev.stagedTiles m).all y.work.acks.contains = true ∧ y.work.refused = false ∧
      s.dev.leased m (D + y.work.lead) = true
    (sound → s.dev.pins.parkSeen = false → Answers .strikeWordSend s ((s.dev.emit (.strikeWord m y.work.tsid
      ((s.dev.mast m).pen.epoch % 4096))).onSheaf m y.key (fun y => { y with work := { y.work with word := true } }))) ∧
    (sound → s.dev.pins.parkSeen = true → Answers .strikeWordSend s (s.dev.abortSheaf m y.key .parked)) ∧
    (¬ sound → Answers .strikeWordSend s (s.dev.abortSheaf m y.key .stageFail))) ∧
  (∀ (s : State) (t i p : Nat), (s.dev.tile t).alive = true →
    let link := (s.dev.tile t).link
    let fresh := p = link.pen % 4096 ∧ s.dev.beat < link.leaseEnd
    let tells := fun (r : Rep) => s.dev.onTile t (fun x => { x with link := { x.link with reports := x.link.reports ++ [r] } })
    (∀ a, link.armed = some a → Answers (.strikeWord t true false i p) s (tells (.miss a.tsid))) ∧
    (link.armed = none → Answers (.strikeWord t true false i p) s (tells (.stray i))) ∧
    (link.armed = none → link.applied = some (i, s.dev.beat - 3) → 3 ≤ s.dev.beat → fresh →
      Answers (.strikeWord t true true i p) s s.dev) ∧
    (link.armed = none → (∀ S, link.applied = some (i, S) → s.dev.beat ≠ S + 3) → fresh →
      Answers (.strikeWord t true true i p) s (tells (.stray i))) ∧
    (∀ a, fresh → link.armed = some a → a.tsid ≠ i → Answers (.strikeWord t true true i p) s (tells (.stray i))) ∧
    (¬ fresh → Answers (.strikeWord t true true i p) s (tells (.stray i))) ∧
    (∀ a, fresh → link.armed = some a → a.tsid = i →
      Answers (.strikeWord t true true i p) s ((s.dev.applyArmed t a).repairedOn t i)))

/-- The fabric after the strike beat of a sheaf, under R103, R104, R119, R127 and R140: the epoch is one more, the working
map is in force, the strike's time and beat are kept, the journal ends in its entry with what was disconnected, what was
connected and the TAG, exactly the ports whose connections changed take the new epoch, and the sheaf leaves strike order.
The table, the reads and plans under way and the topology error stay. -/
def Obligations.StrikeAdvancesTheEpoch : Prop :=
  ∀ (f : Fab) (y : Sheaf) (now : Stamp) (beat : Nat),
    let g := f.strike y now beat
    g.epoch = f.epoch + 1 ∧ g.map = y.work.wmap ∧ g.strikeTime = some now ∧ g.lastStrike = some beat ∧
    g.journal.getLast? = some ⟨f.epoch + 1, now, beat, mapDiff f.map y.work.wmap, mapDiff y.work.wmap f.map, y.tag⟩ ∧
    (∀ z ∈ g.sheafs, z.key ≠ y.key) ∧
    (∀ p, tget 0 g.portEpoch p =
      if ∃ c ∈ mapDiff f.map y.work.wmap ++ mapDiff y.work.wmap f.map, c.1 = p ∨ c.2 = p then f.epoch + 1
      else tget 0 f.portEpoch p) ∧
    (∀ c, (c ∈ mapDiff f.map y.work.wmap ↔ c ∈ f.map ∧ c ∉ y.work.wmap) ∧
      (c ∈ mapDiff y.work.wmap f.map ↔ c ∈ y.work.wmap ∧ c ∉ f.map)) ∧
    g.topo = f.topo ∧ g.reads = f.reads ∧ g.plans = f.plans ∧ g.topoErr = f.topoErr

/-- Next states around a strike, under R21, R103, R119, R127, R133 to R135, R143 and R171, clause by clause. In the strike
beat a sheaf whose word was sent completes with OK, the epoch it made and its time; that epoch and its map are in force. A
disarm frame discards what a tile holds for an identifier that no sheaf has. A tile armed for 16 beats discards what it
holds; one that reported a miss of that sheaf and nothing since has missed its repair word too. A miss of the last strike
whose REPAIR was 1, by the second beat after it, sends the repair word two beats after the strike. A stray strike counts and
is reported unless the tile is fenced. Every 50 beats a tile compares its drivers with their codes, and each mismatch is
reported, or noted by a test of that cell. A FAB_STRIKE write outside 4 to 64 keeps LEAD and takes the rest. Choices of the
model that it rests on: log entries 40, 41, 91, 108. -/
def Obligations.StrikesComplete : Prop :=
  (∀ (s : State) (m : MastId), Serves s.dev m →
    -- the strike beat: the next epoch and the working map are in force, and the sheaf completes
    (∀ y D o x, s.dev.struck? m = some y → y.work.D = some D → y.work.word = true → s.dev.beat = D + y.work.lead →
      y.key ≠ .heal → y.owner = some o → s.dev.findDesc m o.1 o.2 = some x →
      ∃ d1 : Dev, Answers .strikeBeat s (d1.completeAt m x .ok ((s.dev.fab m).epoch + 1) (some s.dev.now) true) ∧
        (d1.fab m).epoch = (s.dev.fab m).epoch + 1 ∧ (d1.fab m).map = y.work.wmap) ∧
    (∀ t i, s.dev.takes m t = true → s.dev.ofTsid m i = none → s.dev.waiting m t 1 [i, 0] = false →
      Answers (.disarmFrame t i) s (s.dev.onTile t (fun x => x.discard i))) ∧
    (∀ t a, (s.dev.tile t).link.armed = some a → a.armedAt + 16 ≤ s.dev.beat →
      let d := s.dev.onTile t (fun x => x.discard a.tsid)
      ((s.dev.fab m).missed.contains t = false → Answers (.armedSheafTimeout t) s d) ∧
      -- a tile that reported a miss of that sheaf and nothing since has missed its repair word too
      (∀ S, (s.dev.fab m).missed.contains t = true → (s.dev.fab m).lastTsid = some (a.tsid, S) →
        (d.tile t).link.reports.contains (.miss a.tsid) = false → Answers (.armedSheafTimeout t) s
          ((d.onFab m (fun f => { f with missed := f.missed.erase t })).missedTwice m t a.tsid))) ∧
    (∀ t i S rest, (s.dev.tile t).link.reports = .miss i :: rest → (s.dev.fab m).lastTsid = some (i, S) →
      (s.dev.fab m).missed.contains t = false → (s.dev.fab m).lastRepair = true → s.dev.beat ≤ S + 2 → UpFree s.dev m t 3 →
      Answers (.strikeMissReport t) s (((s.dev.arrived m t).takeReport t (.miss i)).onFab m (fun f =>
        { f with missed := f.missed ++ [t], repair := some (i, S + 2) }))) ∧
    (∀ i, (s.dev.fab m).repair = some (i, s.dev.beat) → Answers .repairWordSend s
      ((s.dev.emit (.strikeWord m i ((s.dev.mast m).pen.epoch % 4096))).onFab m (fun f => { f with repair := none }))) ∧
    (∀ t i, (s.dev.tile t).link.reports.contains (.stray i) = true → s.dev.isFenced m ⟨.tile, t⟩ = false → UpFree s.dev m t 3 →
      Answers (.strayStrikeReport t i) s ((((s.dev.arrived m t).takeReport t (.stray i)).count m 0x4048 32 16 1).report m (16 + t) 1 t
        (BitVec.ofNat 32 i) none)) ∧
    (∀ t rb, (s.dev.tile t).alive = true → s.dev.beat % 50 = 0 →
      Answers (.driverCheck t rb) s (s.dev.onTile t (fun x =>
        (rb.filter (fun r => r.1 < laneCount && ((s.dev.tile t).cell r.1).drv.O != r.2)).foldl (fun x r =>
          x.say (.driver r.1 (Nat.min r.2 4095))) x))) ∧
    (∀ t, UpFree s.dev m t 3 → (s.dev.tile t).link.reports.any (fun r => match r with
        | .driver _ _ => true
        | _ => false) = true →
      Answers (.driverMismatchReport t) s ((s.dev.arrived m t).each ((s.dev.tile t).link.reports.filterMap (fun r => match r with
        | .driver l c => some (l, c)
        | _ => none)) (fun h d =>
      let e := d.takeReport t (.driver h.1 h.2)
      if e.testing m ⟨.cell, t * laneCount + h.1⟩ then e.testBad m ⟨.cell, t * laneCount + h.1⟩
      else e.report m (32 + t) 2 (t * laneCount + h.1) (BitVec.ofNat 32 h.2) (some ⟨.cell, t * laneCount + h.1⟩))))) ∧
  -- a strike-lead write outside 4 to 64 keeps LEAD, and REPAIR is taken as written
  (∀ (s : State) (w : RegWr) (info : RegInfo), Writable s.dev 0x4030 w info →
    let v := s.dev.written 0x4030 w info
    let old := s.dev.reg w.mast 0x4030
    (4 ≤ fld v 0 7 ∧ fld v 0 7 ≤ 64 → Answers (.fabStrikeWrite w) s (s.dev.setReg w.mast 0x4030 (plainWrite info old v))) ∧
    (fld v 0 7 < 4 ∨ 64 < fld v 0 7 → Answers (.fabStrikeWrite w) s
      (s.dev.setReg w.mast 0x4030 (plainWrite info old (setFld v 0 7 (fld old 0 7))))))

/-! ## Tiller cores -/

/-- R214 to R217, R220, R221: every slot-B operation issues, queues its result for the bundle R220 gives, and ends its bundle;
registers are read as the bundle finds them.
Choices of the model that it rests on: log entries 45, 46. -/
def Obligations.SlotBOperationsComplete : Prop :=
  ∀ (s : State) (m : MastId) (k : Nat),
    let ends := fun (g : Core → Core) => s.dev.onCore m k (fun c => (g c).close)
    let alu := fun (n : Nat) (f : AluF) (op : Word → Word → AluRes) =>
      ends (fun c => c.dueAlu n f.d (op (c.dr f.a) (c.dr f.b)))
    (IssuesB s.dev m k (.noOperation k .b) → Answers (.noOperation k .b) s (ends id)) ∧
    (∀ f, IssuesB s.dev m k (.add k f) → Answers (.add k f) s (alu 1 f (aluAdd f.s))) ∧
    (∀ f, IssuesB s.dev m k (.sub k f) → Answers (.sub k f) s (alu 1 f (aluSub f.s))) ∧
    (∀ f, IssuesB s.dev m k (.and k f) → Answers (.and k f) s (alu 1 f (fun a b => ⟨a &&& b, false, false⟩))) ∧
    (∀ f, IssuesB s.dev m k (.or k f) → Answers (.or k f) s (alu 1 f (fun a b => ⟨a ||| b, false, false⟩))) ∧
    (∀ f, IssuesB s.dev m k (.xor k f) → Answers (.xor k f) s (alu 1 f (fun a b => ⟨a ^^^ b, false, false⟩))) ∧
    (∀ f, IssuesB s.dev m k (.shl k f) → Answers (.shl k f) s (alu 1 f (fun a b => aluShl f.s a (b.toNat % 32)))) ∧
    (∀ f, IssuesB s.dev m k (.shr k f) → Answers (.shr k f) s (alu 1 f (fun a b => ⟨a >>> (b.toNat % 32), false, false⟩))) ∧
    (∀ f, IssuesB s.dev m k (.shra k f) → Answers (.shra k f) s (alu 1 f (fun a b => aluShra a (b.toNat % 32)))) ∧
    (∀ f, IssuesB s.dev m k (.min k f) → Answers (.min k f) s (alu 1 f aluMin)) ∧
    (∀ f, IssuesB s.dev m k (.max k f) → Answers (.max k f) s (alu 1 f aluMax)) ∧
    (∀ f, IssuesB s.dev m k (.zsel k f) → Answers (.zsel k f) s (alu 1 f (fun a b => ⟨if b = 0 then a else 0, false, false⟩))) ∧
    (∀ f, IssuesB s.dev m k (.mulh k f) → Answers (.mulh k f) s (alu 2 f (aluMulh f.s))) ∧
    (∀ f, IssuesB s.dev m k (.divq k f) → Answers (.divq k f) s (alu 10 f aluDivq)) ∧
    (∀ d a imm z, IssuesB s.dev m k (.addi k d a imm z) →
      Answers (.addi k d a imm z) s (ends (fun c => c.dueAlu 1 d (aluAdd z (c.dr a) (imm.signExtend 32))))) ∧
    (∀ d a amt z, IssuesB s.dev m k (.shi k d a .shl amt z) →
      Answers (.shi k d a .shl amt z) s (ends (fun c => c.dueAlu 1 d (aluShl z (c.dr a) amt.toNat)))) ∧
    (∀ d a amt, IssuesB s.dev m k (.shi k d a .shr amt false) →
      Answers (.shi k d a .shr amt false) s (ends (fun c => c.dueAlu 1 d ⟨c.dr a >>> amt.toNat, false, false⟩))) ∧
    (∀ d a amt, IssuesB s.dev m k (.shi k d a .shra amt false) →
      Answers (.shi k d a .shra amt false) s (ends (fun c => c.dueAlu 1 d (aluShra (c.dr a) amt.toNat)))) ∧
    (∀ d imm, IssuesB s.dev m k (.movi k d imm) → Answers (.movi k d imm) s (ends (fun c => c.dueD .b 1 d (imm.signExtend 32)))) ∧
    (∀ d imm, IssuesB s.dev m k (.movhi k d imm) →
      Answers (.movhi k d imm) s (ends (fun c => c.dueD .b 1 d (imm ++ (c.dr d).extractLsb' 0 16)))) ∧
    (∀ ak x c h neg clr, IssuesB s.dev m k (.mac k ak x c h neg clr) →
      Answers (.mac k ak x c h neg clr) s (ends (fun q => q.dueMac .b ak (macStep clr neg (q.ar 0 ak)
        (product (q.dr x) (if h then (q.dr c).extractLsb' 16 16 else (q.dr c).extractLsb' 0 16)))))) ∧
    (∀ pair x y c neg clr, IssuesB s.dev m k (.mac2 k pair x y c neg clr) →
      Answers (.mac2 k pair x y c neg clr) s (ends (fun q =>
        let lo : BitVec 2 := if pair then 2 else 0
        let hi : BitVec 2 := if pair then 3 else 1
        (q.dueMac .b lo (macStep clr neg (q.ar 0 lo) (product (q.dr x) ((q.dr c).extractLsb' 0 16)))).dueMac .b hi
          (macStep clr neg (q.ar 0 hi) (product (q.dr y) ((q.dr c).extractLsb' 16 16)))))) ∧
    (∀ d ak sh z, IssuesB s.dev m k (.narrow k d ak sh z) →
      Answers (.narrow k d ak sh z) s (ends (fun c => c.dueAlu 2 d (narrowAcc z (c.ar 1 ak) sh)))) ∧
    (∀ d ak part, IssuesB s.dev m k (.mva k d ak part) →
      Answers (.mva k d ak part) s (ends (fun c => c.dueD .b 2 d (match part.toNat with
        | 0 => (c.ar 1 ak).extractLsb' 0 32
        | 1 => (c.ar 1 ak).extractLsb' 32 32
        | _ => ((c.ar 1 ak).extractLsb' 64 8).signExtend 32)))) ∧
    (∀ a ak part, IssuesB s.dev m k (.mta k a ak part) →
      Answers (.mta k a ak part) s (ends (fun c =>
        let v : BitVec 72 := (c.dr a).setWidth 72
        ((c.due .b 2 (.accPart 0 ak.toNat part.toNat) v).due .b 2 (.accPart 1 ak.toNat part.toNat) v).due .b 3
          (.accPart 2 ak.toNat part.toNat) v))) ∧
    (∀ abs n, IssuesB s.dev m k (.rot k abs n) →
      Answers (.rot k abs n) s (ends (fun c => c.due .b 1 .rb (if abs then n.setWidth 72 else (c.r.rb + n).setWidth 72))))

/-- R219, R222, R225, R228: the slot-A operations that reach no data memory.
Choices of the model that it rests on: log entries 16, 45, 46. -/
def Obligations.SlotAOperationsComplete : Prop :=
  ∀ (s : State) (m : MastId) (k : Nat),
    let goes := fun (g : Core → Core) => (s.dev.opened m k).onCore m k g
    (IssuesA s.dev m k (.noOperation k .a) → Answers (.noOperation k .a) s (goes id)) ∧
    (∀ p imm, IssuesA s.dev m k (.movip k p imm) → Answers (.movip k p imm) s (goes (fun c => c.due .a 1 (.p p.toNat) (imm.setWidth 72)))) ∧
    (∀ pk pj imm, IssuesA s.dev m k (.addp k pk pj imm) → Answers (.addp k pk pj imm) s
      (goes (fun c => c.due .a 1 (.p pk.toNat) ((c.pr pj + imm.signExtend 18).setWidth 72)))) ∧
    (∀ pk dn imm, IssuesA s.dev m k (.movdp k pk dn imm) → Answers (.movdp k pk dn imm) s
      (goes (fun c => c.due .a 1 (.p pk.toNat) (((c.dr dn).setWidth 18 + imm.signExtend 18).setWidth 72)))) ∧
    (∀ mk imm, IssuesA s.dev m k (.movim k mk imm) → Answers (.movim k mk imm) s
      (goes (fun c => c.due .a 1 (.m mk.toNat) ((imm.signExtend 18).setWidth 72)))) ∧
    (∀ dn sr, IssuesA s.dev m k (.noOperation k .a) → sr.toNat ≤ 21 →
      Answers (.mfs k dn sr) s (goes (fun c => c.dueD .a 1 dn (c.sr sr.toNat))) ∧
      Answers (.mts k dn sr) s (goes (fun c => c.due .a 2 (srDest sr.toNat) ((c.dr dn).setWidth 72)))) ∧
    -- a reserved special-register index is illegal (R224)
    (∀ dn sr, IssuesA s.dev m k (.noOperation k .a) → 21 < sr.toNat →
      Answers (.mfs k dn sr) s ((s.dev.opened m k).illegal m k) ∧ Answers (.mts k dn sr) s ((s.dev.opened m k).illegal m k)) ∧
    (∀ imm, IssuesA s.dev m k (.movlc k imm) → Answers (.movlc k imm) s (goes (fun c => c.due .a 2 .lc (imm.setWidth 72)))) ∧
    (∀ e, IssuesA s.dev m k (.ei k e) → Answers (.ei k e) s
      (goes (fun c => if c.handler.isSome then c.due .a 1 .ie (BitVec.ofNat 72 (b2n e)) else c))) ∧
    (IssuesA s.dev m k (.wait k) → Answers (.wait k) s (goes (fun c => { c with run := .waiting }))) ∧
    -- WAIT ends 2 cycles after its condition; how long it lasted before is free (log entry 16)
    (Serves s.dev m → (s.dev.core m k).run = .waiting → (s.dev.core m k).wakes = true → Answers (.waitResume k) s
      (({ s.dev with free := s.dev.free + 1 } : Dev).onCore m k (fun c =>
        { (if c.slotA then c.close else c).pass (2 + Config.freeNat s.dev.free) with run := s.dev.liveRun m k }))) ∧
    -- branches outside a delay bundle: one delay bundle, then the target where the condition holds
    (let jump := fun (dst : Core → Option Nat) (g : Core → Core) =>
        goes (fun c => { g c with br := true, target := dst c })
     let rel := fun (off : BitVec 16) (cond : Core → Bool) => fun (c : Core) => if cond c then some (c.rel off) else none
     ((s.dev.opened m k).core m k).delay = false →
      (∀ off, IssuesA s.dev m k (.b k off) → Answers (.b k off) s (jump (rel off (fun _ => true)) id)) ∧
      (∀ n off, IssuesA s.dev m k (.beqz k n off) → Answers (.beqz k n off) s (jump (rel off (fun c => c.dr n == 0)) id)) ∧
      (∀ n off, IssuesA s.dev m k (.bnez k n off) → Answers (.bnez k n off) s (jump (rel off (fun c => c.dr n != 0)) id)) ∧
      (∀ n off, IssuesA s.dev m k (.bltz k n off) → Answers (.bltz k n off) s (jump (rel off (fun c => (c.dr n).msb)) id)) ∧
      (∀ n off, IssuesA s.dev m k (.bgez k n off) → Answers (.bgez k n off) s (jump (rel off (fun c => !(c.dr n).msb)) id)) ∧
      (∀ off, IssuesA s.dev m k (.bcnt k off) → Answers (.bcnt k off) s
        (jump (rel off (fun c => c.r.lc - 1 != 0)) (fun c => c.due .a 2 .lc ((c.r.lc - 1).setWidth 72)))) ∧
      (∀ off, IssuesA s.dev m k (.call k off) → Answers (.call k off) s
        (jump (rel off (fun _ => true)) (fun c => c.due .a 1 (.p 7) (BitVec.ofNat 72 (c.pc + 2))))) ∧
      (IssuesA s.dev m k (.ret k) → Answers (.ret k) s (jump (fun c => some (c.pr 7).toNat) id)) ∧
      (IssuesA s.dev m k (.reti k) → Answers (.reti k) s (jump (fun c => some c.r.ipc.toNat) (fun c =>
        (c.due .a 2 .ie ((c.r.ist.extractLsb' 0 1).setWidth 72)).due .a 2 .stat ((c.r.ist.extractLsb' 1 2).setWidth 72))))) ∧
    -- in a delay bundle a branch is illegal
    (∀ off, ((s.dev.opened m k).core m k).delay = true → IssuesA s.dev m k (.b k off) →
      Answers (.b k off) s ((s.dev.opened m k).illegal m k))

/-- R205, R218, R219, R223: loads, stores and the filter tap.
Choices of the model that it rests on: log entries 14, 45, 46. -/
def Obligations.LoadsAndStoresComplete : Prop :=
  ∀ (s : State) (m : MastId) (k : Nat) (f : MemF),
    let d := s.dev.opened m k
    let at_ := fun (al : Nat) => alignTo al ((d.core m k).addr f).1
    let loads := fun (al n : Nat) (put : Nat → Core → Core) =>
      (d.load m k n (at_ al)).2.onCore m k (fun c => (put (d.memNat m k (at_ al) n) c).postMod f)
    let stores := fun (n : Nat) (val : Core → Nat) =>
      d.onCore m k (fun c => (c.store (at_ n) n (val c)).postMod f)
    (IssuesA s.dev m k (.ldW k f) → Answers (.ldW k f) s (loads 4 4 (fun v c => c.dueD .a 3 f.d (BitVec.ofNat 32 v)))) ∧
    (IssuesA s.dev m k (.ldH k f) → Answers (.ldH k f) s
      (loads 2 2 (fun v c => c.dueD .a 3 f.d ((BitVec.ofNat 16 v).signExtend 32)))) ∧
    (IssuesA s.dev m k (.ldHu k f) → Answers (.ldHu k f) s (loads 2 2 (fun v c => c.dueD .a 3 f.d (BitVec.ofNat 32 v)))) ∧
    (IssuesA s.dev m k (.ldD k f) → Answers (.ldD k f) s (loads 8 8 (fun v c =>
      (c.dueD .a 3 f.d (BitVec.ofNat 32 v)).dueD .a 3 (f.d ||| 1) (BitVec.ofNat 32 (v / 2 ^ 32))))) ∧
    (IssuesA s.dev m k (.ldA k f) → Answers (.ldA k f) s (loads 16 9 (fun v c =>
      ((c.due .a 3 (.acc 0 f.d.toNat) (BitVec.ofNat 72 v)).due .a 3 (.acc 1 f.d.toNat) (BitVec.ofNat 72 v)).due .a 3
        (.acc 2 f.d.toNat) (BitVec.ofNat 72 v)))) ∧
    (IssuesA s.dev m k (.stW k f) → Answers (.stW k f) s (stores 4 (fun c => (c.dr f.d).toNat))) ∧
    (IssuesA s.dev m k (.stH k f) → Answers (.stH k f) s (stores 2 (fun c => (c.dr f.d).toNat % 65536))) ∧
    (IssuesA s.dev m k (.stD k f) → Answers (.stD k f) s
      (stores 8 (fun c => (c.dr f.d).toNat + 2 ^ 32 * (c.dr (f.d ||| 1)).toNat))) ∧
    (IssuesA s.dev m k (.stA k f) → Answers (.stA k f) s
      (stores 16 (fun c => ((c.ar 2 (f.d.setWidth 2)).signExtend 128).toNat))) ∧
    (IssuesA s.dev m k (.noOperation k .a) → f.wf = true → f.d.toNat ≤ 21 →
      Answers (.lds k f) s (loads 4 4 (fun v c => c.due .a 3 (srDest f.d.toNat) (BitVec.ofNat 72 v))) ∧
      Answers (.sts k f) s (stores 4 (fun c => (c.sr f.d.toNat).toNat))) ∧
    (∀ ak clr pd pc, IssuesA s.dev m k (.tapm k ak clr pd pc) →
      let xa := alignTo 4 ((d.core m k).pr pd)
      let ca := alignTo 2 ((d.core m k).pr pc)
      let x := d.memNat m k xa 4
      let d1 := (d.load m k 4 xa).2
      let c := d1.memNat m k ca 2
      Answers (.tapm k ak clr pd pc) s ((d1.load m k 2 ca).2.onCore m k (fun q =>
        let q := { q with tap := some ak.toNat }
        let q := q.dueMac .a ak (macStep clr false (q.ar 0 ak) (product (BitVec.ofNat 32 x) (BitVec.ofNat 16 c)))
        let q := q.store (alignTo 4 (q.pr pd + 4)) 4 x
        (q.due .a 1 (.p pd.toNat) ((q.pr pd - 4).setWidth 72)).due .a 1 (.p pc.toNat) ((q.pr pc + 2).setWidth 72))))

/-- R216, R217, R220: what the arithmetic computes. Unsaturated results wrap modulo 2^32; a saturated one clamps and raises SAT
exactly where the exact result is out of range; discarded bits round half up. -/
def Obligations.TillerArithmetic : Prop :=
  (∀ a b : Word, (aluAdd false a b).val = a + b ∧ (aluSub false a b).val = a - b) ∧
  (∀ (a : Word) (n : Nat), n < 32 → (aluShl false a n).val = a <<< n) ∧
  (∀ (x : Int), (narrowTo true x).sat = true ↔ ¬ (-(2 ^ 31) ≤ x ∧ x < 2 ^ 31)) ∧
  (∀ (x : Int), -(2 ^ 31) ≤ x → x < 2 ^ 31 → (narrowTo true x).val.toInt = x) ∧
  (∀ (x : Int), 2 ^ 31 ≤ x → (narrowTo true x).val = 0x7FFFFFFF) ∧
  (∀ (x : Int), x < -(2 ^ 31) → (narrowTo true x).val = 0x80000000) ∧
  (∀ (s : Bool) (x : Int), (narrowTo s x).div0 = false ∧ (s = false → (narrowTo s x).sat = false)) ∧
  -- rounding half up: the integer nearest x ÷ 2^n, a half going up
  (∀ (x : Int) (n : Nat), 2 * x - 2 ^ n < 2 * (2 ^ n * roundShift x n) ∧ 2 * (2 ^ n * roundShift x n) ≤ 2 * x + 2 ^ n) ∧
  (∀ a : Word, aluShra a 0 = ⟨a, false, false⟩) ∧
  (∀ a b : Word, (aluMin a b).val.toInt = Min.min a.toInt b.toInt ∧ (aluMax a b).val.toInt = Max.max a.toInt b.toInt) ∧
  -- DIVQ by 0, and a quotient in range
  (∀ a : Word, aluDivq a 0 = ⟨if 0 ≤ a.toInt then 0x7FFFFFFF else 0x80000000, false, true⟩) ∧
  (∀ a b : Word, 0 < b.toInt → (aluDivq a b).sat = false →
    2 * (2 ^ 31 * a.toInt) - b.toInt < 2 * (b.toInt * (aluDivq a b).val.toInt) ∧
      2 * (b.toInt * (aluDivq a b).val.toInt) ≤ 2 * (2 ^ 31 * a.toInt) + b.toInt) ∧
  -- a MAC starts from zero or from the accumulator, and adds or subtracts the product, modulo 2^72
  (∀ a p : Acc, macStep false false a p = a + p ∧ macStep false true a p = a - p ∧ macStep true false a p = p ∧
    macStep true true a p = -p) ∧
  (∀ (x : Word) (c : BitVec 16), (product x c).toInt = x.toInt * c.toInt * 2 ^ 16)

/-- R215: names d32 to d63 go through the rotate base; a destination is the register its name denotes at issue. -/
def Obligations.RotatingNames : Prop :=
  (∀ (rb : BitVec 5) (n : BitVec 6), n.toNat < 32 → physD rb n = n.toNat) ∧
  (∀ (rb : BitVec 5) (n : BitVec 6), 32 ≤ n.toNat → physD rb n = 32 + (n.toNat - 32 + rb.toNat) % 32) ∧
  (∀ rb : BitVec 5, physD rb 33 = physD (rb + 1) 32 ∧ physD rb 32 = physD (rb + 1) 63) ∧
  -- two names denote one register only if they are the same
  (∀ (rb : BitVec 5) (n n' : BitVec 6), physD rb n = physD rb n' → n = n') ∧
  -- a result lands in the register that its name denoted at issue, whatever the rotate base is then
  (∀ (c : Core) (slot : Slot) (n : Nat) (dn : BitVec 6) (v : Word) (rb : BitVec 5), c.land = [] → 1 ≤ n → n ≤ 10 →
    let e := { c.dueD slot n dn v with r := { c.r with rb := rb } }
    tget 0 (e.pass n).r.d (physD c.r.rb dn) = v ∧
      ∀ p, p ≠ physD c.r.rb dn → tget 0 (e.pass n).r.d p = tget 0 c.r.d p) ∧
  (∀ (c : Core) (n : BitVec 6), c.dr n = tget 0 c.r.d (physD c.r.rb n)) ∧
  (∀ (s : State) (m : MastId) (k : Nat) (abs : Bool) (n : BitVec 5), IssuesB s.dev m k (.rot k abs n) →
    Answers (.rot k abs n) s (s.dev.onCore m k (fun c =>
      (c.due .b 1 .rb (if abs then n.setWidth 72 else (c.r.rb + n).setWidth 72)).close))) ∧
  -- ROT's sum or setting names registers from the next bundle
  (∀ (c : Core) (v : BitVec 5), c.land = [] → ((c.due .b 1 .rb (v.setWidth 72)).pass 1).r.rb = v)

/-- R221: a register holds its previous value until the bundle a result is ready in; the value landed last stays, and slot B's
where both land in one cycle; NARROW, MVA and ST.A see a MAC three bundles on, a chained one sees it from the next. -/
def Obligations.ResultsLandWhenReady : Prop :=
  ∀ c : Core, c.land = [] →
    (∀ (slot : Slot) (n j : Nat) (dn : BitVec 6) (v : Word), n ≤ 10 → j < n →
      ((c.dueD slot n dn v).pass j).r = c.r ∧ (((c.dueD slot n dn v).pass n).dr dn = v)) ∧
    (∀ (sl sl' : Slot) (n n' : Nat) (dn : BitVec 6) (v v' : Word), 1 ≤ n → n < n' → n' ≤ 10 →
      ((((c.dueD sl' n' dn v').dueD sl n dn v).pass n').dr dn = v' ∧
        (((c.dueD sl' n' dn v').dueD sl n dn v).pass n).dr dn = v)) ∧
    (∀ (n : Nat) (dn : BitVec 6) (v v' : Word), 1 ≤ n → n ≤ 10 →
      (((c.dueD .b n dn v).dueD .a n dn v').pass n).dr dn = v ∧ (((c.dueD .a n dn v').dueD .b n dn v).pass n).dr dn = v) ∧
    (∀ (slot : Slot) (ak : BitVec 2) (v : Acc),
      let e := c.dueMac slot ak v
      (e.pass 1).ar 0 ak = v ∧ (e.pass 2).ar 1 ak = c.ar 1 ak ∧ (e.pass 2).ar 2 ak = c.ar 2 ak ∧
      (e.pass 3).ar 1 ak = v ∧ (e.pass 3).ar 2 ak = v)

/-- R218: the address of each mode and the address register after it; alignment ignores the address's low bits. -/
def Obligations.AddressingModes : Prop :=
  ∀ (c : Core) (d : BitVec 6) (p : BitVec 3) (imm : BitVec 15),
    let at_ := fun mode => c.addr ⟨d, p, mode, imm⟩
    let step : Ptr := imm.signExtend 18
    at_ .off = (c.pr p + step, c.pr p) ∧ at_ .postImm = (c.pr p, c.pr p + step) ∧
    at_ .postM = (c.pr p, c.pr p + c.mr (imm.extractLsb' 12 3)) ∧
    (at_ .ring).1 = c.pr p ∧ (at_ .ring).2.toNat / 0x8000 = (c.pr p).toNat / 0x8000 ∧
    (at_ .ring).2.toNat % 0x8000 = (c.pr p + step).toNat % 0x8000 ∧
    (∀ a : Ptr, ∀ n : Nat, 0 < n → alignTo n a % n = 0 ∧ alignTo n a ≤ a.toNat ∧ a.toNat < alignTo n a + n) ∧
    -- the post-modification is seen by the next bundle, and not before
    (∀ mode, c.land = [] → let e := c.postMod ⟨d, p, mode, imm⟩
      e.pr p = c.pr p ∧ (e.pass 1).pr p = (at_ mode).2)

/-- R214, R219, R220: every well-formed operation of a slot, on the core it names, reads back from its own word with every
operand at its value, and a word read as an operation is that operation's word. -/
def Obligations.TillerWordsRoundTrip : Prop :=
  (∀ (k : Nat) (i : Instr) (w : BitVec 32), encA i = some w → i.opWf = true → i.bounds = [(k, 64)] → decA k w = .ok i) ∧
  (∀ (k : Nat) (i : Instr) (w : BitVec 32), encB i = some w → i.opWf = true → i.bounds = [(k, 64)] → decB k w = .ok i) ∧
  (∀ (k : Nat) (i : Instr) (w : BitVec 32), decA k w = .ok i → encA i = some w ∧ i.opWf = true) ∧
  (∀ (k : Nat) (i : Instr) (w : BitVec 32), decB k w = .ok i → encB i = some w ∧ i.opWf = true)

/-- R214, R219, R220: the two encodings the manual works out, words written out bit by bit from the tables' fields, and words
that are no operation's. -/
def Obligations.TillerWordsOfTheManual : Prop :=
  -- bundle 4 of the listing is TAPM a1, p1, p2 || SHI d5, d3, SHR 16; slot A of bundle 30 is BCNT -30
  decA 5 (slotWordA 0x4450D80089140000) = .ok (.tapm 5 1 false 1 2) ∧
  decB 5 (slotWordB 0x4450D80089140000) = .ok (.shi 5 5 3 .shr 16 false) ∧
  decA 5 0x7400FFE2 = .ok (.bcnt 5 0xFFE2) ∧
  -- LD.D d2, [p0], ring +32: OP 0x04, D 2, P 0, MODE 3, IMM 32
  decA 0 0b00010000001000011000000000100000 = .ok (.ldD 0 ⟨2, 0, .ring, 32⟩) ∧
  -- MAC a1, d32, d27, CLR: OP 0x20, ak 1, dX 32, dC 27, H 0, NEG 0, CLR 1
  decB 0 0b10000001100000011011001000000000 = .ok (.mac 0 1 32 27 false false true) ∧
  -- ADD d7, d4, d5: OP 0x01, dD 7, dA 4, dB 5, S 0
  decB 0 0b00000100011100010000010100000000 = .ok (.add 0 ⟨7, 4, 5, false⟩) ∧
  -- ROT +1: OP 0x30, ABS 0, K 1
  decB 0 0b11000000000000000000000000000001 = .ok (.rot 0 false 1) ∧
  -- opcode 0x3F is unallotted, special register 22 is reserved, S is zero for AND
  decA 0 0b11111100000000000000000000000000 = .error .opcode ∧
  decA 0 0b01010000000101011000000000000000 = .error .operand ∧
  decB 0 0b00001100000100000000000110000000 = .error .operand

/-- Next states of what happens to a core from outside its slots, under R203, R208, R209, R224, R225 and R228, clause by
clause. An illegal bundle stops the core with the fault of its cluster's core and the bundle's address. Interrupt entry with
IE set, an enabled pending bit, a handler and outside a delay bundle: all issued has landed, IPC and IST are written, IE is
clear, the handler issues, at most 24 cycles on. A core that may not issue stops for its budget. The service context runs
the first class that has work and allowance. A write to CODE_OUT queues its post, the core stalling while 64 are queued;
SQ_CONS takes a value unless it lies after SQ_PROD. Choices of the model that it rests on: log entries 16, 49, 108. -/
def Obligations.CoreEventsComplete : Prop :=
  ∀ (s : State) (m : MastId) (k : Nat), Serves s.dev m → k < 64 →
    let c := s.dev.core m k
    (∀ b, s.dev.canIssue m k = true → bundleIllegal (if c.run == .running then c.codeLen else 65536) c.pc c.delay b = true →
      Answers (.illegalBundle k b) s ((s.dev.onCore m k (fun c => { c with run := .stopped })).report m (96 + k) 2 k
        (BitVec.ofNat 32 c.pc) (some ⟨.core, k⟩))) ∧
    -- interrupt entry: all issued has landed, IPC and IST are written, IE is clear, the handler issues; its cycles are free
    -- up to 14 (log entry 16)
    (∀ h, c.openA.handler = some h → c.openA.r.ie = true → (c.openA.ipend &&& c.openA.imask) ≠ 0 → c.openA.delay = false →
      s.dev.canIssue m k = true → ∃ e : Core,
        Answers (.interruptEntry k) s (({ s.dev with free := s.dev.free + 1 } : Dev).setCore m k e) ∧
        e.pc = h ∧ e.r.ie = false ∧ e.r.ipc = BitVec.ofNat 13 c.openA.pc ∧ e.cycle ≤ c.openA.cycle + 24 ∧
        (let r := landRange c.openA.r c.openA.land c.openA.cycle 10
         e.r.ist = r.stat ++ BitVec.ofBool r.ie ∧ e.r.stat = r.stat ∧ e.r.d = r.d ∧ e.r.a = r.a ∧ e.r.p = r.p ∧ e.r.m = r.m ∧
          e.r.rb = r.rb ∧ e.r.lc = r.lc) ∧ e.mem = c.openA.mem) ∧
    (c.run = .shipped ∨ c.run = .running → s.dev.canIssue m k = false →
      Answers (.kernelBudgetStop k) s (s.dev.onCore m k (fun c => { c.openA with run := .budget }))) ∧
    -- the service context: the first class of 2, 5, 6 and 1 with work and allowance left, its cycles charged to it; what it
    -- leaves in its own registers and memories is free
    (∀ n cls, [2, 5, 6, 1].find? (fun cls => s.dev.svcWork m k cls && n ≤ s.dev.svcLeft m k cls && !s.dev.waits m 0 cls (k / 16)) =
        some cls →
      (cls = 1 → Answers (.serviceContextRun k n) s (({ s.dev with free := s.dev.free + 1 } : Dev).onCore m k (fun c =>
        { c.openA.pass n with svc := Config.freeNat s.dev.free, spentDither := c.spentDither + n }))) ∧
      (cls ≠ 1 → Answers (.serviceContextRun k n) s (({ s.dev with free := s.dev.free + 1 } : Dev).onCore m k (fun c =>
        { c.openA.pass n with
          svc := Config.freeNat s.dev.free, spentDither := c.openA.spentDither
          spentSvc := tset 0 c.spentSvc cls (tget 0 c.spentSvc cls + n) })))) ∧
    (∀ w : Word, s.dev.canIssue m k = true → Answers (.codeOut k w) s (s.dev.onCore m k (fun c => { c with
      posts := c.posts ++ [⟨w.toNat % 65536, w.toNat / 65536 % 512, w.toNat / 2 ^ 28⟩]
      run := if 64 ≤ c.posts.length then .stalled else c.run }))) ∧
    -- SQ_CONS after SQ_PROD is ignored
    (∀ v : Word, s.dev.canIssue m k = true →
      (serialAfter v.toNat c.sqProd.toNat = true → Answers (.sqCons k v) s (s.dev.setCore m k c)) ∧
      (serialAfter v.toNat c.sqProd.toNat = false → Answers (.sqCons k v) s (s.dev.onCore m k (fun c => { c with sqCons := v }))))

/-- Next states of KERNEL_LOAD, KERNEL_BIND, KERNEL_DROP and of the bind's boundary, with PROTECTED 0, and a core after a
bind, under R204, R211, R229 to R232 and R402, clause by clause. KERNEL_LOAD with permission and a sound slot: a handle
outside 1 to 4 or bound answers BAD_STATE, a format or length that fails KERNEL_FORMAT, a signature that fails KERNEL_SIG;
else it waits for the load, which stores the image under its handle, returns the slot and completes. KERNEL_BIND of a tile
that is not enabled or of an empty handle answers BAD_STATE; else it waits for a loop-period boundary of the tile 100
microseconds after its acceptance, at which the tile's cores that are not fenced take the kernel. KERNEL_DROP of an empty or
bound handle answers BAD_STATE, else empties it. After a bind the core starts at ENTRY with its registers at reset, STATE
zero and INIT copied. Choices of the model that it rests on: log entry 32. -/
def Obligations.KernelDescriptorsComplete : Prop :=
  (∀ (s : State) (ring seq : Nat) (m : MastId) (x : Desc),
    let d := s.dev.begun m ring seq
    (∀ slot h, Starts s.dev ring seq 0x80 m x → x.perm 8 = true → SlotSound d m x slot →
      let held := d.heldOut m x ⟨slot.ref, slot.owner, slot.err⟩
      let sc := d.scanned m x slot
      let img : KernelImage := ⟨slot.bytes⟩
      (h < 1 ∨ 4 < h ∨ held.handleBound m h = true → Answers (.kernelLoad ring seq slot h) s
        ((held.returnIn m x slot false).complete m x .badState)) ∧
      (1 ≤ h → h ≤ 4 → held.handleBound m h = false →
        (img.formatOk slot.len = false → Answers (.kernelLoad ring seq slot h) s
          ((sc.returnIn m x slot false).complete m x .kernelFormat)) ∧
        (img.formatOk slot.len = true → (sc.mast m).boot.kernelOk img = false → Answers (.kernelLoad ring seq slot h) s
          ((sc.returnIn m x slot false).complete m x .kernelSig)) ∧
        (img.formatOk slot.len = true → (sc.mast m).boot.kernelOk img = true → Answers (.kernelLoad ring seq slot h) s
          (sc.onKern m (fun k => { k with loading := k.loading ++ [(ring, seq, h, img, slot)] }))))) ∧
    (∀ h img slot, Serves s.dev m → s.dev.findDesc m ring seq = some x → x.defer = none →
      (s.dev.mast m).kern.loading = [(ring, seq, h, img, slot)] → (s.dev.mast m).pen.protect = false →
      x.ring = ring → x.ent.seq = seq →
      Answers (.kernelLoadDone ring seq) s (((((s.dev.onKern m (fun k => { k with
          handles := tset none k.handles h (some img), loading := [] })).onMast m (fun y =>
        { y with mem := { y.mem with lostKern := y.mem.lostKern.filter (· != h) } })).mirrorKern m).returnIn m x slot
          false).complete m x .ok)) ∧
    (∀ t h, Starts s.dev ring seq 0x81 m x → (s.dev.mast m).pen.protect = false → x.perm 8 = true → t < 16 →
      (d.mast m).mem.lostKern.contains h = false →
      ((d.tile t).enabled = false ∨ h ≠ 0 ∧ d.handle m h = none → Answers (.kernelBind ring seq t h) s (d.complete m x .badState)) ∧
      ((d.tile t).enabled = true → h = 0 ∨ (d.handle m h).isSome = true → Answers (.kernelBind ring seq t h) s
        ((d.onKern m (fun k => { k with pend := k.pend ++ [(t, h, x.ring, x.ent.seq, x.acceptedAt)] })).mirrorKern m))) ∧
    -- the bind's boundary: the tile's cores that are not fenced take the kernel
    (∀ t h r q at_ rest, Serves s.dev m → (s.dev.mast m).kern.pend = (t, h, r, q, at_) :: rest → s.dev.loopEdge t = true →
      at_ + 1000 ≤ s.dev.beat → h = 0 ∨ (s.dev.handle m h).isSome = true →
      let d1 := ((s.dev.onKern m (fun k => { k with bound := tset 0 k.bound t h, pend := rest })).mirrorKern m).each
        ([0, 1, 2, 3].map (fun j => 4 * t + j)) (fun k d => if d.coreFenced m k then d else d.bindCore m k false)
      Answers (.kernelBindApply t) s (match d1.findDesc m r q with
        | some x => d1.complete m x .ok
        | none => d1)) ∧
    (∀ h, Starts s.dev ring seq 0x82 m x → (s.dev.mast m).pen.protect = false → x.perm 8 = true →
      (d.handle m h = none ∨ d.handleBound m h = true → Answers (.kernelDrop ring seq h) s (d.complete m x .badState)) ∧
      ((d.handle m h).isSome = true → d.handleBound m h = false → Answers (.kernelDrop ring seq h) s
        (((d.onKern m (fun k => { k with handles := tset none k.handles h none })).mirrorKern m).complete m x .ok)))) ∧
  (∀ (c : Core) (g : KernelImage),
    let e := c.bind g
    e.pc = g.entry ∧ e.imem = g.code ∧ e.run = .running ∧ e.r.ie = false ∧ e.cls = false ∧ e.r = coreRegsReset ∧ e.land = [] ∧
    e.sqProd = 0 ∧ e.sqCons = 0 ∧ e.imask = 0 ∧ e.ipend = 0 ∧ e.late = 0 ∧ e.paramSeq = 0 ∧ e.periodCnt = 0 ∧ e.posts = [] ∧
    (∀ a, 0x8000 ≤ a → a < 0x2E000 → tget 0 e.mem a = 0) ∧
    (∀ a, 0x2E000 ≤ a → a < 0x2E000 + Nat.min g.initLen 0x8000 → tget 0 e.mem a = g.init.getD (a - 0x2E000) 0))

/-! ## Monitor, loop -/

/-- Next states of conversions, exit reports, the low-power wake-up and the monitor settings, under R260 and R272 to R275,
clause by clause. A conversion due in a running scan converts on all 48 converters, ends the scan after slot 63 and lowers
the filter marks with it. An exit report that finds its command-lane slot captures the event, counts it, makes a telemetry
record and raises the fault source of its tile. A low-power tile wakes 4 microseconds before a loop-period boundary. A
settings write keeps FILT at a value above 4 and WIN_MODE at 3, measures again the tile whose conversion it changes, and
requests or cancels low power; LOWPWR at loop period 1 is refused with LP_REJ. Choices of the model that it rests on: log
entries 47, 108. -/
def Obligations.MonitorCompletes : Prop :=
  (∀ (s : State) (t : Nat) (light : List Nat), (s.dev.tile t).alive = true → (s.dev.tile t).conv.scanning = true →
    (s.dev.tile t).conv.awake = true → (s.dev.tile t).conv.slot < 64 →
    5 * (s.dev.tile t).conv.slot ≤ 2 * (s.dev.beat - (s.dev.tile t).conv.scanBeat) + 1 →
    let conv := (s.dev.tile t).conv
    let d := s.dev.each (List.range 48) (fun k d => d.convert t k (light.getD k 0))
    (conv.slot ≠ 63 → Answers (.conversion t light) s (d.onTile t (fun x =>
      { x with conv := { x.conv with slot := conv.slot + 1, scanning := true, filtMarks := conv.filtMarks, awake := true } }))) ∧
    -- slot 63 ends the scan: a loop-service scan's samples are gathered, the comparators judge
    (conv.slot = 63 → Answers (.conversion t light) s
      (((if conv.loopScan then d.act (fun m => d.gather m t) else d).judgeScan t).onTile t (fun x =>
        { x with conv := { x.conv with
            slot := 64, scanning := false, filtMarks := conv.filtMarks - 1, awake := !conv.lpNow } })))) ∧
  (∀ (s : State) (m : MastId) (t l a v : Nat) (o : Bool) (at_ : Stamp), Serves s.dev m →
    (s.dev.tile t).link.reports = [.exit l a v o at_] → UpFree s.dev m t 3 →
    let d := (s.dev.arrived m t).onTile t (fun x => { x with link := { x.link with reports := [] } })
    let b := d.beatOf at_
    let d1 := (d.gleanEvent m .window b at_ (some (t * laneCount + l)) 0).pmc m 0x091 [t] 1
    Answers (.exitReport t) s ((d1.tel m 8 ⟨0x09, at_, (d1.fab m).epochAt b,
      layout [(2, t * laneCount + l), (1, a + 2 * b2n o), (1, 0), (2, v), (2, 0)]⟩).report m
        (64 + t) 0 t (BitVec.ofNat 32 (a + 65536 * v)) none)) ∧
  (∀ (s : State) (t : Nat), (s.dev.tile t).alive = true → (s.dev.tile t).conv.lpNow = true →
    (s.dev.now.ns + 4000) % (20000 * (s.dev.tile t).par.period) = 0 →
    Answers (.lowPowerWake t) s (s.dev.onTile t (fun x => { x with conv := { x.conv with awake := true } }))) ∧
  -- a settings write: FILT above 4 and WIN_MODE 3 keep their fields; LOWPWR at loop period 1 is refused with LP_REJ
  (∀ (s : State) (t : Nat) (w : RegWr) (info : RegInfo), t < 16 → Writable s.dev (monReg t) w info →
    let m := w.mast
    let v := s.dev.written (monReg t) w info
    let old := s.dev.reg m (monReg t)
    let r1 := if 4 < fld v 4 3 then setFld (plainWrite info old v) 4 3 (fld old 4 3) else plainWrite info old v
    let r := if fld v 12 2 = 3 then setFld r1 12 2 (fld old 12 2) else r1
    (w.half = .hi → Answers (.fabMonTileWrite t w) s (s.dev.setReg m (monReg t) r)) ∧
    let moves := fun (r : Reg64) => fld r 0 2 ≠ fld old 0 2 ∨ fld r 4 3 ≠ fld old 4 3 ∨ fld r 8 1 ≠ fld old 8 1
    let again := fun (r : Reg64) => if moves r then s.dev.remeasure m t else s.dev
    (w.half ≠ .hi → fld v 8 1 = 0 ∨ (s.dev.tile t).par.period ≠ 1 →
      Answers (.fabMonTileWrite t w) s (((again r).setReg m (monReg t) r).onTile t (fun x =>
        { x with conv := { x.conv with lpReq := if (fld v 8 1 == 1) = x.conv.lpNow then none else some (fld v 8 1 == 1) } }))) ∧
    (w.half ≠ .hi → fld v 8 1 = 1 → (s.dev.tile t).par.period = 1 →
      Answers (.fabMonTileWrite t w) s (((again (setFld r 8 1 0)).setReg m (monReg t) (setFld r 8 1 0)).flag m (monReg t) 10)))

/-- R266, R269, R270: the comparator. Out of band turns IN to OUT with one report; two evaluated outputs in band running turn OUT
to IN; an over-range output is in band for a lit arm and out of band for a dark one. -/
def Obligations.ComparatorsFollowR270 : Prop :=
  (∀ run, comparator false run true = (false, 0, false) ∧ comparator false run false = (true, 0, true) ∧
    comparator true run false = (true, 0, false)) ∧
  comparator true 0 true = (true, 1, false) ∧ (∀ run, 0 < run → comparator true run true = (false, 0, false)) ∧
  (∀ lo hi s, s.ovr = true → inBand true lo hi s = true ∧ inBand false lo hi s = false) ∧
  (∀ lo hi s, s.ovr = false → (inBand true lo hi s = true ↔ lo ≤ s.code) ∧ (inBand false lo hi s = true ↔ s.code ≤ hi)) ∧
  (∀ pga i, overRange pga i = true ↔ 102 * fullScale pga < 100 * i) ∧
  -- the manual's worked corrections
  corrected 40 16548 31457 = 31769 ∧ corrected (-24) 16384 2621 = 2623

/-- Next states of loop service, under R15, R18, R29, R34 to R37, R198 and R206 to R209, clause by clause. A sample frame
that finds allowance and slot brings the fresh samples of its sixteen lanes to the cores that are not fenced. The shipped
law, its core able to issue, consumes the next entry, keeps the new loop state and posts a code within 34 cycles; an OPEN
cell's entry is only consumed, within 6. A heater-code frame to a tile whose lease runs and which is not fenced brings its
codes. At its deadline a closed tile's missing codes count as overruns. A share above 100 or a sum above 100 is refused
whole with the resource's error bit. A class whose allowance is spent waits. A command-lane frame that fails its CRC is held
for retransmission; failing again, its content is lost and its link reported. Choices of the model that it rests on: log
entries 15, 16, 48, 50, 108. -/
def Obligations.LoopEventsComplete : Prop :=
  (∀ (s : State) (m : MastId) (t l : Nat), Serves s.dev m → (s.dev.tile t).closed = true → l < laneCount → s.dev.takes m t = true →
    let lanes := ((List.range 16).map (fun i => l / 16 * 16 + i)).filter (fun l => ((s.dev.tile t).cell l).mon.fresh)
    lanes ≠ [] → CarryFree s.dev m t true →
    Answers (.sampleFrame t l) s ((s.dev.carried m t true).each lanes (fun l d =>
      let k := 4 * t + l / 384
      if d.coreFenced m k || (d.mast m).pen.due || ((s.dev.tile t).loopDue && d.liveRun m k == .shipped) then d
      else d.putEntry m k (l % 384)))) ∧
  -- the shipped law consumes an entry and posts a code; an OPEN cell's entry is only consumed. Its cycles are free within R198
  (∀ (s : State) (m : MastId) (k sl : Nat), Serves s.dev m →
    let c := s.dev.core m k
    let r := s.dev.lawOn m k sl
    c.run = .shipped → s.dev.canIssue m k = true → c.sqProd ≠ c.sqCons → s.dev.coreFenced m k = false → c.entryH 0 % 512 = sl →
    ∃ n, n ≤ 34 ∧
      ((s.dev.cell (cellOf k sl)).lp.mode ≠ 2 → Answers (.loopLaw k sl) s
        ((({ s.dev with free := s.dev.free + 1 } : Dev).onCell (cellOf k sl) (fun z => { z with lp := r.1 })).onCore m k (fun c =>
          ({ c with sqCons := c.sqCons + 1, spentLoop := c.spentLoop + n } : Core).post
            (r.2 + 65536 * sl + 2 ^ 28 * (s.dev.core m k |>.entryH 12) % 2 ^ 32)))) ∧
      ((s.dev.cell (cellOf k sl)).lp.mode = 2 → n ≤ 6 ∧ Answers (.loopLaw k sl) s
        (({ s.dev with free := s.dev.free + 1 } : Dev).onCore m k (fun c =>
          { c with sqCons := c.sqCons + 1, spentLoop := c.spentLoop + n })))) ∧
  (∀ (s : State) (m : MastId) (k : Nat), Serves s.dev m → k < 64 → (s.dev.core m k).posts ≠ [] → s.dev.takes m (k / 4) = true →
    (s.dev.tile (k / 4)).leaseRuns s.dev.beat = true → s.dev.isFenced m ⟨.tile, k / 4⟩ = false → CarryFree s.dev m (k / 4) false →
    let d := s.dev.carried m (k / 4) false
    let run := if (s.dev.core m k).run == .stalled then d.liveRun m k else (s.dev.core m k).run
    Answers (.heaterCodeFrame k) s ((d.onCore m k (fun c => { c with posts := [], run := run })).each (s.dev.core m k).posts
      (fun p d => d.takePost m k p))) ∧
  (∀ (s : State) (m : MastId), Serves s.dev m → Answers .heaterCodeDeadline s
    (s.dev.each (s.dev.enabledTiles.filter (fun t => (s.dev.tile t).closed && s.dev.periodBeat t == (s.dev.tile t).par.deadline))
      (fun t d => d.each [4 * t, 4 * t + 1, 4 * t + 2, 4 * t + 3] (fun k d => d.overruns m k)))) ∧
  -- shares: a share above 100 or a sum above 100 is refused whole, and the resource's error bit is set
  (∀ (s : State) (i : Nat) (w : RegWr) (info : RegInfo), i < 3 → Writable s.dev (0x4400 + 8 * i) w info →
    let v := s.dev.written (0x4400 + 8 * i) w info
    ((∀ x ∈ shares v, x ≤ 100) → (shares v).sum ≤ 100 → Answers (.fabBudWrite (0x4400 + 8 * i) w) s
      (s.dev.setReg w.mast (0x4400 + 8 * i) (plainWrite info (s.dev.reg w.mast (0x4400 + 8 * i)) v))) ∧
    ((∃ x ∈ shares v, 100 < x) ∨ 100 < (shares v).sum → Answers (.fabBudWrite (0x4400 + 8 * i) w) s
      (s.dev.flag w.mast 0x4418 i))) ∧
  -- a class that has spent its allowance waits from then on, counted once in a watch
  (∀ (s : State) (m : MastId) (res cls u : Nat), Serves s.dev m → res ≠ 0 →
    (s.dev.waits m res cls u = true → Answers (.allowanceSpent res cls u) s s.dev) ∧
    (s.dev.waits m res cls u = false → Answers (.allowanceSpent res cls u) s
      ((s.dev.pmc m 0x032 [8 * res + cls] 1).onBud m (fun b => { b with waits := b.waits ++ [(res, cls, u)] })))) ∧
  -- a command-lane frame that fails its CRC takes its slot and is held; a second failure of it is a fault of the link
  (∀ (s : State) (m : MastId) (t ft : Nat), Serves s.dev m → t < 16 → 1 ≤ ft → ft ≤ 5 →
    ((s.dev.stay m t).down.again.contains ft = false → Answers (.stayFrameCrcFail t false ft) s
      (((s.dev.pmc m 0x042 [t] 1).staySlot m t false).onStay m t (fun x =>
        { x with down := { x.down.cmdUse s.dev.beat with again := (s.dev.stay m t).down.again ++ [ft] } }))) ∧
    ((s.dev.stay m t).down.again.contains ft = true → Answers (.stayFrameCrcFail t true ft) s
      (((s.dev.onStay m t (fun x => { x with down := { x.down with again := x.down.again.erase ft } })).frameLost m t ft).report m t 2 t
        (BitVec.ofNat 32 ft) (some ⟨.tile, t⟩))))

/-! ## Calibration, the seed image, trust -/

/-- Next states of calibration passes, under R280, R282, R283, R285, R287, R288, R290 and R294, clause by clause. CAL_FULL
taken in POWERED begins a pass over the enabled tiles. CAL_PASS with permission begins one over its tiles, waits in the
queue while another runs, and answers BAD_STATE for a tile not enabled and CAL_BUSY with eight waiting. The next pass serves
triggered tiles, then the queue. A plan that the rules allow gives swept cells their rounds and lenders; those that no path
can light end NO_LIGHT. A round opens DITHER windows, and begins phase A of a swept cell. Phase ends: DITHER cells done end;
phase A of a lit cell gives its bias and is followed by phase B. A dwell in the gap serves a sweep, an offset or a trim, and
reports a reference out of range. A pass with all cells settled ends. CAL_READ checks its range and slot, and its payload is
written. Outcomes of a DITHER cell. Choices of the model that it rests on: log entries 51, 52, 53, 56, 109. -/
def Obligations.CalibrationPassesComplete : Prop :=
  (∀ (s : State) (m : MastId), Brings s.dev m [.powered] → Answers (.calFull m) s ((s.dev.busyWith m .calFull).beginPass m
    ⟨.full, maskOf (s.dev.busyWith m .calFull).enabledTiles, false, true, true, false⟩)) ∧
  (∀ (s : State) (ring seq tiles : Nat) (dO sh sp nt : Bool) (m : MastId) (x : Desc), Starts s.dev ring seq 0x40 m x → x.perm 7 = true →
    let d := s.dev.begun m ring seq
    let r : PassReq := ⟨.desc ring seq, tiles, dO, sh, sp, nt⟩
    let good := ∀ t ∈ bitsOf tiles 16, (d.tile t).enabled = true
    let idle := (d.cal m).pass = none ∧ (d.cal m).queue = [] ∧ (d.cal m).trig = 0
    (¬ good → Answers (.calPass ring seq tiles dO sh sp nt) s (d.complete m x .badState)) ∧
    (good → idle → Answers (.calPass ring seq tiles dO sh sp nt) s (d.beginPass m r)) ∧
    (good → ¬ idle → (d.cal m).queue.length < 8 → Answers (.calPass ring seq tiles dO sh sp nt) s
      (d.onCal m (fun c => { c with queue := c.queue ++ [r] }))) ∧
    (good → ¬ idle → 8 ≤ (d.cal m).queue.length →
      Answers (.calPass ring seq tiles dO sh sp nt) s (d.complete m x .calBusy))) ∧
  -- the next pass: triggered tiles first, then the queue
  (∀ (s : State) (m : MastId), Serves s.dev m → (s.dev.mast m).boot.stage = .ready → (s.dev.cal m).pass = none →
    ((s.dev.cal m).trig ≠ 0 → Answers .passStart s ((s.dev.onCal m (fun c => { c with trig := 0 })).beginPass m
      ⟨.temp, (s.dev.cal m).trig, false, s.dev.effF m 0x4700 1 1 == 1, false, false⟩)) ∧
    (∀ r q, (s.dev.cal m).trig = 0 → (s.dev.cal m).queue = r :: q → Answers .passStart s
      ((s.dev.onCal m (fun c => { c with queue := q })).beginPass m r))) ∧
  -- a plan that the rules allow: swept cells take their rounds and lenders, those without a path of light end NO_LIGHT
  (∀ (s : State) (m : MastId) (p : Pass) (plan : List PlanLine), Serves s.dev m → (s.dev.cal m).pass = some p → p.planned = false →
    (∀ c, c < 4 → s.dev.waits m 0 2 c = false) → s.dev.planOk m (s.dev.covered m p.req) plan = true →
    let line := fun (c : PassCell) => plan.find? (fun (l : PlanLine) => l.cell == c.cell)
    ∃ cells, cells.length = (s.dev.covered m p.req).length ∧
      Answers (.passPlanDone plan) s (s.dev.onCal m (fun c => { c with
        rounds := cells.foldl (fun n c => Nat.max n c.round) 0
        pass := some { p with planned := true, cells := cells, lastEnd := s.dev.beat } })) ∧
      ∀ (i : Nat) c, (s.dev.covered m p.req)[i]? = some c →
        (c.method ≠ .sweep → cells[i]? = some c) ∧
        (∀ l, c.method = .sweep → line c = some l → s.dev.dark m ((planMates plan l).map PlanLine.cell) c.cell = true →
          cells[i]? = some { c with round := l.round, outcome := some 1 }) ∧
        (∀ l, c.method = .sweep → line c = some l → s.dev.dark m ((planMates plan l).map PlanLine.cell) c.cell = false →
          cells[i]? = some { c with round := l.round, lend := l.lend })) ∧
  (∀ (s : State) (m : MastId), Serves s.dev m →
    -- a round that begins with no swept cell left opens the tile's DITHER windows
    (∀ p t again, (s.dev.cal m).pass = some p → p.planned = true → s.dev.watchEdge = true → s.dev.pins.parkSeen = false →
      tget 0 p.phase t = 0 → bit p.req.tiles t = true → s.dev.waits m 0 2 (t / 4) = false → (∀ c ∈ p.cells, c.method ≠ .sweep) →
      Answers (.roundStart t again) s (s.dev.onPass m (fun _ => p.openDither t s.dev.beat))) ∧
    -- one with a swept cell that is not LIVE begins phase A of it, 18 loop periods long
    (∀ p t c, (s.dev.cal m).pass = some p → p.planned = true → s.dev.watchEdge = true → s.dev.pins.parkSeen = false →
      tget 0 p.phase t = 0 → bit p.req.tiles t = true → s.dev.waits m 0 2 (t / 4) = false → tget 0 p.begun t < 2 →
      p.cells = [c] → c.cell / laneCount = t → c.method = .sweep → c.outcome = none → c.interrupted = 0 →
      (s.dev.cell c.cell).drv.live = false →
      ∃ d p', Answers (.roundStart t []) s d ∧ (d.cal m).pass = some p' ∧ tget 0 p'.phase t = 1 ∧ tget 0 p'.round t = c.round ∧
        tget 0 p'.begun t = tget 0 p.begun t + 1 ∧ tget 0 p'.endBeat t = s.dev.beat + 18 * s.dev.T t ∧ p'.cells = [c.fresh]) ∧
    -- the end of a phase: DITHER cells that are done end, in a tile with no round under way
    (∀ p t, (s.dev.cal m).pass = some p → tget 0 p.phase t = 0 → s.dev.waits m 0 2 (t / 4) = false →
      Answers (.threshPhaseEnd t) s (s.dev.dithers m (fun c => c.cell / laneCount == t))) ∧
    -- phase A of a lit cell is followed by phase B, at the cell's new bias
    (∀ p t c, (s.dev.cal m).pass = some p → p.cells = [c] → c.cell / laneCount = t → p.active c = true → tget 0 p.phase t = 1 →
      s.dev.watchEdge = true → tget 0 p.endBeat t ≤ s.dev.beat → s.dev.waits m 0 2 (t / 4) = false → c.ovr = false → c.lit = true →
      ∃ d p', Answers (.threshPhaseEnd t) s d ∧ (d.cal m).pass = some p' ∧ tget 0 p'.phase t = 2 ∧
        tget 0 p'.endBeat t = s.dev.beat + s.dev.T t + 1600 ∧ p'.cells.map PassCell.bias =
          [some (biasOf (s.dev.cell c.cell).htr.inForce (s.dev.epsOf m c.cell c.win))]) ∧
    -- 68 loop periods after a DITHER window opened
    (∀ cell, Answers (.ditherTimeout cell) s (s.dev.dithers m (fun c => c.cell == cell && c.since.any (fun b =>
      b + 68 * s.dev.T (cell / laneCount) ≤ s.dev.beat)))) ∧
    -- a dwell in the gap, of a converter that no sweep needs; a reference out of range is reported
    (∀ p t u raw ovr, (s.dev.tile t).alive = true → u < 48 → (s.dev.tile t).conv.scanning = false → s.dev.gap t = true →
      (s.dev.cal m).pass = some p → raw.length = 12 → tget 0 p.dwelt (48 * t + u) ≤ s.dev.beat → s.dev.sweepCell m p (48 * t + u) = none →
      let used := fun (d : Dev) => d.onPass m (fun p => { p with dwelt := tset 0 p.dwelt (48 * t + u) (s.dev.beat + 160) })
      Answers (.dwell t u .sweep raw ovr true) s (used s.dev) ∧
      (p.req.noTrim = true → Answers (.dwell t u .trim raw ovr true) s (used s.dev)) ∧
      (p.req.noTrim = false → Answers (.dwell t u .trim raw ovr true) s (used (s.dev.onPass m (fun p =>
        { p with trims := if p.trims.contains (48 * t + u) then p.trims else p.trims ++ [48 * t + u] })))) ∧
      Answers (.dwell t u .offset raw ovr true) s (used (s.dev.onPass m (fun p => p.offset (48 * t + u) (mofsOf raw)))) ∧
      Answers (.dwell t u .sweep raw ovr false) s ((used s.dev).report m (80 + t) 2 (48 * t + u) (BitVec.ofNat 32 (raw.headD 0))
        (some ⟨.converter, 48 * t + u⟩))) ∧
    -- a dwell of a converter with a cell to sweep steps that sweep
    (∀ p t u raw ovr c, (s.dev.tile t).alive = true → u < 48 → (s.dev.tile t).conv.scanning = false → s.dev.gap t = true →
      (s.dev.cal m).pass = some p → raw.length = 12 → tget 0 p.dwelt (48 * t + u) ≤ s.dev.beat →
      s.dev.sweepCell m p (48 * t + u) = some c →
      Answers (.dwell t u .sweep raw ovr true) s ((s.dev.sweepDwell m (48 * t + u) raw ovr c).onPass m (fun p =>
        { p with dwelt := tset 0 p.dwelt (48 * t + u) (s.dev.beat + 160) }))) ∧
    -- a pass whose cells are all settled ends
    (∀ p r q, (s.dev.cal m).pass = some p → p.planned = true → s.dev.watchEdge = true → p.lastEnd + 2000 ≤ s.dev.beat →
      (∀ c ∈ p.cells, c.outcome.isSome = true) → (∀ e ∈ p.phase, e.2 = 0) → p.req.src = .desc r q →
      ∃ d : Dev, Answers .applicationBoundary s d ∧ (d.cal m).pass = none) ∧
    -- CAL_READ waits for its watch boundary; then the payload is written
    (∀ ring seq first count slot x, Starts s.dev ring seq 0x41 m x → x.perm 2 = true →
      let d := (s.dev.begun m ring seq).settleHold m x slot.ref slot.owner slot.err
      (count = 0 ∨ 24576 < first + count → Answers (.calRead ring seq first count slot) s (d.complete m x .portInvalid)) ∧
      (0 < count → first + count ≤ 24576 → d.calLost m ((List.range count).map (first + ·)) = false → SlotFree d m x slot →
        Answers (.calRead ring seq first count slot) s ((d.heldOut m x slot).onCal m (fun c =>
          { c with reads := c.reads ++ [⟨ring, seq, slot.ref, first, count, [], .unchanged 0, false⟩] })))) ∧
    (∀ ring seq j x ep ents, (s.dev.cal m).reads = [j] → j.ring = ring → j.seq = seq → s.dev.findDesc m ring seq = some x →
      j.data = .calib ([ep] :: ents) → Answers (.calReadDone ring seq) s
        (((s.dev.onCal m (fun c => { c with reads := [] })).writeOut m x j.epoch 0x41 (12 * j.count) ep (.calib ents)).complete m
          x .ok))) ∧
  -- what a DITHER cell comes to: an over-range sample, 17 samples in a logical state, no light, none by 68 periods
  (∀ (d : Dev) (m : MastId) (c : PassCell) (late : Bool),
    let z := d.cell c.cell
    (c.ovr = true → d.ditherEnd m c true late = { c with outcome := some 2 }) ∧
    (∀ ripe, c.ovr = false → c.win.length = 17 → z.drv.logical.isSome = true →
      let e := d.epsOf m c.cell c.win
      d.ditherEnd m c ripe late = { c with
        outcome := some 0, bias := some (biasOf z.htr.inForce e), resid := residOf (d.tile (c.cell / laneCount)).par.kappa e
        ext := extOf c.seen }) ∧
    (c.ovr = false → c.win.length ≠ 17 → c.lit = false → d.ditherEnd m c true late = { c with outcome := some 1 }) ∧
    (c.ovr = false → c.win.length ≠ 17 → c.lit = true → z.drv.logical.isSome = true →
      d.ditherEnd m c true true = { c with outcome := some 4 } ∧ d.ditherEnd m c true false = c))

/-- Next states of SEED_SAVE, its snapshot and the writing of the NOR, under R295 and R299, clause by clause. SEED_SAVE with
permission while another save runs answers CAL_BUSY; else, where the cells it saves lost nothing, it waits for the snapshot.
At a watch boundary, with the standby down, the snapshot takes the sequence number after the newest image's and begins the
writing on the holder's mast. Each erase clears the next sector of the slot. With the slot erased, each page program writes
the next page; with the pages written the job ends at the header page, and the save completes with OK where the standby is
up, writes no more, and holds the same image. Choices of the model that it rests on: log entries 55, 113. -/
def Obligations.SeedSavesComplete : Prop :=
  (∀ (s : State) (ring seq : Nat) (m : MastId) (x : Desc), Starts s.dev ring seq 0x42 m x → x.perm 7 = true →
    let d := s.dev.begun m ring seq
    ((d.cal m).save.isSome = true → Answers (.seedSave ring seq) s (d.complete m x .calBusy)) ∧
    ((d.cal m).save = none → d.calLost m (d.enabledTiles.map (· * laneCount)) = false → Answers (.seedSave ring seq) s
      (d.onCal m (fun c => { c with save := some (ring, seq), saved := none })))) ∧
  -- the snapshot takes the next sequence number; both masts erase the slot that holds no valid image, or the older
  (∀ (s : State) (m : MastId) (g : SeedImage), Serves s.dev m → (s.dev.cal m).save.isSome = true → (s.dev.cal m).saved = none →
    s.dev.watchEdge = true → (s.dev.mast m).boot.nor.newest = some g → s.dev.peerUp m = false →
    Answers .seedSnapshot s ((s.dev.onBoot m (fun b =>
      { b with nor := b.nor.beginSave (s.dev.image m ((g.seq + 1) % 2 ^ 32)) })).onCal m (fun c => { c with saved := some (s.dev.cal m).epoch }))) ∧
  (∀ (s : State) (m : MastId) (j : NorJob), (s.dev.mast m).boot.nor.job = some j → j.erased < j.sectors →
    Answers (.norEraseDone m) s (s.dev.onBoot m (fun b => { b with nor :=
      { b.nor.onSlot j.slot (fun l => eraseSector l j.erased) with job := some { j with erased := j.erased + 1 } } }))) ∧
  (∀ (s : State) (m : MastId) (j : NorJob), Serves s.dev m → (s.dev.mast m).boot.nor.job = some j → j.sectors ≤ j.erased →
    let d := s.dev.onBoot m (fun b => { b with nor := b.nor.program j })
    (j.page < j.pages → Answers (.norPageProgramDone m) s d ∧
      (d.mast m).boot.nor = { s.dev.mast m |>.boot.nor.onSlot j.slot (fun l => programPage l j.page j.img.bytes) with
        job := some { j with page := j.page + 1 } }) ∧
    -- the header page last: SEED_SAVE completes once neither mast writes, by what the standby then holds
    (j.pages ≤ j.page → (d.mast m).boot.nor.job = none ∧
      ∀ r q ep g x, (s.dev.cal m).save = some (r, q) → (s.dev.cal m).saved = some ep → (d.mast m).boot.nor.newest = some g →
        (s.dev.mast (peerOf m)).boot.nor.job = none → s.dev.peerUp m = true → s.dev.findDesc m r q = some x →
        (s.dev.mast (peerOf m)).boot.nor.holds g = true →
        Answers (.norPageProgramDone m) s ((d.onCal m (fun c => { c with save := none, saved := none })).completeAt m x .ok ep none
          false)))

/-- Next states of RECEIPT, of its signing, of IDENT_READ, KEY_PROGRAM and KEY_REVOKE, under R435 to R446 and R495, clause
by clause. A RECEIPT of an epoch to come answers MAP_EPOCH. One of the current epoch whose map lost nothing, its slot held
and large enough, refills its context's tokens; with less than one token it answers RECEIPT_RATE and counts, with a token
and a place in the queue it takes the token and waits. A signed receipt is the request's bytes with their ECDSA signature
under the identity key, written to its slot. IDENT_READ answers SLOT_RANGE where the slot does not hold the certificates,
else writes them. KEY_PROGRAM and KEY_REVOKE with permission, their slot sound and of the right kind and length, end with
the status of their checks or burn the key; KEY_PROGRAM without PROTECTED answers BAD_STATE. Choices of the model that it
rests on: log entries 80, 81, 82, 83, 93, 100. -/
def Obligations.TrustCompletes : Prop :=
  ∀ (s : State) (ring seq : Nat) (m : MastId) (x : Desc),
    let d := s.dev.begun m ring seq
    (∀ e (slot : SlotOut) nonce, Starts s.dev ring seq 0x70 m x → x.perm 5 = true → (d.fab m).epoch < e → e ≠ 2 ^ 64 - 1 →
      Answers (.receipt ring seq e slot nonce) s ((d.settleHold m x slot.ref slot.owner slot.err).complete m x .mapEpoch)) ∧
    -- a receipt of the current epoch: refused over its rate, else it takes one token and waits to be signed
    (∀ (slot : SlotOut) nonce c, Starts s.dev ring seq 0x70 m x → x.perm 5 = true →
      let d1 := d.settleHold m x slot.ref slot.owner slot.err
      d1.epochLost m (d.fab m).epoch = false → SlotFree d1 m x slot →
      let held := d1.heldOut m x slot
      624 ≤ held.slotSize m (refWin slot.ref) → held.ctx m x.ctx = some c →
      let c1 := c.refill (held.regF m 0x9008 0 8) (held.regF m 0x9008 8 8) held.beat
      (c1.tokens < 2 ^ 20 → Answers (.receipt ring seq (2 ^ 64 - 1) slot nonce) s
        (((held.setCtx m x.ctx (some c1)).complete m x .receiptRate).count m 0x9010 32 16 1)) ∧
      (2 ^ 20 ≤ c1.tokens → (held.mast m).sec.length < 17 → Answers (.receipt ring seq (2 ^ 64 - 1) slot nonce) s
        ((held.setCtx m x.ctx (some { c1 with tokens := c1.tokens - 2 ^ 20 })).onSec m (fun l => l ++
          [⟨ring, seq, (d.fab m).epoch, nonce⟩])))) ∧
    -- the receipt's 464 bytes are signed with the identity key
    (∀ j rest, Serves s.dev m → (s.dev.mast m).sec = j :: rest → s.dev.findDesc m j.ring j.seq = some x →
      let d1 := s.dev.onSec m (fun _ => rest)
      let body := d1.receiptBytes m x.ctx j
      let sig := ecdsaSign Config.identityKey (Config.signNonce s.dev.free % (ecN - 1) + 1) body
      Answers .receiptSigned s (((({ d1 with free := d1.free + 1 } : Dev).count m 0x9010 0 32 1).writeOut m x (x.slots.headD 0) 0x70 560
        j.epoch (.receipt body sig.1 sig.2)).completeAt m x .ok j.epoch
          (if j.epoch = 0 then none else (d1.fab m).strikeOf j.epoch) false)) ∧
    (∀ slot, Starts s.dev ring seq 0x71 m x → SlotFree d m x slot →
      let held := d.heldOut m x slot
      (held.slotSize m (refWin slot.ref) < 64 + certsLen → Answers (.identRead ring seq slot) s (held.complete m x .slotRange)) ∧
      (64 + certsLen ≤ held.slotSize m (refWin slot.ref) → Answers (.identRead ring seq slot) s
        ((held.writeOut m x slot.ref 0x71 certsLen (held.fab m).epoch (.certs [Config.certDer 0, Config.certDer 1])).complete m x .ok))) ∧
    -- keys need PROTECTED; a refused one burns nothing, an accepted one is burnt on this mast and awaited from the other
    (∀ slot : SlotIn, Starts s.dev ring seq 0x73 m x → x.perm 9 = true →
      let d1 := d.settleHold m x slot.ref slot.owner slot.err
      ((d1.mast m).pen.protect = false → Answers (.keyProgram ring seq slot) s (d1.complete m x .badState)) ∧
      ((d1.mast m).pen.protect = true → SlotSound d1 m x slot → slot.kind = 0x73 → slot.len = 97 →
        let back := (d1.scanned m x slot).returnIn m x slot false
        let key := keyRecOf slot.bytes
        let target := fieldAt slot.bytes 96 1
        Answers (.keyProgram ring seq slot) s (match (back.mast m).boot.programStatus target key with
          | some st => back.complete m x st
          | none => back.burnKeys m x (.program target key)))) ∧
    (∀ slot : SlotIn, Starts s.dev ring seq 0x72 m x → x.perm 9 = true →
      let d1 := d.settleHold m x slot.ref slot.owner slot.err
      (d1.mast m).pen.protect = true → SlotSound d1 m x slot → slot.kind = 0x72 → slot.len = 128 → slot.bytes.length = 128 →
      let back := (d1.scanned m x slot).returnIn m x slot false
      let pay := revokePay slot.bytes
      Answers (.keyRevoke ring seq slot) s (match back.revokeStatus m pay with
        | some st => back.complete m x st
        | none => back.burnKeys m x (.revoke pay.target)))

/-! ## Time and the Halyard bus -/

/-- Next states of the PTP messages, losses, edges and registers of time, under R310, R311, R313 to R318 and R321, clause by
clause. A Sync that the port takes waits for its Follow_Up, or completes at once in one step. A Follow_Up completes the Sync
that waits. A complete Sync keeps the delay from the master less the asymmetry, and a disciplining port offers the offset to
the servo. An Announce that the port takes is the port's best, and the source is selected again. A delay request goes out on
a port with its link up and its interval waited for, with its time stamp, sequence number and asymmetry; its response gives
the mean path delay. Silent masters are forgotten, and with the selected one the source is lost. A holdover of a changed
grandmaster ends after GM_QUAL. A PPS edge acquires and serves; PPS lost for two seconds is a loss of the source. A step of
the timebase moves the label by whole watches, and counts. PPS_OUT falls at its end. TIM_CTL keeps SRC 3 and PPS fields of 3
as they were; TIM_SET takes a whole write in SRC 0 or 2; TIM_PTPp takes a sound value whole or not at all. Choices of the
model that it rests on: log entries 34, 57, 58, 94, 98, 110. -/
def Obligations.TimeCommandsComplete : Prop :=
  (∀ (s : State) (m : MastId) (p : Nat) (g : SyncMsg), s.dev.ptpTakes m p g.domain g.logInterval (-7) 1 (-4) = true →
    let rx := s.dev.ptpStamp g.ns
    (g.twoStep = true → Answers (.syncMessage m p g) s
      (s.dev.onTim m (fun t => { t with syncs := tset none t.syncs p (some ⟨g.seq, rx, g.correction⟩) }))) ∧
    (g.twoStep = false → Answers (.syncMessage m p g) s (s.dev.synced m p rx (1000 * g.origin) (corrPs g.correction) g.corr))) ∧
  (∀ (s : State) (m : MastId) (p : Nat) (g : SyncWait) (o : Nat) (c corr : Int), tget none (s.dev.tim m).syncs p = some g →
    s.dev.ptpOn m p = true →
    Answers (.followUp m p g.seq o c corr) s ((s.dev.onTim m (fun t => { t with syncs := tset none t.syncs p none })).synced m p g.rx
      (1000 * o) (corrPs (g.correction + c)) corr)) ∧
  -- a complete Sync: the delay from the master less the asymmetry is kept; a port that disciplines offers its offset to the servo
  (∀ (d : Dev) (m : MastId) (p : Nat) (rx o c corr : Int),
    let msd := rx - o - c - d.asym m p
    let e := d.onTim m (fun t => { t with msd := tset none t.msd p (some msd) })
    (e.disciplines m p = true → d.synced m p rx o c corr = e.servo m (rhuDiv (tget 0 (d.tim m).mpd p - msd) 1000) corr) ∧
    (e.disciplines m p = false → d.synced m p rx o c corr = e)) ∧
  (∀ (s : State) (m : MastId) (p : Nat) (g : AnnounceMsg), s.dev.ptpTakes m p g.domain g.logInterval (-3) 3 (-3) = true →
    Answers (.announceMessage m p g) s ((s.dev.onTim m (fun t => { t with
      best := tset none t.best p (some (g.rank, g.gm)), annAt := tset (0, 0) t.annAt p (s.dev.beat, g.logInterval) })).reselect m)) ∧
  (∀ (s : State) (m : MastId) (p ns : Nat), s.dev.ptpOn m p = true → (s.dev.tim m).reqAt.find? (fun e => e.1 == p) = none →
    s.dev.regF m (0x6000 + 0x40 * p) 0 1 ≠ 0 → tget false (s.dev.mast m).eg.link p = true →
    let q := tget 0 (s.dev.tim m).reqSeq p
    Answers (.delayReq m p ns) s ((s.dev.onTim m (fun t => { t with
      reqAt := tset 0 t.reqAt p (s.dev.beat + 1), reqTx := tset none t.reqTx p (some (q, s.dev.ptpStamp ns))
      reqSeq := tset 0 t.reqSeq p ((q + 1) % 65536) })).emit (.delayReq m p q (rhuDiv (-(s.dev.asym m p) * 65536) 1000)))) ∧
  (∀ (s : State) (m : MastId) (p q rcv : Nat) (tx c l msd : Int), s.dev.ptpOn m p = true →
    tget none (s.dev.tim m).reqTx p = some (q, tx) → tget none (s.dev.tim m).msd p = some msd →
    Answers (.delayResp m p q rcv c l) s (s.dev.onTim m (fun t => { t with
      reqLog := tset 0 t.reqLog p l, reqTx := tset none t.reqTx p none
      mpd := tset 0 t.mpd p (rhuDiv (msd + (1000 * rcv - tx - corrPs c)) 2) }))) ∧
  -- masters silent for three intervals are forgotten; with the selected one the source is lost
  (∀ (s : State) (m : MastId), let t := s.dev.tim m
    let late := [0, 1].filter (t.silent s.dev.beat)
    let d := s.dev.onTim m (fun t => { t with best := late.foldl (fun b p => tset none b p none) t.best })
    (t.port ∉ late → Answers (.announceReceiptTimeout m) s d) ∧
    (t.port ∈ late → d.serving = some m → d.src m = 1 → Answers (.announceReceiptTimeout m) s (d.holdover m))) ∧
  (∀ (s : State) (m : MastId) (b : Nat), (s.dev.tim m).gmAt = some b → (s.dev.tim m).state = .holdover →
    b + 10000000 * s.dev.effF m 0x5008 48 8 ≤ s.dev.beat → (tget none (s.dev.tim m).best (s.dev.tim m).port).isSome = true →
    Answers (.holdoverEnd m) s (s.dev.onTim m (fun t => { t with state := .acquiring, gmAt := none, run := 0 }))) ∧
  (∀ (s : State) (m : MastId) (ns : Nat) (c : Int), Serves s.dev m → s.dev.src m = 2 → Answers (.ppsInEdge ns c) s
    (((s.dev.onTim m (fun t => { t with ppsAt := s.dev.beat })).acquire m).servo m (ppsOffset (s.dev.now.ns + ns % 100 / 4 * 4)) c)) ∧
  (∀ (s : State) (m : MastId), Serves s.dev m → s.dev.src m = 2 → (s.dev.tim m).ppsAt + 20000000 ≤ s.dev.beat →
    Answers .ppsInLoss s (s.dev.holdover m)) ∧
  (∀ (s : State) (m : MastId) (k : Int) (b : Nat), Serves s.dev m → (s.dev.tim m).step = some (k, b) → s.dev.now.ns % 80000 = 0 →
    b + 1000 ≤ s.dev.beat → ∃ d : Dev, Answers .timebaseStep s d ∧ d.now = moveLabel s.dev.now (80000 * k) ∧ d.beat = s.dev.beat ∧
      (d.tim m).step = none ∧ (d.tim m).steps = ((s.dev.tim m).steps + 1) % 256) ∧
  (∀ (s : State) (m : MastId) (b : Nat), Serves s.dev m → (s.dev.tim m).ppsOut = some b → b ≤ s.dev.beat →
    ∃ d : Dev, Answers .ppsOutEnd s d ∧ d.pins.ppsOut = false ∧ (d.tim m).ppsOut = none) ∧
  (∀ (s : State) (w : RegWr) (info : RegInfo), Writable s.dev 0x5000 w info →
    let v := s.dev.written 0x5000 w info
    let old := s.dev.reg w.mast 0x5000
    let v1 := if fld v 2 2 = 3 then setFld v 2 2 (fld old 2 2) else v
    let v2 := if fld v1 4 2 = 3 then setFld v1 4 2 (fld old 4 2) else v1
    Answers (.timCtlWrite w) s (s.dev.setReg w.mast 0x5000 (plainWrite info old v2))) ∧
  (∀ (s : State) (w : RegWr) (info : RegInfo), Writable s.dev 0x5020 w info →
    (w.half = .whole → s.dev.src w.mast = 0 ∨ s.dev.src w.mast = 2 → Answers (.timSet w) s
      (s.dev.onTim w.mast (fun t => { t with setSec := some (fld (s.dev.written 0x5020 w info) 0 48) }))) ∧
    (w.half ≠ .whole ∨ s.dev.src w.mast = 1 ∨ s.dev.src w.mast = 3 → Answers (.timSet w) s s.dev)) ∧
  (∀ (s : State) (p : Nat) (w : RegWr) (info : RegInfo), p < 2 → Writable s.dev (ptpReg p) w info →
    let v := s.dev.written (ptpReg p) w info
    let old := s.dev.reg w.mast (ptpReg p)
    fld v 1 2 < 2 → fld v 3 2 < 3 → Answers (.timPtpWrite p w) s
      (if ptpValid (plainWrite info old v) then s.dev.setReg w.mast (ptpReg p) (plainWrite info old v) else s.dev))

/-- R312 to R314: what an offset does, where the source is being acquired or locked: RATE stays within 200 ppm and is HOLD
plus the correction where that lies within SLEW_MAX and the limit; an offset beyond LOCK_LIM clears the run, one within it
lengthens the run, and the sixteenth in a run locks. In HOLDOVER and FREERUN an offset changes neither RATE nor the state
nor a step. A loss of the source keeps HOLD as RATE and cancels a step. Choices of the model that it rests on: log entries
57, 94. -/
def Obligations.ServoFollowsR312 : Prop :=
  ∀ (d : Dev) (m : MastId) (o c : Int),
    let t := d.tim m
    let e := d.servo m o c
    (t.state = .acquiring ∨ t.state = .locked →
      -rateLimit ≤ (e.tim m).rate ∧ (e.tim m).rate ≤ rateLimit ∧
      (-rateLimit ≤ t.hold + c → t.hold + c ≤ rateLimit → -d.slewMax m ≤ c → c ≤ d.slewMax m → (e.tim m).rate = t.hold + c) ∧
      (d.effF m 0x5008 16 16 < o.natAbs → (e.tim m).run = 0 ∧ (e.tim m).state = t.state) ∧
      (o.natAbs ≤ d.effF m 0x5008 16 16 → (e.tim m).run = t.run + 1 ∧ (15 ≤ t.run → (e.tim m).state = .locked))) ∧
    (t.state = .holdover ∨ t.state = .freerun → (e.tim m).rate = t.rate ∧ (e.tim m).state = t.state ∧ (e.tim m).step = t.step) ∧
    (t.state = .locked ∨ t.state = .acquiring → ((d.holdover m).tim m).state = .holdover ∧
      ((d.holdover m).tim m).rate = t.hold ∧ ((d.holdover m).tim m).step = none)

/-- Next states of the Halyard bus, under R311 and R323 to R328, clause by clause. A follower's clock lost clears LOCK, and
is a loss of the source where SRC is 3; found again, it sets LOCK, and where SRC is 3 RATE is the clock's own within 200
ppm. A trigger symbol of another module's slot that is not sound is counted; a sound one is an event at the slot's start
less its age plus its sixteenths. A time-code symbol that is not sound, or has its top bit set, is counted; the next chunk
of a code is kept. The leader sends its time code 12.8 microseconds into each frame. A module sends the one trigger that
waits in its own slot, with its age and sixteenths. Every symbol made is a sound one and carries its fields, and the symbol
of the manual's example is 0x9183. Choices of the model that it rests on: log entries 59, 110. -/
def Obligations.HalyardCompletes : Prop :=
  (∀ (s : State) (m : MastId), Serves s.dev m → s.dev.halEn m = true → s.dev.halLeader m = false →
    let d := s.dev.onHal m (fun h => { h with lock := false })
    Answers .halyardClockLoss s (if d.src m = 3 then d.holdover m else d) ∧
    (∀ rate, let e := s.dev.onHal m (fun h => { h with lock := true })
      (e.src m ≠ 3 → Answers (.halyardClockLock rate) s e) ∧
      (e.src m = 3 → Answers (.halyardClockLock rate) s (((e.acquire m).onTim m (fun t =>
        { t with rate := clampI (-rateLimit) rateLimit rate })).halLocks m)))) ∧
  (∀ (s : State) (m : MastId) (y : BitVec 16) (k : Nat), Serves s.dev m → s.dev.halEn m = true → y ≠ 0 → k < 8 → k ≠ s.dev.halId m →
    (symOk y 1 = false → Answers (.halyardTriggerSymbol y k) s (s.dev.count m 0x5070 16 16 1)) ∧
    (symOk y 1 = true →
      let t := slotStart (stampNs s.dev.now) k - 100 * (y.extractLsb' 3 8).toNat + (y.extractLsb' 11 4).toNat * 25 / 4
      Answers (.halyardTriggerSymbol y k) s (s.dev.gleanEvent m .halyard (s.dev.beatOf (stampOf t)) (stampOf t) none k))) ∧
  (∀ (s : State) (m : MastId) (y : BitVec 16), Serves s.dev m → s.dev.halEn m = true → s.dev.halLeader m = false → y ≠ 0 →
    (symOk y 2 = false ∨ y.getLsbD 14 = true → Answers (.halyardTimeCode y) s (s.dev.count m 0x5070 16 16 1)) ∧
    (symOk y 2 = true → y.getLsbD 14 = false → (y.extractLsb' 11 3).toNat = (s.dev.mast m).hal.chunks.length →
      (s.dev.mast m).hal.chunks.length < 7 → Answers (.halyardTimeCode y) s (s.dev.onHal m (fun h =>
        { h with chunks := (s.dev.mast m).hal.chunks ++ [(y.extractLsb' 3 8).toNat] })))) ∧
  (∀ (s : State) (m : MastId), Serves s.dev m → s.dev.halEn m = true → s.dev.halLeader m = true → stampNs s.dev.now % 16000 = 12800 →
    Answers .halyardSlot s (s.dev.emit (.symbol (timeSym (stampNs s.dev.now))))) ∧
  -- a module's own slot: the one trigger that waits is sent with its age and its sixteenths of a beat
  (∀ (s : State) (m : MastId) (b : Nat) (t : Stamp), Serves s.dev m → s.dev.halEn m = true →
    s.dev.halLeader m = true ∨ (s.dev.mast m).hal.lock = true → stampNs s.dev.now % 1600 = 0 →
    stampNs s.dev.now % 16000 / 1600 = s.dev.halId m → s.dev.halId m ≠ 8 → (s.dev.mast m).hal.pend = [(b, t)] →
    b + 2 ≤ s.dev.beat → ∃ d : Dev, Answers .halyardSlot s (d.emit (.symbol (mkSym 1
      ((stampNs s.dev.now - stampNs t / 100 * 100) / 100) (t.ns % 100 * 4 / 25)))) ∧ (d.mast m).hal.pend = [] ∧ d.out = s.dev.out) ∧
  -- every symbol made is a sound one, and carries its fields
  (∀ kind age fine, kind = 1 ∨ kind = 2 → symOk (mkSym kind age fine) kind = true ∧
    ((mkSym kind age fine).extractLsb' 3 8).toNat = age % 256 ∧ ((mkSym kind age fine).extractLsb' 11 4).toNat = fine % 16) ∧
  mkSym 1 48 2 = 0x9183

/-! ## Captures, egress, faults -/

/-- Next states of captures and of the flight record, under R335 to R353, clause by clause. CAP_ARM with permission on a
unit not idle answers CAP_BUSY; of no lanes or of lanes past 24,575 PORT_INVALID; with no cause, a rate step past 8, a
thinning past 7 or a PRE as deep as the record CAP_RANGE; else its slots are held and the unit is armed, POST as asked where
the slots hold it, cut down with CLAMP where they do not. TRIG_IN and a time event reach the unit. CAP_FIRE of an armed unit
with its cause enabled is an event at its acceptance, else BAD_STATE. CAP_CANCEL of an idle unit answers BAD_STATE; armed or
draining it ends the capture; running it shortens POST. The settle begins the run with the cause of the earliest beat,
TRIG_OUT high for a microsecond where enabled. A watch's frame becomes a block, a missing one a gap. A late reader steps the
rate down, a run's end drains, a drain's end ends. The flight record takes the frame its HBM work is granted for, or drops
it at its deadline. Choices of the model that it rests on: log entries 60, 108. -/
def Obligations.CapturesComplete : Prop :=
  (∀ (s : State) (ring seq u ce sd th f n pre post ns : Nat) (m : MastId) (x : Desc) (slot : SlotOut) (ow : List Nat) (at_ : Stamp),
    Starts s.dev ring seq 0x50 m x → x.perm 3 = true →
    let b := s.dev.begun m ring seq
    let d := b.each (List.range ns) (fun i d => d.settleHold m x (slot.ref + i) (ow.getD i 0) slot.err)
    let c := Instr.capArm ring seq u ce sd th f n pre post slot ow ns at_
    (d.unitIdle m u = false → Answers c s (d.complete m x .capBusy)) ∧
    (d.unitIdle m u = true → n = 0 ∨ 24576 < f + n → Answers c s (d.complete m x .portInvalid)) ∧
    (d.unitIdle m u = true → 0 < n → f + n ≤ 24576 → (∀ t, t < 16 → (d.tile t).enabled = true) →
      ce = 0 ∨ 8 < sd ∨ 7 < th ∨ d.depth m ≤ pre → Answers c s (d.complete m x .capRange)) ∧
    -- armed: the slots are held, and POST is as asked for where the slots hold it, else cut down to what they hold
    (d.unitIdle m u = true → 0 < n → f + n ≤ 24576 → (∀ t, t < 16 → (d.tile t).enabled = true) → ce ≠ 0 → sd ≤ 8 → th ≤ 7 →
      pre < d.depth m → bit ce 2 = false → x.lost = false → slot.err = false → d.slotsBad m x slot.ref ow ns = none → 0 < ns →
      let blk := blockBytes th n
      let cap0 := (b.slotSize m (refWin slot.ref) - 64 - 832) / blk
      let capN := (b.slotSize m (refWin slot.ref) - 64) / blk
      let C := cap0 + (ns - 1) * capN
      0 < cap0 → 0 < capN → blockCount th sd pre 0 ≤ C →
      ∃ y : Unit_, Answers c s ((d.each ((List.range ns).map (slot.ref + ·)) (fun r d => d.holdSlot m x r)).setUnit m u y) ∧
        y.state = .armed ∧ y.owner = some (ring, seq) ∧ y.causeEn = ce ∧ y.pre = pre ∧ y.first = f ∧ y.count = n ∧ y.events = [] ∧
        (blockCount th sd pre post ≤ C → y.post = post ∧ y.clamp = false) ∧
        (C < blockCount th sd pre post → y.post = clampPost th sd pre C ∧ y.clamp = true))) ∧
  (∀ (s : State) (m : MastId) (ns : Nat), Serves s.dev m → Answers (.trigInRise ns) s
    (s.dev.gleanEvent m .trigIn s.dev.beat (stampPlus s.dev.now (ns % 100 / 4 * 4)) none 0)) ∧
  (∀ (s : State) (m : MastId) (k : Nat) (u : Unit_) (t : Stamp), Serves s.dev m → s.dev.unit m k = some u → u.at_ = some t →
    u.state = .armed → stampNs t ≤ stampNs s.dev.now → s.dev.effF m 0x4800 1 1 = 0 → Answers (.captureTimeEvent k) s
      (s.dev.setUnit m k { u with at_ := none, events := u.events ++ [(.time, s.dev.beat, s.dev.now, 0)] })) ∧
  (∀ (s : State) (ring seq k : Nat) (m : MastId) (x : Desc) (u : Unit_), x.perm 3 = true →
    let d := s.dev.begun m ring seq
    (Starts s.dev ring seq 0x51 m x → d.unit m k = some u →
      Answers (.capFire ring seq k) s (if u.state = .armed ∧ bit u.causeEn 5 = true then
        (d.setUnit m k { u with events := u.events ++ [(.host, x.acceptedAt, d.stampAt x.acceptedAt, 0)] }).complete m x .ok
      else d.complete m x .badState)) ∧
    (Starts s.dev ring seq 0x52 m x → d.unit m k = some u →
      (u.state = .idle → Answers (.capCancel ring seq k) s (d.complete m x .badState)) ∧
      (u.state = .armed ∨ u.state = .draining → Answers (.capCancel ring seq k) s
        ((d.endCapture m k .capCancelled false).complete m x .ok)) ∧
      (u.state = .running → Answers (.capCancel ring seq k) s ((d.setUnit m k { u with
        post := Nat.min u.post ((d.beat - d.watchStart u.trigBeat) / 200), cancelled := true }).complete m x .ok)))) ∧
  -- the settle: RUNNING with the causes of the earliest beat, TRIG_OUT for 1 µs where it is enabled
  (∀ (s : State) (m : MastId) (k b i : Nat) (u : Unit_) (cs : Cause) (t : Stamp), Serves s.dev m → s.dev.unit m k = some u →
    u.events = [(cs, b, t, i)] → u.state = .armed → b + 200 ≤ s.dev.beat →
    let d := s.dev.setUnit m k { u with
      state := .running, cause := maskOf [causeBit cs], trigBeat := b, trigTime := stampOf (stampNs t)
      halId := if cs = .halyard then i else 0
      trigEpoch := (s.dev.fab m).epochAt b, div := u.startDiv, next := -(u.pre : Int) }
    Answers (.triggerSettle k) s (if d.effF m 0x4800 6 1 = 1 then
      ({ d with pins := { d.pins with trigOut := true } } : Dev).onGln m (fun g => { g with trigOut := some (s.dev.beat + 10) })
      else d)) ∧
  (∀ (s : State) (m : MastId) (e : Nat), Serves s.dev m → (s.dev.mast m).gln.trigOut = some e → e ≤ s.dev.beat →
    Answers .trigOutEnd s (({ s.dev with pins := { s.dev.pins with trigOut := false } } : Dev).onGln m (fun g =>
      { g with trigOut := none }))) ∧
  -- reads of whole watches: a missing frame leaves a gap, a frame becomes a block
  (∀ (s : State) (m : MastId) (k : Nat) (u : Unit_), Serves s.dev m → s.dev.unit m k = some u → u.state = .running ∨ u.state = .draining →
    u.thin = 0 → u.kept? u.next ≤ (u.post : Int) →
    let w := u.kept? u.next
    (∀ f, s.dev.frameOf m u w = some f → HbmFree s.dev m 4 (1 + (12 * u.count + 63) / 64) → Answers (.captureWatchRead k) s
      ((s.dev.hbmUsed m 4 (1 + (12 * u.count + 63) / 64)).putBlock m k u
        ((s.dev.hbmUsed m 4 (1 + (12 * u.count + 63) / 64)).block u [f] f) (w + 1))) ∧
    (s.dev.frameOf m u w = none → s.dev.framePending m u w = false → Answers (.captureWatchRead k) s
      (s.dev.setUnit m k { u with next := w + 1, gap := true }))) ∧
  (∀ (s : State) (m : MastId) (k : Nat) (u : Unit_), Serves s.dev m → s.dev.unit m k = some u →
    (u.state = .running → s.dev.watchEdge = true → s.dev.depth m < 2 * s.dev.lag m u → u.stepAt = none → u.div < 8 →
      Answers (.captureRateStep k) s (s.dev.setUnit m k { u with div := u.div + 1, rateStep := true, stepAt := some s.dev.beat })) ∧
    (u.state = .running → s.dev.watchStart u.trigBeat + 200 * (u.post + 1) ≤ s.dev.beat → Answers (.captureStop k) s
      (s.dev.setUnit m k { u with state := .draining })) ∧
    (u.state = .draining → (u.post : Int) < u.kept? u.next → Answers (.captureDrainEnd k) s (s.dev.endCapture m k u.status false))) ∧
  -- the flight record
  (∀ (s : State) (m : MastId) (f : Frame), Serves s.dev m → (s.dev.mast m).gln.build = some f →
    let n := 1 + 288 * s.dev.enabledTiles.length
    (HbmFree s.dev m 3 n → Answers .flightRecordFrame s (((s.dev.hbmUsed m 3 n).putFrame m f).frameTel m f)) ∧
    (f.beat + 399 ≤ s.dev.beat → Answers .frameDropped s ((s.dev.onGln m (fun g =>
      { g with gap := true, build := none })).flag m 0x4808 33)))

/-! ## Egress and counters -/

/-- Next states of streams, shapes, packets, the calendar and a port, with PROTECTED 0, under R354 to R366, clause by
clause. STREAM_OPEN with permission of an open stream answers BAD_STATE; of a definition that is not sound STREAM_INVALID;
of a sound one that is not IPFIX it opens the stream. STREAM_CLOSE of another context's stream without permission answers
NOT_PERMITTED, of a closing one BAD_STATE, else begins the close, which ends when its packets are sent or its time is up.
SHAPE_SET with permission: a ring's or stream's new shape, or STREAM_INVALID for weight 0 or a burst below a frame. Packets
past their time close; an IPFIX stream's template is sent again after its interval. A port sends the head packet of its
winner, and nothing without one. A calendar tick refills the one stream that waits on the wheel. Choices of the model that
it rests on: log entries 61, 62, 63, 111. -/
def Obligations.EgressCompletes : Prop :=
  (∀ (s : State) (ring seq i : Nat) (slot : SlotIn) (m : MastId) (x : Desc), Starts s.dev ring seq 0x60 m x →
    (s.dev.begun m ring seq |>.mast m).pen.protect = false → x.perm 6 = true →
    let d := (s.dev.begun m ring seq).settleHold m x slot.ref slot.owner slot.err
    let e := streamDefOf slot.bytes
    ((d.stream m i).isSome = true → Answers (.streamOpen ring seq i slot) s (d.complete m x .badState)) ∧
    (d.stream m i = none → SlotSound d m x slot → slot.kind = 0x60 → slot.len = 64 → streamResvZero slot.bytes = true →
      let b := (d.scanned m x slot).returnIn m x slot false
      (b.streamOk m e = false → Answers (.streamOpen ring seq i slot) s (b.complete m x .streamInvalid)) ∧
      (b.streamOk m e = true → e.ipfix = false → Answers (.streamOpen ring seq i slot) s
        ((b.setStream m i (some (Stream.fresh e x.ctx b.nextWatch (tget 0 (b.mast m).eg.V e.port) b.beat))).complete m x .ok)))) ∧
  (∀ (s : State) (ring seq i : Nat) (m : MastId) (x : Desc) (y : Stream), Starts s.dev ring seq 0x61 m x →
    (s.dev.begun m ring seq |>.mast m).pen.protect = false → x.perm 6 = true → (s.dev.begun m ring seq).stream m i = some y →
    let d := s.dev.begun m ring seq
    (y.owner ≠ x.ctx → x.perm 9 = false → Answers (.streamClose ring seq i) s (d.complete m x .notPermitted)) ∧
    (y.owner = x.ctx ∨ x.perm 9 = true → y.closing.isSome = true → Answers (.streamClose ring seq i) s (d.complete m x .badState)) ∧
    (y.owner = x.ctx ∨ x.perm 9 = true → y.closing = none → Answers (.streamClose ring seq i) s
      (d.closeStream m i (some (x.ring, x.ent.seq))))) ∧
  (∀ (s : State) (m : MastId) (i : Nat) (y : Stream) (c : Nat × Option (Nat × Nat)), Serves s.dev m → s.dev.stream m i = some y →
    y.closing = some c →
    (∀ b, y.stopAt = some b → b ≤ s.dev.beat → y.pkts = [] → Answers (.streamCloseDrained i) s (s.dev.endStream m i c.2)) ∧
    (c.1 ≤ s.dev.beat → Answers (.streamCloseTimeout i) s (s.dev.endStream m i c.2))) ∧
  (∀ (s : State) (ring seq k i rate burst wt : Nat) (m : MastId) (x : Desc), Starts s.dev ring seq 0x62 m x →
    (s.dev.begun m ring seq |>.mast m).pen.protect = false → x.perm 9 = true →
    let d := s.dev.begun m ring seq
    (∀ r, k % 2 = 0 → d.ring m i = some r → r.hasCmd = true →
      Answers (.shapeSet ring seq k i rate burst wt) s (if wt = 0 then d.complete m x .streamInvalid
        else (d.onRing m i (fun r => { r with weight := wt, newShape := some (rate, burst) })).complete m x .ok)) ∧
    (∀ y, k % 2 = 1 → d.stream m i = some y → Answers (.shapeSet ring seq k i rate burst wt) s
      (if wt = 0 ∨ burst < frameBytes y.defn (d.mtu m y.defn.port) then d.complete m x .streamInvalid
       else (d.setStream m i (some { y with weight := wt, newShape := some (rate, Nat.min burst 16777216) })).complete m x .ok))) ∧
  (∀ (s : State) (m : MastId) (i : Nat) (y : Stream), Serves s.dev m → s.dev.stream m i = some y →
    Answers (.packetCloseTimeout i) s (s.dev.setStream m i (some { y with
      pkts := y.pkts.map (fun p => if p.openedAt + 200 ≤ s.dev.beat then p.close s.dev.now else p) })) ∧
    (y.defn.ipfix = true → y.stopAt = none → y.tmplAt + s.dev.regF m 0x6080 32 16 * 10000000 ≤ s.dev.beat →
      Answers (.templateResend i) s (s.dev.setStream m i (some (y.addTemplate
        (s.dev.regF m 0x6080 0 32) s.dev.beat s.dev.now (s.dev.fab m).epoch))))) ∧
  -- a port sends the packet of its winner
  (∀ (s : State) (m : MastId) (p i t : Nat) (y : Stream) (h : Packet × Nat), Serves s.dev m → s.dev.ethEn m p = true →
    tget false (s.dev.mast m).eg.link p = true → s.dev.isFenced m ⟨.eth, p⟩ = false →
    let d := s.dev.consultPort m p
    (d.portWinner m p = none → Answers (.portTransmit p) s d) ∧
    (d.portWinner m p = some (i, t) → d.stream m i = some y → y.head = some h →
      Answers (.portTransmit p) s (d.sendPacket m p i t y h.1 h.2))) ∧
  -- a tick with no owner on the wheel
  (∀ (s : State) (m : MastId), Serves s.dev m → s.dev.now.ns % 1000 = 0 → (s.dev.hif m).rings = [] → (∀ i y,
      (s.dev.mast m).eg.streams = [(i, some y)] → (∃ v, y.wheel = some v ∧ v ≤ stampNs s.dev.now) → s.dev.stream m i = some y →
      Answers .calendarTick s (s.dev.setStream m i (some { y.refill s.dev.beat with wheel := none }))) ∧
    ((s.dev.mast m).eg.streams = [] → Answers .calendarTick s s.dev))

/-- Next states of the Ethernet ports, of bandwidth windows and of the counters, under R359, R360 and R367 to R374, clause
by clause. A port's control register keeps its MTU while the port is enabled and against a value outside 1,280 to 9,000; its
address registers keep all while it is enabled. A received frame's bytes are counted and its kind with them. A lost link, a
link come up and an RS-FEC excess change the link and report. A bandwidth window's end gives the bytes counted in it as
whole MB/s and begins again. COUNTER_SNAP with permission and its slot held waits for the latch, which gives the one that
waits its snapshot and clears with CLEAR. A counter's selection is refused with its error bit where it is none of the list,
else kept and taken up. Choices of the model that it rests on: log entries 85, 87, 111. -/
def Obligations.PortsAndCountersComplete : Prop :=
  (∀ (s : State) (p : Nat) (w : RegWr) (info : RegInfo), p < 2 → Writable s.dev (0x6000 + 0x40 * p) w info →
    let off := 0x6000 + 0x40 * p
    let old := s.dev.reg w.mast off
    let v := s.dev.written off w info
    Answers (.ethPortWrite off w) s (s.dev.setReg w.mast off (plainWrite info old
      (if fld old 0 1 = 1 ∨ fld v 16 14 < 1280 ∨ 9000 < fld v 16 14 then setFld v 16 14 (fld old 16 14) else v)))) ∧
  (∀ (s : State) (p k : Nat) (w : RegWr) (info : RegInfo), p < 2 → k < 4 → Writable s.dev (0x6008 + 0x40 * p + 8 * k) w info →
    let off := 0x6008 + 0x40 * p + 8 * k
    Answers (.ethPortWrite off w) s (if s.dev.ethEn w.mast p = true then s.dev
      else s.dev.setReg w.mast off (plainWrite info (s.dev.reg w.mast off) (s.dev.written off w info)))) ∧
  (∀ (s : State) (m : MastId) (p n : Nat), p < 2 → s.dev.ethEn m p = true → tget false (s.dev.mast m).eg.link p = true →
    let d := (s.dev.pmc m 0x071 [p] n).moved m (49 + p) 0 n
    Answers (.ethFrameReceive m p n .ptp) s d ∧ Answers (.ethFrameReceive m p n .otherFrame) s (d.count m (0x6030 + 0x40 * p) 0 32 1) ∧
    Answers (.ethFrameReceive m p n .badFcs) s (d.count m (0x6030 + 0x40 * p) 32 32 1)) ∧
  (∀ (s : State) (m : MastId) (p : Nat), p < 2 →
    (tget false (s.dev.mast m).eg.link p = true → Answers (.ethernetLinkLost m p) s
      ((s.dev.setLink m p false).report m (198 + p) 1 p 0 none)) ∧
    (s.dev.ethEn m p = true → Answers (.ethernetLinkUp m p) s (s.dev.setLink m p true)) ∧
    (∀ n, 1000 < n → Answers (.rsFecErrorLimit m p n) s ((s.dev.report m (198 + p) 2 p (BitVec.ofNat 32 n)
      (some ⟨.eth, p⟩)).ethFenced m (some ⟨.eth, p⟩)))) ∧
  -- a bandwidth window's end: the bytes counted in it over its length, as whole MB/s rounded half up; the count begins again
  (∀ (s : State) (m : MastId) (hbm : List (Nat × Nat)), s.dev.effF m 0xC000 0 16 ≠ 0 →
    s.dev.now.ns % (s.dev.effF m 0xC000 0 16 * 20000) = 0 → ∃ d, Answers (.bandwidthWindowEnd m hbm) s d ∧
      (d.mast m).eg.bwEnd = s.dev.now ∧ (d.mast m).eg.bwNow = [] ∧ ∀ i, i < 51 →
        let add := if 16 ≤ i ∧ i < 48 then hbm.getD (i - 16) (0, 0) else (0, 0)
        let was := tget (0, 0) (s.dev.mast m).eg.bwNow i
        tget (0, 0) (d.mast m).eg.bw i =
          (mbps (was.1 + add.1) (s.dev.effF m 0xC000 0 16), mbps (was.2 + add.2) (s.dev.effF m 0xC000 0 16))) ∧
  (∀ (s : State) (ring seq : Nat) (slot : SlotOut) (clear : Bool) (m : MastId) (x : Desc), Starts s.dev ring seq 0x63 m x →
    x.perm 4 = true → SlotFree (s.dev.begun m ring seq) m x slot → Answers (.counterSnap ring seq slot clear) s
      (((s.dev.begun m ring seq).heldOut m x slot).onEg m (fun e => { e with snap := e.snap ++ [(ring, seq, slot.ref, clear)] }))) ∧
  -- the latch: one payload for all that wait; CLEAR clears every counter
  (∀ (s : State) (m : MastId) (j : Nat × Nat × Nat × Bool), Serves s.dev m → (s.dev.mast m).eg.snap = [j] →
    s.dev.now.ns % 20000 = 19900 → Answers .counterSnapLatch s ((s.dev.onEg m (fun e =>
      if j.2.2.2 then { e with snap := [], ctr := [], wrap := [] } else { e with snap := [] })).giveSnapshot m
        (nextLabel s.dev.now) (s.dev.snapshot m) j)) ∧
  (∀ (s : State) (k : Nat) (w : RegWr) (info : RegInfo), k < 256 → Writable s.dev (0xC800 + 8 * k) w info →
    let v := s.dev.written (0xC800 + 8 * k) w info
    (pmcSelOk v = false → Answers (.pmcSelWrite k w) s (s.dev.flag w.mast 0xC008 32)) ∧
    (pmcSelOk v = true → ∃ d, Answers (.pmcSelWrite k w) s d ∧ (d.mast w.mast).eg.selWritten.contains k = true ∧
      d.reg w.mast (0xC800 + 8 * k) = plainWrite info (s.dev.reg w.mast (0xC800 + 8 * k)) v))

/-! ## Faults and Winnow tests -/

/-- Next states of fault reports, vectors, Winnow tests and the fault registers, under R377 to R392 and R498, clause by
clause. Reports of the list that reach a running mast are logged in order of severity, then source; one alone is only
counted where its unit is LASTING, else it is logged, and its unit fenced and classified. A held vector 0 goes out after 10
microseconds. A PCIe error completion acts by its kind, and on the doorbells' own read ends the poll. At a watch boundary
the one queued test starts for its duration; it ends TRANSIENT or LASTING by its outcome, and after eight durations as timed
out. A fence command of no listed kind, of a context, past the kind's count or of a unit not LASTING sets its error bit; of
a LASTING unit it queues a test. The first-fault register clears; the pending words clear where a 1 is written. Choices of
the model that it rests on: log entries 65, 66, 67, 112. -/
def Obligations.FaultsComplete : Prop :=
  (∀ (s : State) (m : MastId) (l : List FaultMsg), (s.dev.mast m).boot.stage ≠ .reset → l.all reportListed = true →
    Answers (.faultReport m l) s ((s.dev.reports m l).each l (fun r d => d.ethFenced m r.fence))) ∧
  -- one report alone is logged, unless its unit is LASTING already, and then fences and tests its unit
  (∀ (d : Dev) (m : MastId) (r : FaultMsg),
    (∀ u, r.fence = some u → d.isLasting m u = true → d.reports m [r] = d.count m 0x7008 48 16 1) ∧
    (∀ u, r.fence = some u → d.isLasting m u = false →
      d.reports m [r] = ((d.logFault m r.source r.sev r.unit r.detail).fence m u r.source).classify m u) ∧
    (r.fence = none → d.reports m [r] = d.logFault m r.source r.sev r.unit r.detail)) ∧
  -- the reports of one cycle in order: severity falling, then source rising
  (∀ l : List FaultMsg, (logOrder l).Pairwise (fun a b => logsFirst a b = true) ∧ (logOrder l).Perm l) ∧
  (∀ (s : State) (m : MastId) (b : Nat), (s.dev.flt m).irqAt = some b → b + 100 ≤ s.dev.beat →
    ((s.dev.flt m).irqPend = true → Answers (.faultVectorHoldoffEnd m) s ((s.dev.msix m 0).onFlt m (fun f =>
      { f with irqAt := some s.dev.beat, irqPend := false }))) ∧
    ((s.dev.flt m).irqPend = false → Answers (.faultVectorHoldoffEnd m) s (s.dev.onFlt m (fun f => { f with irqAt := none })))) ∧
  (∀ (s : State) (m : MastId) (k i : Nat), Serves s.dev m → k ≤ 5 →
    (k ≠ 4 ∨ i ≠ 0xFFFF → Answers (.pcieErrorCompletion k i) s (s.dev.pcieErr m k i)) ∧
    (k = 4 → i = 0xFFFF → Answers (.pcieErrorCompletion k i) s ((s.dev.onHif m (fun h => { h with polled := false })).pcieErr m k i))) ∧
  -- a queued test starts at a watch boundary, with its duration
  (∀ (s : State) (m : MastId) (u : FUnit), s.dev.watchEdge = true → (s.dev.flt m).queue = [u] → (s.dev.flt m).running = [] →
    Answers (.winnowTestStart m) s (s.dev.onFlt m (fun f => { f with queue := [], running := [⟨u, s.dev.beat, s.dev.testBeats u, false, false, []⟩] }))) ∧
  (∀ (s : State) (m : MastId) (t : Test) (rest : List Test), (s.dev.flt m).running = t :: rest →
    (∀ seen, t.start + t.dur ≤ s.dev.beat → s.dev.winnowWaits m t.unit = false →
      (s.dev.testOutcome t seen = some true →
        Answers (.winnowTestEnd m t.unit seen) s ((s.dev.withdraw m t.unit).transient m t.unit)) ∧
      (s.dev.testOutcome t seen = some false →
        Answers (.winnowTestEnd m t.unit seen) s ((s.dev.withdraw m t.unit).lasting m t.unit 0))) ∧
    (t.start + 8 * t.dur ≤ s.dev.beat → Answers (.winnowTestTimeout m t.unit) s ((s.dev.withdraw m t.unit).lasting m t.unit 32))) ∧
  (∀ (s : State) (w : RegWr) (info : RegInfo), Writable s.dev 0x70C0 w info →
    let v := s.dev.written 0x70C0 w info
    (kindOf (fld v 0 4) = none → Answers (.fltFenceCmd w) s (s.dev.flag w.mast 0x7008 2)) ∧
    (∀ k, kindOf (fld v 0 4) = some k → k ≠ .ctx → fld v 8 16 < unitCount k →
      (∃ f ∈ (s.dev.flt w.mast).fences, f.unit = ⟨k, fld v 8 16⟩ ∧ f.lasting = true) →
      Answers (.fltFenceCmd w) s (s.dev.retest w.mast ⟨k, fld v 8 16⟩) ∧
      (s.dev.underTest w.mast ⟨k, fld v 8 16⟩ = false → (s.dev.flt w.mast).queue.length < 64 → Answers (.fltFenceCmd w) s
        (s.dev.onFlt w.mast (fun f => { f with queue := f.queue ++ [⟨k, fld v 8 16⟩] })))) ∧
    (∀ k, kindOf (fld v 0 4) = some k → k = .ctx ∨ unitCount k ≤ fld v 8 16 ∨
      (∀ f ∈ (s.dev.flt w.mast).fences, f.unit = ⟨k, fld v 8 16⟩ → f.lasting = false) →
      Answers (.fltFenceCmd w) s (s.dev.flag w.mast 0x7008 2))) ∧
  (∀ (s : State) (w : RegWr) (info : RegInfo), Writable s.dev 0x7018 w info →
    Answers (.fltFirstClr w) s (if fld (s.dev.written 0x7018 w info) 0 1 = 1 then s.dev.onFlt w.mast (fun f => { f with first := none })
      else s.dev)) ∧
  (∀ (s : State) (i : Nat) (w : RegWr) (info : RegInfo), i < 4 → Writable s.dev (0x7080 + 8 * i) w info →
    Answers (.fltPendWrite i w) s (s.dev.setReg w.mast (0x7080 + 8 * i) (plainWrite info (s.dev.reg w.mast (0x7080 + 8 * i))
      (s.dev.written (0x7080 + 8 * i) w info))))

/-! ## Memories, the Yard, CRC -/

/-- Next states of memory errors, rebuilds and scrubs, default-target accesses, the CRC units and REFCLK, under R449 to R466
and R482, clause by clause. A corrected SRAM word is counted and reported; an uncorrectable one is poisoned, its bank
reported for fencing; a poisoned word read is counted, and aborts the undecided sheaf it served. HBM errors are reported on
their channel. A bank copy and a rebuild end. A scrub's corrected words count as corrected errors. The first default-target
access is held, all are counted and reported, until YRD_ERR_CLR. The Yard's bypass switches. The CRC unit takes INIT, feeds
of one, two and four bytes, and gives its RESULT. The scan engine starts the one request that waits; its answer is the
CRC-32C of the bytes read. REFCLK lost and back: the holder has stopped. Choices of the model that it rests on: log entries
9, 72, 113. -/
def Obligations.MemoryAndYardComplete : Prop :=
  -- an SRAM word corrected; uncorrectable, the bank is fenced and the word is poisoned until written; read again, counted
  (∀ (s : State) (m : MastId) (b w : Nat) (written : List Nat), b < 64 → w < 131072 →
    let d := s.dev.onMem m (fun x => { x with poison := x.poison.filter (fun p => !(p.1 == b && written.contains p.2)) })
    Answers (.sramEccError m b w .corrected none written) s ((d.count m 0xB028 32 16 1).report m 197 0 b (BitVec.ofNat 32 b) none) ∧
    Answers (.sramEccError m b w .uncorrectable none written) s ((d.onMem m (fun x =>
      { x with poison := if x.poison.contains (b, w) then x.poison else x.poison ++ [(b, w)] })).report m 196 3 b (BitVec.ofNat 32 b)
        (some ⟨.sram, b⟩)) ∧
    ((d.mast m).mem.poison.contains (b, w) = true →
      Answers (.sramEccError m b w .poisoned none written) s (d.count m 0xB028 48 16 1) ∧
      -- the operation that needed the word ends: the sheaf's before its strike is decided, or the descriptor's
      ∀ ring seq y, s.dev.holder = some m → (d.fab m).sheafs.find? (fun y => y.owner == some (ring, seq)) = some y → y.decided = false →
        Answers (.sramEccError m b w .poisoned (some (ring, seq)) written) s
          ((d.count m 0xB028 48 16 1).abortSheaf m y.key .memLost))) ∧
  (∀ (s : State) (m : MastId) (c : Nat) (a : BitVec 38), c < 32 →
    Answers (.hbmEccError m c a true) s (s.dev.report m (164 + c) 2 c (a.extractLsb' 6 32) (some ⟨.hbm, c⟩)) ∧
    Answers (.hbmEccError m c a false) s ((s.dev.count m 0xB028 0 32 1).report m (164 + c) 0 c (a.extractLsb' 6 32) none)) ∧
  (∀ (s : State) (m : MastId), Answers (.sramBankCopyDone m) s (s.dev.onMem m (fun x =>
      if x.copying.isNone then x else if x.restoring then { x with spareFor := none, copying := none, restoring := false }
      else { x with copying := none })) ∧
    Answers (.hbmRebuildDone m) s (s.dev.onMem m (fun x =>
      if x.rebuild then { x with nearOk := true, farOk := true, rebuild := false } else x))) ∧
  -- a scrub's corrected words are corrected errors
  (∀ (s : State) (m : MastId) (c b : Nat) (a : BitVec 38), c < 32 → b < 64 → Answers (.memoryScrub m [(c, a)] [b]) s
    ((((s.dev.count m 0xB028 0 32 1).report m (164 + c) 0 c (a.extractLsb' 6 32) none).count m 0xB028 32 16 1).report m 197 0 b
      (BitVec.ofNat 32 b) none)) ∧
  -- the first default-target access is held until YRD_ERR_CLR, later ones are only counted and reported
  (∀ (s : State) (m : MastId) (w : Bool) (k : Nat) (a : BitVec 38),
    let d := ((s.dev.emit (.yardError m k w)).report m 202 2 0 (a.setWidth 32) none).count m 0xB010 16 16 1
    (d.regF m 0xB010 5 1 = 1 → Answers (.defaultTargetAccess m k w a) s d) ∧
    (d.regF m 0xB010 5 1 = 0 → Answers (.defaultTargetAccess m k w a) s ((((d.setReg m 0xB008 (a.setWidth 64)).setRegF m 0xB010 0 4
      k).setRegF m 0xB010 4 1 (if w then 1 else 0)).setRegF m 0xB010 5 1 1))) ∧
  (∀ (s : State) (w : RegWr) (info : RegInfo), Writable s.dev 0xB018 w info → Answers (.yrdErrClr w) s
    (if fld (s.dev.written 0xB018 w info) 0 1 = 1 then (s.dev.setReg w.mast 0xB008 0).setRegF w.mast 0xB010 0 6 0 else s.dev)) ∧
  (∀ (s : State) (m : MastId) (b : Bool), Answers (.yardBypassSwitch m b) s (s.dev.onMem m (fun x => { x with bypass := !b }))) ∧
  -- the CRC unit
  (∀ (s : State) (m : MastId),
    Answers (.init m) s (s.dev.onMem m (fun x => { x with crc := 0xFFFFFFFF })) ∧
    (∀ v, Answers (.feedB m v) s (s.dev.onMem m (fun x => { x with crc := crcByte x.crc v }))) ∧
    (∀ v, Answers (.feedH m v) s (s.dev.onMem m (fun x =>
      { x with crc := crcByte (crcByte x.crc (v.extractLsb' 0 8)) (v.extractLsb' 8 8) }))) ∧
    (∀ v, Answers (.feedW m v) s (s.dev.onMem m (fun x =>
      let c := crcByte (crcByte (crcByte (crcByte x.crc (v.extractLsb' 0 8)) (v.extractLsb' 8 8)) (v.extractLsb' 16 8)) (v.extractLsb' 24 8)
      { x with crc := c }))) ∧
    Answers (.result m) s (s.dev.emit (.crc m ((s.dev.mast m).mem.crc ^^^ 0xFFFFFFFF)))) ∧
  -- the scan engine: one request at a time; its answer is the CRC of the bytes read
  (∀ (s : State) (m : MastId) (r : ScanReq), (s.dev.mast m).mem.scan = none → (s.dev.mast m).mem.scans = [r] →
    Answers (.crcScanStart m) s (s.dev.onMem m (fun x => { x with scan := some r, scans := [] }))) ∧
  (∀ (s : State) (m : MastId) (r : ScanReq) (l : List Byte), (s.dev.mast m).mem.scan = some r → l.length = r.len →
    Answers (.crcScanDone m l) s ((s.dev.onMem m (fun x => { x with scan := none })).emit (.crc m (crc32c l)))) ∧
  (∀ (s : State) (m : MastId), Answers (.refclkLoss m) s (s.dev.onBoot m (fun b => { b with refclk := false })) ∧
    ((s.dev.mast m).boot.refclk = false → Answers (.refclkReturn m) s
      ((s.dev.onBoot m (fun b => { b with refclk := true })).onPen m (fun p => { p with stopped := p.holder }))))

/-- R457, R459: a CRC may be fed in parts; a feed of four bytes is four feeds of one, lowest first; the check value of the
manual, and 0 for no bytes; absorbing a byte keeps different states different; the scan engine's next request is one of
those that wait, none of a higher QoS, none older among its equals, none of a lower master among those. -/
def Obligations.CrcFollowsR457 : Prop :=
  (∀ (a b : List Byte) (c : Word), (a ++ b).foldl crcByte c = b.foldl crcByte (a.foldl crcByte c)) ∧
  (∀ (d : Dev) (m : MastId) (v : BitVec 32), d.feed m [v.extractLsb' 0 8, v.extractLsb' 8 8, v.extractLsb' 16 8, v.extractLsb' 24 8] =
    (((d.feed m [v.extractLsb' 0 8]).feed m [v.extractLsb' 8 8]).feed m [v.extractLsb' 16 8]).feed m [v.extractLsb' 24 8]) ∧
  crc32c [0x31, 0x32, 0x33, 0x34, 0x35, 0x36, 0x37, 0x38, 0x39] = 0xE3069283 ∧ crc32c [] = 0 ∧
  -- absorbing a byte loses nothing: different states stay different
  (∀ (c e : Word) (b : Byte), crcByte c b = crcByte e b → c = e) ∧
  (∀ (l : List ScanReq) (r : ScanReq), nextScan l = some r → r ∈ l ∧ ∀ x ∈ l, x.qos ≤ r.qos ∧
    (x.qos = r.qos → r.at_ ≤ x.at_ ∧ (x.at_ = r.at_ → r.master ≤ x.master)))

/-! ## The pennant -/

/-- Next states of leases, mirrors, the journal, the gaff link and PEN_CTL, under R396 to R403 and R413, clause by clause. A
renewal goes to every enabled tile each 25 microseconds; arriving before the lease ends it moves the end; an acknowledgement
is kept, and the last one of those staged makes the renewal full. 90 microseconds without a full one stop a holder with
tiles staged. A mirror acknowledgement releases the operation that waits for it. A peer that halts is reported. At a lease's
end the tile drops what waits and its outputs hold. An idle frame tells the standby the tile's epoch and lease. The watch's
mirror and the journal's entries are taken by the standby; a rejoining one takes the holder's epoch and a whole mirror. The
link trained and lost is recorded on both masts, and its loss reported. PEN_CTL is written and, with the link up, brought to
the peer. Choices of the model that it rests on: log entries 71, 72, 73, 108. -/
def Obligations.LeaseAndMirrorComplete : Prop :=
  (∀ (s : State) (m : MastId), Serves s.dev m →
    (s.dev.now.ns % 25000 = 0 → Answers .renewalSend s ((s.dev.each s.dev.enabledTiles (fun t d =>
      (d.unlane m t (fun f => f.cls == 2)).command m t 2 [s.dev.beat + 1000] [])).onPen m (fun p =>
        { p with sent := some s.dev.beat, lastFull := if (s.dev.stagedTiles m).isEmpty then s.dev.beat else p.lastFull }))) ∧
    (∀ t b, (s.dev.pen m).sent = some b → s.dev.takes m t = true → (s.dev.tile t).leaseRuns s.dev.beat = true →
      s.dev.waiting m t 2 [b + 1000] = false → (s.dev.stay m t).gone ≠ some b →
      Answers (.renewalFrame t) s (s.dev.onTile t (fun x => { x with link := { x.link with leaseEnd := b + 1000 } }))) ∧
    (∀ t b, (s.dev.pen m).sent = some b → s.dev.takes m t = true → (s.dev.tile t).link.leaseEnd = b + 1000 →
      tget 0 (s.dev.pen m).acks t ≠ b + 1000 → UpFree s.dev m t 2 →
      let d := (s.dev.arrived m t).onPen m (fun p => { p with acks := tset 0 p.acks t (b + 1000) })
      Answers (.renewalAck t) s (if (d.stagedTiles m).all (fun t => tget 0 (d.pen m).acks t == b + 1000) then
        d.onPen m (fun p => { p with lastFull := b }) else d)) ∧
    -- 90 µs without a fully acknowledged renewal
    (s.dev.stagedTiles m ≠ [] → (s.dev.pen m).lastFull + 900 ≤ s.dev.beat →
      Answers .holderSelfStop s (s.dev.onPen m (fun p => { p with stopped := true }))) ∧
    (∀ ring seq, (s.dev.pen m).gaff = true → s.dev.runs (peerOf m) = true →
      Answers (.mirrorAcknowledgement ring seq) s (s.dev.undefer m ring seq)) ∧
    Answers (.gaffLinkDown true) s ((((s.dev.onBoot (peerOf m) (fun b => { b with stage := .halted })).report m 203 2 0 1
      none).judgeProtect).saveDone m)) ∧
  -- from the lease's end a tile takes nothing that waited of the old epoch, and every output holds
  (∀ (s : State) (t : Nat), (s.dev.tile t).alive = true → (s.dev.tile t).enabled = true → (s.dev.tile t).leaseRuns s.dev.beat = false →
    Answers (.leaseEnd t) s (s.dev.onTile t (fun x => ({ x with imm := [], parkW := none } : Tile).mapCells (fun c =>
      { c with htr := { c.htr with next := none } })))) ∧
  (∀ (s : State) (m : MastId), s.dev.holder = some m →
    let sb := peerOf m
    (∀ t, s.dev.runs sb = true → (s.dev.tile t).alive = true → (s.dev.tile t).enabled = true →
      let ended := !(s.dev.tile t).leaseRuns s.dev.beat
      Answers (.idleFrame t) s (s.dev.onPen sb (fun p => { p with
        seen := if ended then p.seen.filter (· != t) else p.seen.filter (· != t) ++ [t]
        ended := if ended then p.ended.filter (· != t) ++ [t] else p.ended.filter (· != t)
        idle := tset (0, 0) p.idle t ((s.dev.tile t).link.pen, (s.dev.tile t).link.leaseEnd - s.dev.beat) }))) ∧
    (∀ g, (s.dev.pen m).mirrorOut = some g → (s.dev.pen m).gaff = true → s.dev.runs sb = true →
      Answers .gaffMirror s (((s.dev.onPen m (fun p => { p with mirrorOut := none })).onMast sb (fun x =>
        x.adopt sb g s.dev.beat)).judgeProtect)) ∧
    (∀ e r, (s.dev.pen m).toSend = e :: r → (s.dev.pen m).gaff = true → s.dev.runs sb = true →
      Answers .journalEntry s ((s.dev.onPen m (fun p => { p with toSend := r })).onMast sb (fun x =>
        { x with hif := x.hif.replay e, pen := { x.pen with journal := x.pen.journal ++ [e] } }))) ∧
    (Serves s.dev m → (s.dev.pen m).gaff = true → s.dev.runs sb = true → ∃ d, Answers .standbyRejoin s d ∧
      (d.pen sb).epoch = (s.dev.pen m).epoch ∧ (d.pen sb).holderIdx = (s.dev.pen m).holderIdx ∧ (d.pen sb).stopped = false ∧
      (d.pen sb).journal = [] ∧ (d.pen sb).mirrorBeat = some s.dev.beat) ∧
    (s.dev.fore.pen.gaff = false → s.dev.runs .fore = true → s.dev.runs .main = true → Answers .gaffLinkTrained s
      (((s.dev.onPen .fore (fun p => { p with gaff := true, gaffUpAt := s.dev.beat })).onPen .main (fun p =>
        { p with gaff := true, gaffUpAt := s.dev.beat })).onPen m (fun p => { p with ctlSync := some (s.dev.reg m 0xA000) })))) ∧
  (∀ s : State, s.dev.fore.pen.gaff = true →
    let down := fun (p : Pen) => { p with gaff := false, gaffDownAt := s.dev.beat }
    let d := (s.dev.onPen .fore down).onPen .main down
    let e := (d.each ([MastId.fore, MastId.main].filter d.runs) (fun m d => d.report m 203 2 0 0 none)).judgeProtect
    Answers (.gaffLinkDown false) s (e.act (fun m => e.saveDone m))) ∧
  (∀ (s : State) (w : RegWr) (info : RegInfo), Writable s.dev 0xA000 w info →
    let r := plainWrite info (s.dev.reg w.mast 0xA000) (s.dev.written 0xA000 w info)
    let d := s.dev.setReg w.mast 0xA000 r
    Answers (.penCtlWrite w) s (if (d.pen w.mast).gaff then d.onPen w.mast (fun p => { p with ctlSync := some r }) else d)) ∧
  (∀ (s : State) (v : Reg64), s.dev.fore.pen.ctlSync = some v → s.dev.main.pen.ctlSync = none → s.dev.fore.pen.gaff = true →
    s.dev.runs .main = true →
    Answers .penCtlSync s ((s.dev.onPen .fore (fun p => { p with ctlSync := none })).setReg .main 0xA000 v))

/-- Next states of a change of mast, under R399 and R404 to R412, clause by clause. The standby claims once every tile it
reaches reports its lease ended and its mirror is not stale. A tile takes a claim of a later epoch once its lease has ended
or its release has come, with its arm records read; else it refuses and is counted. A tile that a claim does not reach in 10
microseconds is fenced. With every enabled tile taken or fenced the claimant holds the pennant under the next epoch and the
old holder does not. A release frees its tile; a handover word makes the standby claim. PEN_CMD.HANDOVER is taken with
PROTECTED, READY and no change in progress, else refused with its error bit; it begins at a later watch boundary, and
releases the tiles 20 microseconds on. Choices of the model that it rests on: log entries 68, 69, 92, 108. -/
def Obligations.PennantChangesHands : Prop :=
  (∀ (s : State) (m : MastId), s.dev.holder = some m →
    let sb := peerOf m
    -- the standby claims once every tile it reaches reports its lease ended
    (s.dev.runs sb = true → (s.dev.pen sb).claimAt = none →
      let reach := s.dev.enabledTiles.filter (fun t => (s.dev.pen sb).seen.contains t || (s.dev.pen sb).ended.contains t)
      reach ≠ [] → reach.all (s.dev.pen sb).ended.contains = true →
      s.dev.stale sb ((reach.map (fun t => (s.dev.tile t).link.leaseEnd)).foldl Nat.max 0) = false →
      Answers .pennantClaim s (s.dev.claim sb 3)) ∧
    -- a tile accepts the next epoch once its lease has run out or its release has come, else refuses and is counted
    (∀ t b, (s.dev.pen sb).claimAt = some b → (s.dev.tile t).alive = true → (s.dev.tile t).enabled = true →
      (s.dev.pen sb).accepted.contains t = false → (s.dev.stay sb t).gone ≠ some b →
      let ep := (s.dev.pen sb).epoch + 1
      s.dev.waiting sb t 2 [ep, b + 1000] = false →
      let y := (s.dev.tile t).claimed ep (b + 1000)
      ((s.dev.tile t).link.pen < ep → (s.dev.tile t).leaseRuns s.dev.beat = false ∨ (s.dev.tile t).link.released = true →
        UpFree s.dev sb t 2 → Answers (.claimFrame t) s (((s.dev.arrived sb t).setTile t y).onPen sb (fun p => { p with
          accepted := p.accepted ++ [t], arms := p.arms ++ y.link.arms.map (fun a => (t, a))
          acks := tset 0 p.acks t (b + 1000) }))) ∧
      ((s.dev.tile t).leaseRuns s.dev.beat = true → (s.dev.tile t).link.released = false →
        Answers (.claimFrame t) s (s.dev.count sb 0xA010 32 16 1))) ∧
    (∀ t b, (s.dev.pen sb).claimAt = some b → (s.dev.tile t).enabled = true → b + 100 ≤ s.dev.beat →
      (s.dev.pen sb).accepted.contains t = false → Answers (.claimReachTimeout t) s (s.dev.fence sb ⟨.tile, t⟩ t)) ∧
    -- settlement: the claimant holds the pennant under the next epoch, the old holder does not
    (∀ b, (s.dev.pen sb).claimAt = some b → (s.dev.pen sb).accepted ≠ [] →
      (∀ t ∈ s.dev.enabledTiles, (s.dev.pen sb).accepted.contains t = true ∨ s.dev.isFenced sb ⟨.tile, t⟩ = true) →
      ∃ d, Answers .pennantSettlement s d ∧ (d.pen sb).holder = true ∧ (d.pen sb).epoch = (s.dev.pen sb).epoch + 1 ∧
        (d.pen m).holder = false ∧ (d.pen sb).claimAt = none ∧ (d.pen sb).stopped = false) ∧
    (∀ t, (s.dev.pen m).released = true → s.dev.waiting m t 2 [(s.dev.pen m).epoch] = false → (s.dev.tile t).alive = true →
      (s.dev.tile t).link.pen = (s.dev.pen m).epoch →
      Answers (.releaseFrame t) s (s.dev.onTile t (fun x => { x with link := { x.link with released := true } }))) ∧
    ((s.dev.pen m).released = true → (s.dev.pen m).gaff = true → s.dev.runs sb = true → (s.dev.pen sb).claimAt = none →
      Answers .handoverWord s (s.dev.claim sb ((s.dev.pen m).busy.getD 1)))) ∧
  -- PEN_CMD.HANDOVER needs PROTECTED, READY and no change in progress
  (∀ (s : State) (w : RegWr) (info : RegInfo), Writable s.dev 0xA008 w info → fld (s.dev.written 0xA008 w info) 0 1 = 1 →
    let ok := s.dev.holder = some w.mast ∧ (s.dev.pen w.mast).protect = true ∧ (s.dev.pen w.mast).busy = none ∧
      (s.dev.mast w.mast).boot.stage = .ready
    (ok → Answers (.handover w) s (s.dev.onPen w.mast (fun p => { p with busy := some 1, busyAt := s.dev.beat }))) ∧
    (¬ ok → Answers (.handover w) s (s.dev.flag w.mast 0xA010 3))) ∧
  (∀ (s : State) (m : MastId), Serves s.dev m →
    (s.dev.watchEdge = true → (s.dev.pen m).busy.isSome = true → (s.dev.pen m).busyAt < s.dev.beat → (s.dev.pen m).yielding = false → Answers .handoverBegin s
      ((s.dev.onPen m (fun p => { p with yielding := true, hAt := s.dev.beat })).onHif m (fun h => { h with running := false }))) ∧
    ((s.dev.pen m).yielding = true → (s.dev.pen m).hAt + 200 ≤ s.dev.beat → Answers .handoverRelease s
      ((s.dev.each s.dev.enabledTiles (fun t d => d.command m t 2 [(s.dev.pen m).epoch] [])).onPen m (fun p =>
        { p with released := true, stopped := true }))))

/-! ## Power and heat -/

/-- Next states of power, under R414 to R432 and R485, clause by clause. An admission slot admits the one domain that waits;
it is alive when its wake ends. A tile comes into use at a watch boundary, its cells OPEN, and goes out of use to its reset
state. A sprint ends at its limit; its wait, the level's dwell and the junction warning end at their times; the warning sets
at 100 degrees and its cooling time starts at 98. PMBus is read at an alert and each 100 ms. A temperature update gives an
alive tile the mean of its four sensors. CONT_MW and SPRINT_MW keep their ranges. A trip resets all but the always-on
domain, which counts it; 2 ms later NOR loses power; cool for 100 seconds, a restart powers up. Choices of the model that it
rests on: log entries 74, 75. -/
def Obligations.PowerCompletes : Prop :=
  -- an admission slot admits in order, up to 8.0 A
  (∀ (s : State) (q : Nat), s.dev.aon.slotAt ≤ s.dev.beat → s.dev.aon.queue = [q] → Answers .admissionSlot s
    { s.dev with aon := { s.dev.aon with
      queue := [], waking := s.dev.aon.waking ++ [(q, s.dev.beat + 500)], slotAt := s.dev.beat + 1000, late := [] } }) ∧
  (∀ (s : State) (k b : Nat), k < 16 → s.dev.aon.waking = [(k, b)] → b ≤ s.dev.beat → Answers (.domainAlive k) s
    { s.dev with aon := { s.dev.aon with waking := [], on := s.dev.aon.on ||| (msk k 1).setWidth 48 } }) ∧
  (∀ (s : State) (m : MastId) (t : Nat), Serves s.dev m → s.dev.watchEdge = true → (s.dev.tile t).alive = true →
    (s.dev.tile t).selfcal = none → (s.dev.tile t).enabled = false → (s.dev.mast m).boot.stage = .powered →
    ∃ d, Answers (.tileEnabled t) s d ∧ (∀ l, ((d.tile t).cell l).lp.mode = 2)) ∧
  (∀ (s : State) (t : Nat), s.dev.watchEdge = true → t < 16 → (s.dev.tile t).disabling = true →
    ∃ d, Answers (.tileDisable t) s d ∧ d.tile t = tileReset) ∧
  (∀ (s : State) (m : MastId), Serves s.dev m →
    (∀ b, s.dev.watchEdge = true → (s.dev.mast m).pwr.sprint = some b → b + 2000000 ≤ s.dev.beat →
      Answers .sprintLimit s (s.dev.endSprint m true)) ∧
    (∀ b, (s.dev.mast m).pwr.waitUntil = some b → b ≤ s.dev.beat → Answers .sprintWaitEnd s
      (s.dev.onPwr m (fun x => { x with waitUntil := none }))) ∧
    (∀ n, (s.dev.mast m).pwr.dwell = some n → 1000 ≤ n → Answers .hoverDwellEnd s
      (s.dev.setLevel m ((s.dev.mast m).pwr.level - 1))) ∧
    (∀ b, (s.dev.mast m).pwr.jcool = some b → b + 10000000 ≤ s.dev.beat → Answers .junctionWarningClear s
      (s.dev.onPwr m (fun x => { x with jwarn := false }))) ∧
    -- the junction warning sets at 100 °C; 98 °C or less starts its cooling time
    (∀ tj : Int, s.dev.aon.tripped = none →
      (10000 ≤ tj → (s.dev.mast m).pwr.jwarn = false → Answers (.junctionSample tj) s ((s.dev.onPwr m (fun x =>
        { x with tj := tj, jwarn := true, jcool := none })).report m 206 2 0 6 none)) ∧
      (tj ≤ 9800 → (s.dev.mast m).pwr.jcool = none → Answers (.junctionSample tj) s (s.dev.onPwr m (fun x =>
        { x with tj := tj, jwarn := x.jwarn, jcool := some s.dev.beat })))) ∧
    (∀ r, Answers (.pmbAlertNFall r) s (s.dev.pmbusRead m r)) ∧
    (∀ r b, (s.dev.mast m).pwr.pmbAt = some b → b + 1000000 ≤ s.dev.beat → Answers (.pmbusPoll r) s
      ((s.dev.pmbusRead m r).onPwr m (fun x => { x with pmbAt := some s.dev.beat }))) ∧
    (∀ sens, s.dev.now.ns % 1000000 = 0 → ∃ d, Answers (.temperatureUpdate sens) s d ∧ ∀ t, t < 16 → (s.dev.tile t).alive = true →
      (d.tile t).temp = rhuDiv ((sens.getD t []).take 4).sum 4)) ∧
  -- CONT_MW from 1 W to 60 W, SPRINT_MW from CONT_MW to 96 W; what is out of range keeps its field, SPRINT_MW never below CONT_MW
  (∀ (s : State) (w : RegWr) (info : RegInfo), Writable s.dev 0x8008 w info →
    let v := s.dev.written 0x8008 w info
    let old := s.dev.reg w.mast 0x8008
    let cont := if 1000 ≤ fld v 0 20 ∧ fld v 0 20 ≤ 60000 then fld v 0 20 else fld old 0 20
    let spr := if cont ≤ fld v 20 20 ∧ fld v 20 20 ≤ 96000 then fld v 20 20 else Nat.max (fld old 20 20) cont
    Answers (.pwrHtrWrite w) s (s.dev.setReg w.mast 0x8008 (setFld (setFld (plainWrite info old v) 0 20 cont) 20 20 spr))) ∧
  -- a trip resets everything but the always-on domain, which counts it
  (∀ s : State, s.dev.aon.tripped = none → ∃ d, Answers .thermalTrip s d ∧ d.beat = 0 ∧ d.now = ⟨0, 0⟩ ∧ d.tiles = [] ∧
    d.aon.tripped = some 0 ∧ d.aon.trips = satAdd 16 s.dev.aon.trips 1 ∧ d.aon.on = 0 ∧ d.fore.regs = s.dev.fore.reset.regs ∧
    d.main.regs = s.dev.main.reset.regs) ∧
  (∀ (s : State) (b : Nat), s.dev.aon.tripped = some b → b + 20000 ≤ s.dev.beat → ∃ d, Answers .norHoldupEnd s d ∧
    d.aon.norOn = false ∧ d.fore.boot.nor.job = none ∧ d.main.boot.nor.job = none) ∧
  (∀ (s : State) (b : Nat) (sel : BitVec 2), s.dev.aon.tripped = some b → s.dev.pins.poresetN = true → 10001 ≤ s.dev.aon.cool →
    Answers (.thermalRestart sel) s (({ s.dev with aon := { s.dev.aon with
      tripped := none, last := true, norOn := true, cool := 0 } } : Dev).powerUp sel))

/-! ## Boundaries, reads, steps -/

/-- Next states of the beat and watch boundaries and of reads, under R11, R24, R49, R307 to R309, R329, R489 and R490,
clause by clause. A beat while the timebase stands only counts; else it samples PARK_N and, with no Halyard step to apply,
moves the label 100 ns on, its seconds those of TIM_SET at a second's start where they wait. The first watch boundary of a
beat takes place, and with no holder and no tile alive the accepted register values take effect there. A read of a register
answers its value and clears the rc fields it covers; a read of TIM_NOW_S latches the nanoseconds of its clock cycle. A
register's reserved bits read 0, and its ro fields come from the state. Choices of the model that it rests on: log entries
76, 84, 110. -/
def Obligations.BoundariesAndReadsComplete : Prop :=
  (∀ s : State, s.dev.stands = true → Answers .beatBoundary s { s.dev with beat := s.dev.beat + 1 }) ∧
  (∀ s : State, s.dev.stands = false → ∃ d, Answers .beatBoundary s d ∧ d.beat = s.dev.beat + 1 ∧ d.pins.parkSeen = !s.dev.pins.parkN ∧
    ((∀ m, s.dev.serving = some m → (s.dev.mast m).hal.apply = none) → d.now = s.dev.label)) ∧
  -- the label: 100 ns on, its seconds those of TIM_SET where they wait for a second's start
  (∀ d : Dev, (∀ m, d.serving = some m → (d.tim m).setSec = none) → d.label = nextLabel d.now) ∧
  (∀ t : Stamp, t.ns < 1000000000 → t.ns % 100 = 0 → stampNs (nextLabel t) = (stampNs t + 100) % (2 ^ 48 * 1000000000) ∨
    2 ^ 48 ≤ t.sec) ∧
  (∀ (s : State) (v : List Nat) (c : List (Nat × Nat)) (l : List Nat), s.dev.stands = false → s.dev.watchEdge = true →
    s.dev.lastWatch ≠ some s.dev.beat → ∃ d, Answers (.watchBoundary v c l) s d ∧ d.lastWatch = some s.dev.beat ∧
      (s.dev.holder = none → s.dev.aliveTiles = [] → d.fore.eff = s.dev.fore.regs ∧ d.main.eff = s.dev.main.regs)) ∧
  (∀ (s : State) (m : MastId) (off : Nat) (h : Half) (i : RegInfo), s.dev.barUp m = true → regInfo off = some i → off ≠ 0x5010 →
    let d := s.dev.emit (.regRead m off (s.dev.regValue m off &&& halfMask h))
    Answers (.rcRegisterRead off m h) s (if i.rc = 0 then d else d.setReg m off (d.reg m off &&& ~~~ (i.rc &&& halfMask h)))) ∧
  (∀ (s : State) (m : MastId) (cycle : Nat), s.dev.barUp m = true → ∃ d, Answers (.timNowSRead m cycle) s d ∧
    (d.mast m).tim.latchNs = s.dev.now.ns + (s.dev.tim m).nsAt cycle ∧
    d.out.getLast? = some (.regRead m 0x5010 (s.dev.regValue m 0x5010 &&& halfMask .whole))) ∧
  -- a register's reserved bits read 0, its ro fields come from the state
  (∀ (d : Dev) (m : MastId) (off : Nat) (i : RegInfo), regInfo off = some i →
    d.regValue m off &&& ~~~ (i.rw ||| i.w1c ||| i.rc ||| i.ro) = 0 ∧ d.regValue m off &&& (i.ro &&& ~~~ (i.rw ||| i.w1c ||| i.rc)) =
      d.ro m off &&& (i.ro &&& ~~~ (i.rw ||| i.w1c ||| i.rc)))

/-- A step takes the command at the front of the queue and runs it with the queue's rest; with an empty queue it changes
nothing; no command changes the queue. That an empty queue idles is the model's choice: log entry 10. -/
def Obligations.StepTakesTheFront : Prop :=
  (∀ (s : State) (c : Instr) (rest : List Instr), s.pending = c :: rest → step s = exec c { s with pending := rest }) ∧
  (∀ s : State, s.pending = [] → step s = .next s) ∧
  (∀ (s t : State) (c : Instr), exec c s = .next t → t.pending = s.pending)

/-- R307: the label at reset is 0 seconds and 0 nanoseconds, a sound one. -/
def Obligations.TimeSoundAtReset : Prop :=
  TimeOk State.reset ∧ State.reset.dev.now = ⟨0, 0⟩

/-- R307, R308: whatever the command, a sound label stays sound: seconds of 48 bits, nanoseconds below 1,000,000,000 and a multiple
of 100. -/
def Obligations.StepsKeepTimeSound : Prop :=
  ∀ s t : State, TimeOk s → step s = .next t → TimeOk t

/-! ## A core's memory, the clock, stops -/

/-- R9, R205: the bytes a store puts into a core's memory, the lowest first, and no other byte; the memory keeps its canonical
form, whatever the store. -/
def Obligations.StoresTouchTheirBytes : Prop :=
  (∀ (mem : List Host.Cell) (a v n : Nat),
    (∀ b, b < a ∨ a + n ≤ b → tget 0 (putBytes mem a v n) b = tget 0 mem b) ∧
    (∀ j, j < n → tget 0 (putBytes mem a v n) (a + j) = BitVec.ofNat 8 (v / 256 ^ j))) ∧
  (∀ (c : Core) (a n v : Nat), CoreMemOk c → CoreMemOk (c.store a n v)) ∧
  -- below the constant page the store reads back, and leaves every other byte
  (∀ (c : Core) (a n v : Nat), a + n ≤ 0x36000 →
    (∀ b, b < a ∨ a + n ≤ b → tget 0 (c.store a n v).mem b = tget 0 c.mem b) ∧
    (∀ j, j < n → tget 0 (c.store a n v).mem (a + j) = BitVec.ofNat 8 (v / 256 ^ j))) ∧
  -- a store to the IO page leaves memory alone
  (∀ (c : Core) (a n v : Nat), 0x3F000 ≤ a → (c.store a n v).mem = c.mem)

/-- R24, R307, R308, R313: a command other than a beat boundary, a step of the timebase, the fall of PORESET_N and the thermal trip
leaves the beat counter and the label as they are. -/
def Obligations.ClockMovesOnlyAtItsCommands : Prop :=
  ∀ (c : Instr) (s t : State), exec c s = .next t → c ≠ .beatBoundary → c ≠ .timebaseStep → c ≠ .poresetNFall →
    c ≠ .thermalTrip → t.dev.beat = s.dev.beat ∧ t.dev.now = s.dev.now

/-- R395: every command completes, whatever the state, but a SHEAF_OPEN that reuses an open SHEAF_ID. -/
def Obligations.OnlySheafIdReuseStops : Prop :=
  ∀ (c : Instr) (s : State), (∃ t, exec c s = .next t) ∨ (exec c s = .fault .sheafIdReuse ∧
    ∃ ring seq ra bn ps pv rf base, c = .sheafOpen ring seq ra bn ps pv rf base)
end

