-- ==== Sys2Proof/Laws/Frame.lean ====
section
/-! SUPPORT. The clock of the block, its beat counter and its label, through every shared operation: only a beat boundary, a
step of the timebase and a reset change it. A lemma whose name ends in ' is for an operation that takes a continuation. -/

set_option linter.unusedTactic false
set_option linter.unreachableTactic false

namespace Sys2Proof.Machine

/-- The beat counter and the label of the beat. -/
def Dev.clock (d : Dev) : Nat × Stamp := (d.beat, d.now)

@[simp] theorem Dev.clock_mk (p : Part) (b : Nat) (n : Stamp) (f m : Mast) (t : Tbl Tile) (a : AlwaysOn) (i : Pins)
    (o : List Out) (k : Nat) (l : Option Nat) : (Dev.mk p b n f m t a i o k l).clock = (b, n) := rfl

@[simp] theorem Dev.clock_eta (d : Dev) : (d.beat, d.now) = d.clock := rfl

theorem Dev.clock_if {p : Prop} [Decidable p] {a b : Dev} {q : Nat × Stamp} (ha : a.clock = q) (hb : b.clock = q) :
    (if p then a else b).clock = q := by split <;> assumption

@[simp] theorem Dev.clock_setMast (d : Dev) (m : MastId) (x : Mast) : (d.setMast m x).clock = d.clock := by cases m <;> rfl

@[simp] theorem Dev.clock_setTile (d : Dev) (t : Nat) (x : Tile) : (d.setTile t x).clock = d.clock := rfl

theorem Dev.clock_each {α : Type} (f : α → Dev → Dev) (hf : ∀ x d, (f x d).clock = d.clock) (l : List α) :
    ∀ d : Dev, (d.each l f).clock = d.clock := by
  induction l with
  | nil => intro d; rfl
  | cons a r ih => intro d; exact (ih (f a d)).trans (hf a d)

theorem Dev.clock_each' {α : Type} {d : Dev} {f : α → Dev → Dev} {l : List α} {q : Nat × Stamp}
    (hf : ∀ x d, (f x d).clock = d.clock) (h : d.clock = q) : (d.each l f).clock = q := (Dev.clock_each f hf l d).trans h

theorem Dev.clock_act' {d : Dev} {f : MastId → Dev} {q : Nat × Stamp} (hf : ∀ m, (f m).clock = q) (h : d.clock = q) :
    (d.act f).clock = q := by
  unfold Dev.act; split
  · exact h
  · exact hf _

theorem Dev.clock_when' {d : Dev} {b : Bool} {f : Dev → Dev} {q : Nat × Stamp} (hf : ∀ d, (f d).clock = d.clock)
    (h : d.clock = q) : (d.when b f).clock = q := by
  unfold Dev.when; split
  · exact (hf d).trans h
  · exact h

theorem Dev.clock_foldl' {α : Type} {f : Dev → α → Dev} {l : List α} (hf : ∀ d x, (f d x).clock = d.clock) :
    ∀ {d : Dev} {q : Nat × Stamp}, d.clock = q → (l.foldl f d).clock = q := by
  induction l with
  | nil => intro d q h; exact h
  | cons a r ih => intro d q h; exact ih ((hf d a).trans h)

@[simp] theorem Dev.clock_onMast (d : Dev) (m : MastId) (f : Mast → Mast) : (d.onMast m f).clock = d.clock := by simp [Dev.onMast]

@[simp] theorem Dev.clock_onTile (d : Dev) (t : Nat) (f : Tile → Tile) : (d.onTile t f).clock = d.clock := by simp [Dev.onTile]

@[simp] theorem Dev.clock_onTiles (d : Dev) (ts : List Nat) (f : Nat → Tile → Tile) : (d.onTiles ts f).clock = d.clock := by
  unfold Dev.onTiles
  exact Dev.clock_foldl' (by intros; simp) (by simp)

@[simp] theorem Dev.clock_onCell (d : Dev) (c : Nat) (f : Cell → Cell) : (d.onCell c f).clock = d.clock := by simp [Dev.onCell]

@[simp] theorem Dev.clock_emit (d : Dev) (o : Out) : (d.emit o).clock = d.clock := by simp [Dev.emit]

theorem Dev.clock_drawNat' {d : Dev} {k : Nat → Dev → Dev} {q : Nat × Stamp} (hk : ∀ a0 d, (k a0 d).clock = d.clock)
    (h : d.clock = q) : (d.drawNat k).clock = q := by
  subst h
  simp [Dev.drawNat, hk]

theorem Dev.clock_drawReg' {d : Dev} {k : Reg64 → Dev → Dev} {q : Nat × Stamp} (hk : ∀ a0 d, (k a0 d).clock = d.clock)
    (h : d.clock = q) : (d.drawReg k).clock = q := by
  subst h
  simp [Dev.drawReg, hk]

theorem Dev.clock_drawBool' {d : Dev} {k : Bool → Dev → Dev} {q : Nat × Stamp} (hk : ∀ a0 d, (k a0 d).clock = d.clock)
    (h : d.clock = q) : (d.drawBool k).clock = q := by
  subst h
  simp [Dev.drawBool, hk]

@[simp] theorem Dev.clock_setReg (d : Dev) (m : MastId) (off : Nat) (v : Reg64) : (d.setReg m off v).clock = d.clock := by simp [Dev.setReg]

@[simp] theorem Dev.clock_setRegF (d : Dev) (m : MastId) (off lo w v : Nat) : (d.setRegF m off lo w v).clock = d.clock := by simp [Dev.setRegF]

@[simp] theorem Dev.clock_flag (d : Dev) (m : MastId) (off b : Nat) : (d.flag m off b).clock = d.clock := by simp [Dev.flag]

@[simp] theorem Dev.clock_count (d : Dev) (m : MastId) (off lo w k : Nat) : (d.count m off lo w k).clock = d.clock := by simp [Dev.count]

theorem Dev.clock_wrBits' {d : Dev} {info : RegInfo} {w : RegWr} {k : RegWr → Dev → Dev} {q : Nat × Stamp} (hk : ∀ a0 d, (k a0 d).clock = d.clock)
    (h : d.clock = q) : (d.wrBits info w k).clock = q := by
  subst h
  unfold Dev.wrBits
  repeat' first
    | with_reducible rfl | (simp [hk]; done) | assumption | refine Dev.clock_if ?_ ?_ | refine Dev.clock_drawReg' ?_ ?_
    | split | (intro _) | simp [hk]

@[simp] theorem Dev.clock_mirrorClear (d : Dev) (m : MastId) (off : Nat) (bits : Reg64) :
    (d.mirrorClear m off bits).clock = d.clock := by
  unfold Dev.mirrorClear
  split <;> simp

theorem Dev.clock_barWrite' {d : Dev} {off : Nat} {w : RegWr} {k : MastId → RegInfo → Reg64 → Dev → Dev} {q : Nat × Stamp} (hk : ∀ a0 a1 a2 d, (k a0 a1 a2 d).clock = d.clock)
    (h : d.clock = q) : (d.barWrite off w k).clock = q := by
  subst h
  unfold Dev.barWrite
  repeat' first
    | with_reducible rfl | (simp [hk]; done) | assumption | refine Dev.clock_if ?_ ?_ | refine Dev.clock_drawReg' ?_ ?_
    | refine Dev.clock_wrBits' ?_ ?_ | split | (intro _) | simp [hk]

@[simp] theorem Dev.clock_pmc (d : Dev) (m : MastId) (ev : Nat) (insts : List Nat) (k : Nat) :
    (d.pmc m ev insts k).clock = d.clock := by simp [Dev.pmc]

@[simp] theorem Dev.clock_pmcLevel (d : Dev) (m : MastId) (ev : Nat) (inst v n : Nat) :
    (d.pmcLevel m ev inst v n).clock = d.clock := by simp [Dev.pmcLevel]

@[simp] theorem Dev.clock_moved (d : Dev) (m : MastId) (e out inn : Nat) : (d.moved m e out inn).clock = d.clock := by simp [Dev.moved]

@[simp] theorem Dev.clock_hostIn (d : Dev) (m : MastId) (n : Nat) : (d.hostIn m n).clock = d.clock := by simp [Dev.hostIn]

@[simp] theorem Dev.clock_hostOut (d : Dev) (m : MastId) (n : Nat) : (d.hostOut m n).clock = d.clock := by simp [Dev.hostOut]

@[simp] theorem Dev.clock_staySlot (d : Dev) (m : MastId) (t : Nat) (up : Bool) : (d.staySlot m t up).clock = d.clock := by simp [Dev.staySlot]

@[simp] theorem Dev.clock_msix (d : Dev) (m : MastId) (v : Nat) : (d.msix m v).clock = d.clock := by
  unfold Dev.msix
  split <;> simp

@[simp] theorem Dev.clock_onHif (d : Dev) (m : MastId) (f : Hif → Hif) : (d.onHif m f).clock = d.clock := by simp [Dev.onHif]

@[simp] theorem Dev.clock_setRing (d : Dev) (m : MastId) (i : Nat) (r : Option Ring) : (d.setRing m i r).clock = d.clock := by simp [Dev.setRing]

@[simp] theorem Dev.clock_onRing (d : Dev) (m : MastId) (i : Nat) (f : Ring → Ring) : (d.onRing m i f).clock = d.clock := by
  unfold Dev.onRing
  split <;> simp

@[simp] theorem Dev.clock_setCtx (d : Dev) (m : MastId) (k : Nat) (c : Option Ctx) : (d.setCtx m k c).clock = d.clock := by simp [Dev.setCtx]

@[simp] theorem Dev.clock_onDesc (d : Dev) (m : MastId) (ring seq : Nat) (f : Desc → Desc) :
    (d.onDesc m ring seq f).clock = d.clock := by simp [Dev.onDesc]

theorem Dev.clock_start' {d : Dev} {ring seq op : Nat} {k : MastId → Desc → Dev → Dev} {q : Nat × Stamp} (hk : ∀ a0 a1 d, (k a0 a1 d).clock = d.clock)
    (h : d.clock = q) : (d.start ring seq op k).clock = q := by
  subst h
  unfold Dev.start
  split <;> simp [hk]

@[simp] theorem Dev.clock_pushJournal (d : Dev) (m : MastId) (j : JEv) : (d.pushJournal m j).clock = d.clock := by simp [Dev.pushJournal]

@[simp] theorem Dev.clock_signalRing (d : Dev) (m : MastId) (i : Nat) : (d.signalRing m i).clock = d.clock := by
  unfold Dev.signalRing
  split <;> simp

@[simp] theorem Dev.clock_putRecord (d : Dev) (m : MastId) (i : Nat) (g : Ring) (r : Record) (irq : Bool) :
    (d.putRecord m i g r irq).clock = d.clock := by
  unfold Dev.putRecord
  split <;> simp

@[simp] theorem Dev.clock_toBacklog (d : Dev) (m : MastId) (b : BackRec) : (d.toBacklog m b).clock = d.clock := by simp [Dev.toBacklog]

@[simp] theorem Dev.clock_deliver (d : Dev) (m : MastId) (i ctx : Nat) (r : Record) (irq back : Bool) :
    (d.deliver m i ctx r irq back).clock = d.clock := by
  unfold Dev.deliver
  repeat' split
  all_goals simp

@[simp] theorem Dev.clock_retire (d : Dev) (m : MastId) (x : Desc) (sent : Bool) : (d.retire m x sent).clock = d.clock := by
  unfold Dev.retire
  repeat' split
  all_goals simp

@[simp] theorem Dev.clock_onSlots (d : Dev) (m : MastId) (x : Desc) (f : List Nat → List Nat) :
    (d.onSlots m x f).clock = d.clock := by simp [Dev.onSlots]

@[simp] theorem Dev.clock_giveSlot (d : Dev) (m : MastId) (x : Desc) (ref kind len ep : Nat) (crcBad trunc inc : Bool) (p : Payload) :
    (d.giveSlot m x ref kind len ep crcBad trunc inc p).clock = d.clock := by simp [Dev.giveSlot]

@[simp] theorem Dev.clock_holdSlot (d : Dev) (m : MastId) (x : Desc) (ref : Nat) : (d.holdSlot m x ref).clock = d.clock := by simp [Dev.holdSlot]

@[simp] theorem Dev.clock_unhold (d : Dev) (m : MastId) (x : Desc) (ref : Nat) : (d.unhold m x ref).clock = d.clock := by simp [Dev.unhold]

@[simp] theorem Dev.clock_settleHold (d : Dev) (m : MastId) (x : Desc) (ref owner : Nat) (err : Bool) :
    (d.settleHold m x ref owner err).clock = d.clock := by
  unfold Dev.settleHold
  split <;> simp

@[simp] theorem Dev.clock_returnSlots (d : Dev) (m : MastId) (x : Desc) : (d.returnSlots m x).clock = d.clock := by
  unfold Dev.returnSlots
  repeat' first
    | with_reducible rfl | (simp; done) | assumption | refine Dev.clock_if ?_ ?_ | refine Dev.clock_each' ?_ ?_ | split
    | (intro _) | simp

@[simp] theorem Dev.clock_returnIn (d : Dev) (m : MastId) (x : Desc) (s : SlotIn) (crcBad : Bool) :
    (d.returnIn m x s crcBad).clock = d.clock := by simp [Dev.returnIn]

@[simp] theorem Dev.clock_writeOut (d : Dev) (m : MastId) (x : Desc) (ref kind len ep : Nat) (p : Payload) :
    (d.writeOut m x ref kind len ep p).clock = d.clock := by simp [Dev.writeOut]

@[simp] theorem Dev.clock_completeAt (d : Dev) (m : MastId) (x : Desc) (st : Status) (ep : Nat) (tm : Option Stamp) (always : Bool) :
    (d.completeAt m x st ep tm always).clock = d.clock := by
  unfold Dev.completeAt
  repeat' first
    | with_reducible rfl | (simp; done) | assumption | refine Dev.clock_if ?_ ?_ | split | (intro _) | simp

@[simp] theorem Dev.clock_complete (d : Dev) (m : MastId) (x : Desc) (st : Status) : (d.complete m x st).clock = d.clock := by simp [Dev.complete]

theorem Dev.clock_need' {d : Dev} {m : MastId} {x : Desc} {b : Nat} {k : Dev → Dev} {q : Nat × Stamp} (hk : ∀ d, (k d).clock = d.clock)
    (h : d.clock = q) : (d.need m x b k).clock = q := by
  subst h
  unfold Dev.need
  split <;> simp [hk]

theorem Dev.clock_startLasting' {d : Dev} {ring seq op : Nat} {i : Instr} {k : MastId → Desc → Dev → Dev} {q : Nat × Stamp} (hk : ∀ a0 a1 d, (k a0 a1 d).clock = d.clock)
    (h : d.clock = q) : (d.startLasting ring seq op i k).clock = q := by
  subst h
  unfold Dev.startLasting
  repeat' first
    | with_reducible rfl | (simp [hk]; done) | assumption | refine Dev.clock_if ?_ ?_ | refine Dev.clock_start' ?_ ?_ | split
    | (intro _) | simp [hk]

@[simp] theorem Dev.clock_queueScan (d : Dev) (m : MastId) (master qos len : Nat) :
    (d.queueScan m master qos len).clock = d.clock := by simp [Dev.queueScan]

@[simp] theorem Dev.clock_onBud (d : Dev) (m : MastId) (f : Budget → Budget) : (d.onBud m f).clock = d.clock := by simp [Dev.onBud]

@[simp] theorem Dev.clock_hbmMoved (d : Dev) (m : MastId) (write : Bool) (n : Nat) :
    (d.hbmMoved m write n).clock = d.clock := by
  unfold Dev.hbmMoved
  exact Dev.clock_each' (by intros; simp) (by simp)

theorem Dev.clock_hbmGo' {d : Dev} {m : MastId} {cls n : Nat} {f : Dev → Dev} {q : Nat × Stamp} (hf : ∀ d, (f d).clock = d.clock)
    (h : d.clock = q) : (d.hbmGo m cls n f).clock = q := by
  subst h
  unfold Dev.hbmGo
  repeat' first
    | with_reducible rfl | (simp [hf]; done) | assumption | refine Dev.clock_if ?_ ?_ | split | (intro _) | simp [hf]

@[simp] theorem Dev.clock_onStay (d : Dev) (m : MastId) (t : Nat) (f : Stay → Stay) : (d.onStay m t f).clock = d.clock := by simp [Dev.onStay]

@[simp] theorem Dev.clock_leave (d : Dev) (m : MastId) (t : Nat) (f : LaneFrame) : (d.leave m t f).clock = d.clock := by
  unfold Dev.leave
  repeat' first
    | with_reducible rfl | (simp; done) | assumption | refine Dev.clock_if ?_ ?_ | split | (intro _) | simp

@[simp] theorem Dev.clock_pump (m : MastId) (t n : Nat) : ∀ d : Dev, (Dev.pump m t n d).clock = d.clock := by
  induction n with
  | zero => intro d; rfl
  | succ n ih =>
    intro d
    unfold Dev.pump
    split
    · rfl
    · split
      · exact (ih _).trans (by simp)
      · rfl

@[simp] theorem Dev.clock_command (d : Dev) (m : MastId) (t cls : Nat) (words : List Nat) (writes : List (Nat × Tgt × Bool)) :
    (d.command m t cls words writes).clock = d.clock := by simp [Dev.command]

@[simp] theorem Dev.clock_unlane (d : Dev) (m : MastId) (t : Nat) (p : LaneFrame → Bool) :
    (d.unlane m t p).clock = d.clock := by simp [Dev.unlane]

@[simp] theorem Dev.clock_writes (d : Dev) (m : MastId) (ws : List (Nat × Tgt × Bool)) : (d.writes m ws).clock = d.clock := by
  unfold Dev.writes
  repeat' first
    | with_reducible rfl | (simp; done) | assumption | refine Dev.clock_if ?_ ?_ | refine Dev.clock_each' ?_ ?_ | split
    | (intro _) | simp

@[simp] theorem Dev.clock_pumpAll (d : Dev) (m : MastId) : (d.pumpAll m).clock = d.clock := by
  unfold Dev.pumpAll
  exact Dev.clock_each' (by intros; simp) (by simp)

@[simp] theorem Dev.clock_stayWatch (d : Dev) (m : MastId) : (d.stayWatch m).clock = d.clock := by simp [Dev.stayWatch]

theorem Dev.clock_upGo' {d : Dev} {m : MastId} {t cls : Nat} {f : Dev → Dev} {q : Nat × Stamp} (hf : ∀ d, (f d).clock = d.clock)
    (h : d.clock = q) : (d.upGo m t cls f).clock = q := by
  subst h
  unfold Dev.upGo
  repeat' first
    | with_reducible rfl | (simp [hf]; done) | assumption | refine Dev.clock_if ?_ ?_ | split | (intro _) | simp [hf]

theorem Dev.clock_carry' {d : Dev} {m : MastId} {t : Nat} {up : Bool} {f : Dev → Dev} {q : Nat × Stamp} (hf : ∀ d, (f d).clock = d.clock)
    (h : d.clock = q) : (d.carry m t up f).clock = q := by
  subst h
  unfold Dev.carry
  repeat' first
    | with_reducible rfl | (simp [hf]; done) | assumption | refine Dev.clock_if ?_ ?_ | split | (intro _) | simp [hf]

@[simp] theorem Dev.clock_onFab (d : Dev) (m : MastId) (f : Fab → Fab) : (d.onFab m f).clock = d.clock := by simp [Dev.onFab]

@[simp] theorem Dev.clock_onFlt (d : Dev) (m : MastId) (f : Flt → Flt) : (d.onFlt m f).clock = d.clock := by simp [Dev.onFlt]

@[simp] theorem Dev.clock_onPen (d : Dev) (m : MastId) (f : Pen → Pen) : (d.onPen m f).clock = d.clock := by simp [Dev.onPen]

@[simp] theorem Dev.clock_onEg (d : Dev) (m : MastId) (f : Egress → Egress) : (d.onEg m f).clock = d.clock := by simp [Dev.onEg]

@[simp] theorem Dev.clock_onGln (d : Dev) (m : MastId) (f : Glean → Glean) : (d.onGln m f).clock = d.clock := by simp [Dev.onGln]

@[simp] theorem Dev.clock_onBoot (d : Dev) (m : MastId) (f : Boot → Boot) : (d.onBoot m f).clock = d.clock := by simp [Dev.onBoot]

@[simp] theorem Dev.clock_setStream (d : Dev) (m : MastId) (s : Nat) (x : Option Stream) :
    (d.setStream m s x).clock = d.clock := by simp [Dev.setStream]

@[simp] theorem Dev.clock_queueTel (d : Dev) (m : MastId) (s : Nat) (r : TelRec) : (d.queueTel m s r).clock = d.clock := by
  unfold Dev.queueTel
  repeat' first
    | with_reducible rfl | (simp; done) | assumption | refine Dev.clock_if ?_ ?_ | split | (intro _) | simp

@[simp] theorem Dev.clock_tel (d : Dev) (m : MastId) (sel : Nat) (r : TelRec) : (d.tel m sel r).clock = d.clock := by
  unfold Dev.tel
  repeat' first
    | with_reducible rfl | (simp; done) | assumption | refine Dev.clock_if ?_ ?_ | refine Dev.clock_foldl' ?_ ?_ | split
    | (intro _) | simp

@[simp] theorem Dev.clock_gleanEvent (d : Dev) (m : MastId) (c : Cause) (beat : Nat) (t : Stamp) (cell : Option Nat) (hal : Nat) :
    (d.gleanEvent m c beat t cell hal).clock = d.clock := by
  unfold Dev.gleanEvent
  repeat' first
    | with_reducible rfl | (simp; done) | assumption | refine Dev.clock_if ?_ ?_ | split | (intro _) | simp

@[simp] theorem Dev.clock_onSheaf (d : Dev) (m : MastId) (k : SKey) (f : Sheaf → Sheaf) :
    (d.onSheaf m k f).clock = d.clock := by simp [Dev.onSheaf]

@[simp] theorem Dev.clock_dropSheaf (d : Dev) (m : MastId) (k : SKey) : (d.dropSheaf m k).clock = d.clock := by simp [Dev.dropSheaf]

@[simp] theorem Dev.clock_restage (d : Dev) (m : MastId) : (d.restage m).clock = d.clock := by
  unfold Dev.restage
  exact Dev.clock_each' (by intros; simp) (by simp)

@[simp] theorem Dev.clock_disarm (d : Dev) (m : MastId) (w : SheafWork) : (d.disarm m w).clock = d.clock := by
  unfold Dev.disarm
  repeat' first
    | with_reducible rfl | (simp; done) | assumption | refine Dev.clock_if ?_ ?_ | refine Dev.clock_each' ?_ ?_ | split
    | (intro _) | simp

@[simp] theorem Dev.clock_abortSheaf (d : Dev) (m : MastId) (k : SKey) (st : Status) :
    (d.abortSheaf m k st).clock = d.clock := by
  unfold Dev.abortSheaf
  repeat' first
    | with_reducible rfl | (simp; done) | assumption | refine Dev.clock_if ?_ ?_ | split | (intro _) | simp

@[simp] theorem Dev.clock_abortWhere (d : Dev) (m : MastId) (p : Sheaf → Bool) (st : Status) :
    (d.abortWhere m p st).clock = d.clock := by
  unfold Dev.abortWhere
  exact Dev.clock_foldl' (by intros; simp) (by simp)

@[simp] theorem Dev.clock_testBad (d : Dev) (m : MastId) (u : FUnit) : (d.testBad m u).clock = d.clock := by simp [Dev.testBad]

@[simp] theorem Dev.clock_withdraw (d : Dev) (m : MastId) (u : FUnit) : (d.withdraw m u).clock = d.clock := by simp [Dev.withdraw]

@[simp] theorem Dev.clock_log (d : Dev) (m : MastId) (source sev kind unit : Nat) (ep : Nat) (t : Stamp) (info : BitVec 32) :
    (d.log m source sev kind unit ep t info).clock = d.clock := by
  unfold Dev.log
  repeat' first
    | with_reducible rfl | (simp; done) | assumption | refine Dev.clock_if ?_ ?_ | split | (intro _) | simp

@[simp] theorem Dev.clock_logUnit (d : Dev) (m : MastId) (source kind : Nat) (u : FUnit) (flags : Nat) :
    (d.logUnit m source kind u flags).clock = d.clock := by simp [Dev.logUnit]

@[simp] theorem Dev.clock_faultIrq (d : Dev) (m : MastId) (sev : Nat) : (d.faultIrq m sev).clock = d.clock := by
  unfold Dev.faultIrq
  repeat' split
  all_goals simp

@[simp] theorem Dev.clock_logFault (d : Dev) (m : MastId) (source sev unit : Nat) (detail : BitVec 32) :
    (d.logFault m source sev unit detail).clock = d.clock := by
  unfold Dev.logFault
  repeat' first
    | with_reducible rfl | (simp; done) | assumption | refine Dev.clock_if ?_ ?_ | split | (intro _) | simp

@[simp] theorem Dev.clock_undo (d : Dev) (m : MastId) (x : Sheaf) : (d.undo m x).clock = d.clock := by
  unfold Dev.undo
  split <;> simp

@[simp] theorem Dev.clock_placeHeal (d : Dev) (m : MastId) (source : Nat) (unit : FUnit) :
    (d.placeHeal m source unit).clock = d.clock := by
  unfold Dev.placeHeal
  repeat' first
    | with_reducible rfl | (simp; done) | assumption | refine Dev.clock_if ?_ ?_ | refine Dev.clock_each' ?_ ?_ | split
    | (intro _) | simp

@[simp] theorem Dev.clock_staleShadow (d : Dev) (m : MastId) : (d.staleShadow m).clock = d.clock := by
  unfold Dev.staleShadow
  repeat' first
    | with_reducible rfl | (simp; done) | assumption | refine Dev.clock_if ?_ ?_ | refine Dev.clock_each' ?_ ?_ | split
    | (intro _) | simp

@[simp] theorem Dev.clock_healFor (d : Dev) (m : MastId) (u : FUnit) (source : Nat) :
    (d.healFor m u source).clock = d.clock := by
  unfold Dev.healFor
  repeat' first
    | with_reducible rfl | (simp; done) | assumption | refine Dev.clock_if ?_ ?_ | refine Dev.clock_when' ?_ ?_ | split
    | (intro _) | simp

@[simp] theorem Dev.clock_onCal (d : Dev) (m : MastId) (f : CalSt → CalSt) : (d.onCal m f).clock = d.clock := by simp [Dev.onCal]

@[simp] theorem Dev.clock_onPass (d : Dev) (m : MastId) (f : Pass → Pass) : (d.onPass m f).clock = d.clock := by simp [Dev.onPass]

@[simp] theorem Dev.clock_writeBack (d : Dev) (m : MastId) (cells : List Nat) : (d.writeBack m cells).clock = d.clock := by
  unfold Dev.writeBack
  repeat' first
    | with_reducible rfl | (simp; done) | assumption | refine Dev.clock_if ?_ ?_ | split | (intro _) | simp

@[simp] theorem Dev.clock_roundEnd (d : Dev) (m : MastId) (cells : List PassCell) : (d.roundEnd m cells).clock = d.clock := by
  unfold Dev.roundEnd
  repeat' first
    | with_reducible rfl | (simp; done) | assumption | refine Dev.clock_if ?_ ?_ | refine Dev.clock_each' ?_ ?_ | split
    | (intro _) | simp

@[simp] theorem Dev.clock_shutRounds (d : Dev) (m : MastId) : (d.shutRounds m).clock = d.clock := by
  unfold Dev.shutRounds
  split <;> simp

@[simp] theorem Dev.clock_leaveRound (d : Dev) (m : MastId) (p : Pass) (gone : PassCell → Bool) :
    (d.leaveRound m p gone).clock = d.clock := by simp [Dev.leaveRound]

@[simp] theorem Dev.clock_interrupt (d : Dev) (m : MastId) (hit waiting : PassCell → Bool) :
    (d.interrupt m hit waiting).clock = d.clock := by
  unfold Dev.interrupt
  repeat' first
    | with_reducible rfl | (simp; done) | assumption | refine Dev.clock_if ?_ ?_ | refine Dev.clock_foldl' ?_ ?_ | split
    | (intro _) | simp

@[simp] theorem Dev.clock_remeasure (d : Dev) (m : MastId) (t : Nat) : (d.remeasure m t).clock = d.clock := by simp [Dev.remeasure]

@[simp] theorem Dev.clock_skipFenced (d : Dev) (m : MastId) (u : FUnit) : (d.skipFenced m u).clock = d.clock := by
  unfold Dev.skipFenced
  repeat' first
    | with_reducible rfl | (simp; done) | assumption | refine Dev.clock_if ?_ ?_ | split | (intro _) | simp

@[simp] theorem Dev.clock_keepHeld (d : Dev) (m : MastId) (r : Nat) : (d.keepHeld m r).clock = d.clock := by simp [Dev.keepHeld]

@[simp] theorem Dev.clock_dropCopy (d : Dev) (m : MastId) (channel : Nat) : (d.dropCopy m channel).clock = d.clock := by simp [Dev.dropCopy]

@[simp] theorem Dev.clock_channelsBack (d : Dev) (m : MastId) : (d.channelsBack m).clock = d.clock := by
  unfold Dev.channelsBack
  repeat' first
    | with_reducible rfl | (simp; done) | assumption | refine Dev.clock_if ?_ ?_ | refine Dev.clock_each' ?_ ?_ | split
    | (intro _) | simp

@[simp] theorem Dev.clock_fenceHbm (d : Dev) (m : MastId) (channel : Nat) : (d.fenceHbm m channel).clock = d.clock := by
  unfold Dev.fenceHbm
  repeat' first
    | with_reducible rfl | (simp; done) | assumption | refine Dev.clock_if ?_ ?_ | split | (intro _) | simp

@[simp] theorem Dev.clock_fenceEffect (d : Dev) (m : MastId) (u : FUnit) (source : Nat) :
    (d.fenceEffect m u source).clock = d.clock := by
  unfold Dev.fenceEffect
  repeat' first
    | with_reducible rfl | (simp; done) | assumption | refine Dev.clock_if ?_ ?_ | refine Dev.clock_each' ?_ ?_ | split
    | (intro _) | simp

@[simp] theorem Dev.clock_fence (d : Dev) (m : MastId) (u : FUnit) (source : Nat) : (d.fence m u source).clock = d.clock := by
  unfold Dev.fence
  split <;> simp

@[simp] theorem Dev.clock_lasting (d : Dev) (m : MastId) (u : FUnit) (flags : Nat) :
    (d.lasting m u flags).clock = d.clock := by simp [Dev.lasting]

@[simp] theorem Dev.clock_classify (d : Dev) (m : MastId) (u : FUnit) : (d.classify m u).clock = d.clock := by
  unfold Dev.classify
  repeat' first
    | with_reducible rfl | (simp; done) | assumption | refine Dev.clock_if ?_ ?_ | split | (intro _) | simp

@[simp] theorem Dev.clock_report (d : Dev) (m : MastId) (source sev unit : Nat) (detail : BitVec 32) (fence : Option FUnit) :
    (d.report m source sev unit detail fence).clock = d.clock := by
  unfold Dev.report
  repeat' split
  all_goals simp

@[simp] theorem Dev.clock_pcieErr (d : Dev) (m : MastId) (kind index : Nat) : (d.pcieErr m kind index).clock = d.clock := by simp [Dev.pcieErr]

theorem Dev.clock_slotOut' {d : Dev} {m : MastId} {x : Desc} {s : SlotOut} {fail : Status → Dev → Dev} {k : Dev → Dev} {q : Nat × Stamp} (hfail : ∀ a0 d, (fail a0 d).clock = d.clock) (hk : ∀ d, (k d).clock = d.clock)
    (h : d.clock = q) : (d.slotOut m x s fail k).clock = q := by
  subst h
  unfold Dev.slotOut
  repeat' split
  all_goals simp [hfail, hk]

theorem Dev.clock_slotHold' {d : Dev} {m : MastId} {x : Desc} {s : SlotIn} {fail : Status → Dev → Dev} {k : Dev → Dev} {q : Nat × Stamp} (hfail : ∀ a0 d, (fail a0 d).clock = d.clock) (hk : ∀ d, (k d).clock = d.clock)
    (h : d.clock = q) : (d.slotHold m x s fail k).clock = q := by
  subst h
  unfold Dev.slotHold
  repeat' first
    | with_reducible rfl | (simp [hfail, hk]; done) | assumption | refine Dev.clock_if ?_ ?_
    | refine Dev.clock_slotOut' ?_ ?_ ?_ | split | (intro _) | simp [hfail, hk]

theorem Dev.clock_slotCheck' {d : Dev} {m : MastId} {x : Desc} {s : SlotIn} {fail : Status → Dev → Dev} {k : Dev → Dev} {q : Nat × Stamp} (hfail : ∀ a0 d, (fail a0 d).clock = d.clock) (hk : ∀ d, (k d).clock = d.clock)
    (h : d.clock = q) : (d.slotCheck m x s fail k).clock = q := by
  subst h
  unfold Dev.slotCheck
  repeat' split
  all_goals simp [hfail, hk]

theorem Dev.clock_slotIn' {d : Dev} {m : MastId} {x : Desc} {s : SlotIn} {fail : Status → Dev → Dev} {k : Dev → Dev} {q : Nat × Stamp} (hfail : ∀ a0 d, (fail a0 d).clock = d.clock) (hk : ∀ d, (k d).clock = d.clock)
    (h : d.clock = q) : (d.slotIn m x s fail k).clock = q := by
  subst h
  unfold Dev.slotIn
  repeat' first
    | with_reducible rfl | (simp [hfail, hk]; done) | assumption | refine Dev.clock_if ?_ ?_
    | refine Dev.clock_slotHold' ?_ ?_ ?_ | refine Dev.clock_slotCheck' ?_ ?_ ?_ | split | (intro _) | simp [hfail, hk]

@[simp] theorem Dev.clock_setCore (d : Dev) (m : MastId) (k : Nat) (c : Core) : (d.setCore m k c).clock = d.clock := by simp [Dev.setCore]

@[simp] theorem Dev.clock_onCore (d : Dev) (m : MastId) (k : Nat) (f : Core → Core) : (d.onCore m k f).clock = d.clock := by simp [Dev.onCore]

@[simp] theorem Dev.clock_onCoreCells (d : Dev) (k : Nat) (f : Tile → Cell → Cell) : (d.onCoreCells k f).clock = d.clock := by simp [Dev.onCoreCells]

@[simp] theorem Dev.clock_rewrote (d : Dev) (m : MastId) (k : Nat) : (d.rewrote m k).clock = d.clock := by simp [Dev.rewrote]

@[simp] theorem Dev.clock_load (d : Dev) (m : MastId) (k n a : Nat) : ((d.load m k n a).2).clock = d.clock := by
  unfold Dev.load
  repeat' split
  all_goals simp

@[simp] theorem Dev.clock_illegal (d : Dev) (m : MastId) (k : Nat) : (d.illegal m k).clock = d.clock := by simp [Dev.illegal]

theorem Dev.clock_slotA' {d : Dev} {k : Nat} {i : Instr} {f : MastId → Dev → Dev} {q : Nat × Stamp} (hf : ∀ a0 d, (f a0 d).clock = d.clock)
    (h : d.clock = q) : (d.slotA k i f).clock = q := by
  subst h
  unfold Dev.slotA
  repeat' first
    | with_reducible rfl | (simp [hf]; done) | assumption | refine Dev.clock_if ?_ ?_ | refine Dev.clock_act' ?_ ?_ | split
    | (intro _) | simp [hf]

@[simp] theorem Dev.clock_coreA (d : Dev) (k : Nat) (i : Instr) (f : Core → Core) : (d.coreA k i f).clock = d.clock := by
  unfold Dev.coreA
  exact Dev.clock_slotA' (by intros; simp) (by simp)

@[simp] theorem Dev.clock_branchA (d : Dev) (k : Nat) (i : Instr) (tgt : Core → Option Nat) (f : Core → Core) :
    (d.branchA k i tgt f).clock = d.clock := by
  unfold Dev.branchA
  repeat' first
    | with_reducible rfl | (simp; done) | assumption | refine Dev.clock_if ?_ ?_ | refine Dev.clock_slotA' ?_ ?_ | split
    | (intro _) | simp

theorem Dev.clock_srA' {d : Dev} {k : Nat} {sr : BitVec 6} {f : MastId → Dev → Dev} {q : Nat × Stamp} (hf : ∀ a0 d, (f a0 d).clock = d.clock)
    (h : d.clock = q) : (d.srA k sr f).clock = q := by
  subst h
  unfold Dev.srA
  repeat' first
    | with_reducible rfl | (simp [hf]; done) | assumption | refine Dev.clock_if ?_ ?_ | refine Dev.clock_slotA' ?_ ?_ | split
    | (intro _) | simp [hf]

@[simp] theorem Dev.clock_slotB (d : Dev) (k : Nat) (i : Instr) (f : Core → Core) : (d.slotB k i f).clock = d.clock := by
  unfold Dev.slotB
  repeat' first
    | with_reducible rfl | (simp; done) | assumption | refine Dev.clock_if ?_ ?_ | refine Dev.clock_act' ?_ ?_
    | refine Dev.clock_slotA' ?_ ?_ | split | (intro _) | simp

@[simp] theorem Dev.clock_deliverHeld (d : Dev) (m : MastId) (j : Nat) : (d.deliverHeld m j).clock = d.clock := by
  unfold Dev.deliverHeld
  repeat' first
    | with_reducible rfl | (simp; done) | assumption | refine Dev.clock_if ?_ ?_ | refine Dev.clock_each' ?_ ?_ | split
    | (intro _) | simp

@[simp] theorem Dev.clock_deliverTo (d : Dev) (m : MastId) (i : Nat) (e : RingEntry) :
    (d.deliverTo m i e).clock = d.clock := by
  unfold Dev.deliverTo
  exact Dev.clock_when' (by intros; simp) (by simp)

@[simp] theorem Dev.clock_register (d : Dev) (m : MastId) (i : Nat) (e : RingEntry) : (d.register m i e).clock = d.clock := by simp [Dev.register]

@[simp] theorem Dev.clock_openCtx (d : Dev) (m : MastId) (k : Nat) (e : CtxEntry) : (d.openCtx m k e).clock = d.clock := by simp [Dev.openCtx]

@[simp] theorem Dev.clock_closeAll (d : Dev) (m : MastId) : (d.closeAll m).clock = d.clock := by simp [Dev.closeAll]

@[simp] theorem Dev.clock_dropJobs (d : Dev) (m : MastId) (ring seq : Nat) : (d.dropJobs m ring seq).clock = d.clock := by simp [Dev.dropJobs]

@[simp] theorem Dev.clock_hostLost (d : Dev) (m : MastId) (cause : Nat) : (d.hostLost m cause).clock = d.clock := by simp [Dev.hostLost]

@[simp] theorem Dev.clock_keepWindows (d : Dev) (m : MastId) : (d.keepWindows m).clock = d.clock := by simp [Dev.keepWindows]

@[simp] theorem Dev.clock_loseDesc (d : Dev) (m : MastId) (x : Desc) : (d.loseDesc m x).clock = d.clock := by
  unfold Dev.loseDesc
  repeat' first
    | with_reducible rfl | (simp; done) | assumption | refine Dev.clock_if ?_ ?_ | refine Dev.clock_each' ?_ ?_ | split
    | (intro _) | simp

@[simp] theorem Dev.clock_loseHost (d : Dev) (m : MastId) : (d.loseHost m).clock = d.clock := by
  unfold Dev.loseHost
  repeat' first
    | with_reducible rfl | (simp; done) | assumption | refine Dev.clock_if ?_ ?_ | refine Dev.clock_each' ?_ ?_ | split
    | (intro _) | simp

@[simp] theorem Dev.clock_dropBacklog (d : Dev) (m : MastId) : (d.dropBacklog m).clock = d.clock := by simp [Dev.dropBacklog]

@[simp] theorem Dev.clock_readGroup (d : Dev) (m : MastId) (g : Nat) : (d.readGroup m g).clock = d.clock := by simp [Dev.readGroup]

@[simp] theorem Dev.clock_readEntries (d : Dev) (m : MastId) (i n : Nat) (r : Ring) :
    (d.readEntries m i n r).clock = d.clock := by
  unfold Dev.readEntries
  repeat' first
    | with_reducible rfl | (simp; done) | assumption | refine Dev.clock_if ?_ ?_ | refine Dev.clock_each' ?_ ?_ | split
    | (intro _) | simp

@[simp] theorem Dev.clock_learn (d : Dev) (m : MastId) (b : Doorbell) : (d.learn m b).clock = d.clock := by simp [Dev.learn]

@[simp] theorem Dev.clock_consult (d : Dev) (m : MastId) : (d.consult m).clock = d.clock := by
  unfold Dev.consult
  repeat' first
    | with_reducible rfl | (simp; done) | assumption | refine Dev.clock_if ?_ ?_ | refine Dev.clock_each' ?_ ?_ | split
    | (intro _) | simp

@[simp] theorem Dev.clock_charge (d : Dev) (m : MastId) (i n t : Nat) : (d.charge m i n t).clock = d.clock := by simp [Dev.charge]

@[simp] theorem Dev.clock_acceptOne (d : Dev) (m : MastId) (i : Nat) (e : Entry) : (d.acceptOne m i e).clock = d.clock := by
  unfold Dev.acceptOne
  repeat' split
  all_goals simp

@[simp] theorem Dev.clock_markIncomplete (d : Dev) (m : MastId) (ref : Nat) : (d.markIncomplete m ref).clock = d.clock := by simp [Dev.markIncomplete]

@[simp] theorem Dev.clock_acceptAll (m : MastId) (i : Nat) (l : List Entry) :
    ∀ d : Dev, (d.acceptAll m i l).clock = d.clock := by
  induction l with
  | nil => intro d; rfl
  | cons e r ih => intro d; unfold Dev.acceptAll; split <;> (try split) <;> simp [ih]

@[simp] theorem Dev.clock_acceptBursts (m : MastId) (n : Nat) :
    ∀ (l : List (Nat × List Entry)) (d : Dev), (d.acceptBursts m n l).clock = d.clock := by
  induction n with
  | zero => intro l d; rfl
  | succ n ih =>
    intro l d; unfold Dev.acceptBursts; split
    · rfl
    · rw [ih]; refine Dev.clock_when' (fun _ => by simp) ?_; split <;> simp

@[simp] theorem Dev.clock_ctxOpenBody (d : Dev) (index : Nat) (ent : Option CtxEntry) (m : MastId) (x : Desc) :
    (d.ctxOpenBody index ent m x).clock = d.clock := by
  unfold Dev.ctxOpenBody
  repeat' first
    | with_reducible rfl | (simp; done) | assumption | refine Dev.clock_if ?_ ?_ | refine Dev.clock_need' ?_ ?_ | split
    | (intro _) | simp

@[simp] theorem Dev.clock_closeSheafs (d : Dev) (m : MastId) (k : Nat) (p : Sheaf → Bool) :
    (d.closeSheafs m k p).clock = d.clock := by simp [Dev.closeSheafs]

@[simp] theorem Dev.clock_waitOn (d : Dev) (m : MastId) (x : Desc) (w : Wait) : (d.waitOn m x w).clock = d.clock := by simp [Dev.waitOn]

@[simp] theorem Dev.clock_ctxRebindBody (d : Dev) (index : Nat) (m : MastId) (x : Desc) :
    (d.ctxRebindBody index m x).clock = d.clock := by
  unfold Dev.ctxRebindBody
  repeat' first
    | with_reducible rfl | (simp; done) | assumption | refine Dev.clock_if ?_ ?_ | refine Dev.clock_need' ?_ ?_ | split
    | (intro _) | simp

@[simp] theorem Dev.clock_unfenceCtx (d : Dev) (m : MastId) (k : Nat) : (d.unfenceCtx m k).clock = d.clock := by simp [Dev.unfenceCtx]

@[simp] theorem Dev.clock_stopRings (d : Dev) (m : MastId) (k : Nat) (atOnce : Bool) :
    (d.stopRings m k atOnce).clock = d.clock := by
  unfold Dev.stopRings
  exact Dev.clock_each' (by intros; simp) (by simp)

@[simp] theorem Dev.clock_ctxCloseBody (d : Dev) (index : Nat) (dbs : List Doorbell) (m : MastId) (x : Desc) :
    (d.ctxCloseBody index dbs m x).clock = d.clock := by
  unfold Dev.ctxCloseBody
  repeat' first
    | with_reducible rfl | (simp; done) | assumption | refine Dev.clock_if ?_ ?_ | refine Dev.clock_each' ?_ ?_
    | refine Dev.clock_need' ?_ ?_ | split | (intro _) | simp

@[simp] theorem Dev.clock_ctxCloseForceBody (d : Dev) (index : Nat) (m : MastId) (x : Desc) :
    (d.ctxCloseForceBody index m x).clock = d.clock := by
  unfold Dev.ctxCloseForceBody
  repeat' first
    | with_reducible rfl | (simp; done) | assumption | refine Dev.clock_if ?_ ?_ | refine Dev.clock_need' ?_ ?_ | split
    | (intro _) | simp

@[simp] theorem Dev.clock_closeStream (d : Dev) (m : MastId) (s : Nat) (owner : Option (Nat × Nat)) :
    (d.closeStream m s owner).clock = d.clock := by
  unfold Dev.closeStream
  repeat' split
  all_goals simp

@[simp] theorem Dev.clock_ringRegBody (d : Dev) (index : Nat) (ent : Option RingEntry) (m : MastId) (x : Desc) :
    (d.ringRegBody index ent m x).clock = d.clock := by
  unfold Dev.ringRegBody
  repeat' first
    | with_reducible rfl | (simp; done) | assumption | refine Dev.clock_if ?_ ?_ | refine Dev.clock_need' ?_ ?_ | split
    | (intro _) | simp

@[simp] theorem Dev.clock_ringUnregBody (d : Dev) (index : Nat) (force : Bool) (m : MastId) (x : Desc) :
    (d.ringUnregBody index force m x).clock = d.clock := by
  unfold Dev.ringUnregBody
  repeat' first
    | with_reducible rfl | (simp; done) | assumption | refine Dev.clock_if ?_ ?_ | refine Dev.clock_need' ?_ ?_ | split
    | (intro _) | simp

@[simp] theorem Dev.clock_wake (d : Dev) (dom : Nat) : (d.wake dom).clock = d.clock := by
  unfold Dev.wake
  split <;> simp

@[simp] theorem Dev.clock_powerUp (d : Dev) (sel : BitVec 2) : (d.powerUp sel).clock = d.clock := by
  unfold Dev.powerUp
  exact (Dev.clock_each _ (fun _ _ => by simp) _ _).trans (by simp)

@[simp] theorem Dev.clock_firstPennant (d : Dev) (m : MastId) : (d.firstPennant m).clock = d.clock := by simp [Dev.firstPennant]

theorem Dev.clock_recovery' {d : Dev} {m : MastId} {b : Byte} {k : Recovery → Dev → Dev} {q : Nat × Stamp} (hk : ∀ a0 d, (k a0 d).clock = d.clock)
    (h : d.clock = q) : (d.recovery m b k).clock = q := by
  subst h
  unfold Dev.recovery
  repeat' split
  all_goals simp [hk]

@[simp] theorem Dev.clock_identReply (d : Dev) (m : MastId) : (d.identReply m).clock = d.clock := by simp [Dev.identReply]

@[simp] theorem Dev.clock_loadImage (d : Dev) (m : MastId) (img : FwImage) : (d.loadImage m img).clock = d.clock := by
  unfold Dev.loadImage
  repeat' first
    | with_reducible rfl | (simp; done) | assumption | refine Dev.clock_if ?_ ?_ | refine Dev.clock_drawNat' ?_ ?_ | split
    | (intro _) | simp

@[simp] theorem Dev.clock_norWrite (d : Dev) (m : MastId) (img : FwImage) : (d.norWrite m img).clock = d.clock := by
  unfold Dev.norWrite
  repeat' first
    | with_reducible rfl | (simp; done) | assumption | refine Dev.clock_if ?_ ?_ | refine Dev.clock_drawNat' ?_ ?_ | split
    | (intro _) | simp

@[simp] theorem Dev.clock_recoveryRequest (d : Dev) (m : MastId) (b : Byte) (img : FwImage) :
    (d.recoveryRequest m b img).clock = d.clock := by
  unfold Dev.recoveryRequest
  repeat' first
    | with_reducible rfl | (simp; done) | assumption | refine Dev.clock_if ?_ ?_ | refine Dev.clock_recovery' ?_ ?_ | split
    | (intro _) | simp

@[simp] theorem Dev.clock_unmask (d : Dev) (m : MastId) (off : Nat) : (d.unmask m off).clock = d.clock := by
  unfold Dev.unmask
  repeat' first
    | with_reducible rfl | (simp; done) | assumption | refine Dev.clock_if ?_ ?_ | split | (intro _) | simp

@[simp] theorem Dev.clock_plainTaken (d : Dev) (m : MastId) (off : Nat) (info : RegInfo) (v : Reg64) :
    (d.plainTaken m off info v).clock = d.clock := by simp [Dev.plainTaken]

@[simp] theorem Dev.clock_enables (d : Dev) (m : MastId) (old : Nat) : (d.enables m old).clock = d.clock :=
  Dev.clock_each _ (fun _ _ => Dev.clock_if (Dev.clock_when' (fun _ => by simp) (by simp)) (Dev.clock_if (by simp) rfl)) _ d

@[simp] theorem Dev.clock_setTones (d : Dev) (m : MastId) (t : Nat) : (d.setTones m t).clock = d.clock := by
  unfold Dev.setTones
  repeat' first
    | with_reducible rfl | (simp; done) | assumption | refine Dev.clock_if ?_ ?_ | refine Dev.clock_each' ?_ ?_ | split
    | (intro _) | simp

@[simp] theorem Dev.clock_loadTopo (d : Dev) (m : MastId) (t : TopoTable) : (d.loadTopo m t).clock = d.clock := by
  unfold Dev.loadTopo
  repeat' first
    | with_reducible rfl | (simp; done) | assumption | refine Dev.clock_if ?_ ?_ | refine Dev.clock_each' ?_ ?_ | split
    | (intro _) | simp

theorem Dev.clock_bring' {d : Dev} {m : MastId} {b : Bring} {stages : List Stage} {k : Dev → Dev} {q : Nat × Stamp} (hk : ∀ d, (k d).clock = d.clock)
    (h : d.clock = q) : (d.bring m b stages k).clock = q := by
  subst h
  unfold Dev.bring
  repeat' split
  all_goals simp [hk]

@[simp] theorem Dev.clock_bringEnd (d : Dev) (m : MastId) (st : Status) (stage : Option Stage) :
    (d.bringEnd m st stage).clock = d.clock := by simp [Dev.bringEnd]

@[simp] theorem Dev.clock_topoLoadStart (d : Dev) (m : MastId) : (d.topoLoadStart m).clock = d.clock := by
  unfold Dev.topoLoadStart
  exact Dev.clock_bring' (by intros; simp) (by simp)

@[simp] theorem Dev.clock_enableTile (d : Dev) (m : MastId) (t : Nat) : (d.enableTile m t).clock = d.clock := by simp [Dev.enableTile]

@[simp] theorem Dev.clock_powerDone (d : Dev) (m : MastId) : (d.powerDone m).clock = d.clock := by
  unfold Dev.powerDone
  repeat' first
    | with_reducible rfl | (simp; done) | assumption | refine Dev.clock_if ?_ ?_ | refine Dev.clock_each' ?_ ?_ | split
    | (intro _) | simp

@[simp] theorem Dev.clock_powerStart (d : Dev) (m : MastId) : (d.powerStart m).clock = d.clock := by
  unfold Dev.powerStart
  repeat' first
    | with_reducible rfl | (simp; done) | assumption | refine Dev.clock_if ?_ ?_ | refine Dev.clock_each' ?_ ?_
    | refine Dev.clock_bring' ?_ ?_ | split | (intro _) | simp

@[simp] theorem Dev.clock_seedRestoreStart (d : Dev) (m : MastId) : (d.seedRestoreStart m).clock = d.clock := by
  unfold Dev.seedRestoreStart
  exact Dev.clock_bring' (by intros; simp) (by simp)

@[simp] theorem Dev.clock_loadSeed (d : Dev) (g : SeedImage) : (d.loadSeed g).clock = d.clock := by simp [Dev.loadSeed]

@[simp] theorem Dev.clock_loopArmStart (d : Dev) (m : MastId) : (d.loopArmStart m).clock = d.clock := by
  unfold Dev.loopArmStart
  exact Dev.clock_bring' (by intros; simp) (by simp)

@[simp] theorem Dev.clock_retarget (d : Dev) (t l : Nat) (hold : Bool) (f : Drive → Drive) :
    (d.retarget t l hold f).clock = d.clock := by simp [Dev.retarget]

@[simp] theorem Dev.clock_retargetAll (d : Dev) (t : Nat) (f : Drive → Drive) : (d.retargetAll t f).clock = d.clock := by simp [Dev.retargetAll]

@[simp] theorem Dev.clock_setTgt (d : Dev) (t l : Nat) (hold : Bool) (g : Tgt) : (d.setTgt t l hold g).clock = d.clock := by
  unfold Dev.setTgt
  repeat' first
    | with_reducible rfl | (simp; done) | assumption | refine Dev.clock_if ?_ ?_ | refine Dev.clock_act' ?_ ?_ | split
    | (intro _) | simp

@[simp] theorem Dev.clock_applyImm (d : Dev) (t : Nat) : (d.applyImm t).clock = d.clock := by
  unfold Dev.applyImm
  repeat' first
    | with_reducible rfl | (simp; done) | assumption | refine Dev.clock_if ?_ ?_ | refine Dev.clock_each' ?_ ?_ | split
    | (intro _) | simp

@[simp] theorem Dev.clock_takeParams (d : Dev) (t : Nat) : (d.takeParams t).clock = d.clock := by
  unfold Dev.takeParams
  repeat' first
    | with_reducible rfl | (simp; done) | assumption | refine Dev.clock_if ?_ ?_ | refine Dev.clock_each' ?_ ?_
    | refine Dev.clock_act' ?_ ?_ | refine Dev.clock_foldl' ?_ ?_ | split | (intro _) | simp

@[simp] theorem Dev.clock_doom (d : Dev) (m : MastId) (x : Desc) (y : Sheaf) (st : Status) :
    (d.doom m x y st).clock = d.clock := by simp [Dev.doom]

@[simp] theorem Dev.clock_take (d : Dev) (m : MastId) (x : Desc) (y : Sheaf) (f : Sheaf → Sheaf) :
    (d.take m x y f).clock = d.clock := by simp [Dev.take]

theorem Dev.clock_action' {d : Dev} {ring seq op perm : Nat} {k : MastId → Desc → Sheaf → Dev → Dev} {q : Nat × Stamp} (hk : ∀ a0 a1 a2 d, (k a0 a1 a2 d).clock = d.clock)
    (h : d.clock = q) : (d.action ring seq op perm k).clock = q := by
  subst h
  unfold Dev.action
  repeat' first
    | with_reducible rfl | (simp [hk]; done) | assumption | refine Dev.clock_if ?_ ?_ | refine Dev.clock_start' ?_ ?_ | split
    | (intro _) | simp [hk]

@[simp] theorem Dev.clock_portAct (d : Dev) (m : MastId) (x : Desc) (y : Sheaf) (ps : List Nat) (a : Act) :
    (d.portAct m x y ps a).clock = d.clock := by
  unfold Dev.portAct
  repeat' split
  all_goals simp

@[simp] theorem Dev.clock_cellAct (d : Dev) (m : MastId) (x : Desc) (y : Sheaf) (cell n : Nat) (bad : Option Status) (a : Act) :
    (d.cellAct m x y cell n bad a).clock = d.clock := by
  unfold Dev.cellAct
  repeat' split
  all_goals simp

@[simp] theorem Dev.clock_bind (d : Dev) (m : MastId) (k : SKey) (at_ : Option Stamp) (due : Bool) :
    (d.bind m k at_ due).clock = d.clock := by
  unfold Dev.bind
  split <;> simp

theorem Dev.clock_bulk' {d : Dev} {ring seq op perm : Nat} {slot : SlotIn} {k : MastId → Desc → Sheaf → Dev → Dev} {q : Nat × Stamp} (hk : ∀ a0 a1 a2 d, (k a0 a1 a2 d).clock = d.clock)
    (h : d.clock = q) : (d.bulk ring seq op perm slot k).clock = q := by
  subst h
  unfold Dev.bulk
  repeat' first
    | with_reducible rfl | (simp [hk]; done) | assumption | refine Dev.clock_if ?_ ?_ | refine Dev.clock_start' ?_ ?_
    | refine Dev.clock_slotHold' ?_ ?_ ?_ | split | (intro _) | simp [hk]

@[simp] theorem Dev.clock_changesOf (d : Dev) (m : MastId) (y : Sheaf) (sets : List CellSet) (map : List (Nat × Nat)) :
    ((d.changesOf m y sets map).2).clock = d.clock := by simp [Dev.changesOf]

@[simp] theorem Dev.clock_planeAfter (d : Dev) (m : MastId) (y : Sheaf) (migrate : Bool) (sets : List CellSet) (map : List (Nat × Nat)) :
    ((d.planeAfter m y migrate sets map).2).clock = d.clock := by
  unfold Dev.planeAfter
  repeat' first
    | with_reducible rfl | (simp; done) | assumption | refine Dev.clock_if ?_ ?_ | split | (intro _) | simp

@[simp] theorem Dev.clock_solved (d : Dev) (m : MastId) (k : SKey) (sets : List CellSet) (map : List (Nat × Nat)) (full migrate : Bool) :
    (d.solved m k sets map full migrate).clock = d.clock := by
  unfold Dev.solved
  repeat' first
    | with_reducible rfl | (simp; done) | assumption | refine Dev.clock_if ?_ ?_ | refine Dev.clock_each' ?_ ?_ | split
    | (intro _) | simp

@[simp] theorem Dev.clock_newTsid (d : Dev) (m : MastId) (k : SKey) : (d.newTsid m k).clock = d.clock := by simp [Dev.newTsid]

@[simp] theorem Dev.clock_chargeSolve (d : Dev) (m : MastId) (ring us : Nat) : (d.chargeSolve m ring us).clock = d.clock := by simp [Dev.chargeSolve]

@[simp] theorem Dev.clock_driveQueue (d : Dev) (m : MastId) (sets : List CellSet) (full : Bool) :
    (d.driveQueue m sets full).clock = d.clock := by
  unfold Dev.driveQueue
  repeat' first
    | with_reducible rfl | (simp; done) | assumption | refine Dev.clock_if ?_ ?_ | refine Dev.clock_foldl' ?_ ?_ | split
    | (intro _) | simp

@[simp] theorem Dev.clock_unhealed (d : Dev) (m : MastId) : (d.unhealed m).clock = d.clock := by
  unfold Dev.unhealed
  exact Dev.clock_each' (by intros; simp) (by simp)

@[simp] theorem Dev.clock_solveSheaf (d : Dev) (m : MastId) (y : Sheaf) (res : Solve) :
    (d.solveSheaf m y res).clock = d.clock := by
  unfold Dev.solveSheaf
  repeat' first
    | with_reducible rfl | (simp; done) | assumption | refine Dev.clock_if ?_ ?_ | refine Dev.clock_when' ?_ ?_ | split
    | (intro _) | simp

@[simp] theorem Dev.clock_solveHeal (d : Dev) (m : MastId) (y : Sheaf) (res : Solve) :
    (d.solveHeal m y res).clock = d.clock := by
  unfold Dev.solveHeal
  repeat' first
    | with_reducible rfl | (simp; done) | assumption | refine Dev.clock_if ?_ ?_ | split | (intro _) | simp

@[simp] theorem Dev.clock_solverBusy (d : Dev) (m : MastId) (y : Sheaf) : (d.solverBusy m y).clock = d.clock := by
  unfold Dev.solverBusy
  repeat' split
  all_goals simp

@[simp] theorem Dev.clock_solveFor (d : Dev) (m : MastId) (y : Sheaf) (res : Solve) :
    (d.solveFor m y res).clock = d.clock := by
  unfold Dev.solveFor
  repeat' first
    | with_reducible rfl | (simp; done) | assumption | refine Dev.clock_if ?_ ?_ | split | (intro _) | simp

@[simp] theorem Dev.clock_planDone (d : Dev) (m : MastId) (j : PlanJob) (res : Solve) :
    (d.planDone m j res).clock = d.clock := by
  unfold Dev.planDone
  repeat' first
    | with_reducible rfl | (simp; done) | assumption | refine Dev.clock_if ?_ ?_ | split | (intro _) | simp

@[simp] theorem Dev.clock_topoSwap (d : Dev) (slot : SlotIn) (m : MastId) (x : Desc) :
    (d.topoSwap slot m x).clock = d.clock := by
  unfold Dev.topoSwap
  repeat' first
    | with_reducible rfl | (simp; done) | assumption | refine Dev.clock_if ?_ ?_ | refine Dev.clock_drawNat' ?_ ?_
    | refine Dev.clock_need' ?_ ?_ | refine Dev.clock_slotIn' ?_ ?_ ?_ | split | (intro _) | simp

@[simp] theorem Dev.clock_retone (d : Dev) (old : Nat → Nat) (t : Nat) : (d.retone old t).clock = d.clock :=
  Dev.clock_each _ (fun _ _ => Dev.clock_if rfl (Dev.clock_onCell _ _ _)) _ d

@[simp] theorem Dev.clock_decideStrike (d : Dev) (m : MastId) (k : SKey) (D : Nat) :
    (d.decideStrike m k D).clock = d.clock := by simp [Dev.decideStrike]

@[simp] theorem Dev.clock_notStruck (d : Dev) (m : MastId) (y : Sheaf) (st : Status) :
    (d.notStruck m y st).clock = d.clock := by
  unfold Dev.notStruck
  split <;> simp

@[simp] theorem Dev.clock_applyChange (d : Dev) (t : Nat) (c : Change) : (d.applyChange t c).clock = d.clock := by
  unfold Dev.applyChange
  repeat' split
  all_goals simp

@[simp] theorem Dev.clock_applyArmed (d : Dev) (t : Nat) (a : Arm) : (d.applyArmed t a).clock = d.clock := by
  simp only [Dev.applyArmed, Dev.clock_takeParams, Dev.clock_onTile]
  exact Dev.clock_each _ (fun _ _ => Dev.clock_applyChange _ _ _) _ d

@[simp] theorem Dev.clock_repairedOn (d : Dev) (t tsid : Nat) : (d.repairedOn t tsid).clock = d.clock := by
  unfold Dev.repairedOn
  repeat' first
    | with_reducible rfl | (simp; done) | assumption | refine Dev.clock_if ?_ ?_ | refine Dev.clock_act' ?_ ?_ | split
    | (intro _) | simp

@[simp] theorem Dev.clock_healStruck (d : Dev) (m : MastId) (e : Nat) (now : Stamp) :
    (d.healStruck m e now).clock = d.clock := by simp [Dev.healStruck]

@[simp] theorem Dev.clock_takeReport (d : Dev) (t : Nat) (r : Rep) : (d.takeReport t r).clock = d.clock := by simp [Dev.takeReport]

@[simp] theorem Dev.clock_missedTwice (d : Dev) (m : MastId) (t tsid : Nat) : (d.missedTwice m t tsid).clock = d.clock := by
  unfold Dev.missedTwice
  exact Dev.clock_each' (by intros; simp) (by simp)

@[simp] theorem Dev.clock_gatherTests (d : Dev) (m : MastId) (t : Nat) : (d.gatherTests m t).clock = d.clock := by simp [Dev.gatherTests]

@[simp] theorem Dev.clock_gather (d : Dev) (m : MastId) (t : Nat) : (d.gather m t).clock = d.clock := by
  unfold Dev.gather
  repeat' first
    | with_reducible rfl | (simp; done) | assumption | refine Dev.clock_if ?_ ?_ | split | (intro _) | simp

@[simp] theorem Dev.clock_lpBoundary (d : Dev) (t : Nat) : (d.lpBoundary t).clock = d.clock := by
  unfold Dev.lpBoundary
  repeat' first
    | with_reducible rfl | (simp; done) | assumption | refine Dev.clock_if ?_ ?_ | split | (intro _) | simp

@[simp] theorem Dev.clock_startScan (d : Dev) (t mv : Nat) : (d.startScan t mv).clock = d.clock := by
  unfold Dev.startScan
  repeat' first
    | with_reducible rfl | (simp; done) | assumption | refine Dev.clock_if ?_ ?_ | refine Dev.clock_foldl' ?_ ?_ | split
    | (intro _) | simp

@[simp] theorem Dev.clock_convert (d : Dev) (t k light : Nat) : (d.convert t k light).clock = d.clock := by
  unfold Dev.convert
  repeat' first
    | with_reducible rfl | (simp; done) | assumption | refine Dev.clock_if ?_ ?_ | split | (intro _) | simp

@[simp] theorem Dev.clock_judge (d : Dev) (t l arm : Nat) : (d.judge t l arm).clock = d.clock := by
  unfold Dev.judge
  repeat' first
    | with_reducible rfl | (simp; done) | assumption | refine Dev.clock_if ?_ ?_ | split | (intro _) | simp

@[simp] theorem Dev.clock_judgeScan (d : Dev) (t : Nat) : (d.judgeScan t).clock = d.clock :=
  Dev.clock_if rfl (Dev.clock_each _ (fun _ _ => by simp) _ d)

@[simp] theorem Dev.clock_onKern (d : Dev) (m : MastId) (f : Kern → Kern) : (d.onKern m f).clock = d.clock := by simp [Dev.onKern]

@[simp] theorem Dev.clock_mirrorKern (d : Dev) (m : MastId) : (d.mirrorKern m).clock = d.clock := by
  unfold Dev.mirrorKern
  split <;> simp

@[simp] theorem Dev.clock_kernelStored (d : Dev) (m : MastId) (x : Desc) : (d.kernelStored m x).clock = d.clock := by
  unfold Dev.kernelStored
  split <;> simp

@[simp] theorem Dev.clock_bindCore (d : Dev) (m : MastId) (k : Nat) (keep : Bool) :
    (d.bindCore m k keep).clock = d.clock := by
  unfold Dev.bindCore
  split <;> simp

@[simp] theorem Dev.clock_kernelBind (d : Dev) (tile handle : Nat) (m : MastId) (x : Desc) :
    (d.kernelBind tile handle m x).clock = d.clock := by
  unfold Dev.kernelBind
  repeat' first
    | with_reducible rfl | (simp; done) | assumption | refine Dev.clock_if ?_ ?_ | refine Dev.clock_need' ?_ ?_ | split
    | (intro _) | simp

@[simp] theorem Dev.clock_kernelDrop (d : Dev) (handle : Nat) (m : MastId) (x : Desc) :
    (d.kernelDrop handle m x).clock = d.clock := by
  unfold Dev.kernelDrop
  repeat' first
    | with_reducible rfl | (simp; done) | assumption | refine Dev.clock_if ?_ ?_ | refine Dev.clock_need' ?_ ?_ | split
    | (intro _) | simp

@[simp] theorem Dev.clock_startCores (d : Dev) (sb : MastId) : (d.startCores sb).clock = d.clock := by
  unfold Dev.startCores
  repeat' first
    | with_reducible rfl | (simp; done) | assumption | refine Dev.clock_if ?_ ?_ | refine Dev.clock_each' ?_ ?_
    | refine Dev.clock_foldl' ?_ ?_ | split | (intro _) | simp

@[simp] theorem Dev.clock_putEntry (d : Dev) (m : MastId) (k s : Nat) : (d.putEntry m k s).clock = d.clock := by
  unfold Dev.putEntry
  repeat' first
    | with_reducible rfl | (simp; done) | assumption | refine Dev.clock_if ?_ ?_ | split | (intro _) | simp

@[simp] theorem Dev.clock_latePost (d : Dev) (m : MastId) (k : Nat) : (d.latePost m k).clock = d.clock := by
  unfold Dev.latePost
  repeat' first
    | with_reducible rfl | (simp; done) | assumption | refine Dev.clock_if ?_ ?_ | split | (intro _) | simp

@[simp] theorem Dev.clock_takePost (d : Dev) (m : MastId) (k : Nat) (p : PostIn) : (d.takePost m k p).clock = d.clock := by
  unfold Dev.takePost
  repeat' first
    | with_reducible rfl | (simp; done) | assumption | refine Dev.clock_if ?_ ?_ | refine Dev.clock_drawNat' ?_ ?_ | split
    | (intro _) | simp

@[simp] theorem Dev.clock_overruns (d : Dev) (m : MastId) (k : Nat) : (d.overruns m k).clock = d.clock := by
  unfold Dev.overruns
  repeat' first
    | with_reducible rfl | (simp; done) | assumption | refine Dev.clock_if ?_ ?_ | refine Dev.clock_foldl' ?_ ?_ | split
    | (intro _) | simp

@[simp] theorem Dev.clock_frameLost (d : Dev) (m : MastId) (t typ : Nat) : (d.frameLost m t typ).clock = d.clock := by
  unfold Dev.frameLost
  repeat' split
  all_goals simp

@[simp] theorem Dev.clock_beginPass (d : Dev) (m : MastId) (r : PassReq) : (d.beginPass m r).clock = d.clock := by simp [Dev.beginPass]

@[simp] theorem Dev.clock_calFullStart (d : Dev) (m : MastId) : (d.calFullStart m).clock = d.clock := by
  unfold Dev.calFullStart
  exact Dev.clock_bring' (by intros; simp) (by simp)

@[simp] theorem Dev.clock_sweepDrive (d : Dev) (m : MastId) (cells : List (Nat × Nat)) :
    (d.sweepDrive m cells).clock = d.clock := by simp [Dev.sweepDrive]

@[simp] theorem Dev.clock_dithers (d : Dev) (m : MastId) (which : PassCell → Bool) : (d.dithers m which).clock = d.clock := by simp [Dev.dithers]

@[simp] theorem Dev.clock_sweepDwell (d : Dev) (m : MastId) (u : Nat) (raw : List Nat) (ovr : Bool) (c : PassCell) :
    (d.sweepDwell m u raw ovr c).clock = d.clock := by
  unfold Dev.sweepDwell
  repeat' split
  all_goals simp

@[simp] theorem Dev.clock_dwell (d : Dev) (m : MastId) (p : Pass) (use : DwellUse) (u : Nat) (raw : List Nat) (ovr : Bool) :
    (d.dwell m p use u raw ovr).clock = d.clock := by
  unfold Dev.dwell
  repeat' split
  all_goals simp

@[simp] theorem Dev.clock_applyCell (d : Dev) (c : PassCell) : (d.applyCell c).clock = d.clock := by
  unfold Dev.applyCell
  repeat' first
    | with_reducible rfl | (simp; done) | assumption | refine Dev.clock_if ?_ ?_ | refine Dev.clock_act' ?_ ?_ | split
    | (intro _) | simp

@[simp] theorem Dev.clock_applyNbs (d : Dev) (m : MastId) (cells : List PassCell) (c : PassCell) :
    (d.applyNbs m cells c).clock = d.clock := by
  unfold Dev.applyNbs
  repeat' first
    | with_reducible rfl | (simp; done) | assumption | refine Dev.clock_if ?_ ?_ | refine Dev.clock_each' ?_ ?_ | split
    | (intro _) | simp

@[simp] theorem Dev.clock_applyTile (d : Dev) (m : MastId) (p : Pass) (t : Nat) : (d.applyTile m p t).clock = d.clock := by
  unfold Dev.applyTile
  repeat' first
    | with_reducible rfl | (simp; done) | assumption | refine Dev.clock_if ?_ ?_ | refine Dev.clock_each' ?_ ?_
    | refine Dev.clock_drawNat' ?_ ?_ | split | (intro _) | simp

@[simp] theorem Dev.clock_calLatch (d : Dev) (m : MastId) : (d.calLatch m).clock = d.clock := by simp [Dev.calLatch]

@[simp] theorem Dev.clock_onTim (d : Dev) (m : MastId) (f : Tim → Tim) : (d.onTim m f).clock = d.clock := by simp [Dev.onTim]

@[simp] theorem Dev.clock_onHal (d : Dev) (m : MastId) (f : Hal → Hal) : (d.onHal m f).clock = d.clock := by simp [Dev.onHal]

@[simp] theorem Dev.clock_holdover (d : Dev) (m : MastId) : (d.holdover m).clock = d.clock := by
  unfold Dev.holdover
  repeat' first
    | with_reducible rfl | (simp; done) | assumption | refine Dev.clock_if ?_ ?_ | split | (intro _) | simp

@[simp] theorem Dev.clock_acquire (d : Dev) (m : MastId) : (d.acquire m).clock = d.clock := by
  unfold Dev.acquire
  repeat' first
    | with_reducible rfl | (simp; done) | assumption | refine Dev.clock_if ?_ ?_ | split | (intro _) | simp

@[simp] theorem Dev.clock_servo (d : Dev) (m : MastId) (offset corr : Int) : (d.servo m offset corr).clock = d.clock := by simp [Dev.servo]

@[simp] theorem Dev.clock_synced (d : Dev) (m : MastId) (port : Nat) (rx origin correction corr : Int) :
    (d.synced m port rx origin correction corr).clock = d.clock := by
  unfold Dev.synced
  repeat' first
    | with_reducible rfl | (simp; done) | assumption | refine Dev.clock_if ?_ ?_ | split | (intro _) | simp

@[simp] theorem Dev.clock_reselect (d : Dev) (m : MastId) : (d.reselect m).clock = d.clock := by
  unfold Dev.reselect
  repeat' first
    | with_reducible rfl | (simp; done) | assumption | refine Dev.clock_if ?_ ?_ | split | (intro _) | simp

@[simp] theorem Dev.clock_pps (d : Dev) (m : MastId) : (d.pps m).clock = d.clock := by
  unfold Dev.pps
  split <;> simp

@[simp] theorem Dev.clock_ppsMoved (d : Dev) (m : MastId) (was : Nat) : (d.ppsMoved m was).clock = d.clock := by
  unfold Dev.ppsMoved
  split <;> simp

@[simp] theorem Dev.clock_halLocks (d : Dev) (m : MastId) : (d.halLocks m).clock = d.clock := by
  unfold Dev.halLocks
  repeat' first
    | with_reducible rfl | (simp; done) | assumption | refine Dev.clock_if ?_ ?_ | split | (intro _) | simp

@[simp] theorem Dev.clock_logAll (d : Dev) (m : MastId) (l : List FaultMsg) : (d.logAll m l).clock = d.clock := by
  unfold Dev.logAll
  repeat' first
    | with_reducible rfl | (simp; done) | assumption | refine Dev.clock_if ?_ ?_ | refine Dev.clock_each' ?_ ?_ | split
    | (intro _) | simp

@[simp] theorem Dev.clock_reports (d : Dev) (m : MastId) (l : List FaultMsg) : (d.reports m l).clock = d.clock := by
  unfold Dev.reports
  repeat' first
    | with_reducible rfl | (simp; done) | assumption | refine Dev.clock_if ?_ ?_ | refine Dev.clock_each' ?_ ?_ | split
    | (intro _) | simp

@[simp] theorem Dev.clock_ethFenced (d : Dev) (m : MastId) (fence : Option FUnit) :
    (d.ethFenced m fence).clock = d.clock := by
  unfold Dev.ethFenced
  repeat' split
  all_goals simp

@[simp] theorem Dev.clock_restore (d : Dev) (m : MastId) (u : FUnit) : (d.restore m u).clock = d.clock := by
  unfold Dev.restore
  repeat' first
    | with_reducible rfl | (simp; done) | assumption | refine Dev.clock_if ?_ ?_ | refine Dev.clock_each' ?_ ?_ | split
    | (intro _) | simp

@[simp] theorem Dev.clock_unfence (d : Dev) (m : MastId) (u : FUnit) : (d.unfence m u).clock = d.clock := by
  unfold Dev.unfence
  split <;> simp

@[simp] theorem Dev.clock_transient (d : Dev) (m : MastId) (u : FUnit) : (d.transient m u).clock = d.clock := by
  unfold Dev.transient
  exact Dev.clock_each' (by intros; simp) (by simp)

@[simp] theorem Dev.clock_retest (d : Dev) (m : MastId) (u : FUnit) : (d.retest m u).clock = d.clock := by
  unfold Dev.retest
  repeat' split
  all_goals simp

@[simp] theorem Dev.clock_startTests (m : MastId) (l : List FUnit) :
    ∀ d : Dev, (d.startTests m l).clock = d.clock := by
  induction l with
  | nil => intro d; rfl
  | cons u r ih => intro d; unfold Dev.startTests; split <;> simp [ih]

@[simp] theorem Dev.clock_streamOpenBody (d : Dev) (stream : Nat) (slot : SlotIn) (m : MastId) (x : Desc) :
    (d.streamOpenBody stream slot m x).clock = d.clock := by
  unfold Dev.streamOpenBody
  repeat' first
    | with_reducible rfl | (simp; done) | assumption | refine Dev.clock_if ?_ ?_ | refine Dev.clock_drawBool' ?_ ?_
    | refine Dev.clock_need' ?_ ?_ | refine Dev.clock_slotIn' ?_ ?_ ?_ | split | (intro _) | simp

@[simp] theorem Dev.clock_streamCloseBody (d : Dev) (stream : Nat) (m : MastId) (x : Desc) :
    (d.streamCloseBody stream m x).clock = d.clock := by
  unfold Dev.streamCloseBody
  repeat' first
    | with_reducible rfl | (simp; done) | assumption | refine Dev.clock_if ?_ ?_ | refine Dev.clock_need' ?_ ?_ | split
    | (intro _) | simp

@[simp] theorem Dev.clock_endStream (d : Dev) (m : MastId) (stream : Nat) (owner : Option (Nat × Nat)) :
    (d.endStream m stream owner).clock = d.clock := by
  unfold Dev.endStream
  repeat' first
    | with_reducible rfl | (simp; done) | assumption | refine Dev.clock_if ?_ ?_ | split | (intro _) | simp

@[simp] theorem Dev.clock_shapeSetBody (d : Dev) (kind index rate burst weight : Nat) (m : MastId) (x : Desc) :
    (d.shapeSetBody kind index rate burst weight m x).clock = d.clock := by
  unfold Dev.shapeSetBody
  repeat' first
    | with_reducible rfl | (simp; done) | assumption | refine Dev.clock_if ?_ ?_ | refine Dev.clock_need' ?_ ?_ | split
    | (intro _) | simp

@[simp] theorem Dev.clock_consultPort (d : Dev) (m : MastId) (port : Nat) : (d.consultPort m port).clock = d.clock := by
  unfold Dev.consultPort
  repeat' first
    | with_reducible rfl | (simp; done) | assumption | refine Dev.clock_if ?_ ?_ | refine Dev.clock_each' ?_ ?_ | split
    | (intro _) | simp

@[simp] theorem Dev.clock_sendPacket (d : Dev) (m : MastId) (port i t : Nat) (y : Stream) (p : Packet) (n : Nat) :
    (d.sendPacket m port i t y p n).clock = d.clock := by simp [Dev.sendPacket]

@[simp] theorem Dev.clock_setLink (d : Dev) (m : MastId) (port : Nat) (up : Bool) :
    (d.setLink m port up).clock = d.clock := by simp [Dev.setLink]

@[simp] theorem Dev.clock_giveSnapshot (d : Dev) (m : MastId) (lat : Stamp) (p : Payload) (j : Nat × Nat × Nat × Bool) :
    (d.giveSnapshot m lat p j).clock = d.clock := by
  unfold Dev.giveSnapshot; split
  · rfl
  · next x _ =>
    have h : ∀ e : Dev, e.beat = e.clock.1 := fun _ => rfl
    simp [h, Dev.clock_writeOut]; rfl

@[simp] theorem Dev.clock_restartRecord (d : Dev) (m : MastId) : (d.restartRecord m).clock = d.clock := by simp [Dev.restartRecord]

@[simp] theorem Dev.clock_gatherFrame (d : Dev) (m : MastId) : (d.gatherFrame m).clock = d.clock := by
  unfold Dev.gatherFrame
  repeat' first
    | with_reducible rfl | (simp; done) | assumption | refine Dev.clock_if ?_ ?_ | split | (intro _) | simp

@[simp] theorem Dev.clock_putFrame (d : Dev) (m : MastId) (f : Frame) : (d.putFrame m f).clock = d.clock := by simp [Dev.putFrame]

@[simp] theorem Dev.clock_setUnit (d : Dev) (m : MastId) (u : Nat) (x : Unit_) : (d.setUnit m u x).clock = d.clock := by simp [Dev.setUnit]

@[simp] theorem Dev.clock_returnCap (d : Dev) (m : MastId) (unit : Nat) (u : Unit_) (inc : Bool) :
    (d.returnCap m unit u inc).clock = d.clock := by
  unfold Dev.returnCap
  split <;> simp

@[simp] theorem Dev.clock_putBlock (d : Dev) (m : MastId) (unit : Nat) (u : Unit_) (b : List Nat) (next : Int) :
    (d.putBlock m unit u b next).clock = d.clock := by
  unfold Dev.putBlock
  repeat' first
    | with_reducible rfl | (simp; done) | assumption | refine Dev.clock_if ?_ ?_ | split | (intro _) | simp

@[simp] theorem Dev.clock_lagOk (d : Dev) (m : MastId) : (d.lagOk m).clock = d.clock := by
  unfold Dev.lagOk
  repeat' first
    | with_reducible rfl | (simp; done) | assumption | refine Dev.clock_if ?_ ?_ | refine Dev.clock_each' ?_ ?_ | split
    | (intro _) | simp

@[simp] theorem Dev.clock_endCapture (d : Dev) (m : MastId) (unit : Nat) (st : Status) (inc : Bool) :
    (d.endCapture m unit st inc).clock = d.clock := by
  unfold Dev.endCapture
  repeat' first
    | with_reducible rfl | (simp; done) | assumption | refine Dev.clock_if ?_ ?_ | refine Dev.clock_each' ?_ ?_ | split
    | (intro _) | simp

@[simp] theorem Dev.clock_saveDone (d : Dev) (m : MastId) : (d.saveDone m).clock = d.clock := by
  unfold Dev.saveDone
  repeat' first
    | with_reducible rfl | (simp; done) | assumption | refine Dev.clock_if ?_ ?_ | split | (intro _) | simp

@[simp] theorem Dev.clock_onSec (d : Dev) (m : MastId) (f : List RcptJob → List RcptJob) : (d.onSec m f).clock = d.clock := by simp [Dev.onSec]

theorem Dev.clock_sign' {d : Dev} {msg : List Byte} {k : Nat × Nat → Dev → Dev} {q : Nat × Stamp} (hk : ∀ a0 d, (k a0 d).clock = d.clock)
    (h : d.clock = q) : (d.sign msg k).clock = q := by
  subst h
  simp [Dev.sign, hk]

@[simp] theorem Dev.clock_burnKeys (d : Dev) (m : MastId) (x : Desc) (i : Burn) : (d.burnKeys m x i).clock = d.clock := by simp [Dev.burnKeys]

@[simp] theorem Dev.clock_burnt (d : Dev) (m : MastId) (x : Desc) (i : Burn) : (d.burnt m x i).clock = d.clock := by simp [Dev.burnt]

@[simp] theorem Dev.clock_mirrorTables (d : Dev) (m : MastId) : (d.mirrorTables m).clock = d.clock := by
  unfold Dev.mirrorTables
  repeat' first
    | with_reducible rfl | (simp; done) | assumption | refine Dev.clock_if ?_ ?_ | refine Dev.clock_foldl' ?_ ?_ | split
    | (intro _) | simp

@[simp] theorem Dev.clock_lastingEffect (d : Dev) (m : MastId) (x : Desc) (i : Instr) :
    (d.lastingEffect m x i).clock = d.clock := by
  unfold Dev.lastingEffect
  split <;> simp

@[simp] theorem Dev.clock_undefer (d : Dev) (m : MastId) (ring seq : Nat) : (d.undefer m ring seq).clock = d.clock := by
  unfold Dev.undefer
  repeat' split
  all_goals simp

@[simp] theorem Dev.clock_judgeProtect (d : Dev) : (d.judgeProtect).clock = d.clock := by
  unfold Dev.judgeProtect
  repeat' first
    | with_reducible rfl | (simp; done) | assumption | refine Dev.clock_if ?_ ?_ | refine Dev.clock_each' ?_ ?_ | split
    | (intro _) | simp

@[simp] theorem Dev.clock_claim (d : Dev) (sb : MastId) (cause : Nat) : (d.claim sb cause).clock = d.clock := by
  unfold Dev.claim
  repeat' first
    | with_reducible rfl | (simp; done) | assumption | refine Dev.clock_if ?_ ?_ | refine Dev.clock_each' ?_ ?_ | split
    | (intro _) | simp

@[simp] theorem Dev.clock_armRecord (d : Dev) (sb : MastId) (a : Arm) (st : Status) (ep : Nat) (tm : Option Stamp) :
    (d.armRecord sb a st ep tm).clock = d.clock := by
  unfold Dev.armRecord
  repeat' split
  all_goals simp

@[simp] theorem Dev.clock_mirrorLoops (d : Dev) (sb : MastId) (y : Sheaf) : (d.mirrorLoops sb y).clock = d.clock := by simp [Dev.mirrorLoops]

@[simp] theorem Dev.clock_lateStrike (d : Dev) (sb : MastId) (a : Arm) (short : List Nat) :
    (d.lateStrike sb a short).clock = d.clock := by
  unfold Dev.lateStrike
  repeat' first
    | with_reducible rfl | (simp; done) | assumption | refine Dev.clock_if ?_ ?_ | refine Dev.clock_foldl' ?_ ?_ | split
    | (intro _) | simp

@[simp] theorem Dev.clock_settleEpoch (d : Dev) (sb : MastId) (e : Nat) : (d.settleEpoch sb e).clock = d.clock := by
  unfold Dev.settleEpoch
  repeat' first
    | with_reducible rfl | (simp; done) | assumption | refine Dev.clock_if ?_ ?_ | refine Dev.clock_each' ?_ ?_ | split
    | (intro _) | simp

@[simp] theorem Dev.clock_settle (d : Dev) (sb : MastId) (stale : Bool) : (d.settle sb stale).clock = d.clock := by
  unfold Dev.settle
  repeat' first
    | with_reducible rfl | (simp; done) | assumption | refine Dev.clock_if ?_ ?_ | refine Dev.clock_each' ?_ ?_
    | refine Dev.clock_foldl' ?_ ?_ | split | (intro _) | simp

@[simp] theorem Dev.clock_finishLasting (d : Dev) (sb : MastId) (x : Desc) : (d.finishLasting sb x).clock = d.clock := by
  unfold Dev.finishLasting
  repeat' first
    | with_reducible rfl | (simp; done) | assumption | refine Dev.clock_if ?_ ?_ | refine Dev.clock_each' ?_ ?_ | split
    | (intro _) | simp

@[simp] theorem Dev.clock_giveBack (d : Dev) (m : MastId) (x : Desc) : (d.giveBack m x).clock = d.clock := by
  unfold Dev.giveBack
  exact Dev.clock_each' (by intros; simp) (by simp)

@[simp] theorem Dev.clock_reconcile (d : Dev) (sb : MastId) (x : Desc) : (d.reconcile sb x).clock = d.clock := by
  unfold Dev.reconcile
  repeat' first
    | with_reducible rfl | (simp; done) | assumption | refine Dev.clock_if ?_ ?_ | split | (intro _) | simp

@[simp] theorem Dev.clock_endPass (d : Dev) (sb : MastId) : (d.endPass sb).clock = d.clock := by
  unfold Dev.endPass
  split <;> simp

@[simp] theorem Dev.clock_startLoops (d : Dev) : (d.startLoops).clock = d.clock := by simp [Dev.startLoops]

@[simp] theorem Dev.clock_reopenStreams (d : Dev) (sb : MastId) : (d.reopenStreams sb).clock = d.clock := by simp [Dev.reopenStreams]

@[simp] theorem Dev.clock_freshTests (d : Dev) (sb : MastId) : (d.freshTests sb).clock = d.clock := by simp [Dev.freshTests]

@[simp] theorem Dev.clock_rewrite (d : Dev) (sb : MastId) : (d.rewrite sb).clock = d.clock := by
  unfold Dev.rewrite
  repeat' first
    | with_reducible rfl | (simp; done) | assumption | refine Dev.clock_if ?_ ?_ | refine Dev.clock_each' ?_ ?_
    | refine Dev.clock_foldl' ?_ ?_ | split | (intro _) | simp

@[simp] theorem Dev.clock_staleRings (d : Dev) (sb : MastId) : (d.staleRings sb).clock = d.clock := by
  unfold Dev.staleRings
  repeat' first
    | with_reducible rfl | (simp; done) | assumption | refine Dev.clock_if ?_ ?_ | refine Dev.clock_each' ?_ ?_ | split
    | (intro _) | simp

@[simp] theorem Dev.clock_newHolder (d : Dev) (sb : MastId) (b cause : Nat) : (d.newHolder sb b cause).clock = d.clock := by
  unfold Dev.newHolder
  repeat' first
    | with_reducible rfl | (simp; done) | assumption | refine Dev.clock_if ?_ ?_ | refine Dev.clock_when' ?_ ?_ | split
    | (intro _) | simp

@[simp] theorem Dev.clock_onMem (d : Dev) (m : MastId) (f : Mem → Mem) : (d.onMem m f).clock = d.clock := by simp [Dev.onMem]

@[simp] theorem Dev.clock_sramCorrected (d : Dev) (m : MastId) (bank : Nat) : (d.sramCorrected m bank).clock = d.clock := by simp [Dev.sramCorrected]

@[simp] theorem Dev.clock_hbmCorrected (d : Dev) (m : MastId) (channel : Nat) (addr : BitVec 38) :
    (d.hbmCorrected m channel addr).clock = d.clock := by simp [Dev.hbmCorrected]

@[simp] theorem Dev.clock_endPassOf (d : Dev) (m : MastId) (src : PassFrom) : (d.endPassOf m src).clock = d.clock := by
  unfold Dev.endPassOf
  repeat' split
  all_goals simp

@[simp] theorem Dev.clock_endLost (d : Dev) (m : MastId) (x : Desc) : (d.endLost m x).clock = d.clock := by
  unfold Dev.endLost
  split <;> simp

@[simp] theorem Dev.clock_loseOp (d : Dev) (m : MastId) (ring seq : Nat) : (d.loseOp m ring seq).clock = d.clock := by
  unfold Dev.loseOp
  repeat' split
  all_goals simp

@[simp] theorem Dev.clock_feed (d : Dev) (m : MastId) (l : List Byte) : (d.feed m l).clock = d.clock := by simp [Dev.feed]

@[simp] theorem Dev.clock_onPwr (d : Dev) (m : MastId) (f : Pwr → Pwr) : (d.onPwr m f).clock = d.clock := by simp [Dev.onPwr]

@[simp] theorem Dev.clock_tileUp (d : Dev) (t : Nat) : (d.tileUp t).clock = d.clock := by simp [Dev.tileUp]

@[simp] theorem Dev.clock_endSprint (d : Dev) (m : MastId) (capped : Bool) : (d.endSprint m capped).clock = d.clock := by
  unfold Dev.endSprint
  split <;> simp

@[simp] theorem Dev.clock_endWait (d : Dev) (m : MastId) : (d.endWait m).clock = d.clock := by simp [Dev.endWait]

@[simp] theorem Dev.clock_setLevel (d : Dev) (m : MastId) (l : Nat) : (d.setLevel m l).clock = d.clock := by simp [Dev.setLevel]

@[simp] theorem Dev.clock_hover (d : Dev) (m : MastId) : (d.hover m).clock = d.clock := by
  unfold Dev.hover
  repeat' first
    | with_reducible rfl | (simp; done) | assumption | refine Dev.clock_if ?_ ?_ | split | (intro _) | simp

@[simp] theorem Dev.clock_pmbusRead (d : Dev) (m : MastId) (replies : List (Nat × Option Nat)) :
    (d.pmbusRead m replies).clock = d.clock := by
  unfold Dev.pmbusRead
  repeat' first
    | with_reducible rfl | (simp; done) | assumption | refine Dev.clock_if ?_ ?_ | refine Dev.clock_each' ?_ ?_ | split
    | (intro _) | simp

@[simp] theorem Dev.clock_readRegAt (d : Dev) (m : MastId) (off : Nat) (half : Half) (ns : Nat) :
    (d.readRegAt m off half ns).clock = d.clock := by
  unfold Dev.readRegAt
  repeat' split
  all_goals simp

@[simp] theorem Dev.clock_readReg (d : Dev) (m : MastId) (off : Nat) (half : Half) :
    (d.readReg m off half).clock = d.clock := by
  unfold Dev.readReg
  repeat' split
  all_goals simp

@[simp] theorem Dev.clock_bringStart (d : Dev) (m : MastId) (b : Bring) : (d.bringStart m b).clock = d.clock := by
  unfold Dev.bringStart
  split <;> simp

@[simp] theorem Dev.clock_bringWrite (d : Dev) (w : RegWr) : (d.bringWrite w).clock = d.clock := by
  unfold Dev.bringWrite
  refine Dev.clock_barWrite' (fun m _ v d => ?_) rfl
  split
  · rfl
  · split <;> simp
  · exact Dev.clock_if rfl (by simp)

@[simp] theorem Dev.clock_loadA (d : Dev) (k : Nat) (i : Instr) (f : MemF) (al n : Nat) (put : Nat → Core → Core) :
    (d.loadA k i f al n put).clock = d.clock := by
  unfold Dev.loadA
  exact Dev.clock_slotA' (by intros; simp) (by simp)

@[simp] theorem Dev.clock_storeA (d : Dev) (k : Nat) (i : Instr) (f : MemF) (n : Nat) (val : Core → Nat) :
    (d.storeA k i f n val).clock = d.clock := by simp [Dev.storeA]

@[simp] theorem Dev.clock_branchIf (d : Dev) (k : Nat) (i : Instr) (off : BitVec 16) (cond : Core → Bool) (f : Core → Core) :
    (d.branchIf k i off cond f).clock = d.clock := by simp [Dev.branchIf]

@[simp] theorem Dev.clock_aluB (d : Dev) (k : Nat) (i : Instr) (f : AluF) (n : Nat) (op : Word → Word → AluRes) :
    (d.aluB k i f n op).clock = d.clock := by simp [Dev.aluB]

@[simp] theorem Dev.clock_tillCount (d : Dev) (m : MastId) : (d.tillCount m).clock = d.clock :=
  Dev.clock_each _ (fun _ _ => Dev.clock_when' (fun _ => by simp) rfl) _ d

@[simp] theorem Dev.clock_beatCounts (d : Dev) (m : MastId) : (d.beatCounts m).clock = d.clock := by
  unfold Dev.beatCounts
  repeat' first
    | with_reducible rfl | (simp; done) | assumption | refine Dev.clock_if ?_ ?_ | refine Dev.clock_each' ?_ ?_ | split
    | (intro _) | simp

@[simp] theorem Dev.clock_stalls (d : Dev) (m : MastId) : (d.stalls m).clock = d.clock := by
  unfold Dev.stalls
  exact Dev.clock_each' (by intros; simp) (by simp)

@[simp] theorem Dev.clock_roundDither (d : Dev) (m : MastId) (t : Nat) : (d.roundDither m t).clock = d.clock := by
  unfold Dev.roundDither
  repeat' first
    | with_reducible rfl | (simp; done) | assumption | refine Dev.clock_if ?_ ?_ | refine Dev.clock_each' ?_ ?_ | split
    | (intro _) | simp

@[simp] theorem Dev.clock_heaters (d : Dev) (t mv : Nat) : (d.heaters t mv).clock = d.clock := by
  unfold Dev.heaters
  repeat' first
    | with_reducible rfl | (simp; done) | assumption | refine Dev.clock_if ?_ ?_ | refine Dev.clock_act' ?_ ?_
    | refine Dev.clock_foldl' ?_ ?_ | split | (intro _) | simp

@[simp] theorem Dev.clock_corePeriod (d : Dev) (m : MastId) (t : Nat) : (d.corePeriod m t).clock = d.clock := by
  unfold Dev.corePeriod
  exact Dev.clock_each' (by intros; simp) (by simp)

@[simp] theorem Dev.clock_loadLoops (d : Dev) (m : MastId) (t : Nat) : (d.loadLoops m t).clock = d.clock := by
  unfold Dev.loadLoops
  repeat' first
    | with_reducible rfl | (simp; done) | assumption | refine Dev.clock_if ?_ ?_ | refine Dev.clock_foldl' ?_ ?_ | split
    | (intro _) | simp

@[simp] theorem Dev.clock_ramp (d : Dev) (m : MastId) : (d.ramp m).clock = d.clock := by
  unfold Dev.ramp
  repeat' first
    | with_reducible rfl | (simp; done) | assumption | refine Dev.clock_if ?_ ?_ | split | (intro _) | simp

@[simp] theorem Dev.clock_setReadyAt (d : Dev) (m : MastId) : (d.setReadyAt m).clock = d.clock := by
  unfold Dev.setReadyAt
  repeat' first
    | with_reducible rfl | (simp; done) | assumption | refine Dev.clock_if ?_ ?_ | refine Dev.clock_foldl' ?_ ?_ | split
    | (intro _) | simp

@[simp] theorem Dev.clock_tileWatch (d : Dev) (t mv : Nat) (cond : List (Nat × Nat)) (lanes : List Nat) :
    (d.tileWatch t mv cond lanes).clock = d.clock := by
  simp only [Dev.tileWatch, Dev.clock_startScan, Dev.clock_onTile, Dev.clock_heaters]
  refine Dev.clock_if ?_ (by simp only [Dev.clock_onTile])
  simp only [Dev.clock_takeParams, Dev.clock_onTile]
  refine Dev.clock_if ?_ (by simp only [Dev.clock_onTile])
  exact Dev.clock_act' (fun m => by simp only [Dev.clock_loadLoops, Dev.clock_corePeriod, Dev.clock_onTile]) (by simp only [Dev.clock_onTile])

@[simp] theorem Dev.clock_railWatch (d : Dev) (m : MastId) : (d.railWatch m).clock = d.clock := by
  unfold Dev.railWatch
  repeat' first
    | with_reducible rfl | (simp; done) | assumption | refine Dev.clock_if ?_ ?_ | split | (intro _) | simp

@[simp] theorem Dev.clock_railAfter (d : Dev) (m : MastId) : (d.railAfter m).clock = d.clock := by simp [Dev.railAfter]

@[simp] theorem Dev.clock_capInterrupt (d : Dev) (m : MastId) : (d.capInterrupt m).clock = d.clock := by
  unfold Dev.capInterrupt
  split <;> simp

@[simp] theorem Dev.clock_srcTaken (d : Dev) (m : MastId) (old : Nat) : (d.srcTaken m old).clock = d.clock := by
  unfold Dev.srcTaken
  repeat' first
    | with_reducible rfl | (simp; done) | assumption | refine Dev.clock_if ?_ ?_ | split | (intro _) | simp

@[simp] theorem Dev.clock_latchMast (d : Dev) (m : MastId) : (d.latchMast m).clock = d.clock := by
  unfold Dev.latchMast
  repeat' first
    | with_reducible rfl | (simp; done) | assumption | refine Dev.clock_if ?_ ?_ | split | (intro _) | simp

@[simp] theorem Dev.clock_resetBudgets (d : Dev) (m : MastId) : (d.resetBudgets m).clock = d.clock := by
  unfold Dev.resetBudgets
  exact Dev.clock_each' (by intros; simp) (by simp)

@[simp] theorem Dev.clock_telPeriodic (d : Dev) (m : MastId) (sel : Nat) (r : TelRec) :
    (d.telPeriodic m sel r).clock = d.clock := by
  unfold Dev.telPeriodic
  repeat' first
    | with_reducible rfl | (simp; done) | assumption | refine Dev.clock_if ?_ ?_ | refine Dev.clock_each' ?_ ?_ | split
    | (intro _) | simp

@[simp] theorem Dev.clock_countersTel (d : Dev) (m : MastId) : (d.countersTel m).clock = d.clock := by
  unfold Dev.countersTel
  repeat' first
    | with_reducible rfl | (simp; done) | assumption | refine Dev.clock_if ?_ ?_ | refine Dev.clock_each' ?_ ?_ | split
    | (intro _) | simp

@[simp] theorem Dev.clock_watchTel (d : Dev) (m : MastId) : (d.watchTel m).clock = d.clock := by
  unfold Dev.watchTel
  repeat' first
    | with_reducible rfl | (simp; done) | assumption | refine Dev.clock_if ?_ ?_ | split | (intro _) | simp

@[simp] theorem Dev.clock_cellRead (d : Dev) (m : MastId) (s : Nat) (x : Stream) (f : Frame) :
    (d.cellRead m s x f).clock = d.clock := by
  unfold Dev.cellRead
  repeat' first
    | with_reducible rfl | (simp; done) | assumption | refine Dev.clock_if ?_ ?_ | refine Dev.clock_each' ?_ ?_
    | refine Dev.clock_hbmGo' ?_ ?_ | split | (intro _) | simp

@[simp] theorem Dev.clock_cellReads (d : Dev) (m : MastId) : (d.cellReads m).clock = d.clock := by
  unfold Dev.cellReads
  repeat' first
    | with_reducible rfl | (simp; done) | assumption | refine Dev.clock_if ?_ ?_ | refine Dev.clock_each' ?_ ?_ | split
    | (intro _) | simp

@[simp] theorem Dev.clock_frameTel (d : Dev) (m : MastId) (f : Frame) : (d.frameTel m f).clock = d.clock := by
  unfold Dev.frameTel
  repeat' first
    | with_reducible rfl | (simp; done) | assumption | refine Dev.clock_if ?_ ?_ | split | (intro _) | simp

@[simp] theorem Dev.clock_sendMirror (d : Dev) (m : MastId) : (d.sendMirror m).clock = d.clock := by
  unfold Dev.sendMirror
  split <;> simp

@[simp] theorem Dev.clock_recordOn (d : Dev) (m : MastId) : (d.recordOn m).clock = d.clock := by
  unfold Dev.recordOn
  split <;> simp

end Sys2Proof.Machine
end

