-- ==== Sys2Proof/Tests/Slice0.lean ====
section
/-! SUPPORT. Tests: ill-formed commands, the encodings, paths and numbers the manual works out, single steps of a small
block, and for every statement a state and operands that meet its hypotheses. -/

set_option maxRecDepth 40000

set_option Elab.async false

namespace Sys2Proof.Tests

open Sys2Proof.Machine

/-! ## A small block -/

/-- A mast's boot state after a boot from slot A. -/
def up : Boot := { bootReset with stage := .ready, running := true, usb := true, tunnel := true
                                  usable := [true, true, false, false] }

/-- A powered, enabled tile with its loops closed, its lease running under pennant epoch 1. -/
def tileUp : Tile := { tileReset with
  enabled := true, alive := true, parkLow := false, closed := true
  link := { tileReset.link with pen := 1, leaseEnd := 3000 } }

/-- Both masts up, the fore mast holding the pennant, tile 0 enabled, at a watch boundary. Window 0 holds 16 slots of 4 KiB. -/
def base : Dev := { devReset with
  beat := 2000, now := ⟨1, 0⟩
  fore := { mastReset with
    boot := up
    regs := [(0x1000, 1), (0x2008, 0x8C000010)]
    pen := { penReset with holder := true, epoch := 1, gaff := true } }
  main := { mastReset with
    boot := up
    pen := { penReset with gaff := true } }
  tiles := [(0, tileUp)]
  aon := { aonReset with on := 3 }
  pins := ⟨true, true, false, 0, false, false⟩ }

def fore (f : Mast → Mast) (d : Dev := base) : Dev := { d with fore := f d.fore }
def tile0 (f : Tile → Tile) (d : Dev := base) : Dev := { d with tiles := [(0, f tileUp)] }
def boot (f : Boot → Boot) (d : Dev := base) : Dev := fore (fun x => { x with boot := f x.boot }) d
def hif (f : Hif → Hif) (d : Dev := base) : Dev := fore (fun x => { x with hif := f x.hif }) d
def fab (f : Fab → Fab) (d : Dev := base) : Dev := fore (fun x => { x with fab := f x.fab }) d
def pen (f : Pen → Pen) (d : Dev := base) : Dev := fore (fun x => { x with pen := f x.pen }) d
def at_ (ns : Nat) (d : Dev := base) : Dev := { d with now := ⟨1, ns⟩ }
def regs (r : Tbl Reg64) (d : Dev := base) : Dev := fore (fun x => { x with regs := r, eff := r }) d

/-- The block with a queue. -/
def st (d : Dev) : State := ⟨[], d⟩

/-- A descriptor of context 0 on ring 0 in sequence 5, of SHEAF_ID `id`. -/
def desc (op id : Nat) : Desc :=
  { ring := 0, ent := ⟨op, false, false, false, id, 0, 5, []⟩, ctx := 0, cpl := 0, started := false, slots := [], wait := .none
    defer := none, sentAt := none, acceptedAt := 0, prof := 0, lost := false, burn := none }

/-- Ring 0: a command ring of context 0 whose records come back on ring 0. -/
def ring0 : RingEntry := ⟨0x10000, 0x20000, 8, 8, 0, 0, 1, 4, false, 0, 0, 0, 0⟩

/-- The block with that descriptor in flight, before what the row itself does. -/
def flight (op id : Nat) (d : Dev := base) : Dev := hif (fun h => { h with
  ctxs := [(0, some ⟨0, BitVec.allOnes 64, false, 0, 0⟩)], rings := [(0, some (Ring.fresh ring0 0))], inflight := [desc op id] }) d

/-- A host-written slot at reference 0, its CRC that of its payload. -/
def slotIn (kind : Nat) (bytes : List Byte) : SlotIn := ⟨0, 2, kind, bytes.length, (crc32c bytes).toNat, bytes, false⟩
def slotOut : SlotOut := ⟨1, 2, false⟩

/-- A BENES table of 8 ports on tile 0: stage by stage, four cells to a stage (R147). -/
def table8 : TopoTable :=
  { magic := 0x42545A46, version := 1, kind := 1, log2n := 3, cells := 20, spares := 0, resvZero := true, crc := 0x16BC4D7B
    crcOk := true, len := 544
    entries := (List.range 20).map (fun c => ⟨c, c / 4, 0, 0, false, 0, c % 4, true, List.replicate 8 0⟩) }

/-- The same table as bytes, its CRC made outside the model. -/
def tableRaw : List Byte :=
  layout [(4, 0x42545A46), (2, 1), (1, 1), (1, 3), (2, 20), (2, 0), (48, 0), (4, 0x16BC4D7B)] ++
    (List.range 20).flatMap (fun c => layout [(2, c), (1, c / 4), (1, 0), (2, c % 4), (2, 0), (16, 0)])

/-- R146, R148: the bytes read as the table, and its CRC is right. -/
theorem test_table_bytes : topoOf tableRaw = table8 := by decide +kernel

/-- The block with that table loaded. -/
def fabric (d : Dev := base) : Dev := fab (fun f => { f with topo := some ⟨table8, []⟩ }) d

def sheaf0 : Sheaf :=
  { key := .sheaf 0 9, ctx := 0, commit := none, readAll := false, baseNow := true, presolved := false, preserve := false
    reefFail := false, base := 0, acts := [], hasPermute := false, cells := [], tag := 0, doomed := none, nPort := 0
    nCell := 0, phase := .open_, at_ := none, due := false, work := noWork, pool := 0, spill := 0, spillLost := false }

def info (off : Nat) : RegInfo := (regInfo off).getD {}

/-- A 64-bit write at the holder. -/
def wr (v : BitVec 64) : RegWr := ⟨.fore, .whole, v⟩

/-! ## Signed and sealed images -/

/-- A public key record of brainpoolP384r1. -/
def key : KeyRec :=
  ⟨0x5431371a28f9641603c0bef7ff6ed52a8e315b83633aa2a8bb0deaa5b7f52e3ca83428ddd6e338b111677946ee971fa7,
   0x831d81ac7a67f020017ef693e5fa462dfde3254fe4c8b2a90182ab325b63c11cdfab16df55e1d3397746024afd1e64c3⟩

def sigR : Nat := 0x539e9000222601681c88a02e1694709878aed678cf732e00d7570b02eeb6ffde02d8e6e3e1c108626449f5fba2278618

/-- Both key slots hold that key: slot 0 for firmware, slot 1 for kernels. -/
def keyed (b : Boot) : Boot := { b with
  otp := [⟨key.hash, true, false, false⟩, ⟨key.hash, true, true, false⟩, ⟨0, false, false, false⟩, ⟨0, false, false, false⟩]
  nor := { b.nor with keyA := some (keyCopy 1 (keyPlace (some key) ++ keyPlace (some key) ++ keyPlace none ++ keyPlace none)) } }

/-- A signature block of R230. -/
def sealed (msg : List Byte) (slot s : Nat) : List Byte := msg ++ layout [(1, slot), (15, 0), (48, sigR), (48, s), (16, 0)]

/-- A firmware image of version 3 with a body of 8 bytes, its signature made outside the model; `false`, a signature off by 1. -/
def image (ok : Bool) : FwImage :=
  ⟨sealed (layout [(4, 0x57465A46), (2, 1), (2, 0), (4, 3), (4, 1), (4, 8), (44, 0), (8, 0x0807060504030201)]) 0
    (0x6575f21c93ce26abfe109872a12a03ca9a1c8ec83d9ee42ff1cc343f036b7ad2dd65f4d43f1353a091162dfecf0ebbf8 + if ok then 0 else 1)⟩

/-- A kernel image of one bundle, the same way. -/
def kernel (ok : Bool) : KernelImage :=
  ⟨sealed (layout [(4, 0x4B4C5446), (2, 1), (2, 0), (4, 8), (4, 0), (2, 16), (2, 0), (4, 0), (4, 0xFFFFFFFF), (4, 7), (2, 1), (30, 0),
      (8, 0)]) 1
    (0x8692aff7a6f975bbc27354af0d579d57bb3415ab3993e25315752ef983b092a86ec7aaba9d832261088857bd094ed212 + if ok then 0 else 1)⟩

/-- R435: the signatures verify, and one off by 1 does not. -/
theorem test_ecdsa : (keyed up).verifies (image true) = true ∧ (keyed up).verifies (image false) = false ∧
    (keyed up).kernelOk (kernel true) = true ∧ (keyed up).kernelOk (kernel false) = false := by and_intros <;> decide +kernel

/-- A seed image of no tile of this device, sealed as R296 says. -/
def seedImage (crc : Nat) : SeedImage := seedBytes ⟨0, 3, crc, 0x2416, 1, ⟨0, 0⟩, (Config.serial.setWidth 64).toNat⟩ [] []

/-! ## Ill-formed commands are refused -/

theorem test_illformed_odd_pair : (Instr.ldD 0 ⟨3, 0, .off, 0⟩).wf = false ∧ (Instr.ldD 0 ⟨2, 0, .off, 0⟩).wf = true := by decide

theorem test_illformed_postM : (Instr.ldW 0 ⟨3, 0, .postM, 1⟩).wf = false ∧ (Instr.ldW 0 ⟨3, 0, .postM, 0x7000⟩).wf = true := by
  decide

theorem test_illformed_loads : ([.ldH 0 ⟨0, 0, .postM, 4⟩, .ldHu 0 ⟨0, 0, .postM, 4⟩, .stW 0 ⟨0, 0, .postM, 4⟩,
    .stH 0 ⟨0, 0, .postM, 4⟩, .stD 0 ⟨1, 0, .off, 0⟩, .ldA 0 ⟨4, 0, .off, 0⟩, .stA 0 ⟨4, 0, .off, 0⟩, .lds 0 ⟨22, 0, .off, 0⟩,
    .sts 0 ⟨22, 0, .off, 0⟩, .mfs 0 0 22, .mts 0 0 22] : List Instr).all (fun i => !i.wf) = true := by decide

theorem test_illformed_saturate : ([.and 0 ⟨1, 2, 3, true⟩, .or 0 ⟨1, 2, 3, true⟩, .xor 0 ⟨1, 2, 3, true⟩, .shr 0 ⟨1, 2, 3, true⟩,
    .shra 0 ⟨1, 2, 3, true⟩, .min 0 ⟨1, 2, 3, true⟩, .max 0 ⟨1, 2, 3, true⟩, .zsel 0 ⟨1, 2, 3, true⟩, .divq 0 ⟨1, 2, 3, true⟩,
    .shi 0 1 2 .shr 3 true, .mva 0 1 0 3, .mta 0 1 0 3] : List Instr).all (fun i => !i.wf) = true := by decide

theorem test_illformed_index : ([.selfCalibrationDone 16, .slewStep 24576, .sampleFrame 0 1536, .wait 64, .loopLaw 0 384,
    .nop 4096 0, .ctxRebind 0 0 4096, .winCfgWrite 64 (wr 0), .dwell 0 48 .trim [] true true, .streamCloseDrained 256,
    .captureStop 4, .portTransmit 2, .pmcSelWrite 256 (wr 0), .fltPendWrite 4 (wr 0), .domainAlive 48,
    .scheduledDuePoint 0 65536] : List Instr).all (fun i => !i.wf) = true := by decide

theorem test_illformed_channel : (Instr.hbmEccError .fore 32 0 true).wf = false ∧ (Instr.renewalFrame 16).wf = false := by decide

theorem test_wellformed : ([.selfCalibrationDone 15, .slewStep 24575, .mva 0 1 0 2, .shi 0 1 2 .shl 3 true] : List Instr).all
    (fun i => i.wf) = true := by decide

/-! ## Encodings and numbers the manual works out -/

/-- R219: MOVIP p1, 0x12345 is OP 0x10, K 1, IMM 0x12345. -/
theorem test_word_movip : (decA 3 0b01000000100000010010001101000101).toOption = some (.movip 3 1 0x12345) := by decide +kernel

/-- R220: SHI d5, d3, SHRA 16 is OP 0x11, dD 5, dA 3, KIND 2, AMT 16, S 0. -/
theorem test_word_shi : (decB 0 0b01000100010100001110100000000000).toOption = some (.shi 0 5 3 .shra 16 false) ∧
    (decB 0 0b01000100010100001110100001000000).toOption = none := by decide +kernel

/-- R150's path of 5 → 2 in an 8-port BENES fabric. -/
theorem test_path_of_R150 :
    walk (fun a b => some (100 * a + b, decide ((a, b) = (0, 2) ∨ (a, b) = (2, 0) ∨ (a, b) = (3, 0)))) 3 0 0 5 =
      some (2, [(2, 0), (101, 0), (200, 0), (300, 1), (401, 0)]) := by decide +kernel

/-- R36's placing of cell 7,780: core 4 of cluster 1. -/
theorem test_core_of_cell : cellOf 20 100 = 7780 := by decide +kernel

/-- R298's example: HRES -8. -/
theorem test_hres : rhuDiv (29851 - 30102) 32 = -8 := by decide

/-- R342's depth: 16 tiles give 327,608 watches. -/
theorem test_depth : Dev.depth { base with tiles := (List.range 16).map (fun t => (t, tileUp)) } .fore = 327608 := by decide +kernel

/-- R457's check value by FEED.W and FEED.B: R458's example. -/
theorem test_crc_by_words : ([0x34333231, 0x38373635].foldl (fun d v => Dev.feed d .fore [BitVec.ofNat 8 v, BitVec.ofNat 8 (v / 256),
    BitVec.ofNat 8 (v / 65536), BitVec.ofNat 8 (v / 16777216)]) base |>.feed .fore [0x39]).fore.mem.crc = ~~~ (0xE3069283 : Word) := by
  decide +kernel

/-! ## Steps -/

/-- The block after a command. -/
def after (c : Instr) (d : Dev) : Dev := match exec c (st d) with
  | .next t => t.dev
  | _ => d

/-- R106 and R395: an open SHEAF_ID may not be opened again. -/
theorem test_sheafOpen_reuse : (match exec (.sheafOpen 0 5 false true false false false 0)
    (st (flight 0x10 9 (fab (fun f => { f with sheafs := [sheaf0] })))) with
    | .fault f => some f
    | _ => none) = some .sheafIdReuse := by decide +kernel

theorem test_sheafOpen : ((after (.sheafOpen 0 5 false true false false false 0) (flight 0x10 9)).fore.fab.sheafs.map Sheaf.key) =
    [.sheaf 0 9] := by decide +kernel

theorem test_connect : ((after (.connect 0 5 1 2) (flight 0x13 9 (fab (fun f => { f with sheafs := [sheaf0] }) fabric))).fore.fab.sheafs.map
    Sheaf.acts) = [[.connect 1 2]] := by decide +kernel

/-- R112: a port at or above N dooms the sheaf. -/
theorem test_connect_portInvalid : ((after (.connect 0 5 1 8) (flight 0x13 9 (fab (fun f => { f with sheafs := [sheaf0] })
    fabric))).fore.fab.sheafs.map Sheaf.doomed) = [some .portInvalid] := by decide +kernel

/-- R82: an opcode of no row completes with BAD_OPCODE. -/
theorem test_badOpcode : ((after (.badOpcode 0 5) (flight 0x7F 0)).out.map (fun o => match o with
    | .record _ _ _ _ r => some r.status
    | _ => none)) = [some .badOpcode] := by
  decide +kernel

/-- R143: LEAD outside 4 to 64 is ignored. -/
theorem test_fabStrike_range : (after (.fabStrikeWrite (wr 65)) base).regF .fore 0x4030 0 7 = 8 ∧
    (after (.fabStrikeWrite (wr 64)) base).regF .fore 0x4030 0 7 = 64 := by decide +kernel

/-- R489's example: a 32-bit write of FAB_BUD_TIL whose shares would pass 100 is refused whole. -/
theorem test_fabBud_over : (after (.fabBudWrite 0x4400 ⟨.fore, .lo, 0x0E143C⟩) base).regF .fore 0x4418 0 1 = 1 ∧
    (after (.fabBudWrite 0x4400 ⟨.fore, .lo, 0x0A1440⟩) base).regF .fore 0x4418 0 1 = 1 ∧
    (after (.fabBudWrite 0x4400 ⟨.fore, .lo, 0x061440⟩) base).reg .fore 0x4400 = 0x0004060000061440 := by decide +kernel

theorem test_parkNFall : ((after .parkNFall base).tile 0).parkLow = true ∧ (after .parkNFall base).pins.parkN = false := by
  decide +kernel

theorem test_beatBoundary_carries : (after .beatBoundary { base with now := ⟨7, 999999900⟩ }).now = ⟨8, 0⟩ := by decide +kernel

/-- R42: a write at the standby outside its blocks is ignored and sets WR_IGN. -/
theorem test_standby_write : (after (.hifPollWrite ⟨.main, .whole, 9⟩) base).regF .main 0x1008 0 10 = 5 ∧
    (after (.hifPollWrite ⟨.main, .whole, 9⟩) base).regF .main 0x0010 3 1 = 1 := by decide +kernel

/-- A claim that a tile refuses is counted in CLAIMS_REF. -/
theorem test_claim_refused : (after (.claimFrame 0) (tile0 id { base with main := { base.main with pen := { base.main.pen with
    claimAt := some 1990 } } })).regF .main 0xA010 32 16 = 1 := by decide +kernel

theorem test_step_takes_front : step ⟨[.feedB .fore 0x31, .init .fore], base⟩ = exec (.feedB .fore 0x31) ⟨[.init .fore], base⟩ := rfl

theorem test_withFetchWord : (State.reset.withFetchWord 0 0).pending = [] := by decide

/-! ## States and operands that meet the statements' hypotheses -/

def booting (img : Bool) : Dev := boot (fun b => { b with
  stage := .boot, running := false, tries := [1], recoveryClass := true, nor := { (keyed b).nor with fwB := some (image img) }, otp := (keyed b).otp
  usable := [true, true, false, false] })

theorem witness_BootAndRecoveryComplete :
    (devReset.pins.poresetN = false ∧ devReset.aon.tripped = none) ∧
    ((booting true).mast .fore |>.boot.tries) = [1] ∧ ((booting true).mast .fore).boot.stage = .boot ∧
    ((booting true).mast .fore).boot.running = false ∧ ((booting true).mast .fore).boot.nor.fw 1 = some (image true) ∧
    ((booting true).mast .fore).boot.verifies (image true) = true ∧
    ((booting false).mast .fore).boot.nor.fw 1 = some (image false) ∧
    ((booting false).mast .fore).boot.verifies (image false) = false ∧
    (LinkMode.gen4 ≠ .other ∧ (base.mast .fore).boot.running = true) ∧
    (let d := boot (fun b => { b with stage := .boot })
     (d.mast .fore).boot.running = true ∧ (d.mast .fore).boot.usb = true ∧ (d.mast .fore).boot.stage = .boot) ∧
    (let d : Dev := { devReset with beat := 5000000, main := { mastReset with boot := { up with stage := .setup } } }
     d.claimsFirst .main = true) ∧
    (booting true |>.mast .fore).boot.recoveryClass = true := by and_intros <;> decide +kernel

theorem witness_SetupWritesComplete :
    ((⟨.fore, .other, 0⟩ : RegWr).half = .other ∧ Writable base 0x4020 (wr 8) (info 0x4020) ∧
      bitsOf (base.written 0x4020 (wr 8) (info 0x4020)).toNat 5 = [3] ∧ bringOf 3 = some .calFull) ∧
    -- accepted; at a reserved offset; on the standby; several FAB_BRING bits
    (ownRow 0x4000 = false ∧ Writable base 0x4000 (wr 0x1000) (info 0x4000)) ∧
    (ownRow 0x4028 = false ∧ regInfo 0x4028 = none ∧ base.barUp .fore = true ∧ base.holder = some .fore) ∧
    (base.barUp .main = true ∧ base.holder ≠ some .main ∧ standbyTakes 0x4000 = false) ∧
    (ownRow 0x4020 = false ∧ Writable base 0x4020 (wr 6) (info 0x4020) ∧ (base.mast .fore).boot.busy = none ∧
      2 ≤ (bitsOf (base.written 0x4020 (wr 6) (info 0x4020)).toNat 5).length) ∧
    -- FAB_TILE_EN in SETUP, in TOPO with nothing cleared, in READY clearing a tile of the table, in READY
    Writable base 0x4010 (wr 3) (info 0x4010) ∧
    (let d := fabric (boot (fun b => { b with stage := .setup }))
     Writable d 0x4010 (wr 0) (info 0x4010) ∧ (d.mast .fore).boot.stage = .setup) ∧
    (let d := fabric (boot (fun b => { b with stage := .topo }))
     Writable d 0x4010 (wr 3) (info 0x4010) ∧ (d.mast .fore).boot.stage = .topo ∧ (d.mast .fore).boot.busy ≠ some .power ∧ (d.fab .fore).tableTiles.any (fun t =>
       bit (d.regF .fore 0x4010 0 16) t && !bit (fld (d.written 0x4010 (wr 3) (info 0x4010)) 0 16) t) = false) ∧
    -- the same while POWER is under way
    (let d := fabric (boot (fun b => { b with stage := .topo, busy := some .power }))
     Writable d 0x4010 (wr 3) (info 0x4010) ∧ (d.mast .fore).boot.stage = .topo ∧ (d.mast .fore).boot.busy = some .power ∧
       (d.fab .fore).tableTiles.any (fun t =>
         bit (d.regF .fore 0x4010 0 16) t && !bit (fld (d.written 0x4010 (wr 3) (info 0x4010)) 0 16) t) = false) ∧
    (let d := fabric (regs [(0x4010, 1)])
     Writable d 0x4010 (wr 2) (info 0x4010) ∧ (d.mast .fore).boot.stage = .ready ∧ (d.fab .fore).tableTiles.any (fun t =>
       bit (d.regF .fore 0x4010 0 16) t && !bit (fld (d.written 0x4010 (wr 2) (info 0x4010)) 0 16) t) = true) ∧
    (bitsOf (fld (base.written 0x4010 (wr 3) (info 0x4010)) 0 16) 16).any (fun t => !bit base.part.fitted t) = false := by
  and_intros <;> decide +kernel

def staged (s : Stage) (b : Option Bring := none) (d : Dev := base) : Dev := boot (fun x => { x with stage := s, busy := b }) d

/-- The block with such an image in slot A of the fore mast's NOR. -/
def seeded (crc : Nat) (d : Dev) : Dev := boot (fun b => { b with nor := { b.nor with seedA := (seedImage crc).bytes } }) d

/-- R299: the image is valid: MAGIC, VERSION, LEN, CRC and this device's SERIAL. -/
theorem test_seed_valid (crc : Nat) : (seedImage crc).valid = true := by
  let H := fun (S C : Nat) => headBytes ⟨0, 3, crc, 0x2416, 1, ⟨0, 0⟩, S⟩ 64 0 C
  have f : ∀ S C : Nat, fieldAt (H S C) 60 4 = leNat (leBytes 4 C) ∧ fieldAt (H S C) 40 8 = leNat (leBytes 8 S) ∧
      fieldAt (H S C) 0 4 = leNat [0x53, 0x45, 0x45, 0x44] ∧ fieldAt (H S C) 4 2 = leNat [1, 0] ∧
      fieldAt (H S C) 12 4 = leNat [64, 0, 0, 0] ∧ (H S C).length = 64 ∧
      (H S C).take 60 ++ [0, 0, 0, 0] ++ ((H S C).take 64).drop 64 = H S 0 :=
    fun S C => ⟨congrArg leNat rfl, congrArg leNat rfl, congrArg leNat rfl, congrArg leNat rfl, congrArg leNat rfl, rfl, rfl⟩
  obtain ⟨h1, h2, h3, h4, h5, h6, h7⟩ := f (Config.serial.setWidth 64).toNat
    (crc32c (H (Config.serial.setWidth 64).toNat 0)).toNat
  simp only [H] at *
  simp only [seedImage, seedBytes, SeedImage.valid, SeedImage.len, SeedImage.serial, List.append_nil, List.flatMap_nil, List.length_nil,
    Nat.add_zero]
  rw [h1, h2, h3, h4, h5, h6, show leNat [64, 0, 0, 0] = 64 from rfl, h7, leNat_leBytes, leNat_leBytes]
  simp [seedSlotLen, leNat]
  exact (crc32c _).isLt

theorem test_seed_topoCrc (crc : Nat) : (seedImage crc).topoCrc = crc % 2 ^ 32 :=
  (congrArg leNat rfl).trans (leNat_leBytes 4 crc)

theorem newest_seeded (crc : Nat) (d : Dev) (h : d.fore.boot.nor.seedB = []) :
    ((seeded crc d).mast .fore).boot.nor.newest = some (seedImage crc) := by
  have e : (⟨[]⟩ : SeedImage).valid = false := rfl
  have v : (⟨(seedImage crc).bytes⟩ : SeedImage).valid = true := test_seed_valid crc
  simp [Nor.newest, slotImage, seeded, boot, fore, Dev.mast, h, e, v]

theorem witness_BringUpCompletes :
    Brings (staged .setup) .fore [.setup, .topo] ∧ Brings (staged .topo) .fore [.topo] ∧
    Brings (staged .powered) .fore [.powered] ∧ Brings (staged .seeded) .fore [.seeded] ∧
    (let d := regs [(0x4010, 1), (0x4008, 544)] (staged .setup (some .topoLoad))
     Serves d .fore ∧ (d.mast .fore).boot.busy = some .topoLoad ∧
       topoCheck d.part (d.regF .fore 0x4010 0 16) (topoOf (tableRaw.take (d.regF .fore 0x4008 0 32))) = none ∧
       topoCheck d.part (d.regF .fore 0x4010 0 16) (topoOf ((0 :: tableRaw).take (d.regF .fore 0x4008 0 32))) = some (1, 0xFFFF)) ∧
    (let d := fabric (staged .powered (some .seedRestore))
     Serves d .fore ∧ (d.mast .fore).boot.nor.newest = none) ∧
    (let d := tile0 (fun x => { x with selfcal := some 1900 })
     Serves d .fore ∧ (d.tile 0).selfcal = some 1900 ∧ (d.tile 0).alive = true ∧ 1900 ≤ d.beat ∧
       (d.mast .fore).boot.busy ≠ some .power) ∧
    (let d := boot (fun b => { b with stage := .arming, busy := some .loopArm, readyAt := some 2000 })
     Serves d .fore ∧ (d.mast .fore).boot.readyAt = some 2000 ∧ (d.mast .fore).boot.busy = some .loopArm ∧ 2000 ≤ d.beat) := by
  and_intros <;> decide +kernel

/-- An image of the loaded table's CRC, and one of another's. -/
theorem witness_seedRestore (crc : Nat) (h : crc = 7 ∨ crc = 0x16BC4D7B) :
    let d := seeded crc (fabric (staged .powered (some .seedRestore)))
    (d.fab .fore).topo = some ⟨table8, []⟩ ∧ (d.mast .fore).boot.busy = some .seedRestore ∧ Serves d .fore ∧
      (d.mast .fore).boot.nor.newest = some (seedImage crc) ∧ ((seedImage crc).topoCrc = table8.crc ↔ crc = 0x16BC4D7B) := by
  refine ⟨rfl, rfl, rfl, newest_seeded _ _ rfl, ?_⟩
  rw [test_seed_topoCrc]; rcases h with h | h <;> subst h <;> decide

theorem witness_DriveEventsAndParkComplete :
    (let d := tile0 (fun x => x.onDrv 100 (fun v => { v with step := some 2000 }))
     (100 < cellCount) ∧ (d.tile (100 / laneCount)).alive = true ∧ (d.tile (100 / laneCount)).parkLow = false ∧
       (d.cell 100).drv.step = some 2000 ∧ 2000 ≤ d.beat) ∧
    ((base.tile (100 / laneCount)).link.pen = 1 ∧ base.beat < (base.tile (100 / laneCount)).link.leaseEnd ∧
      (base.cell 100).drv.live = false ∧ (0 : Nat) ≠ (base.tile (100 / laneCount)).link.pen) ∧
    ({ base with pins := { base.pins with parkN := false } } : Dev).pins.parkN = false ∧
    (let d := tile0 (fun x => { x with gainReq := some true })
     (d.tile 0).gainReq = some true ∧ (d.tile 0).alive = true ∧ (d.tile 0).allParked = true) ∧
    base.pins.parkN = true ∧ (base.stay base.server (100 / laneCount)).down.writeFree base.beat = true ∧
    (let d := tile0 (fun x => { x with link := { x.link with reports := [.heater 5 4095] } })
     Serves d .fore ∧ UpFree d .fore 0 3 ∧ (d.tile 0).link.reports = [.heater 5 4095]) := by and_intros <;> decide +kernel

/-- FAB_DRV_TILE0 with PARK 5 and GAIN g. -/
def drv (park g : Nat) : RegWr := wr (BitVec.ofNat 64 (park + 65536 * g))

theorem witness_driveRegisterWrite :
    Writable base 0x4500 ⟨.fore, .hi, 0⟩ (info 0x4500) ∧
    fld (base.written 0x4500 ⟨.fore, .hi, 0⟩ (info 0x4500)) 0 12 = fld (base.reg .fore 0x4500) 0 12 ∧
    (let d := staged .setup
     Writable d 0x4500 (drv 5 0) (info 0x4500) ∧ fld (d.written 0x4500 (drv 5 0) (info 0x4500)) 0 12 ≠ fld (d.reg .fore 0x4500) 0 12 ∧
       (fld (d.written 0x4500 (drv 5 0) (info 0x4500)) 16 1 == 1) = (d.tile 0).gain ∧ (d.mast .fore).boot.stage ≠ .arming ∧
       (d.mast .fore).boot.stage ≠ .ready ∧ fld (d.written 0x4500 (drv 5 0) (info 0x4500)) 20 12 = 0 ∧
       (let r := plainWrite (info 0x4500) (d.reg .fore 0x4500) (d.written 0x4500 (drv 5 0) (info 0x4500))
        let r1 := setFld r 20 12 (fld (d.reg .fore 0x4500) 20 12)
        let d0 := (d.setReg .fore 0x4500 (setFld r1 32 8 (fld (d.reg .fore 0x4500) 32 8))).mirrorClear .fore 0x4500
          (d.written 0x4500 (drv 5 0) (info 0x4500) &&& (info 0x4500).w1c)
        d0.takes .fore 0 = true ∧ (d0.tile 0).leaseRuns d0.beat = true ∧ (d0.tile 0).gain = (d.tile 0).gain)) ∧
    (let w := drv (fld (base.reg .fore 0x4500) 0 12) 1
     Writable base 0x4500 w (info 0x4500) ∧ fld (base.written 0x4500 w (info 0x4500)) 0 12 = fld (base.reg .fore 0x4500) 0 12 ∧
       (fld (base.written 0x4500 w (info 0x4500)) 16 1 == 1) ≠ (base.tile 0).gain) := by and_intros <;> decide +kernel

theorem witness_HostInterfaceControlCompletes :
    (base.mast .fore).boot.tunnel = true ∧ base.holder = some .fore ∧ (base.mast .fore).boot.usb = true ∧
    (Writable base 0x1000 (wr 0) (info 0x1000) ∧ fld (base.written 0x1000 (wr 0) (info 0x1000)) 0 2 = 0 ∧ base.hifEn .fore = true) ∧
    Writable base 0x1000 ⟨.fore, .whole, setFld (base.reg .fore 0x1000) 1 1 1⟩ (info 0x1000) ∧
    (let d := regs []
     Writable d 0x1000 (wr 1) (info 0x1000) ∧ fld (d.written 0x1000 (wr 1) (info 0x1000)) 0 1 = 1 ∧
       fld (d.written 0x1000 (wr 1) (info 0x1000)) 1 1 = 0 ∧ d.hifEn .fore = false ∧ (d.hif .fore).draining = false ∧
       (let e := (((d.setRegF .fore 0x1000 0 1 1).onHif .fore (fun h => { h with
          running := (d.mast .fore).boot.stage == .ready, firstPoll := true, polled := false, pollAt := d.beat
          sweep := 0 })).hostIn .fore 96).openCtx .fore 0 ⟨0, BitVec.allOnes 64⟩
        e.ringBasics .fore (ring0Entry 0 ring0) = true ∧ e.targetOk .fore 0 (ring0Entry 0 ring0) = true)) ∧
    (let d := hif (fun h => { h with lossAt := some (2000, 1) })
     (d.hif .fore).lossAt = some (2000, 1) ∧ (d.hif (peerOf .fore)).lossAt = none ∧ 2000 ≤ d.beat) ∧
    (let d := hif (fun h => { h with draining := true })
     Serves d .fore ∧ (d.hif .fore).draining = true ∧ (d.hif .fore).inflight = []) := by and_intros <;> decide +kernel

theorem witness_HostInterfaceRegistersFollowR70 :
    (inArr 0x1018 0x1010 8 4 = true ∧ Writable base 0x1018 (wr 0x8000) (info 0x1018) ∧ base.hifEn .fore = true) ∧
    (inArr 0x1028 0x1010 8 4 = true ∧ Writable (regs []) 0x1028 (wr 0x8000) (info 0x1028) ∧ (regs []).hifEn .fore = false) ∧
    (Writable base 0x1008 (wr 1000) (info 0x1008) ∧ fld (base.written 0x1008 (wr 1000) (info 0x1008)) 0 10 = 1000) ∧
    (Writable base 0x1008 (wr 0) (info 0x1008) ∧ fld (base.written 0x1008 (wr 0) (info 0x1008)) 0 10 = 0) ∧
    (let d := hif (fun h => { h with running := true })
     Serves d .fore ∧ (d.hif .fore).running = true ∧ d.hifEn .fore = true ∧ (d.hif .fore).polled = false ∧
       (d.hif .fore).pollAt ≤ d.beat) := by and_intros <;> decide +kernel

/-- Ring 0 with entries produced and one granted. -/
def polling : Dev := hif (fun h => { h with running := true, rings := [(0, some { Ring.fresh ring0 0 with
  prod := 4, granted := 1, firstUnsig := some 0, ent := { ring0 with irqEn := true } })], polled := true }) (flight 0 0)

theorem witness_PollingCompletes :
    (let d := hif (fun h => { h with running := true })
     Serves d .fore ∧ (d.hif .fore).running = true ∧ d.hifEn .fore = true ∧ (d.hif .fore).polled = false ∧
       (d.hif .fore).pollAt ≤ d.beat) ∧
    (Serves polling .fore ∧ (polling.hif .fore).polled = true) ∧
    (let d := hif (fun h => { h with rings := [(0, some { Ring.fresh ring0 0 with prod := 4 })] }) polling
     d.hifEn .fore = true ∧ (d.hif .fore).running = true ∧ ((d.consult .fore).winner .fore).isSome = true) ∧
    ((polling.ring .fore 0).isSome = true ∧ ((polling.ring .fore 0).map Ring.granted) = some 1) ∧
    ((polling.ring .fore 0).map (fun r => (r.firstUnsig, r.ent.irqEn, decide (10 * r.ent.coalUs ≤ polling.beat)))) =
      some (some 0, true, true) := by and_intros <;> decide +kernel

theorem witness_AcceptInSequence :
    ((polling.ring .fore 0).map (fun r => (r.stalled, r.next, r.miss))) = some (false, 0, 0) ∧
    (let r := { Ring.fresh ring0 0 with miss := 3 }
     let d := hif (fun h => { h with rings := [(0, some r)] })
     d.ring .fore 0 = some r ∧ r.stalled = false ∧ (5 : Nat) ≠ r.next ∧ 3 ≤ r.miss) := by and_intros <;> decide +kernel

theorem witness_WindowWriteCompletes :
    (let w := wr 0x8C000010
     Writable base (winCfg 1) w (info (winCfg 1)) ∧ base.regF .fore (winCfg 1) 31 1 = 0 ∧
       fld (base.written (winCfg 1) w (info (winCfg 1))) 31 1 = 1 ∧
       geomOk (fld (base.written (winCfg 1) w (info (winCfg 1))) 0 21) (fld (base.written (winCfg 1) w (info (winCfg 1))) 24 6) = true) ∧
    (let w := wr 0x80000010
     Writable base (winCfg 1) w (info (winCfg 1)) ∧ fld (base.written (winCfg 1) w (info (winCfg 1))) 31 1 = 1 ∧
       geomOk (fld (base.written (winCfg 1) w (info (winCfg 1))) 0 21) (fld (base.written (winCfg 1) w (info (winCfg 1))) 24 6) = false) ∧
    (Writable base (winCfg 63) (wr 0x0C000010) (info (winCfg 63)) ∧
      fld (base.written (winCfg 63) (wr 0x0C000010) (info (winCfg 63))) 31 1 = 0) := by and_intros <;> decide +kernel

/-- The block with descriptor 0:5 of context 0 waiting for `w`, and context 3, whose ring 7 is in order, on a clear interface. -/
def waiting (w : Wait) : Dev := hif (fun h => { h with
  ctxs := [(0, some ⟨0, BitVec.allOnes 64, false, 0, 0⟩), (3, some ⟨1, 0, false, 0, 0⟩)]
  rings := [(0, some (Ring.fresh ring0 0)), (7, some { Ring.fresh { ring0 with ctx := 3, cplTarget := 7 } 0 with stalled := true })]
  inflight := [{ desc 0x03 0 with wait := w, started := true }] })

theorem witness_AdminDescriptorsComplete :
    ([0x00, 0x01, 0x02, 0x03, 0x04, 0x05, 0x7F].all (fun op => (flight op 0).startable 0 5 op == some (.fore, desc op 0))) = true ∧
    opUsed 0x7F = false ∧ (base.mast .fore).pen.protect = false ∧ (desc 0x01 0).perm 9 = true ∧
    ({ desc 0x01 0 with ctx := 3, prof := 0 }).perm 9 = false ∧
    (Starts (hif (fun h => { h with inflight := [{ desc 0x01 0 with ctx := 3 }] }) (flight 0x01 0)) 0 5 0x01 .fore { desc 0x01 0 with ctx := 3 }) ∧
    (((flight 0x01 0).begun .fore 0 5).ctx .fore 3 = none ∧ ((flight 0x02 0).begun .fore 0 5).ctx .fore 0 =
      some ⟨0, BitVec.allOnes 64, false, 0, 0⟩) ∧
    (let d := hif (fun h => { h with ctxs := h.ctxs ++ [(3, some ⟨1, 0, false, 0, 0⟩)] }) (flight 0x03 0)
     Starts d 0 5 0x03 .fore (desc 0x03 0) ∧ (d.begun .fore 0 5).ctx .fore 3 = some ⟨1, 0, false, 0, 0⟩ ∧
       (d.begun .fore 0 5).isFenced .fore ⟨.ctx, 3⟩ = false) ∧
    ((flight 0x04 0).begun .fore 0 5).ring .fore 9 = none ∧
    (let d := (flight 0x05 0).begun .fore 0 5
     d.ring .fore 0 = some (Ring.fresh ring0 0) ∧
     ((Ring.fresh ring0 0).hasCpl && (d.hif .fore).rings.any (fun e => e.1 != 0 && (match e.2 with
        | some g => g.hasCmd && g.ent.cplTarget == 0
        | none => false))) = false) ∧
    (let d := waiting (.drainCtx 3 false)
     let x : Desc := { desc 0x03 0 with wait := .drainCtx 3 false, started := true }
     Serves d .fore ∧ d.findDesc .fore 0 5 = some x ∧ d.ctxDrained .fore 3 x = true ∧
       (d.ringsOf .fore 3).all (d.ringServed .fore) = true) ∧
    (let d := waiting (.drainRing 7)
     d.findDesc .fore 0 5 = some { desc 0x03 0 with wait := .drainRing 7, started := true } ∧
       (d.hif .fore).inflight.all (fun y => y.ring != 7 || (y.ring == 0 && y.ent.seq == 5)) = true ∧ d.ringServed .fore 7 = true) ∧
    (let d := waiting (.drainCtx 3 true)
     let x : Desc := { desc 0x03 0 with wait := .drainCtx 3 true, started := true }
     d.findDesc .fore 0 5 = some x ∧ d.ctx .fore 3 = some ⟨1, 0, false, 0, 0⟩ ∧ d.ctxDrained .fore 3 x = true) := by
  and_intros <;> decide +kernel

/-- The fabric with a sheaf, and a descriptor of it in flight. -/
def inSheaf (op : Nat) (y : Sheaf := sheaf0) : Dev := fab (fun f => { f with sheafs := [y] }) (fabric (flight op 9))

theorem witness_SheafControlCompletes :
    (Starts (flight 0x10 9) 0 5 0x10 .fore (desc 0x10 9) ∧ (desc 0x10 9).ent.sheafId ≠ 0 ∧ (desc 0x10 9).perm 0 = true ∧
      (flight 0x10 9).sheafOf .fore (desc 0x10 9) = none ∧
      (((flight 0x10 9).begun .fore 0 5 |>.fab .fore).sheafs.filter (fun y => y.key.isSheaf)).length < 1024) ∧
    (let d := fab (fun f => { f with sheafs := (List.range 1024).map (fun i => { sheaf0 with key := .sheaf 1 i }) }) (flight 0x10 9)
     d.sheafOf .fore (desc 0x10 9) = none ∧
       1024 ≤ ((d.begun .fore 0 5 |>.fab .fore).sheafs.filter (fun y => y.key.isSheaf)).length) ∧
    ((inSheaf 0x10).sheafOf .fore (desc 0x10 9)).isSome = true ∧ Starts (inSheaf 0x10) 0 5 0x10 .fore (desc 0x10 9) ∧
    (Starts (inSheaf 0x11) 0 5 0x11 .fore (desc 0x11 9) ∧
      ((inSheaf 0x11).begun .fore 0 5).openSheaf .fore (desc 0x11 9) = some sheaf0 ∧ sheaf0.doomed = none) ∧
    (let d1 := ((inSheaf 0x11).begun .fore 0 5).onSheaf .fore sheaf0.key (fun y => { y with commit := some 5 })
     d1.atBad .fore ⟨1, 500000⟩ (roundUpBeat ⟨1, 500000⟩) = none ∧ (d1.atBad .fore ⟨0, 0⟩ (roundUpBeat ⟨0, 0⟩)).isSome = true) ∧
    (let y := { sheaf0 with doomed := some .portBusy }
     ((inSheaf 0x11 y).begun .fore 0 5).openSheaf .fore (desc 0x11 9) = some y) ∧
    (Starts (inSheaf 0x12) 0 5 0x12 .fore (desc 0x12 9) ∧ ((inSheaf 0x12).begun .fore 0 5).sheafOf .fore (desc 0x12 9) = some sheaf0) ∧
    (let y := { sheaf0 with phase := .bound, at_ := some ⟨1, 1000⟩ }
     let d := fab (fun f => { f with sheafs := [y] })
     Serves d .fore ∧ d.findSheaf .fore (.sheaf 0 9) = some y ∧ y.due = false ∧ d.isDue .fore ⟨1, 1000⟩ = true) := by
  and_intros <;> decide +kernel

theorem witness_SheafActionsComplete :
    ([0x13, 0x14, 0x15, 0x16, 0x17, 0x18, 0x19, 0x1A].all (fun op => (inSheaf op).startable 0 5 op == some (.fore, desc op 9))) = true ∧
    ([0x13, 0x14, 0x15, 0x16, 0x17, 0x18, 0x19, 0x1A].all (fun op =>
      ((inSheaf op).begun .fore 0 5).openSheaf .fore (desc op 9) == some sheaf0)) = true ∧
    (sheaf0.doomed = none ∧ (desc 0x13 9).perm 0 = true ∧ sheaf0.nPort < 4096 ∧
      ((inSheaf 0x13).begun .fore 0 5).portBad .fore (desc 0x13 9) [1, 2] = none ∧
      ((inSheaf 0x15).begun .fore 0 5).portBad .fore (desc 0x15 9) [1, 2, 7] = none) ∧
    ((desc 0x17 9).perm 1 = true ∧ (19 : Nat) < cellCount ∧ ((((inSheaf 0x17).begun .fore 0 5).fab .fore).entry? 19).isSome = true ∧
      sheaf0.nCell + 1536 ≤ 24576) ∧ paramBad true 1 1 = none ∧
    ((flight 0x13 9).begun .fore 0 5).openSheaf .fore (desc 0x13 9) = none ∧ Starts (flight 0x13 9) 0 5 0x13 .fore (desc 0x13 9) ∧
    (let y := { sheaf0 with doomed := some .portBusy }
     ((inSheaf 0x13 y).begun .fore 0 5).openSheaf .fore (desc 0x13 9) = some y ∧ Starts (inSheaf 0x13 y) 0 5 0x13 .fore (desc 0x13 9)) ∧
    -- a context without the permission, one whose range ends at port 3, a port at N, a full sheaf
    (let x := { desc 0x13 9 with ctx := 3, prof := 0x0000000300000001 }
     let d := hif (fun h => { h with inflight := [x] }) (inSheaf 0x13)
     Starts d 0 5 0x13 .fore x ∧ (d.begun .fore 0 5).openSheaf .fore x = some sheaf0 ∧ x.perm 0 = true ∧ x.ports.2 < 4) ∧
    (let x := { desc 0x13 9 with ctx := 3 }
     let d := hif (fun h => { h with inflight := [x] }) (inSheaf 0x13)
     Starts d 0 5 0x13 .fore x ∧ (d.begun .fore 0 5).openSheaf .fore x = some sheaf0 ∧ x.perm 0 = false) ∧
    ((((inSheaf 0x13).begun .fore 0 5).fab .fore).ports ≤ 8 ∧ (desc 0x13 9).ports = (0, 2047)) ∧
    (let y := { sheaf0 with nPort := 4096 }
     ((inSheaf 0x13 y).begun .fore 0 5).openSheaf .fore (desc 0x13 9) = some y ∧
       ((inSheaf 0x13 y).begun .fore 0 5).portBad .fore (desc 0x13 9) [1, 2] = none) := by and_intros <;> decide +kernel

/-- The identity on 8 ports, as PERMUTE carries it (R116), and one entry of a CELLS list: cell 3, LEVEL, code 100. -/
def permIn : SlotIn := slotIn 0x11 ((List.range 8).flatMap (fun i => leBytes 2 (i + 32768)))
def cellsIn : SlotIn := slotIn 0x12 (layout [(2, 3), (2, 2 + 4 * 100)])

theorem test_payloads : portMapOf permIn.bytes = (List.range 8).map (fun i => ⟨i, 0, true⟩) ∧
    cellListOf cellsIn.bytes = [(3, 2, 100)] := by decide +kernel

theorem witness_SheafBulkActionsComplete :
    (let d := (inSheaf 0x1B).begun .fore 0 5
     Starts (inSheaf 0x1B) 0 5 0x1B .fore (desc 0x1B 9) ∧ d.openSheaf .fore (desc 0x1B 9) = some sheaf0 ∧
       SlotSound d .fore (desc 0x1B 9) permIn ∧ (desc 0x1B 9).perm 0 = true ∧ (desc 0x1B 9).ports.1 = 0 ∧
       (d.fab .fore).ports ≤ (desc 0x1B 9).ports.2 + 1 ∧ sheaf0.hasPermute = false ∧ sheaf0.nPort + (d.fab .fore).ports ≤ 4096 ∧
       permIn.kind = 0x11 ∧ permIn.len = 2 * (d.fab .fore).ports ∧ (portMapOf permIn.bytes).length = (d.fab .fore).ports ∧
       portMapOk (d.fab .fore).ports (portMapOf permIn.bytes) = true) ∧
    (let d := (inSheaf 0x1C).begun .fore 0 5
     let back := (d.scanned .fore (desc 0x1C 9) cellsIn).returnIn .fore (desc 0x1C 9) cellsIn false
     Starts (inSheaf 0x1C) 0 5 0x1C .fore (desc 0x1C 9) ∧ d.openSheaf .fore (desc 0x1C 9) = some sheaf0 ∧
       SlotSound d .fore (desc 0x1C 9) cellsIn ∧ (desc 0x1C 9).perm 1 = true ∧ cellsIn.kind = 0x12 ∧
       cellsIn.len = 4 * (cellListOf cellsIn.bytes).length ∧ (cellListOf cellsIn.bytes).length ≤ 24576 ∧
       (∀ e ∈ cellListOf cellsIn.bytes, e.2.1 ≤ 2 ∧ e.1 < cellCount ∧ ((back.fab .fore).entry? e.1).isSome = true)) := by
  and_intros <;> decide +kernel

theorem witness_MapReadsComplete :
    (let d := (fabric (flight 0x1D 0)).begun .fore 0 5
     Starts (fabric (flight 0x1D 0)) 0 5 0x1D .fore (desc 0x1D 0) ∧ (desc 0x1D 0).ent.sheafId = 0 ∧ (desc 0x1D 0).perm 2 = true ∧
       (0 : Nat) ≤ (d.fab .fore).epoch ∧ (d.fab .fore).epoch < 1 ∧ d.epochLost .fore 0 = false ∧
       SlotFree d .fore (desc 0x1D 0) slotOut ∧ SlotFree (d.holdSlot .fore (desc 0x1D 0) slotOut.ref) .fore (desc 0x1D 0) slotOut) ∧
    (let j : ReadJob := ⟨0, 5, 0, 1, 0, [⟨0, 0, false⟩], .map 8 ⟨0, 0⟩ [], true⟩
     let d := fab (fun f => { f with reads := [j] }) (flight 0x1D 0)
     Serves d .fore ∧ (d.fab .fore).reads.find? (fun j => j.ring == 0 && j.seq == 5) = some j ∧
       (d.findDesc .fore 0 5).isSome = true) := by and_intros <;> decide +kernel

theorem witness_EpochNowFollowsR142 :
    (desc 0x1E 0).ent.sheafId = 0 ∧ Starts (flight 0x1E 0) 0 5 0x1E .fore (desc 0x1E 0) := by and_intros <;> decide +kernel

/-- A table of the kind with planes, and a fabric that runs its plane 0. -/
def twin : Dev := fab (fun f => { f with topo := some ⟨{ table8 with kind := 2 }, []⟩ })

/-- The fabric with one sheaf in strike order. -/
def ordered (y : Sheaf) (f : Fab → Fab := id) (d : Dev := fabric) : Dev :=
  fab (fun g => f { g with sheafs := [y], order := [y.key] }) d

def errOf {α : Type} : Except Status α → Option Status
  | .ok _ => none
  | .error e => some e

def swapSheaf : Sheaf := { sheaf0 with key := .swap 0 5, commit := some 5, phase := .bound }

/-- A sheaf at the solver, whose working map connects port 0 to itself. -/
def solving : Sheaf := { sheaf0 with phase := .solving, preserve := true, work := { noWork with tsid := 1, wmap := [(0, 0)] } }

/-- Every cell of the table in its BAR state. -/
def allBar : Tbl (Option Tgt) := (List.range 20).map (fun c => (c, some .bar))

/-- A fabric of 4 ports: each plane three stages of two cells, and with planes an edge cell at every port. -/
def table4 (kind : Nat) : TopoTable :=
  let plane := fun (p : Nat) => (List.range 6).map (fun c => (⟨6 * p + c, c / 2, 0, p, false, 0, c % 2, true, []⟩ : TopoEntry))
  let edge := fun (s c : Nat) => (List.range 4).map (fun i => (⟨c + i, s, 0, 0, false, 0, i, true, []⟩ : TopoEntry))
  { table8 with kind := kind, log2n := 2, entries := plane 0 ++ (if kind == 2 then plane 1 ++ edge 0xFE 12 ++ edge 0xFF 16 else []) }

/-- That fabric carrying 0 to 0 and 2 to 3, so set that 1 reaches 2 only by a rearrangement. -/
def tight (kind : Nat) (y : Sheaf) (d : Dev := base) : Dev := fab (fun f => { f with
  topo := some ⟨table4 kind, []⟩, map := [(0, 0), (2, 3)], settings := tset none allBar 1 (some .cross), sheafs := [y], order := [y.key] }) d

/-- A sheaf that adds 1 to 2. -/
def third : Sheaf := { solving with preserve := false, work := { solving.work with wmap := [(0, 0), (1, 2), (2, 3)] } }

/-- The same sheaf at its turn. -/
def adds : Sheaf := { sheaf0 with phase := .bound, acts := [.connect 1 2] }

theorem witness_SheafTurnChecksInOrder :
    { adds with spillLost := true }.spillLost = true ∧
    (let d := tight 2 adds
     Serves d .fore ∧ (d.fab .fore).order = [adds.key] ∧ d.findSheaf .fore adds.key = some adds ∧ adds.spillLost = false ∧
       (d.turnCheck .fore adds).toOption = some [(0, 0), (1, 2), (2, 3)] ∧ adds.solves = true ∧ (d.fab .fore).kind = 2 ∧
       d.beyondKeep .fore adds [(0, 0), (1, 2), (2, 3)] = true) ∧
    ((tight 1 adds).turnCheck .fore adds).toOption = some [(0, 0), (1, 2), (2, 3)] ∧ ((tight 1 adds).fab .fore).kind ≠ 2 ∧
    (let y := { sheaf0 with phase := .bound }
     let d := ordered y
     Serves d .fore ∧ (d.fab .fore).order = [y.key] ∧ d.findSheaf .fore y.key = some y ∧ (d.fab .fore).swap = none ∧ y.key ≠ .heal ∧
       y.key.isSheaf = true ∧ (d.turnCheck .fore y).toOption = some []) ∧
    (let y := { sheaf0 with phase := .bound, acts := [.assert 1 2] }
     errOf ((ordered y).turnCheck .fore y) = some .assertFailed) ∧
    (let d := ordered swapSheaf id twin
     d.findSheaf .fore swapSheaf.key = some swapSheaf ∧ swapSheaf.key.isSheaf = false ∧ d.pins.parkSeen = false ∧
       d.shadowOk .fore = true) ∧
    -- the checks: parked, a BASE ahead, stale ports, PRESOLVED, actions, fenced cells
    ({ base with pins := { base.pins with parkSeen := true } } : Dev).pins.parkSeen = true ∧
    (let y := { sheaf0 with baseNow := false, base := 1 }
     base.pins.parkSeen = false ∧ y.baseNow = false ∧ (base.fab .fore).epoch < y.base) ∧
    (let y := { sheaf0 with baseNow := false, base := 1, acts := [.connect 1 2] }
     let d := fab (fun f => { f with epoch := 5, portEpoch := [(1, 3)] }) fabric
     ¬ (d.fab .fore).epoch < 1 ∧ (y.readSet (d.fab .fore).ports).any (fun p => 1 < tget 0 (d.fab .fore).portEpoch p) = true) ∧
    (let y := { sheaf0 with baseNow := false, base := 1, presolved := true }
     let d := fab (fun f => { f with epoch := 5, cellEpoch := 2 }) fabric
     (y.readSet (d.fab .fore).ports).any (fun p => 1 < tget 0 (d.fab .fore).portEpoch p) = false ∧ 1 < (d.fab .fore).cellEpoch) ∧
    errOf (runActs ((fabric).fab .fore).map [.assert 1 2]) = some .assertFailed ∧
    (let y := { sheaf0 with acts := [.setCell 3 .bar] }
     (runActs ((fabric).fab .fore).map y.acts).toOption = some [] ∧
       y.named.any (base.cellFenced .fore) = false ∧
       y.named.any ((fore (fun x => { x with flt := { x.flt with fences := [⟨⟨.cell, 3⟩, false, 32⟩] } })).cellFenced .fore) = true) := by
  and_intros <;> decide +kernel

theorem witness_PortActionsOnMap :
    mapOut [(1, 2)] 1 = some 2 ∧ mapIn [(1, 2)] 2 = some 1 ∧ mapOut [(1, 2)] 3 = none ∧ mapIn [(1, 2)] 4 = none ∧
    (2 : Nat) ≠ 0xFFFF ∧ mapOut [(1, 2)] 1 ≠ some 5 := by decide

theorem witness_BenesCarriesAPermutation : 0 < 3 ∧ (5 : Nat) < 2 ^ 3 ∧
    (walk (fun _ _ => some (0, false)) 3 0 0 5).isSome = true := by decide

/-- States of six cells from cell `o` on, CROSS where `v` has a bit. -/
def six (v o : Nat) : List CellSet := (List.range 6).map (fun i => ⟨o + i, if bit v i then .cross else .bar⟩)

def cell0Fenced (d : Dev) : Dev := fore (fun x => { x with flt := { x.flt with fences := [⟨⟨.cell, 0⟩, false, 32⟩] } }) d

theorem witness_SolvesComplete :
    (let d := ordered solving (fun f => { f with settings := allBar })
     Serves d .fore ∧ (d.fab .fore).sheafs.find? (fun y => y.phase == .solving && !y.work.solved && y.work.shadowAt.isNone) =
       some solving ∧ (d.fab .fore).plans = [] ∧ solving.key ≠ .heal ∧ solving.preserve = true ∧ solving.work.migrate = false ∧
       (d.fab .fore).preserves (d.cellFenced .fore) ((d.fab .fore).split [(0, 0)]).1 ((d.fab .fore).split [(0, 0)]).2 [] = true) ∧
    -- beyond the circuits in force: a full solve, a migration, PRESERVE
    (let d := tight 1 third
     (d.fab .fore).sheafs.find? (fun y => y.phase == .solving && !y.work.solved && y.work.shadowAt.isNone) = some third ∧
       (d.fab .fore).plans = [] ∧ d.beyondKeep .fore third third.work.wmap = true ∧ (d.fab .fore).kind ≠ 2 ∧
       (d.fab .fore).fullySolves (d.cellFenced .fore) third.work.wmap (six 23 0) = true ∧
       (d.fab .fore).asBefore (d.cellFenced .fore) (d.fab .fore).active third.work.wmap (six 23 0) = true) ∧
    (let d := tight 2 third
     (d.fab .fore).sheafs.find? (fun y => y.phase == .solving && !y.work.solved && y.work.shadowAt.isNone) = some third ∧
       (d.fab .fore).plans = [] ∧ d.beyondKeep .fore third third.work.wmap = true ∧ (d.fab .fore).kind = 2 ∧
       (d.fab .fore).shadowFull (d.cellFenced .fore) third.work.wmap (six 23 6) = true ∧
       (d.fab .fore).asBefore (d.cellFenced .fore) (d.fab .fore).shadow third.work.wmap (six 23 6) = true ∧
       ((d.fab .fore).edgeSets (d.fab .fore).shadow third.work.wmap).all (fun (e : CellSet) => !d.cellFenced .fore e.cell) = true) ∧
    (tight 1 { third with preserve := true }).keeps .fore third.work.wmap = (false, false) ∧
    (let d := cell0Fenced (ordered solving (fun f => { f with settings := allBar }))
     d.keeps .fore solving.work.wmap = (false, true) ∧ (d.fab .fore).sheafs = [solving]) ∧
    -- a plan's result, and no routing without the fenced cell
    (let j : PlanJob := ⟨0, 5, 1, [(0, 0)], 0, [], allBar, 0⟩
     let d := fab (fun f => { f with plans := [j] }) (fabric (flight 0x31 0))
     let g : Fab := { d.fab .fore with map := j.map, settings := j.settings, active := j.active }
     Serves d .fore ∧ (d.fab .fore).sheafs = [] ∧ (d.fab .fore).plans = [j] ∧ (d.findDesc .fore 0 5).isSome = true ∧
       g.plans? (d.cellFenced .fore) j.want [] [] = true ∧
       g.canFull ((cell0Fenced d).cellFenced .fore) g.active true j.want = false) ∧
    (let y := { solving with work := { solving.work with migrate := true, shadowAt := some 1999 } }
     let d := ordered y
     (d.fab .fore).sheafs.find? (fun y => y.work.migrate && !y.work.solved) = some y ∧ y.work.shadowAt = some 1999 ∧ 1999 ≤ d.beat) ∧
    (let d := fab (fun f => { f with shadowBusy := true }) twin
     Serves d .fore ∧ (d.fab .fore).shadowBusy = true ∧ (d.fab .fore).refreshes (d.cellFenced .fore) (d.fab .fore).map [] = true ∧
       (d.fab .fore).canKeepShadow (d.cellFenced .fore) (d.fab .fore).map = true) ∧
    (let d := fab (fun f => { f with
       shadowBusy := true, map := third.work.wmap, settings := tset none allBar 7 (some .cross) }) (tight 2 third)
     (d.fab .fore).canKeepShadow (d.cellFenced .fore) (d.fab .fore).map = false ∧
       (d.fab .fore).refreshes (d.cellFenced .fore) (d.fab .fore).map (six 23 6) = true ∧
       (d.fab .fore).asBefore (d.cellFenced .fore) (d.fab .fore).shadow (d.fab .fore).map (six 23 6) = true) ∧
    (let d := fab (fun f => { f with order := [.heal] }) fabric
     Serves d .fore ∧ (d.fab .fore).order = [.heal] ∧ d.findSheaf .fore .heal = none ∧ d.pins.parkSeen = false ∧
       (d.fab .fore).shadowBusy = false ∧ (d.fab .fore).swap = none ∧ (d.fab .fore).kind ≠ 2) ∧
    (let d := fab (fun f => { f with order := [.heal] }) twin
     (d.fab .fore).kind = 2 ∧ (d.onFab .fore (fun f =>
       { f with sheafs := f.sheafs.filter (fun y => y.key != .heal) ++ [healSheaf] })).shadowOk .fore = true) := by
  and_intros <;> decide +kernel

/-- A slot that holds the table; PLAN's slots. -/
def tableIn : SlotIn := slotIn 0x30 tableRaw

theorem witness_PlansAndSwapsComplete :
    (Starts (fabric (flight 0x32 0)) 0 5 0x32 .fore (desc 0x32 0) ∧ (desc 0x32 0).perm 9 = true ∧ (desc 0x32 0).lost = false ∧
      (((fabric (flight 0x32 0)).begun .fore 0 5).fab .fore).kind ≠ 2) ∧
    (let s := fab (fun f => { f with topo := some ⟨{ table8 with kind := 2 }, []⟩ }) (flight 0x32 0)
     Starts s 0 5 0x32 .fore (desc 0x32 0) ∧ ((s.begun .fore 0 5).fab .fore).kind = 2) ∧
    (let d := (fabric (flight 0x31 0)).begun .fore 0 5
     let x := desc 0x31 0
     let d1 := d.heldOut .fore x ⟨permIn.ref, permIn.owner, permIn.err⟩
     let d2 := d1.heldOut .fore x slotOut
     Starts (fabric (flight 0x31 0)) 0 5 0x31 .fore x ∧ x.perm 0 = true ∧ permIn.err = false ∧
       d.slotBad .fore x permIn.ref permIn.owner = none ∧ crcOk permIn = true ∧ permIn.ref ≠ slotOut.ref ∧ permIn.kind = 0x11 ∧
       permIn.len = 2 * (d.fab .fore).ports ∧ (portMapOf permIn.bytes).length = (d.fab .fore).ports ∧
       portMapOk (d.fab .fore).ports (portMapOf permIn.bytes) = true ∧ SlotFree d1 .fore x slotOut ∧
       permIn.len ≤ d2.slotSize .fore (refWin permIn.ref) - 64) ∧
    (let d := ({ flight 0x30 0 with fore := { (flight 0x30 0).fore with regs := [(0x1000, 1), (0x2008, 0x8C000010), (0x4010, 1)] } } : Dev)
     let b := d.begun .fore 0 5
     let x := desc 0x30 0
     let back := (b.scanned .fore x tableIn).returnIn .fore x tableIn false
     let read := { topoOf tableIn.bytes with len := tableIn.len }
     Starts d 0 5 0x30 .fore x ∧ x.perm 9 = true ∧ (d.mast .fore).pen.protect = false ∧ (d.fab .fore).swap = none ∧
       SlotSound b .fore x tableIn ∧ tableIn.kind = 0x30 ∧ (back.fab .fore).sheafs.any (fun y => y.key != .heal) = false ∧
       topoCheck d.part (back.regF .fore 0x4010 0 16) read = none) ∧
    (let bytes := tableRaw.set 63 0
     topoCheck base.part 1 { topoOf bytes with len := 544 } = some (3, 0xFFFF) ∧ crcOk (slotIn 0x30 bytes) = true) ∧
    (let d := fab (fun f => { f with swap := some (0, 5, table8) }) (flight 0x30 0)
     Serves d .fore ∧ (d.fab .fore).swap = some (0, 5, table8) ∧ d.watchEdge = true ∧ (d.mast .fore).cal.pass = none ∧
       (d.fab .fore).map = [] ∧ d.findDesc .fore 0 5 = some (desc 0x30 0)) := by and_intros <;> decide +kernel

/-- A solved sheaf of tile sheaf id 1, nothing of it staged. -/
def ready1 : Sheaf := { sheaf0 with phase := .solving, work := { noWork with tsid := 1, solved := true } }

/-- The same, decided at beat 1,994 with lead 8: its strike beat is 2,002. -/
def decided1 (w : SheafWork → SheafWork := id) : Sheaf :=
  { ready1 with phase := .decided, work := w { ready1.work with D := some 1994, lead := 8, sent := [(0, 1)] } }

/-- Tile 0 with that sheaf staged. -/
def link0 (f : TileLink → TileLink) (d : Dev) : Dev := { d with tiles := [(0, { tileUp with
  link := f { tileUp.link with staged := [⟨1, false, []⟩] } })] }

def armed1 : Arm := ⟨1, 1, 0, changesCrc [], 1, ⟨0, 0⟩, 2002, .sheaf 0 9, 5, 0, 0, 0, 1998⟩

theorem witness_StagingAndArmingComplete :
    (let d := ordered ready1
     Serves d .fore ∧ d.ofTsid .fore 1 = some ready1 ∧ ready1.work.solved = true ∧ ready1.work.stagedOn 0 = false ∧
       (d.stagedTiles .fore).contains 0 = true ∧ ((d.tile 0).link.staged.filter (fun g => g.tsid != 1)).length < 4 ∧
       d.takes .fore 0 = true ∧ d.waiting .fore 0 4 [1, (tget 0 ready1.work.sent 0 - 1 + 15) / 16] = false) ∧
    (let y := { ready1 with phase := .staged, work := { ready1.work with sent := [(0, 1)] } }
     let d := ordered y
     (d.fab .fore).order = [y.key] ∧ d.findSheaf .fore y.key = some y ∧ y.at_ = none ∧ d.stagingDone .fore y = true ∧
       (d.mast .fore).pen.yielding = false ∧ (d.fab .fore).lastStrike.getD 0 ≤ d.beat + 1 ∧
       d.pauseEnd .fore ≤ d.beat + 1 + d.lead .fore) ∧
    (let y := { ready1 with phase := .staged, at_ := some ⟨1, 800⟩, work := { ready1.work with sent := [(0, 1)] } }
     let d := ordered y
     d.findSheaf .fore (.sheaf 0 9) = some y ∧ stampNs d.now + 100 * d.lead .fore = stampNs ⟨1, 800⟩ ∧
       (d.fab .fore).order.head? = some (.sheaf 0 9) ∧ d.stagingDone .fore y = true ∧ (d.fab .fore).lastStrike.getD 0 ≤ d.beat ∧
       d.pauseEnd .fore ≤ d.beat + d.lead .fore) ∧
    (let d := { ordered (decided1) with beat := 1998 }
     Serves d .fore ∧ d.struck? .fore = some decided1 ∧ decided1.work.arms = false ∧ d.beat + 4 = 1994 + decided1.work.lead) ∧
    (let y := decided1 (fun w => { w with arms := true, frames := [(0, some armed1)] })
     let d := link0 id (ordered y)
     Serves d .fore ∧ d.struck? .fore = some y ∧ tget none y.work.frames 0 = some armed1 ∧ d.takes .fore 0 = true ∧
       d.waiting .fore 0 1 [armed1.tsid, 1] = false ∧ (d.tile 0).mayArm armed1 = true) ∧
    (let d := { link0 (fun l => { l with ack := some (1, true) }) (ordered decided1) with beat := 1999 }
     d.struck? .fore = some decided1 ∧ (d.tile 0).link.ack = some (1, true) ∧ d.beat + 2 < 1994 + decided1.work.lead ∧ UpFree d .fore 0 1) ∧
    (let d := link0 (fun l => { l with ack := some (2, true) }) (ordered decided1)
     d.struck? .fore = some decided1 ∧ (d.tile 0).link.ack = some (2, true) ∧ 2 ≠ decided1.work.tsid ∧ UpFree d .fore 0 1) ∧
    (let d := link0 (fun l => { l with ack := some (1, false) }) (ordered decided1)
     d.struck? .fore = some decided1 ∧ (d.tile 0).link.ack = some (1, false) ∧ UpFree d .fore 0 1) := by and_intros <;> decide +kernel

theorem witness_StrikeWordsComplete :
    (let y := decided1 (fun w => { w with acks := [0] })
     let d := { pen (fun p => { p with acks := [(0, 3000)] }) (ordered y) with beat := 2001 }
     Serves d .fore ∧ d.struck? .fore = some y ∧ y.work.word = false ∧ d.beat + 1 = 1994 + y.work.lead ∧ y.key ≠ .heal ∧
       (d.stagedTiles .fore).all y.work.acks.contains = true ∧ y.work.refused = false ∧ d.leased .fore (1994 + y.work.lead) = true ∧
       d.pins.parkSeen = false) ∧
    (let y := decided1 (fun w => { w with refused := true })
     let d := { ordered y with beat := 2001 }
     d.struck? .fore = some y ∧ y.work.refused = true) ∧
    -- the rows of R134
    (let d := link0 (fun l => { l with armed := some armed1 }) base
     (d.tile 0).alive = true ∧ (d.tile 0).link.armed = some armed1 ∧ armed1.tsid ≠ 2 ∧ armed1.tsid = 1 ∧
       1 = (d.tile 0).link.pen % 4096 ∧ d.beat < (d.tile 0).link.leaseEnd) ∧
    (let d := link0 (fun l => { l with applied := some (1, 1997) }) base
     (d.tile 0).link.armed = none ∧ (d.tile 0).link.applied = some (1, d.beat - 3) ∧ 3 ≤ d.beat) ∧
    ¬ ((2 : Nat) = (base.tile 0).link.pen % 4096) ∧ (base.tile 0).link.armed = none ∧ (base.tile 0).link.applied = none := by and_intros <;> decide +kernel

theorem witness_StrikesComplete :
    (let y := { decided1 (fun w => { w with acks := [0], arms := true, word := true }) with commit := some 5 }
     let d := { fab (fun g => { g with sheafs := [y], order := [y.key] }) (fabric (flight 0x11 9)) with beat := 2002 }
     Serves d .fore ∧ d.struck? .fore = some y ∧ y.work.D = some 1994 ∧ y.work.word = true ∧ d.beat = 1994 + y.work.lead ∧ y.key ≠ .heal ∧
       y.owner = some (0, 5) ∧ d.findDesc .fore 0 5 = some (desc 0x11 9)) ∧
    (base.takes .fore 0 = true ∧ base.ofTsid .fore 1 = none ∧ base.waiting .fore 0 1 [1, 0] = false) ∧
    (let d := { link0 (fun l => { l with armed := some armed1 }) base with beat := 2014 }
     (d.tile 0).link.armed = some armed1 ∧ armed1.armedAt + 16 ≤ d.beat ∧ (d.fab .fore).missed.contains 0 = false) ∧
    (let d := { link0 (fun l => { l with armed := some armed1 }) (fab (fun f => { f with missed := [0], lastTsid := some (1, 2002) }))
                with beat := 2014 }
     (d.tile 0).link.armed = some armed1 ∧ armed1.armedAt + 16 ≤ d.beat ∧ (d.fab .fore).missed.contains 0 = true ∧
       (d.fab .fore).lastTsid = some (armed1.tsid, 2002) ∧
       ((d.onTile 0 (fun x => x.discard armed1.tsid)).tile 0).link.reports.contains (.miss armed1.tsid) = false) ∧
    (let d := link0 (fun l => { l with reports := [.miss 1] }) (fab (fun f => { f with lastTsid := some (1, 1999), lastRepair := true }))
     (d.tile 0).link.reports = [.miss 1] ∧ (d.fab .fore).lastTsid = some (1, 1999) ∧ (d.fab .fore).missed.contains 0 = false ∧
       (d.fab .fore).lastRepair = true ∧ d.beat ≤ 1999 + 2 ∧ UpFree d .fore 0 3) ∧
    (let d := fab (fun f => { f with repair := some (1, 2000) })
     Serves d .fore ∧ (d.fab .fore).repair = some (1, d.beat)) ∧
    (let d := link0 (fun l => { l with reports := [.stray 1] }) base
     (d.tile 0).link.reports.contains (.stray 1) = true ∧ d.isFenced .fore ⟨.tile, 0⟩ = false ∧ UpFree d .fore 0 3) ∧
    ((base.tile 0).alive = true ∧ base.beat % 50 = 0) ∧
    (let d := link0 (fun l => { l with reports := [.driver 5 9] }) base
     UpFree d .fore 0 3 ∧ (d.tile 0).link.reports = [.driver 5 9]) := by and_intros <;> decide +kernel

theorem witness_strikeLeadRange :
    Writable base 0x4030 (wr 64) (info 0x4030) ∧
    (4 ≤ fld (base.written 0x4030 (wr 4) (info 0x4030)) 0 7 ∧ fld (base.written 0x4030 (wr 64) (info 0x4030)) 0 7 ≤ 64) ∧
    Writable base 0x4030 (wr 65) (info 0x4030) ∧ 64 < fld (base.written 0x4030 (wr 65) (info 0x4030)) 0 7 ∧
    fld (base.written 0x4030 (wr 3) (info 0x4030)) 0 7 < 4 := by and_intros <;> decide +kernel

/-- The fore mast's core 0 changed. -/
def core0 (f : Core → Core) (d : Dev := base) : Dev := d.setCore .fore 0 (f (d.core .fore 0))

theorem witness_SlotBOperationsComplete :
    ([.noOperation 0 .b, .add 0 ⟨7, 4, 5, true⟩, .sub 0 ⟨7, 4, 5, true⟩, .and 0 ⟨7, 4, 5, false⟩, .or 0 ⟨7, 4, 5, false⟩,
      .xor 0 ⟨7, 4, 5, false⟩, .shl 0 ⟨7, 4, 5, true⟩, .shr 0 ⟨7, 4, 5, false⟩, .shra 0 ⟨7, 4, 5, false⟩, .min 0 ⟨7, 4, 5, false⟩,
      .max 0 ⟨7, 4, 5, false⟩, .zsel 0 ⟨7, 4, 5, false⟩, .mulh 0 ⟨7, 4, 5, true⟩, .divq 0 ⟨7, 4, 5, false⟩, .addi 0 7 4 1 true,
      .shi 0 7 4 .shl 3 true, .shi 0 7 4 .shr 3 false, .shi 0 7 4 .shra 3 false, .movi 0 7 1, .movhi 0 7 1,
      .mac 0 1 32 27 false false true, .mac2 0 true 1 2 3 false false, .narrow 0 7 1 2 true, .mva 0 7 1 2, .mta 0 7 1 2,
      .rot 0 true 3] : List Instr).all (fun i => decide (IssuesB base .fore 0 i)) = true := by decide +kernel

theorem witness_SlotAOperationsComplete :
    ([.noOperation 0 .a, .movip 0 1 5, .addp 0 1 2 5, .movdp 0 1 2 5, .movim 0 1 5, .mfs 0 1 21, .mts 0 1 21, .movlc 0 5, .ei 0 true,
      .wait 0, .b 0 5, .beqz 0 1 5, .bnez 0 1 5, .bltz 0 1 5, .bgez 0 1 5, .bcnt 0 5, .call 0 5, .ret 0, .reti 0]
      : List Instr).all (fun i => decide (IssuesA base .fore 0 i)) = true ∧
    ((base.opened .fore 0).core .fore 0).delay = false ∧
    (let d := core0 (fun c => { c with delay := true })
     ((d.opened .fore 0).core .fore 0).delay = true ∧ IssuesA d .fore 0 (.b 0 5)) ∧
    (let d := core0 (fun c => { c with run := .waiting, sqProd := 1 })
     Serves d .fore ∧ (d.core .fore 0).run = .waiting ∧ (d.core .fore 0).wakes = true) ∧ 21 < (22 : BitVec 6).toNat := by
  and_intros <;> decide +kernel

theorem witness_LoadsAndStoresComplete :
    ([.ldW 0 ⟨4, 1, .ring, 32⟩, .ldH 0 ⟨4, 1, .ring, 32⟩, .ldHu 0 ⟨4, 1, .ring, 32⟩, .ldD 0 ⟨4, 1, .ring, 32⟩, .ldA 0 ⟨3, 1, .ring, 32⟩,
      .stW 0 ⟨4, 1, .ring, 32⟩, .stH 0 ⟨4, 1, .ring, 32⟩, .stD 0 ⟨4, 1, .ring, 32⟩, .stA 0 ⟨3, 1, .ring, 32⟩, .noOperation 0 .a,
      .tapm 0 1 true 1 2] : List Instr).all (fun i => decide (IssuesA base .fore 0 i)) = true ∧
    (⟨21, 1, .postM, 0x7000⟩ : MemF).wf = true ∧ (⟨21, 1, .postM, 0x7000⟩ : MemF).d.toNat ≤ 21 := by and_intros <;> decide +kernel

theorem witness_TillerArithmetic : (-(2 ^ 31) ≤ (5 : Int) ∧ (5 : Int) < 2 ^ 31) ∧ (2 : Int) ^ 31 ≤ 2 ^ 31 ∧ -(2 ^ 31 : Int) - 1 < -(2 ^ 31) ∧
    0 < (4 : Word).toInt ∧ (aluDivq 1 4).sat = false := by decide +kernel

theorem witness_RotatingNames : (31 : BitVec 6).toNat < 32 ∧ 32 ≤ (32 : BitVec 6).toNat ∧
    (base.core .fore 0).land = [] ∧ physD 3 5 = physD 3 5 ∧ IssuesB base .fore 0 (.rot 0 false 1) := by decide +kernel

theorem witness_ResultsLandWhenReady : (base.core .fore 0).land = [] ∧ (1 : Nat) ≤ 2 ∧ (2 : Nat) < 3 ∧ (3 : Nat) ≤ 10 ∧ (0 : Nat) < 1 := by
  decide +kernel

theorem witness_AddressingModes : (base.core .fore 0).land = [] ∧ 0 < 4 := by decide +kernel

theorem witness_TillerWordsRoundTrip :
    ((encA (.movip 3 1 0x12345)).isSome = true ∧ (Instr.movip 3 1 0x12345).opWf = true ∧ (Instr.movip 3 1 0x12345).bounds = [(3, 64)]) ∧
    ((encB (.shi 0 5 3 .shra 16 false)).isSome = true ∧ (Instr.shi 0 5 3 .shra 16 false).opWf = true ∧
      (Instr.shi 0 5 3 .shra 16 false).bounds = [(0, 64)]) ∧ (decA 3 0b01000000100000010010001101000101).toOption.isSome = true ∧
    (decB 0 0b01000100010100001110100000000000).toOption.isSome = true := by and_intros <;> decide +kernel

theorem witness_CoreEventsComplete :
    (Serves base .fore ∧ (0 : Nat) < 64 ∧ base.canIssue .fore 0 = true ∧
      bundleIllegal (if (base.core .fore 0).run == .running then (base.core .fore 0).codeLen else 65536) (base.core .fore 0).pc
        (base.core .fore 0).delay 0xFC000000FC000000 = true) ∧
    (let d := core0 (fun c => { c with run := .running, codeLen := 64, handler := some 4, imask := 1, ipend := 1, r := { c.r with ie := true } })
     let c := d.core .fore 0
     c.openA.handler = some 4 ∧ c.openA.r.ie = true ∧ (c.openA.ipend &&& c.openA.imask) ≠ 0 ∧ c.openA.delay = false ∧
       d.canIssue .fore 0 = true) ∧
    (let d := core0 (fun c => { c with spentLoop := 1000000 })
     (d.core .fore 0).run = .shipped ∧ d.canIssue .fore 0 = false) ∧
    -- the service context: dither work alone, and a sheaf at the solver; SQ_CONS after and not after SQ_PROD
    [2, 5, 6, 1].find? (fun cls => base.svcWork .fore 0 cls && 5 ≤ base.svcLeft .fore 0 cls && !base.waits .fore 0 cls (0 / 16)) = some 1 ∧
    (let d := fab (fun f => { f with sheafs := [{ sheaf0 with phase := .solving }] })
     [2, 5, 6, 1].find? (fun cls => d.svcWork .fore 0 cls && 5 ≤ d.svcLeft .fore 0 cls && !d.waits .fore 0 cls (0 / 16)) = some 5) ∧
    serialAfter (1 : Word).toNat (base.core .fore 0).sqProd.toNat = true ∧
    serialAfter (0 : Word).toNat (base.core .fore 0).sqProd.toNat = false := by and_intros <;> decide +kernel

def kslot (ok : Bool) : SlotIn := slotIn 0x80 (kernel ok).bytes

/-- The block with KERNEL_LOAD in flight and kernel slot 1 in use. -/
def kload : Dev := boot keyed (flight 0x80 0)

theorem witness_kernelLoad (ok : Bool) :
    let d := kload.begun .fore 0 5
    let x := desc 0x80 0
    Starts kload 0 5 0x80 .fore x ∧ x.perm 8 = true ∧ SlotSound d .fore x (kslot ok) ∧
      (d.heldOut .fore x ⟨(kslot ok).ref, (kslot ok).owner, (kslot ok).err⟩).handleBound .fore 2 = false ∧
      (⟨(kslot ok).bytes⟩ : KernelImage).formatOk (kslot ok).len = true ∧
      (⟨(kslot ok).bytes⟩ : KernelImage).formatOk ((kslot ok).len + 8) = false ∧
      ((d.scanned .fore x (kslot ok)).mast .fore).boot.kernelOk ⟨(kslot ok).bytes⟩ = ok := by
  cases ok <;> and_intros <;> decide +kernel

theorem witness_KernelDescriptorsComplete :
    (let d := (fore (fun z => { z with kern := { z.kern with bound := [(0, 2)] } }) kload).begun .fore 0 5
     (d.heldOut .fore (desc 0x80 0) ⟨0, 2, false⟩).handleBound .fore 2 = true) ∧
    (let x : Desc := { desc 0x80 0 with started := true }
     let d := fore (fun z => { z with kern := { z.kern with loading := [(0, 5, 2, kernel true, kslot true)] },
                                      hif := { z.hif with inflight := [x] } }) (flight 0x80 0)
     Serves d .fore ∧ d.findDesc .fore 0 5 = some x ∧ x.defer = none ∧
       (d.mast .fore).kern.loading = [(0, 5, 2, kernel true, kslot true)] ∧ (d.mast .fore).pen.protect = false) ∧
    (let d := (flight 0x81 0).begun .fore 0 5
     Starts (flight 0x81 0) 0 5 0x81 .fore (desc 0x81 0) ∧ (d.mast .fore).mem.lostKern.contains 2 = false ∧ (d.tile 0).enabled = true ∧
       d.handle .fore 2 = none ∧ (d.tile 5).enabled = false) ∧
    (let d := fore (fun z => { z with kern := { z.kern with pend := [(0, 0, 0, 5, 1000)] } })
     Serves d .fore ∧ (d.mast .fore).kern.pend = [(0, 0, 0, 5, 1000)] ∧ d.loopEdge 0 = true ∧ 1000 + 1000 ≤ d.beat) ∧
    (let s := fore (fun z => { z with kern := { z.kern with handles := [(2, some (kernel true))] } }) (flight 0x82 0)
     let d := s.begun .fore 0 5
     Starts s 0 5 0x82 .fore (desc 0x82 0) ∧ d.handle .fore 3 = none ∧ (d.handle .fore 2).isSome = true ∧
       d.handleBound .fore 2 = false) := by and_intros <;> decide +kernel

def scanning : Conv := { tileReset.conv with scanning := true, slot := 4, scanBeat := 1990 }

theorem witness_MonitorCompletes :
    (let d := tile0 (fun x => { x with conv := scanning })
     (d.tile 0).alive = true ∧ (d.tile 0).conv.scanning = true ∧ (d.tile 0).conv.awake = true ∧ (d.tile 0).conv.slot < 64 ∧
       5 * (d.tile 0).conv.slot ≤ 2 * (d.beat - (d.tile 0).conv.scanBeat) + 1) ∧
    (let d := link0 (fun l => { l with reports := [.exit 3 0 700 false ⟨1, 0⟩] }) base
     Serves d .fore ∧ (d.tile 0).link.reports = [.exit 3 0 700 false ⟨1, 0⟩] ∧ UpFree d .fore 0 3) ∧
    (let d := at_ 16000 (tile0 (fun x => { x with conv := { x.conv with lpNow := true } }))
     (d.tile 0).alive = true ∧ (d.tile 0).conv.lpNow = true ∧ (d.now.ns + 4000) % (20000 * (d.tile 0).par.period) = 0) ∧
    Writable base (monReg 0) ⟨.fore, .hi, 0⟩ (info (monReg 0)) ∧
    (let v := base.written (monReg 0) (wr 0) (info (monReg 0))
     Writable base (monReg 0) (wr 0) (info (monReg 0)) ∧ fld v 0 2 = fld (base.reg .fore (monReg 0)) 0 2 ∧
       fld v 4 3 = fld (base.reg .fore (monReg 0)) 4 3 ∧ fld v 8 1 = 0 ∧ (fld v 8 1 == 1) = (base.tile 0).conv.lpNow) ∧
    (let v := base.written (monReg 0) (wr 0x100) (info (monReg 0))
     Writable base (monReg 0) (wr 0x100) (info (monReg 0)) ∧ fld v 8 1 = 1 ∧ (base.tile 0).par.period = 1 ∧
       (base.tile 0).conv.lpNow = false) := by and_intros <;> decide +kernel

theorem witness_ComparatorsFollowR270 : (0 : Nat) < 1 ∧ (⟨5, false, true, 5⟩ : Samp).ovr = true ∧ (⟨5, false, false, 5⟩ : Samp).ovr = false := by
  decide

theorem witness_LoopEventsComplete :
    (let d := tile0 (fun x => x.onCell 3 (fun c => { c with mon := { c.mon with fresh := true } }))
     Serves d .fore ∧ (d.tile 0).closed = true ∧ (0 : Nat) < laneCount ∧ d.takes .fore 0 = true ∧ CarryFree d .fore 0 true ∧
       (((List.range 16).map (fun i => 0 / 16 * 16 + i)).filter (fun l => ((d.tile 0).cell l).mon.fresh)) = [3]) ∧
    (let d := core0 (fun c => { c with sqProd := 1 })
     let c := d.core .fore 0
     c.run = .shipped ∧ d.canIssue .fore 0 = true ∧ c.sqProd ≠ c.sqCons ∧ d.coreFenced .fore 0 = false ∧ c.entryH 0 % 512 = 0 ∧
       (d.cell (cellOf 0 0)).lp.mode ≠ 2) ∧
    (let d := core0 (fun c => { c with sqProd := 1 }) (tile0 (fun x => x.onCell 0 (fun c => { c with lp := { c.lp with mode := 2 } })))
     (d.cell (cellOf 0 0)).lp.mode = 2 ∧ d.canIssue .fore 0 = true) ∧
    (let d := core0 (fun c => { c with posts := [⟨5, 3, 0⟩] })
     (d.core .fore 0).posts ≠ [] ∧ d.takes .fore 0 = true ∧ (d.tile 0).leaseRuns d.beat = true ∧ d.isFenced .fore ⟨.tile, 0⟩ = false ∧
       CarryFree d .fore 0 false) ∧
    (Writable base 0x4400 (wr 0x0004060000061440) (info 0x4400) ∧
      (∀ x ∈ shares (base.written 0x4400 (wr 0x0004060000061440) (info 0x4400)), x ≤ 100) ∧
      (shares (base.written 0x4400 (wr 0x0004060000061440) (info 0x4400))).sum ≤ 100) ∧
    100 < (shares (base.written 0x4400 (wr 0x00040600000A1442) (info 0x4400))).sum ∧
    (∃ x ∈ shares (base.written 0x4410 (wr 0x65) (info 0x4410)), 100 < x) ∧
    (base.waits .fore 1 3 0 = false ∧ (fore (fun x => { x with bud := { x.bud with waits := [(1, 3, 0)] } })).waits .fore 1 3 0 = true) ∧
    ((base.stay .fore 0).down.again.contains 4 = false ∧
      ((base.onStay .fore 0 (fun x => { x with down := { x.down with again := [4] } })).stay .fore 0).down.again.contains 4 = true) := by
  and_intros <;> decide +kernel

def req0 : PassReq := ⟨.desc 0 5, 1, false, false, false, false⟩

/-- Cell 3 of tile 0 in a pass; the second in round 1. -/
def pcell (meth : CalMethod) : PassCell := passCell 3 meth none
def swept (f : PassCell → PassCell := id) : PassCell := f { passCell 3 .sweep none with round := 1 }

/-- The block with a planned pass of these cells. -/
def passing (cells : List PassCell) (f : Pass → Pass := id) (d : Dev := base) : Dev := fore (fun x => { x with cal := { x.cal with
  pass := some (f { req := req0, planned := true, cells := cells, round := [], roundBeat := [], phase := [], endBeat := [], startBeat := 0
                    lastEnd := 0, begun := [], trims := [], dwelt := [] }) } }) d

/-- A fabric of one cell, and light at it. -/
def single (d : Dev := base) : Dev := fab (fun f => { f with topo := some ⟨{ table8 with entries := table8.entries.take 1 }, []⟩ }) d
def lit : Dev := base.onCell 0 (fun c => { c with mon := { c.mon with s0 := ⟨30000, false, false, 30000⟩ } })

theorem witness_CalibrationPassesComplete :
    Brings (staged .powered) .fore [.powered] ∧
    (let d := (flight 0x40 0).begun .fore 0 5
     Starts (flight 0x40 0) 0 5 0x40 .fore (desc 0x40 0) ∧ (desc 0x40 0).perm 7 = true ∧ (∀ t ∈ bitsOf 1 16, (d.tile t).enabled = true) ∧
       (d.cal .fore).pass = none ∧ (d.cal .fore).queue = [] ∧ (d.cal .fore).trig = 0 ∧ ¬ (∀ t ∈ bitsOf 2 16, (d.tile t).enabled = true)) ∧
    (let d := (passing [] id (flight 0x40 0)).begun .fore 0 5
     (d.cal .fore).pass.isSome = true ∧ (d.cal .fore).queue.length < 8) ∧
    (let d := (fore (fun x => { x with cal := { x.cal with queue := List.replicate 8 req0 } }) (passing [] id (flight 0x40 0))).begun .fore 0 5
     (d.cal .fore).pass.isSome = true ∧ 8 ≤ (d.cal .fore).queue.length) ∧
    (let d := fore (fun x => { x with cal := { x.cal with trig := 1 } })
     Serves d .fore ∧ (d.mast .fore).boot.stage = .ready ∧ (d.cal .fore).pass = none ∧ (d.cal .fore).trig ≠ 0) ∧
    (let d := fore (fun x => { x with cal := { x.cal with queue := [req0] } })
     (d.cal .fore).trig = 0 ∧ (d.cal .fore).queue = [req0]) := by
  and_intros <;> decide +kernel

/-- A pass whose plan is awaited. -/
def unplanned (d : Dev) : Dev := passing [] (fun p => { p with planned := false }) d

/-- A plan of one swept cell, without light and with it. -/
theorem witness_planAwaited : Serves (unplanned (single base)) .fore ∧ Serves (unplanned (single lit)) .fore ∧
    (((unplanned (single base)).cal .fore).pass.map Pass.planned) = some false ∧
    (((unplanned (single lit)).cal .fore).pass.map Pass.planned) = some false := by and_intros <;> decide +kernel

theorem witness_planWaits : ∀ c, c < 4 → (unplanned (single base)).waits .fore 0 2 c = false ∧
    (unplanned (single lit)).waits .fore 0 2 c = false := by decide +kernel

theorem witness_planCovers : (unplanned (single base)).covered .fore req0 = [passCell 0 .sweep none] ∧
    (unplanned (single lit)).covered .fore req0 = [passCell 0 .sweep none] := by and_intros <;> decide +kernel

theorem witness_planOk : (unplanned (single base)).planOk .fore [passCell 0 .sweep none] [⟨0, 1, []⟩] = true ∧
    (unplanned (single lit)).planOk .fore [passCell 0 .sweep none] [⟨0, 1, []⟩] = true := by and_intros <;> decide +kernel

theorem witness_planDark : (unplanned (single base)).dark .fore ((planMates [⟨0, 1, []⟩] ⟨0, 1, []⟩).map PlanLine.cell) 0 = true ∧
    (unplanned (single lit)).dark .fore ((planMates [⟨0, 1, []⟩] ⟨0, 1, []⟩).map PlanLine.cell) 0 = false := by
  and_intros <;> decide +kernel

theorem witness_rounds :
    (let d := passing []
     Serves d .fore ∧ ((d.cal .fore).pass.map (fun p => (p.planned, tget 0 p.phase 0, bit p.req.tiles 0, p.cells))) = some (true, 0, true, []) ∧
       d.watchEdge = true ∧ d.pins.parkSeen = false ∧ d.waits .fore 0 2 (0 / 4) = false ∧
       (∀ r ∈ (d.cal .fore).pass.map (fun p => (p.lastEnd, p.phase, p.req.src)),
         r.1 + 2000 ≤ d.beat ∧ r.2.1 = [] ∧ r.2.2 = .desc 0 5)) ∧
    (let d := passing [swept]
     ((d.cal .fore).pass.map (fun p => (tget 0 p.phase 0, p.cells))) = some (0, [swept]) ∧ swept.cell / laneCount = 0 ∧
       swept.method = .sweep ∧ swept.outcome = none ∧ swept.interrupted = 0 ∧ (d.cell swept.cell).drv.live = false ∧
       ((d.cal .fore).pass.map (fun p => tget 0 p.begun 0)) = some 0) ∧
    (let c := swept (fun c => { c with lit := true })
     let d := passing [c] (fun p => { p with round := [(0, 1)], phase := [(0, 1)] })
     (match (d.cal .fore).pass with
      | some p => p.active c && (tget 0 p.phase 0 == 1) && decide (tget 0 p.endBeat 0 ≤ d.beat)
      | none => false) = true ∧ d.watchEdge = true ∧ c.ovr = false ∧ c.lit = true) ∧
    -- dwells in the gap
    (let d := at_ 16000 (passing [])
     (d.tile 0).alive = true ∧ (5 : Nat) < 48 ∧ (d.tile 0).conv.scanning = false ∧ d.gap 0 = true ∧ (List.replicate 12 7).length = 12 ∧
       (d.cal .fore).pass.map (fun p => (tget 0 p.dwelt (48 * 0 + 5), d.sweepCell .fore p (48 * 0 + 5), p.req.noTrim)) =
         some (0, none, false)) ∧
    (let d := at_ 16000 (passing [swept] (fun p => { p with round := [(0, 1)], phase := [(0, 2)] }))
     (d.cal .fore).pass.map (fun p => d.sweepCell .fore p (48 * 0 + 6)) = some (some swept)) ∧
    -- reads of the calibration
    (let d := ((flight 0x41 0).begun .fore 0 5).settleHold .fore (desc 0x41 0) slotOut.ref slotOut.owner slotOut.err
     Starts (flight 0x41 0) 0 5 0x41 .fore (desc 0x41 0) ∧ (desc 0x41 0).perm 2 = true ∧
       d.calLost .fore ((List.range 4).map (24572 + ·)) = false ∧ SlotFree d .fore (desc 0x41 0) slotOut) ∧
    (let j : ReadJob := ⟨0, 5, 1, 0, 1, [], .calib [[0], [1]], true⟩
     let d := fore (fun x => { x with cal := { x.cal with reads := [j] } }) (flight 0x41 0)
     (d.cal .fore).reads = [j] ∧ d.findDesc .fore 0 5 = some (desc 0x41 0) ∧ j.data = .calib ([0] :: [[1]])) ∧
    -- what a DITHER cell comes to
    (let c := pcell .dither
     let d := base.onCell 3 (fun z => { z with drv := { z.drv with logical := some .bar } })
     (d.cell c.cell).drv.logical.isSome = true ∧ c.ovr = false ∧ c.win.length ≠ 17 ∧ c.lit = false ∧
       ({ c with win := List.replicate 17 5 } : PassCell).win.length = 17 ∧ ({ c with ovr := true } : PassCell).ovr = true) := by
  and_intros <;> decide +kernel

def job1 : NorJob := ⟨1, 1, 1, 1, 0, seedImage 7⟩
def saving (j : NorJob) : Dev := boot (fun b => { b with nor := { b.nor with job := some j } })

theorem witness_SeedSavesComplete :
    (let d := (flight 0x42 0).begun .fore 0 5
     Starts (flight 0x42 0) 0 5 0x42 .fore (desc 0x42 0) ∧ (desc 0x42 0).perm 7 = true ∧ (d.cal .fore).save = none ∧
       d.calLost .fore (d.enabledTiles.map (· * laneCount)) = false) ∧
    (let d := fore (fun x => { x with cal := { x.cal with save := some (0, 5) }, pen := { x.pen with gaff := false } })
     Serves d .fore ∧ (d.cal .fore).save.isSome = true ∧ (d.cal .fore).saved = none ∧ d.watchEdge = true ∧ d.peerUp .fore = false) := by
  and_intros <;> decide +kernel

theorem witness_saveJobs (j : NorJob) : ((saving j).mast .fore).boot.nor.job = some j ∧ Serves (saving j) .fore ∧
    (fore (fun x => { x with cal := { x.cal with save := some (0, 5) }, pen := { x.pen with gaff := false } }) (seeded 7 base) |>.mast
      .fore).boot.nor.newest = some (seedImage 7) ∧ (0 : Nat) < 1 ∧ (1 : Nat) ≤ 1 :=
  ⟨rfl, rfl, newest_seeded 7 base rfl, by decide, by decide⟩

theorem seedImage_whole (crc : Nat) : (seedImage crc).bytes.length = 64 ∧ (seedImage crc).len = 64 :=
  ⟨rfl, (congrArg leNat rfl).trans (rfl : leNat [64, 0, 0, 0] = 64)⟩

/-- The end of a save whose standby holds the image. -/
theorem witness_saveEnds : let s := { saving job1 with main := { base.main with boot := { up with nor := { norReset with seedA := (seedImage 7).bytes } } } }
    let d := s.onBoot .fore (fun b => { b with nor := b.nor.program job1 })
    (s.mast .fore).boot.nor.job = some job1 ∧ job1.pages ≤ job1.page ∧ (d.mast .fore).boot.nor.newest = some (seedImage 7) ∧
      (s.mast (peerOf .fore)).boot.nor.job = none ∧ s.peerUp .fore = true ∧
      (s.mast (peerOf .fore)).boot.nor.holds (seedImage 7) = true := by
  obtain ⟨h1, h2⟩ := seedImage_whole 7
  have hp : programPage [] 0 (seedImage 7).bytes = (seedImage 7).bytes := by simp [programPage, List.take_of_length_le, h1]
  have e : (⟨[]⟩ : SeedImage).valid = false := rfl
  have v : (⟨(seedImage 7).bytes⟩ : SeedImage).valid = true := test_seed_valid 7
  refine ⟨rfl, by decide, ?_, rfl, rfl, ?_⟩
  · simp [Dev.onBoot, Dev.onMast, Dev.mast, Dev.setMast, saving, boot, fore, base, up, bootReset, norReset, job1, Nor.program, Nor.onSlot, Nor.newest,
      slotImage, hp, e, v]
  · simp [Nor.holds, Dev.mast, peerOf, h2, List.take_of_length_le, h1]

/-- The block with PROTECTED at 1, its interface with context 0, its mast asked for `op`. -/
def trusted (op : Nat) : Dev := pen (fun p => { p with protect := true }) (flight op 0)

/-- KEY_PROGRAM's and KEY_REVOKE's payloads: a key for slot 2, and an order of no sound signature. -/
def keyIn : SlotIn := slotIn 0x73 (key.bytes ++ [2])
def revokeIn : SlotIn := slotIn 0x72 (List.replicate 128 0)

theorem witness_TrustCompletes :
    (let d := (flight 0x70 0).begun .fore 0 5
     let d1 := d.settleHold .fore (desc 0x70 0) slotOut.ref slotOut.owner slotOut.err
     let held := d1.heldOut .fore (desc 0x70 0) slotOut
     let c : Ctx := ⟨0, BitVec.allOnes 64, false, 0, 0⟩
     let c1 := c.refill (held.regF .fore 0x9008 0 8) (held.regF .fore 0x9008 8 8) held.beat
     Starts (flight 0x70 0) 0 5 0x70 .fore (desc 0x70 0) ∧ (desc 0x70 0).perm 5 = true ∧ (d.fab .fore).epoch < 4 ∧
       d1.epochLost .fore 0 = false ∧ SlotFree d1 .fore (desc 0x70 0) slotOut ∧ 624 ≤ held.slotSize .fore (refWin 1) ∧
       held.ctx .fore 0 = some c ∧ c1.tokens < 2 ^ 20 ∧ (held.mast .fore).sec.length < 17) ∧
    (let s := hif (fun h => { h with ctxs := [(0, some ⟨0, BitVec.allOnes 64, false, 4 * 2 ^ 20, 2000⟩)] }) (flight 0x70 0)
     let held := (s.begun .fore 0 5).holdSlot .fore (desc 0x70 0) 1
     2 ^ 20 ≤ (Ctx.refill ⟨0, BitVec.allOnes 64, false, 4 * 2 ^ 20, 2000⟩ (held.regF .fore 0x9008 0 8) (held.regF .fore 0x9008 8 8)
       held.beat).tokens) ∧
    (let j : RcptJob := ⟨0, 5, 0, 7⟩
     let d := fore (fun x => { x with sec := [j] }) (flight 0x70 0)
     Serves d .fore ∧ (d.mast .fore).sec = [j] ∧ (d.findDesc .fore j.ring j.seq).isSome = true) ∧
    Starts (flight 0x71 0) 0 5 0x71 .fore (desc 0x71 0) ∧
    (let d := (trusted 0x73).begun .fore 0 5
     Starts (trusted 0x73) 0 5 0x73 .fore (desc 0x73 0) ∧ (desc 0x73 0).perm 9 = true ∧ (d.mast .fore).pen.protect = true ∧
       SlotSound (d.settleHold .fore (desc 0x73 0) 0 2 false) .fore (desc 0x73 0) keyIn ∧ keyIn.len = 97) ∧ (((flight 0x73 0).begun .fore 0 5).mast .fore).pen.protect = false ∧
    (let d := (trusted 0x72).begun .fore 0 5
     Starts (trusted 0x72) 0 5 0x72 .fore (desc 0x72 0) ∧ (d.mast .fore).pen.protect = true ∧ SlotSound (d.settleHold .fore (desc 0x72 0) 0 2 false) .fore (desc 0x72 0) revokeIn ∧ revokeIn.bytes.length = 128) := by
  and_intros <;> decide +kernel

/-- IDENT_READ's two cases, as the certificates' lengths stand to the slot's. -/
theorem witness_identRead (n : Nat) : Starts (flight 0x71 0) 0 5 0x71 .fore (desc 0x71 0) ∧
    SlotFree ((flight 0x71 0).begun .fore 0 5) .fore (desc 0x71 0) slotOut ∧ (n < 64 + certsLen ∨ 64 + certsLen ≤ n) :=
  ⟨by decide +kernel, by decide +kernel, by omega⟩

def tim (f : Tim → Tim) (d : Dev := base) : Dev := fore (fun x => { x with tim := f x.tim }) d

/-- Port 0 enabled with PTP on, the telecom profile's domain 24, SRC 1. -/
def ptp : Dev := { regs [(0x1000, 1), (0x5000, 1), (ptpReg 0, 0x1803), (0x6000, 1)] with
  fore := { (regs [(0x1000, 1), (0x5000, 1), (ptpReg 0, 0x1803), (0x6000, 1)]).fore with eg := { egressReset with link := [(0, true)] } } }

def sync (two : Bool) : SyncMsg := ⟨24, -4, two, 9, 100, 50, 0, 0⟩

theorem witness_TimeCommandsComplete :
    (ptp.ptpTakes .fore 0 24 (-4) (-7) 1 (-4) = true ∧ ptp.disciplines .fore 0 = true ∧ (sync true).twoStep = true) ∧
    (let d := tim (fun t => { t with port := 1 }) ptp
     d.ptpTakes .fore 0 24 (-4) (-7) 1 (-4) = true ∧ d.disciplines .fore 0 = false) ∧
    (let d := tim (fun t => { t with syncs := [(0, some ⟨9, 100, 0⟩)], msd := [(0, some 5)], reqTx := [(0, some (3, 100))] }) ptp
     tget none (d.tim .fore).syncs 0 = some ⟨9, 100, 0⟩ ∧ d.ptpOn .fore 0 = true ∧ tget none (d.tim .fore).reqTx 0 = some (3, 100) ∧
       tget none (d.tim .fore).msd 0 = some 5) ∧
    ptp.ptpTakes .fore 0 24 (-3) (-3) 3 (-3) = true ∧
    (ptp.ptpOn .fore 0 = true ∧ (ptp.tim .fore).reqAt.find? (fun e => e.1 == 0) = none ∧ ptp.regF .fore (0x6000 + 0x40 * 0) 0 1 ≠ 0 ∧
      tget false (ptp.mast .fore).eg.link 0 = true) ∧
    (let d := tim (fun t => { t with best := [(0, some (1, 5))], annAt := [(0, (10, -3))], port := 0 }) { base with beat := 100000000 }
     let t := d.tim .fore
     t.port ∈ [0, 1].filter (t.silent d.beat) ∧
       (d.onTim .fore (fun t => { t with best := ([0, 1].filter (t.silent d.beat)).foldl (fun b p => tset none b p none) t.best })).src
         .fore = 1) ∧
    (let d := tim (fun t => { t with best := [(1, some (1, 5))], annAt := [(1, (10, -3))], port := 0 }) { base with beat := 100000000 }
     let t := d.tim .fore
     [0, 1].filter (t.silent d.beat) = [1] ∧ t.port ∉ [1]) ∧
    (let d := tim (fun t => { t with gmAt := some 0, state := .holdover, best := [(0, some (1, 5))] }) { base with beat := 5000000000 }
     (tget none (d.tim .fore).best (d.tim .fore).port).isSome = true ∧ (d.tim .fore).gmAt = some 0 ∧ (d.tim .fore).state = .holdover ∧ 0 + 10000000 * d.effF .fore 0x5008 48 8 ≤ d.beat) ∧
    (let d := regs [(0x5000, 2)] { base with beat := 30000000 }
     Serves d .fore ∧ d.src .fore = 2 ∧ (d.tim .fore).ppsAt + 20000000 ≤ d.beat) ∧
    (let d := tim (fun t => { t with step := some (2, 1000) })
     Serves d .fore ∧ (d.tim .fore).step = some (2, 1000) ∧ d.now.ns % 80000 = 0 ∧ 1000 + 1000 ≤ d.beat) ∧
    (((tim (fun t => { t with ppsOut := some 2000 })).tim .fore).ppsOut = some 2000 ∧ 2000 ≤ base.beat) ∧
    Writable base 0x5000 (wr 0x3D) (info 0x5000) ∧
    (let d := regs [(0x5000, 2)]
     Writable d 0x5020 (wr 77) (info 0x5020) ∧ d.src .fore = 2 ∧ (Half.lo ≠ .whole) ∧ Writable d 0x5020 ⟨.fore, .lo, 77⟩ (info 0x5020) ∧
       base.src .fore = 1) ∧
    (Writable base (ptpReg 0) (wr 0x1803) (info (ptpReg 0)) ∧ fld (base.written (ptpReg 0) (wr 0x1803) (info (ptpReg 0))) 1 2 < 2 ∧
      fld (base.written (ptpReg 0) (wr 0x1803) (info (ptpReg 0))) 3 2 < 3) := by and_intros <;> decide +kernel

theorem witness_ServoFollowsR312 :
    (let d := tim (fun t => { t with state := .acquiring, run := 15 })
     (d.tim .fore).state = .acquiring ∧ -rateLimit ≤ (d.tim .fore).hold + 1 ∧ (d.tim .fore).hold + 1 ≤ rateLimit ∧ -d.slewMax .fore ≤ 1 ∧
       (1 : Int) ≤ d.slewMax .fore ∧ (0 : Int).natAbs ≤ d.effF .fore 0x5008 16 16 ∧ 15 ≤ (d.tim .fore).run ∧
       d.effF .fore 0x5008 16 16 < (1000000 : Int).natAbs) ∧
    ((tim (fun t => { t with state := .holdover })).tim .fore).state = .holdover ∧
    ((tim (fun t => { t with state := .locked })).tim .fore).state = .locked := by and_intros <;> decide +kernel

def follower : Dev := regs [(0x5060, 0x9)]
def leader : Dev := regs [(0x5060, 3)]

theorem witness_HalyardCompletes :
    (Serves follower .fore ∧ follower.halEn .fore = true ∧ follower.halLeader .fore = false ∧ follower.halId .fore = 2) ∧
    (symOk 0x9183 1 = true ∧ (0x9183 : BitVec 16) ≠ 0 ∧ (1 : Nat) < 8 ∧ (1 : Nat) ≠ follower.halId .fore ∧ symOk 0x9182 1 = false) ∧
    (let y := mkSym 2 5 0
     symOk y 2 = true ∧ y.getLsbD 14 = false ∧ (y.extractLsb' 11 3).toNat = (follower.mast .fore).hal.chunks.length ∧
       (follower.mast .fore).hal.chunks.length < 7) ∧
    (let d := at_ 12800 leader
     Serves d .fore ∧ d.halEn .fore = true ∧ d.halLeader .fore = true ∧ stampNs d.now % 16000 = 12800) ∧
    (let d := at_ 0 { leader with fore := { leader.fore with hal := { halReset with pend := [(1990, ⟨0, 999999000⟩)] } } }
     d.halLeader .fore = true ∧ stampNs d.now % 1600 = 0 ∧ stampNs d.now % 16000 / 1600 = d.halId .fore ∧ d.halId .fore ≠ 8 ∧
       (d.mast .fore).hal.pend = [(1990, ⟨0, 999999000⟩)] ∧ 1990 + 2 ≤ d.beat) := by and_intros <;> decide +kernel

def glean (f : Glean → Glean) (d : Dev := base) : Dev := fore (fun x => { x with gln := f x.gln }) d

/-- A capture unit on watch 0, triggered at beat 1,000. -/
def unit0 (st : UState) : Unit_ :=
  { state := st, owner := some (0, 5), causeEn := 32, startDiv := 0, thin := 0, first := 0, count := 1, pre := 0, post := 3
    clamp := false, at_ := none, slots := [0], cap0 := 10, capN := 10, events := [], halId := 0, cause := 0, trigBeat := 1000
    trigTime := ⟨0, 0⟩, trigEpoch := 0, div := 0, next := 0, gap := false, anyGap := false, rateStep := false, stepAt := none
    slotIx := 0, kept := [], cancelled := false }

def inUnit (u : Unit_) (d : Dev := base) : Dev := glean (fun g => { g with units := [(0, some u)] }) d

/-- All 16 tiles enabled. -/
def full (d : Dev := base) : Dev := { d with tiles := (List.range 16).map (fun t => (t, tileUp)) }

def frame0 (b : Nat) : Frame := ⟨⟨0, 0⟩, b, false, 0, [], []⟩

/-- CAP_ARM of unit 0 for slots 2 and 3, at its start with the slots held. -/
def arming (d : Dev := base) : Dev :=
  let s := full (flight 0x50 0 d)
  (s.begun .fore 0 5).each (List.range 2) (fun i d => d.settleHold .fore (desc 0x50 0) (2 + i) 2 false)

def capSlot : SlotOut := ⟨2, 2, false⟩

theorem witness_capArm :
    Starts (full (flight 0x50 0)) 0 5 0x50 .fore (desc 0x50 0) ∧ (desc 0x50 0).perm 3 = true ∧ arming.unitIdle .fore 0 = true ∧
      (∀ t, t < 16 → (arming.tile t).enabled = true) ∧ 100 < arming.depth .fore ∧ bit 32 2 = false ∧ (desc 0x50 0).lost = false ∧
      arming.slotsBad .fore (desc 0x50 0) 2 [2, 2] 2 = none ∧ (arming (inUnit (unit0 .armed))).unitIdle .fore 0 = false := by
  and_intros <;> decide +kernel

theorem witness_capArm_blocks :
    let b := (full (flight 0x50 0)).begun .fore 0 5
    let cap0 := (b.slotSize .fore (refWin 2) - 64 - 832) / blockBytes 0 1
    let capN := (b.slotSize .fore (refWin 2) - 64) / blockBytes 0 1
    0 < cap0 ∧ 0 < capN ∧ blockCount 0 0 10 0 ≤ cap0 + (2 - 1) * capN ∧ blockCount 0 0 10 5 ≤ cap0 + (2 - 1) * capN ∧
      cap0 + (2 - 1) * capN < blockCount 0 0 10 5000 := by and_intros <;> decide +kernel

theorem witness_captureEvents :
    (let u := { unit0 .armed with at_ := some ⟨0, 999999900⟩ }
     Serves (inUnit u) .fore ∧ (inUnit u).unit .fore 0 = some u ∧ u.state = .armed ∧ stampNs ⟨0, 999999900⟩ ≤ stampNs (inUnit u).now ∧
       (inUnit u).effF .fore 0x4800 1 1 = 0) ∧
    (let s := inUnit (unit0 .armed) (flight 0x51 0)
     Starts s 0 5 0x51 .fore (desc 0x51 0) ∧ (desc 0x51 0).perm 3 = true ∧ (s.begun .fore 0 5).unit .fore 0 = some (unit0 .armed) ∧
       bit (unit0 .armed).causeEn 5 = true) ∧
    (∀ st ∈ [UState.idle, .armed, .running, .draining],
     let s := inUnit (unit0 st) (flight 0x52 0)
     Starts s 0 5 0x52 .fore (desc 0x52 0) ∧ (desc 0x52 0).perm 3 = true ∧ (s.begun .fore 0 5).unit .fore 0 = some (unit0 st)) ∧
    (let u := { unit0 .armed with events := [(.host, 1800, ⟨0, 0⟩, 0)] }
     (inUnit u).unit .fore 0 = some u ∧ 1800 + 200 ≤ (inUnit u).beat ∧ base.effF .fore 0x4800 6 1 = 0 ∧
       (regs [(0x4800, 64)] (inUnit u)).effF .fore 0x4800 6 1 = 1) ∧
    (let d := glean (fun g => { g with trigOut := some 2000 })
     Serves d .fore ∧ (d.mast .fore).gln.trigOut = some 2000 ∧ 2000 ≤ d.beat) := by and_intros <;> decide +kernel

theorem witness_captureReads :
    -- a whole watch with its frame, and one without
    (let u := unit0 .running
     let d := glean (fun g => { g with frames := [frame0 1000] }) (inUnit u)
     Serves d .fore ∧ d.unit .fore 0 = some u ∧ u.thin = 0 ∧ u.kept? u.next ≤ (u.post : Int) ∧
       d.frameOf .fore u (u.kept? u.next) = some (frame0 1000) ∧ HbmFree d .fore 4 (1 + (12 * u.count + 63) / 64)) ∧
    ((inUnit (unit0 .running)).frameOf .fore (unit0 .running) 0 = none ∧
      (inUnit (unit0 .running)).framePending .fore (unit0 .running) 0 = false) ∧
    (let u := unit0 .running
     let d := glean (fun g => { g with frames := [frame0 70000000] }) (inUnit u (full { base with beat := 70000000 }))
     d.unit .fore 0 = some u ∧ d.watchEdge = true ∧ d.depth .fore < 2 * d.lag .fore u ∧ u.stepAt = none ∧ u.div < 8) ∧
    (let d := inUnit (unit0 .running)
     d.watchStart 1000 + 200 * ((unit0 .running).post + 1) ≤ d.beat) ∧
    (let u := { unit0 .draining with next := 5 }
     (inUnit u).unit .fore 0 = some u ∧ (u.post : Int) < u.kept? u.next) ∧
    (let d := glean (fun g => { g with build := some (frame0 1600) })
     (d.mast .fore).gln.build = some (frame0 1600) ∧ HbmFree d .fore 3 (1 + 288 * d.enabledTiles.length) ∧
       (frame0 1600).beat + 399 ≤ d.beat) := by and_intros <;> decide +kernel

/-- R340 and R342: the blocks of 10 watches before and 5 after the trigger watch, unthinned and thinned by 2. -/
theorem test_blocks : blockCount 0 0 10 5 = 16 ∧ blockCount 1 0 10 5 = 8 := by decide +kernel

/-- A stream's definition in its 64 bytes (R355). -/
def sbytes : List Byte := [0, 0, 1, 0, 1, 0, 0, 0, 0, 2, 0xA0, 0x0F, 0, 0, 0, 0, 1, 0, 0, 0x0A, 0, 0, 0, 0, 0, 0, 0, 0, 0, 0, 0, 0,
  0xE8, 3, 0, 0, 0xA0, 0x86, 1, 0, 0, 1, 0, 0, 1, 0, 0, 0, 0, 0, 1, 0, 0, 0, 0, 0, 0, 0, 0, 0, 0, 0, 0, 0]

/-- A sound definition of a stream on port 0. -/
def sdef : StreamDef := ⟨0, false, false, false, 0, 1, 0x020000000001, 4000, 0, 0x0A000001, 1000, 100000, 256, 1, 0, 1, 0⟩

def stream0 (f : Stream → Stream) (d : Dev := base) : Dev := fore (fun x => { x with eg := { x.eg with
  streams := [(0, some (f (Stream.fresh sdef 0 0 0 0)))], link := [(0, true)] } }) d

def withPkt (y : Stream) : Stream := { y with pkts := [⟨[], 100, 0, true, ⟨0, 0⟩⟩] }

theorem witness_EgressCompletes :
    (let s := stream0 id (flight 0x60 0)
     Starts s 0 5 0x60 .fore (desc 0x60 0) ∧ (s.begun .fore 0 5 |>.mast .fore).pen.protect = false ∧ (desc 0x60 0).perm 6 = true ∧
       ((s.begun .fore 0 5).stream .fore 0).isSome = true) ∧
    (let d := ((regs [(0x1000, 1), (0x2008, 0x8C000010), (0x6000, 1)] (flight 0x60 0)).begun .fore 0 5).settleHold .fore (desc 0x60 0) 0 2 false
     d.stream .fore 0 = none ∧ SlotSound d .fore (desc 0x60 0) (slotIn 0x60 sbytes) ∧ (slotIn 0x60 sbytes).len = 64 ∧
       streamDefOf sbytes = sdef ∧ streamResvZero sbytes = true ∧ sdef.ipfix = false) ∧
    (let d := ((regs [(0x1000, 1), (0x2008, 0x8C000010), (0x6000, 1)] (flight 0x60 0)).begun .fore 0 5).settleHold .fore (desc 0x60 0) 0 2 false
     let b := (d.scanned .fore (desc 0x60 0) (slotIn 0x60 sbytes)).returnIn .fore (desc 0x60 0) (slotIn 0x60 sbytes) false
     b.streamOk .fore sdef = true ∧ b.streamOk .fore { sdef with weight := 0 } = false) ∧
    (let s := stream0 id (flight 0x61 0)
     Starts s 0 5 0x61 .fore (desc 0x61 0) ∧ (desc 0x61 0).perm 6 = true ∧
       (((s.begun .fore 0 5).stream .fore 0).map (fun y => (y.owner, y.closing))) = some (0, none) ∧ ((stream0 (fun y => { y with closing := some (9000, none) }) (flight 0x61 0)).stream .fore 0).map
       (fun y => y.closing.isSome) = some true) ∧
    (let x : Desc := { desc 0x61 0 with ctx := 3, prof := 64 }
     let s := hif (fun h => { h with inflight := [x] }) (stream0 id (flight 0x61 0))
     Starts s 0 5 0x61 .fore x ∧ x.perm 6 = true ∧ x.perm 9 = false ∧ (((s.begun .fore 0 5).stream .fore 0).map Stream.owner) ≠ some x.ctx ∧ (s.mast .fore).pen.protect = false) ∧
    (let d := stream0 (fun y => { y with closing := some (2000, none), stopAt := some 2000 })
     ((d.stream .fore 0).map (fun y => (y.closing, y.stopAt, y.pkts))) = some (some (2000, none), some 2000, []) ∧ 2000 ≤ d.beat) ∧
    (let s := stream0 id (flight 0x62 0)
     let d := s.begun .fore 0 5
     Starts s 0 5 0x62 .fore (desc 0x62 0) ∧ (d.mast .fore).pen.protect = false ∧ (desc 0x62 0).perm 9 = true ∧
       ((d.ring .fore 0).map Ring.hasCmd) = some true ∧ (d.stream .fore 0).isSome = true) ∧
    (let d := stream0 (fun y => { y with defn := { y.defn with ipfix := true } }) { base with beat := 700000000000 }
     ((d.stream .fore 0).map (fun y => (y.defn.ipfix, y.stopAt, decide (y.tmplAt + d.regF .fore 0x6080 32 16 * 10000000 ≤ d.beat)))) =
       some (true, none, true)) ∧
    (let d := stream0 withPkt (regs [(0x1000, 1), (0x6000, 1)])
     Serves d .fore ∧ d.ethEn .fore 0 = true ∧ tget false (d.mast .fore).eg.link 0 = true ∧ d.isFenced .fore ⟨.eth, 0⟩ = false ∧
       ((d.consultPort .fore 0).portWinner .fore 0).isSome = true ∧
       (((d.consultPort .fore 0).stream .fore 0).bind Stream.head).isSome = true) ∧
    (let d := regs [(0x1000, 1), (0x6000, 1)]
     (d.consultPort .fore 0).portWinner .fore 0 = none) ∧
    (let y := { Stream.fresh sdef 0 0 0 0 with wheel := some 1000 }
     let d := stream0 (fun _ => y)
     Serves d .fore ∧ d.now.ns % 1000 = 0 ∧ (d.hif .fore).rings = [] ∧ (d.mast .fore).eg.streams = [(0, some y)] ∧ 1000 ≤ stampNs d.now ∧
       d.stream .fore 0 = some y) := by and_intros <;> decide +kernel

theorem witness_PortsAndCountersComplete :
    Writable base 0x6000 (wr (1280 * 65536 + 1)) (info 0x6000) ∧ Writable base (0x6008 + 0x40 * 1 + 8 * 3) (wr 5) (info 0x6060) ∧
    (let d := stream0 id (regs [(0x6000, 1)])
     d.ethEn .fore 0 = true ∧ tget false (d.mast .fore).eg.link 0 = true) ∧
    (let d := { (regs [(0xC000, 50)]) with now := ⟨1, 0⟩ }
     Serves d .fore ∧ d.effF .fore 0xC000 0 16 ≠ 0 ∧ d.now.ns % (d.effF .fore 0xC000 0 16 * 20000) = 0) ∧
    (Starts (flight 0x63 0) 0 5 0x63 .fore (desc 0x63 0) ∧ (desc 0x63 0).perm 4 = true ∧
      SlotFree ((flight 0x63 0).begun .fore 0 5) .fore (desc 0x63 0) slotOut) ∧
    (let d := at_ 19900 (fore (fun x => { x with eg := { x.eg with snap := [(0, 5, 1, true)] } }))
     (d.mast .fore).eg.snap = [(0, 5, 1, true)] ∧ d.now.ns % 20000 = 19900) ∧
    (Writable base 0xC800 (wr 0x13) (info 0xC800) ∧ pmcSelOk (base.written 0xC800 (wr 0x13) (info 0xC800)) = true) ∧
    (Writable base 0xC800 (wr 0xFFF) (info 0xC800) ∧ pmcSelOk (base.written 0xC800 (wr 0xFFF) (info 0xC800)) = false) := by
  and_intros <;> decide +kernel

def flt (f : Flt → Flt) (d : Dev := base) : Dev := fore (fun x => { x with flt := f x.flt }) d

theorem witness_FaultsComplete :
    ((base.mast .fore).boot.stage ≠ .reset ∧ ([⟨3, 2, 3, 0, some ⟨.tile, 3⟩⟩] : List FaultMsg).all reportListed = true) ∧
    (let d := flt (fun f => { f with irqAt := some 1900, irqPend := true })
     (d.flt .fore).irqAt = some 1900 ∧ (d.flt .fore).irqPend = true ∧ 1900 + 100 ≤ d.beat) ∧
    (let d := flt (fun f => { f with queue := [⟨.tile, 0⟩] })
     d.watchEdge = true ∧ (d.flt .fore).queue = [⟨.tile, 0⟩] ∧ (d.flt .fore).running = []) ∧
    (let t : Test := ⟨⟨.cell, 0⟩, 1000, 100, false, false, []⟩
     let d := flt (fun f => { f with running := [t] })
     (d.flt .fore).running = [t] ∧ t.start + t.dur ≤ d.beat ∧ t.start + 8 * t.dur ≤ d.beat ∧ d.winnowWaits .fore t.unit = false ∧
       d.testOutcome t [] = some true ∧ d.testOutcome { t with bad := true } [] = some false) ∧
    ((flt (fun f => { f with fences := [⟨⟨.tile, 0⟩, true, 16⟩] })).isLasting .fore ⟨.tile, 0⟩ = true ∧ base.isLasting .fore ⟨.tile, 0⟩ = false) ∧
    (Writable base 0x70C0 (wr 0x0F) (info 0x70C0) ∧ kindOf (fld (base.written 0x70C0 (wr 0x0F) (info 0x70C0)) 0 4) = none) ∧
    (let d := flt (fun f => { f with fences := [⟨⟨.tile, 0⟩, true, 16⟩] })
     let v := d.written 0x70C0 (wr 3) (info 0x70C0)
     kindOf (fld v 0 4) = some .tile ∧ fld v 8 16 < unitCount .tile ∧ (∃ f ∈ (d.flt .fore).fences, f.unit = ⟨.tile, fld v 8 16⟩ ∧ f.lasting = true) ∧
       d.underTest .fore ⟨.tile, fld v 8 16⟩ = false ∧ (d.flt .fore).queue.length < 64) ∧
    (let v := base.written 0x70C0 (wr 0x1003) (info 0x70C0)
     kindOf (fld v 0 4) = some .tile ∧ unitCount .tile ≤ fld v 8 16 ∧ (base.flt .fore).fences = []) ∧ (kindOf 9 = some .ctx ∨ kindOf 8 = some .ctx) ∧
    Writable base 0x7018 (wr 1) (info 0x7018) ∧ Writable base (0x7080 + 8 * 3) (wr 1) (info 0x7098) := by and_intros <;> decide +kernel

def mem (f : Mem → Mem) (d : Dev := base) : Dev := fore (fun x => { x with mem := f x.mem }) d

theorem witness_MemoryAndYardComplete :
    (let d := mem (fun x => { x with poison := [(3, 7)] }) (fab (fun f => { f with sheafs := [{ sheaf0 with commit := some 5 }] }))
     (d.mast .fore).mem.poison.contains (3, 7) = true ∧ d.holder = some .fore ∧
       ((d.fab .fore).sheafs.find? (fun y => y.owner == some (0, 5))).map Sheaf.decided = some false) ∧
    base.regF .fore 0xB010 5 1 = 0 ∧ (regs [(0xB010, 32)]).regF .fore 0xB010 5 1 = 1 ∧ Writable base 0xB018 (wr 1) (info 0xB018) ∧
    (let d := mem (fun x => { x with scans := [⟨1, 2, 3, 4⟩] })
     (d.mast .fore).mem.scan = none ∧ (d.mast .fore).mem.scans = [⟨1, 2, 3, 4⟩]) ∧
    (let d := mem (fun x => { x with scan := some ⟨1, 2, 3, 0⟩ })
     (d.mast .fore).mem.scan = some ⟨1, 2, 3, 0⟩ ∧ ([] : List Byte).length = 0) ∧
    ((boot (fun b => { b with refclk := false })).mast .fore).boot.refclk = false := by and_intros <;> decide +kernel

theorem witness_CrcFollowsR457 : nextScan [⟨1, 2, 3, 4⟩, ⟨2, 3, 3, 4⟩] = some ⟨2, 3, 3, 4⟩ ∧ crcByte 5 7 = crcByte 5 7 := by decide +kernel

def peer (f : Pen → Pen) (d : Dev := base) : Dev := { d with main := { d.main with pen := f d.main.pen } }

theorem witness_LeaseAndMirrorComplete :
    (Serves base .fore ∧ base.now.ns % 25000 = 0) ∧
    (let d := pen (fun p => { p with sent := some 1990 })
     (d.pen .fore).sent = some 1990 ∧ d.takes .fore 0 = true ∧ (d.tile 0).leaseRuns d.beat = true ∧ d.waiting .fore 0 2 [2990] = false ∧
       (d.stay .fore 0).gone ≠ some 1990) ∧
    (let d := pen (fun p => { p with sent := some 2000 })
     (d.pen .fore).sent = some 2000 ∧ (d.tile 0).link.leaseEnd = 2000 + 1000 ∧ d.takes .fore 0 = true ∧
       tget 0 (d.pen .fore).acks 0 ≠ 2000 + 1000 ∧ UpFree d .fore 0 2) ∧
    (base.stagedTiles .fore ≠ [] ∧ (base.pen .fore).lastFull + 900 ≤ base.beat) ∧
    ((base.pen .fore).gaff = true ∧ base.runs (peerOf .fore) = true) ∧
    (let d := { base with beat := 3000 }
     (d.tile 0).alive = true ∧ (d.tile 0).enabled = true ∧ (d.tile 0).leaseRuns d.beat = false) ∧
    (base.holder = some .fore ∧ base.runs (peerOf .fore) = true) ∧
    ((pen (fun p => { p with mirrorOut := some (base.mirrorOf .fore), toSend := [⟨0, 0, .held ⟨0, 0, 0, 0⟩⟩] })).pen .fore).mirrorOut =
      some (base.mirrorOf .fore) ∧
    (let d := peer (fun p => { p with gaff := false }) (pen (fun p => { p with gaff := false }))
     d.fore.pen.gaff = false ∧ d.runs .fore = true ∧ d.runs .main = true ∧ d.holder = some .fore) ∧
    base.fore.pen.gaff = true ∧ Writable base 0xA000 (wr 1) (info 0xA000) ∧
    (let d := pen (fun p => { p with ctlSync := some 1 })
     d.fore.pen.ctlSync = some 1 ∧ d.main.pen.ctlSync = none ∧ d.fore.pen.gaff = true ∧ d.runs .main = true) := by
  and_intros <;> decide +kernel

theorem witness_PennantChangesHands :
    (let d := { peer (fun p => { p with ended := [0] }) with beat := 3200 }
     let reach := d.enabledTiles.filter (fun t => (d.pen .main).seen.contains t || (d.pen .main).ended.contains t)
     d.holder = some .fore ∧ d.runs .main = true ∧ (d.pen .main).claimAt = none ∧ reach = [0] ∧
       reach.all (d.pen .main).ended.contains = true ∧
       reach ≠ [] ∧ d.stale .main ((reach.map (fun t => (d.tile t).link.leaseEnd)).foldl Nat.max 0) = false) ∧
    (let d := peer (fun p => { p with claimAt := some 3000, epoch := 1 }) { base with beat := 3100 }
     (d.pen .main).claimAt = some 3000 ∧ (d.tile 0).alive = true ∧ (d.tile 0).enabled = true ∧ (d.pen .main).accepted.contains 0 = false ∧
       (d.tile 0).link.pen < 1 + 1 ∧ (d.tile 0).leaseRuns d.beat = false ∧ 3000 + 100 ≤ d.beat ∧
       (d.stay .main 0).gone ≠ some 3000 ∧ d.waiting .main 0 2 [(d.pen .main).epoch + 1, 4000] = false ∧ UpFree d .main 0 2) ∧
    (let d := peer (fun p => { p with claimAt := some 1990 })
     (d.tile 0).leaseRuns d.beat = true ∧ (d.tile 0).link.released = false ∧ (d.stay .main 0).gone ≠ some 1990) ∧
    (let d := peer (fun p => { p with claimAt := some 3000, accepted := [0] })
     (d.pen .main).claimAt = some 3000 ∧ (d.pen .main).accepted ≠ [] ∧ (∀ t ∈ d.enabledTiles, (d.pen .main).accepted.contains t = true)) ∧
    (let d := pen (fun p => { p with released := true })
     (d.pen .fore).released = true ∧ d.waiting .fore 0 2 [(d.pen .fore).epoch] = false ∧ (d.tile 0).alive = true ∧ (d.tile 0).link.pen = (d.pen .fore).epoch ∧ (d.pen .fore).gaff = true ∧
       d.runs .main = true ∧ (d.pen .main).claimAt = none) ∧
    (Writable base 0xA008 (wr 1) (info 0xA008) ∧ fld (base.written 0xA008 (wr 1) (info 0xA008)) 0 1 = 1 ∧ base.holder = some .fore ∧
      (base.pen .fore).busy = none ∧ (base.mast .fore).boot.stage = .ready ∧ (base.pen .fore).protect = false) ∧
    ((pen (fun p => { p with protect := true })).pen .fore).protect = true ∧
    (let d := pen (fun p => { p with busy := some 1 })
     Serves d .fore ∧ d.watchEdge = true ∧ (d.pen .fore).busy.isSome = true ∧ (d.pen .fore).busyAt < d.beat ∧ (d.pen .fore).yielding = false) ∧
    (let d := pen (fun p => { p with busy := some 1, yielding := true, hAt := 1800 })
     (d.pen .fore).yielding = true ∧ (d.pen .fore).hAt + 200 ≤ d.beat) := by and_intros <;> decide +kernel

def aon (f : AlwaysOn → AlwaysOn) (d : Dev := base) : Dev := { d with aon := f d.aon }
def pwr (f : Pwr → Pwr) (d : Dev := base) : Dev := fore (fun x => { x with pwr := f x.pwr }) d

theorem witness_PowerCompletes :
    (let d := aon (fun a => { a with queue := [18] })
     d.aon.slotAt ≤ d.beat ∧ d.aon.queue = [18]) ∧
    (let d := aon (fun a => { a with waking := [(1, 2000)] })
     (1 : Nat) < 16 ∧ d.aon.waking = [(1, 2000)] ∧ 2000 ≤ d.beat) ∧
    (let d := { staged .powered with tiles := [(0, { tileUp with enabled := false })] }
     Serves d .fore ∧ d.watchEdge = true ∧ (d.tile 0).alive = true ∧ (d.tile 0).selfcal = none ∧ (d.tile 0).enabled = false ∧
       (d.mast .fore).boot.stage = .powered) ∧
    (let d := tile0 (fun x => { x with disabling := true })
     d.watchEdge = true ∧ (0 : Nat) < 16 ∧ (d.tile 0).disabling = true) ∧
    (let d := pwr (fun p => { p with sprint := some 0, waitUntil := some 2000000, dwell := some 1000, jcool := some 0 })
       { base with beat := 10000000 }
     Serves d .fore ∧ d.watchEdge = true ∧ (d.mast .fore).pwr.sprint = some 0 ∧ 0 + 2000000 ≤ d.beat ∧
       (d.mast .fore).pwr.waitUntil = some 2000000 ∧ (d.mast .fore).pwr.dwell = some 1000 ∧ (d.mast .fore).pwr.jcool = some 0 ∧ (1000 : Nat) ≤ 1000 ∧
       0 + 10000000 ≤ d.beat) ∧
    (base.aon.tripped = none ∧ (base.mast .fore).pwr.jwarn = false ∧ (10000 : Int) ≤ 10050 ∧ (9700 : Int) ≤ 9800 ∧
      (base.mast .fore).pwr.jcool = none) ∧
    (let d := pwr (fun p => { p with pmbAt := some 1000 }) { base with beat := 1001000 }
     (d.mast .fore).pwr.pmbAt = some 1000 ∧ 1000 + 1000000 ≤ d.beat) ∧
    base.aon.tripped = none ∧ base.now.ns % 1000000 = 0 ∧ Writable base 0x8008 (wr 0x177000EA60) (info 0x8008) ∧
    (let d := aon (fun a => { a with tripped := some 0, cool := 10001 }) { base with beat := 20000 }
     d.aon.tripped = some 0 ∧ 0 + 20000 ≤ d.beat ∧ d.pins.poresetN = true ∧ 10001 ≤ d.aon.cool) := by and_intros <;> decide +kernel

theorem witness_BoundariesAndReadsComplete :
    (devReset.stands = true) ∧
    (let d : Dev := { base with fore := { base.fore with pen := penReset }, tiles := [] }
     d.stands = false ∧ d.serving = none ∧ d.aliveTiles = []) ∧
    ((999999900 : Nat) < 1000000000 ∧ 999999900 % 100 = 0) ∧
    (base.stands = false ∧ base.watchEdge = true ∧ base.lastWatch ≠ some base.beat) ∧
    (let d : Dev := { base with fore := { base.fore with pen := penReset }, tiles := [] }
     d.holder = none ∧ d.aliveTiles = []) ∧
    (base.barUp .fore = true ∧ regInfo 0x4048 = some (info 0x4048) ∧ (info 0x4048).rc ≠ 0 ∧ base.stands = false ∧ (base.tim .fore).setSec = none ∧ (base.mast .fore).hal.apply = none ∧ regInfo 0x4000 = some (info 0x4000) ∧
      (info 0x4000).rc = 0) := by and_intros <;> decide +kernel

theorem witness_StepTakesTheFront : (⟨[.feedB .fore 1], base⟩ : State).pending = .feedB .fore 1 :: [] ∧ State.reset.pending = [] ∧
    (match exec (.feedB .fore 1) (st base) with
      | .next t => t.pending
      | _ => [.feedB .fore 1]) = (st base).pending := by and_intros <;> decide +kernel

theorem witness_StepsKeepTimeSound : TimeOk ⟨[.feedB .fore 1], base⟩ ∧ (match step ⟨[.feedB .fore 1], base⟩ with
    | .next t => decide (t.pending = [])
    | _ => false) = true := by and_intros <;> decide +kernel

theorem witness_StoresTouchTheirBytes : CoreMemOk coreReset ∧ (5 : Nat) < 0x1000 ∧ 0x1000 + 4 ≤ 0x36000 ∧ 0x3F000 ≤ 0x3F004 := by
  and_intros <;> decide +kernel

theorem witness_ClockMovesOnlyAtItsCommands : (match exec (.feedB .fore 1) (st base) with
    | .next _ => true
    | _ => false) = true ∧ Instr.feedB .fore 1 ≠ .beatBoundary ∧ Instr.feedB .fore 1 ≠ .timebaseStep ∧ Instr.feedB .fore 1 ≠ .poresetNFall ∧
    Instr.feedB .fore 1 ≠ .thermalTrip := by and_intros <;> decide +kernel

/-! ## Sites of cells -/

/-- R469's example: cell 7,780 stands at row 95 and column 140, 5.135 mm west and 10.985 mm north of the centre. -/
theorem test_site_of_cell : cellSite 7780 = (95, 140) ∧ siteCentre 95 140 = (-5135, 10985) := by decide +kernel

end Sys2Proof.Tests
end

section
/-! Proofs for the beat and watch boundaries and for register reads. -/

namespace Sys2Proof.Machine

/-! ## The rest of the block

A frame for every operation that the boundaries run: what lies outside the masts, the tiles, the outputs, the free values
drawn and the label stays as it is. A lemma about an operation that takes a continuation asks the same of the continuation. -/

/-- The block but for its masts, its tiles, what has left it, the free values drawn, the label, and PPS_OUT and TRIG_OUT. -/
def Dev.rest (d : Dev) : Part × Nat × AlwaysOn × Option Nat × Pins :=
  (d.part, d.beat, d.aon, d.lastWatch, { d.pins with ppsOut := false, trigOut := false })

@[simp] theorem Dev.rest_mk (p : Part) (b : Nat) (n : Stamp) (f m : Mast) (t : Tbl Tile) (a : AlwaysOn) (i : Pins)
    (o : List Out) (k : Nat) (l : Option Nat) :
    (Dev.mk p b n f m t a i o k l).rest = (p, b, a, l, { i with ppsOut := false, trigOut := false }) := rfl

@[simp] theorem Dev.rest_eta (d : Dev) :
    (d.part, d.beat, d.aon, d.lastWatch, ({ d.pins with ppsOut := false, trigOut := false } : Pins)) = d.rest := rfl

theorem Dev.beat_of_rest {d e : Dev} (h : d.rest = e.rest) : d.beat = e.beat := congrArg (fun r => r.2.1) h

theorem Dev.lastWatch_of_rest {d e : Dev} (h : d.rest = e.rest) : d.lastWatch = e.lastWatch := congrArg (fun r => r.2.2.2.1) h

theorem Dev.parkSeen_of_rest {d e : Dev} (h : d.rest = e.rest) : d.pins.parkSeen = e.pins.parkSeen :=
  congrArg (fun r => r.2.2.2.2.parkSeen) h

@[simp] theorem Dev.rest_ite {p : Prop} [Decidable p] (a b : Dev) :
    (if p then a else b).rest = if p then a.rest else b.rest := apply_ite Dev.rest p a b

@[simp] theorem Dev.rest_setMast (d : Dev) (m : MastId) (x : Mast) : (d.setMast m x).rest = d.rest := by cases m <;> rfl

@[simp] theorem Dev.rest_setTile (d : Dev) (t : Nat) (x : Tile) : (d.setTile t x).rest = d.rest := rfl

@[simp] theorem Dev.rest_foldl {α : Type} {f : Dev → α → Dev} (hf : ∀ d x, (f d x).rest = d.rest) (l : List α) (d : Dev) :
    (l.foldl f d).rest = d.rest := by
  induction l generalizing d with
  | nil => rfl
  | cons a r ih => exact (ih (f d a)).trans (hf d a)

@[simp] theorem Dev.rest_each {α : Type} {f : α → Dev → Dev} (hf : ∀ x d, (f x d).rest = d.rest) (l : List α) (d : Dev) :
    (d.each l f).rest = d.rest := Dev.rest_foldl (fun d x => hf x d) l d

@[simp] theorem Dev.rest_act {d : Dev} {f : MastId → Dev} (hf : ∀ m, (f m).rest = d.rest) : (d.act f).rest = d.rest := by
  unfold Dev.act
  split
  · rfl
  · exact hf _

@[simp] theorem Dev.rest_when {f : Dev → Dev} (hf : ∀ d, (f d).rest = d.rest) (d : Dev) (b : Bool) :
    (d.when b f).rest = d.rest := by simp [Dev.when, hf]

/-! ### Masts, tiles, outputs, free values, registers -/

@[simp] theorem Dev.rest_onMast (d : Dev) (m : MastId) (f : Mast → Mast) : (d.onMast m f).rest = d.rest := by simp [Dev.onMast]

@[simp] theorem Dev.rest_onTile (d : Dev) (t : Nat) (f : Tile → Tile) : (d.onTile t f).rest = d.rest := by simp [Dev.onTile]

@[simp] theorem Dev.rest_onTiles (d : Dev) (ts : List Nat) (f : Nat → Tile → Tile) :
    (d.onTiles ts f).rest = d.rest := by simp [Dev.onTiles]

@[simp] theorem Dev.rest_onCell (d : Dev) (c : Nat) (f : Cell → Cell) : (d.onCell c f).rest = d.rest := by simp [Dev.onCell]

@[simp] theorem Dev.rest_emit (d : Dev) (o : Out) : (d.emit o).rest = d.rest := by simp [Dev.emit]

@[simp] theorem Dev.rest_drawNat {d : Dev} {k : Nat → Dev → Dev} (hk : ∀ x d, (k x d).rest = d.rest) :
    (d.drawNat k).rest = d.rest := by simp [Dev.drawNat, hk]

@[simp] theorem Dev.rest_drawBool {d : Dev} {k : Bool → Dev → Dev} (hk : ∀ x d, (k x d).rest = d.rest) :
    (d.drawBool k).rest = d.rest := by simp [Dev.drawBool, hk]

@[simp] theorem Dev.rest_setReg (d : Dev) (m : MastId) (off : Nat) (v : Reg64) :
    (d.setReg m off v).rest = d.rest := by simp [Dev.setReg]

@[simp] theorem Dev.rest_setRegF (d : Dev) (m : MastId) (off lo w v : Nat) :
    (d.setRegF m off lo w v).rest = d.rest := by simp [Dev.setRegF]

@[simp] theorem Dev.rest_flag (d : Dev) (m : MastId) (off b : Nat) : (d.flag m off b).rest = d.rest := by simp [Dev.flag]

@[simp] theorem Dev.rest_count (d : Dev) (m : MastId) (off lo w k : Nat) :
    (d.count m off lo w k).rest = d.rest := by simp [Dev.count]

/-! ### Counters -/

@[simp] theorem Dev.rest_pmc (d : Dev) (m : MastId) (ev : Nat) (insts : List Nat) (k : Nat) :
    (d.pmc m ev insts k).rest = d.rest := by simp [Dev.pmc]

@[simp] theorem Dev.rest_pmcLevel (d : Dev) (m : MastId) (ev : Nat) (inst v n : Nat) :
    (d.pmcLevel m ev inst v n).rest = d.rest := by simp [Dev.pmcLevel]

@[simp] theorem Dev.rest_moved (d : Dev) (m : MastId) (e out inn : Nat) :
    (d.moved m e out inn).rest = d.rest := by simp [Dev.moved]

@[simp] theorem Dev.rest_hostIn (d : Dev) (m : MastId) (n : Nat) : (d.hostIn m n).rest = d.rest := by simp [Dev.hostIn]

@[simp] theorem Dev.rest_hostOut (d : Dev) (m : MastId) (n : Nat) : (d.hostOut m n).rest = d.rest := by simp [Dev.hostOut]

@[simp] theorem Dev.rest_staySlot (d : Dev) (m : MastId) (t : Nat) (up : Bool) :
    (d.staySlot m t up).rest = d.rest := by simp [Dev.staySlot]

/-! ### The host interface: rings, records, slots -/

@[simp] theorem Dev.rest_msix (d : Dev) (m : MastId) (v : Nat) : (d.msix m v).rest = d.rest := by simp [Dev.msix]

@[simp] theorem Dev.rest_onHif (d : Dev) (m : MastId) (f : Hif → Hif) : (d.onHif m f).rest = d.rest := by simp [Dev.onHif]

@[simp] theorem Dev.rest_setRing (d : Dev) (m : MastId) (i : Nat) (r : Option Ring) :
    (d.setRing m i r).rest = d.rest := by simp [Dev.setRing]

@[simp] theorem Dev.rest_onRing (d : Dev) (m : MastId) (i : Nat) (f : Ring → Ring) : (d.onRing m i f).rest = d.rest := by
  unfold Dev.onRing
  split <;> simp

@[simp] theorem Dev.rest_setCtx (d : Dev) (m : MastId) (k : Nat) (c : Option Ctx) :
    (d.setCtx m k c).rest = d.rest := by simp [Dev.setCtx]

@[simp] theorem Dev.rest_onDesc (d : Dev) (m : MastId) (ring seq : Nat) (f : Desc → Desc) :
    (d.onDesc m ring seq f).rest = d.rest := by simp [Dev.onDesc]

@[simp] theorem Dev.rest_pushJournal (d : Dev) (m : MastId) (j : JEv) :
    (d.pushJournal m j).rest = d.rest := by simp [Dev.pushJournal]

@[simp] theorem Dev.rest_signalRing (d : Dev) (m : MastId) (i : Nat) : (d.signalRing m i).rest = d.rest := by
  unfold Dev.signalRing
  split <;> simp

@[simp] theorem Dev.rest_putRecord (d : Dev) (m : MastId) (i : Nat) (g : Ring) (r : Record) (irq : Bool) :
    (d.putRecord m i g r irq).rest = d.rest := by simp [Dev.putRecord]

@[simp] theorem Dev.rest_toBacklog (d : Dev) (m : MastId) (b : BackRec) :
    (d.toBacklog m b).rest = d.rest := by simp [Dev.toBacklog]

@[simp] theorem Dev.rest_deliver (d : Dev) (m : MastId) (i ctx : Nat) (r : Record) (irq back : Bool) :
    (d.deliver m i ctx r irq back).rest = d.rest := by
  unfold Dev.deliver
  split <;> simp

@[simp] theorem Dev.rest_retire (d : Dev) (m : MastId) (x : Desc) (sent : Bool) :
    (d.retire m x sent).rest = d.rest := by simp [Dev.retire]

@[simp] theorem Dev.rest_onSlots (d : Dev) (m : MastId) (x : Desc) (f : List Nat → List Nat) :
    (d.onSlots m x f).rest = d.rest := by simp [Dev.onSlots]

@[simp] theorem Dev.rest_giveSlot (d : Dev) (m : MastId) (x : Desc) (ref kind len ep : Nat) (crcBad trunc inc : Bool) (p :
    Payload) :
    (d.giveSlot m x ref kind len ep crcBad trunc inc p).rest = d.rest := by simp [Dev.giveSlot]

@[simp] theorem Dev.rest_holdSlot (d : Dev) (m : MastId) (x : Desc) (ref : Nat) :
    (d.holdSlot m x ref).rest = d.rest := by simp [Dev.holdSlot]

@[simp] theorem Dev.rest_unhold (d : Dev) (m : MastId) (x : Desc) (ref : Nat) :
    (d.unhold m x ref).rest = d.rest := by simp [Dev.unhold]

@[simp] theorem Dev.rest_settleHold (d : Dev) (m : MastId) (x : Desc) (ref owner : Nat) (err : Bool) :
    (d.settleHold m x ref owner err).rest = d.rest := by simp [Dev.settleHold]

@[simp] theorem Dev.rest_returnSlots (d : Dev) (m : MastId) (x : Desc) : (d.returnSlots m x).rest = d.rest := by
  unfold Dev.returnSlots
  split <;> simp

@[simp] theorem Dev.rest_returnIn (d : Dev) (m : MastId) (x : Desc) (s : SlotIn) (crcBad : Bool) :
    (d.returnIn m x s crcBad).rest = d.rest := by simp [Dev.returnIn]

@[simp] theorem Dev.rest_completeAt (d : Dev) (m : MastId) (x : Desc) (st : Status) (ep : Nat) (tm : Option Stamp) (always :
    Bool) :
    (d.completeAt m x st ep tm always).rest = d.rest := by simp [Dev.completeAt]

@[simp] theorem Dev.rest_complete (d : Dev) (m : MastId) (x : Desc) (st : Status) :
    (d.complete m x st).rest = d.rest := by simp [Dev.complete]

@[simp] theorem Dev.rest_need {d : Dev} {m : MastId} {x : Desc} {b : Nat} {k : Dev → Dev} (hk : ∀ d, (k d).rest = d.rest) :
    (d.need m x b k).rest = d.rest := by simp [Dev.need, hk]

/-! ### HBM transfers and command lanes -/

@[simp] theorem Dev.rest_queueScan (d : Dev) (m : MastId) (master qos len : Nat) :
    (d.queueScan m master qos len).rest = d.rest := by simp [Dev.queueScan]

@[simp] theorem Dev.rest_onBud (d : Dev) (m : MastId) (f : Budget → Budget) : (d.onBud m f).rest = d.rest := by simp [Dev.onBud]

@[simp] theorem Dev.rest_hbmMoved (d : Dev) (m : MastId) (write : Bool) (n : Nat) :
    (d.hbmMoved m write n).rest = d.rest := by simp [Dev.hbmMoved]

@[simp] theorem Dev.rest_hbmGo {d : Dev} {m : MastId} {cls n : Nat} {f : Dev → Dev} (hf : ∀ d, (f d).rest = d.rest) :
    (d.hbmGo m cls n f).rest = d.rest := by simp [Dev.hbmGo, hf]

@[simp] theorem Dev.rest_onStay (d : Dev) (m : MastId) (t : Nat) (f : Stay → Stay) :
    (d.onStay m t f).rest = d.rest := by simp [Dev.onStay]

@[simp] theorem Dev.rest_leave (d : Dev) (m : MastId) (t : Nat) (f : LaneFrame) :
    (d.leave m t f).rest = d.rest := by simp [Dev.leave]

@[simp] theorem Dev.rest_pump (d : Dev) (m : MastId) (t n : Nat) : (Dev.pump m t n d).rest = d.rest := by
  induction n generalizing d with
  | zero => rfl
  | succ n ih =>
    unfold Dev.pump
    split
    · rfl
    · split
      · simp [ih]
      · rfl

@[simp] theorem Dev.rest_command (d : Dev) (m : MastId) (t cls : Nat) (words : List Nat) (writes : List (Nat × Tgt × Bool)) :
    (d.command m t cls words writes).rest = d.rest := by simp [Dev.command]

@[simp] theorem Dev.rest_unlane (d : Dev) (m : MastId) (t : Nat) (p : LaneFrame → Bool) :
    (d.unlane m t p).rest = d.rest := by simp [Dev.unlane]

@[simp] theorem Dev.rest_writes (d : Dev) (m : MastId) (ws : List (Nat × Tgt × Bool)) :
    (d.writes m ws).rest = d.rest := by simp [Dev.writes]

@[simp] theorem Dev.rest_pumpAll (d : Dev) (m : MastId) : (d.pumpAll m).rest = d.rest := by simp [Dev.pumpAll]

@[simp] theorem Dev.rest_stayWatch (d : Dev) (m : MastId) : (d.stayWatch m).rest = d.rest := by simp [Dev.stayWatch]

/-! ### Parts of a mast, telemetry -/

@[simp] theorem Dev.rest_onFab (d : Dev) (m : MastId) (f : Fab → Fab) : (d.onFab m f).rest = d.rest := by simp [Dev.onFab]

@[simp] theorem Dev.rest_onFlt (d : Dev) (m : MastId) (f : Flt → Flt) : (d.onFlt m f).rest = d.rest := by simp [Dev.onFlt]

@[simp] theorem Dev.rest_onPen (d : Dev) (m : MastId) (f : Pen → Pen) : (d.onPen m f).rest = d.rest := by simp [Dev.onPen]

@[simp] theorem Dev.rest_onEg (d : Dev) (m : MastId) (f : Egress → Egress) : (d.onEg m f).rest = d.rest := by simp [Dev.onEg]

@[simp] theorem Dev.rest_onGln (d : Dev) (m : MastId) (f : Glean → Glean) : (d.onGln m f).rest = d.rest := by simp [Dev.onGln]

@[simp] theorem Dev.rest_onBoot (d : Dev) (m : MastId) (f : Boot → Boot) : (d.onBoot m f).rest = d.rest := by simp [Dev.onBoot]

@[simp] theorem Dev.rest_setStream (d : Dev) (m : MastId) (s : Nat) (x : Option Stream) :
    (d.setStream m s x).rest = d.rest := by simp [Dev.setStream]

@[simp] theorem Dev.rest_queueTel (d : Dev) (m : MastId) (s : Nat) (r : TelRec) : (d.queueTel m s r).rest = d.rest := by
  unfold Dev.queueTel
  split <;> simp

@[simp] theorem Dev.rest_tel (d : Dev) (m : MastId) (sel : Nat) (r : TelRec) : (d.tel m sel r).rest = d.rest := by
  unfold Dev.tel
  exact Dev.rest_foldl (fun _ _ => by split <;> simp) _ _

@[simp] theorem Dev.rest_gleanEvent (d : Dev) (m : MastId) (c : Cause) (beat : Nat) (t : Stamp) (cell : Option Nat) (hal :
    Nat) :
    (d.gleanEvent m c beat t cell hal).rest = d.rest := by simp [Dev.gleanEvent]

/-! ### Sheafs -/

@[simp] theorem Dev.rest_onSheaf (d : Dev) (m : MastId) (k : SKey) (f : Sheaf → Sheaf) :
    (d.onSheaf m k f).rest = d.rest := by simp [Dev.onSheaf]

@[simp] theorem Dev.rest_dropSheaf (d : Dev) (m : MastId) (k : SKey) :
    (d.dropSheaf m k).rest = d.rest := by simp [Dev.dropSheaf]

@[simp] theorem Dev.rest_restage (d : Dev) (m : MastId) : (d.restage m).rest = d.rest := by simp [Dev.restage]

@[simp] theorem Dev.rest_disarm (d : Dev) (m : MastId) (w : SheafWork) : (d.disarm m w).rest = d.rest := by simp [Dev.disarm]

@[simp] theorem Dev.rest_abortSheaf (d : Dev) (m : MastId) (k : SKey) (st : Status) : (d.abortSheaf m k st).rest = d.rest := by
  simp only [Dev.abortSheaf]
  split
  · rfl
  · split
    · simp
    · split <;> simp

@[simp] theorem Dev.rest_abortWhere (d : Dev) (m : MastId) (p : Sheaf → Bool) (st : Status) :
    (d.abortWhere m p st).rest = d.rest := by simp [Dev.abortWhere]

/-! ### Faults, fences, passes of calibration -/

@[simp] theorem Dev.rest_withdraw (d : Dev) (m : MastId) (u : FUnit) : (d.withdraw m u).rest = d.rest := by simp [Dev.withdraw]

@[simp] theorem Dev.rest_log (d : Dev) (m : MastId) (source sev kind unit : Nat) (ep : Nat) (t : Stamp) (info : BitVec 32) :
    (d.log m source sev kind unit ep t info).rest = d.rest := by simp [Dev.log]

@[simp] theorem Dev.rest_logUnit (d : Dev) (m : MastId) (source kind : Nat) (u : FUnit) (flags : Nat) :
    (d.logUnit m source kind u flags).rest = d.rest := by simp [Dev.logUnit]

@[simp] theorem Dev.rest_faultIrq (d : Dev) (m : MastId) (sev : Nat) : (d.faultIrq m sev).rest = d.rest := by
  unfold Dev.faultIrq
  split
  · split <;> simp
  · rfl

@[simp] theorem Dev.rest_logFault (d : Dev) (m : MastId) (source sev unit : Nat) (detail : BitVec 32) :
    (d.logFault m source sev unit detail).rest = d.rest := by simp [Dev.logFault]

@[simp] theorem Dev.rest_undo (d : Dev) (m : MastId) (x : Sheaf) : (d.undo m x).rest = d.rest := by simp [Dev.undo]

@[simp] theorem Dev.rest_placeHeal (d : Dev) (m : MastId) (source : Nat) (unit : FUnit) :
    (d.placeHeal m source unit).rest = d.rest := by simp [Dev.placeHeal]

@[simp] theorem Dev.rest_staleShadow (d : Dev) (m : MastId) : (d.staleShadow m).rest = d.rest := by simp [Dev.staleShadow]

@[simp] theorem Dev.rest_healFor (d : Dev) (m : MastId) (u : FUnit) (source : Nat) :
    (d.healFor m u source).rest = d.rest := by simp [Dev.healFor]

@[simp] theorem Dev.rest_onCal (d : Dev) (m : MastId) (f : CalSt → CalSt) : (d.onCal m f).rest = d.rest := by simp [Dev.onCal]

@[simp] theorem Dev.rest_onPass (d : Dev) (m : MastId) (f : Pass → Pass) : (d.onPass m f).rest = d.rest := by simp [Dev.onPass]

@[simp] theorem Dev.rest_writeBack (d : Dev) (m : MastId) (cells : List Nat) :
    (d.writeBack m cells).rest = d.rest := by simp [Dev.writeBack]

@[simp] theorem Dev.rest_roundEnd (d : Dev) (m : MastId) (cells : List PassCell) : (d.roundEnd m cells).rest = d.rest := by
  simp only [Dev.roundEnd, Dev.rest_writeBack]
  exact Dev.rest_each (fun _ _ => by split <;> simp) _ _

@[simp] theorem Dev.rest_shutRounds (d : Dev) (m : MastId) : (d.shutRounds m).rest = d.rest := by
  unfold Dev.shutRounds
  split <;> simp

@[simp] theorem Dev.rest_leaveRound (d : Dev) (m : MastId) (p : Pass) (gone : PassCell → Bool) :
    (d.leaveRound m p gone).rest = d.rest := by simp [Dev.leaveRound]

@[simp] theorem Dev.rest_interrupt (d : Dev) (m : MastId) (hit waiting : PassCell → Bool) :
    (d.interrupt m hit waiting).rest = d.rest := by
  unfold Dev.interrupt
  split <;> simp

@[simp] theorem Dev.rest_skipFenced (d : Dev) (m : MastId) (u : FUnit) : (d.skipFenced m u).rest = d.rest := by
  unfold Dev.skipFenced
  split <;> simp

@[simp] theorem Dev.rest_keepHeld (d : Dev) (m : MastId) (r : Nat) : (d.keepHeld m r).rest = d.rest := by simp [Dev.keepHeld]

@[simp] theorem Dev.rest_dropCopy (d : Dev) (m : MastId) (channel : Nat) :
    (d.dropCopy m channel).rest = d.rest := by simp [Dev.dropCopy]

@[simp] theorem Dev.rest_channelsBack (d : Dev) (m : MastId) : (d.channelsBack m).rest = d.rest := by simp [Dev.channelsBack]

@[simp] theorem Dev.rest_fenceHbm (d : Dev) (m : MastId) (channel : Nat) :
    (d.fenceHbm m channel).rest = d.rest := by simp [Dev.fenceHbm]

@[simp] theorem Dev.rest_fenceEffect (d : Dev) (m : MastId) (u : FUnit) (source : Nat) :
    (d.fenceEffect m u source).rest = d.rest := by
  unfold Dev.fenceEffect
  split <;> simp

@[simp] theorem Dev.rest_fence (d : Dev) (m : MastId) (u : FUnit) (source : Nat) :
    (d.fence m u source).rest = d.rest := by simp [Dev.fence]

@[simp] theorem Dev.rest_lasting (d : Dev) (m : MastId) (u : FUnit) (flags : Nat) :
    (d.lasting m u flags).rest = d.rest := by simp [Dev.lasting]

@[simp] theorem Dev.rest_classify (d : Dev) (m : MastId) (u : FUnit) : (d.classify m u).rest = d.rest := by simp [Dev.classify]

@[simp] theorem Dev.rest_report (d : Dev) (m : MastId) (source sev unit : Nat) (detail : BitVec 32) (fence : Option FUnit) :
    (d.report m source sev unit detail fence).rest = d.rest := by
  unfold Dev.report
  split <;> simp

@[simp] theorem Dev.rest_pcieErr (d : Dev) (m : MastId) (kind index : Nat) :
    (d.pcieErr m kind index).rest = d.rest := by simp [Dev.pcieErr]

/-! ### Payload slots -/

@[simp] theorem Dev.rest_slotOut {d : Dev} {m : MastId} {x : Desc} {s : SlotOut} {fail : Status → Dev → Dev} {k : Dev → Dev}
    (hfail : ∀ x d, (fail x d).rest = d.rest) (hk : ∀ d, (k d).rest = d.rest) :
    (d.slotOut m x s fail k).rest = d.rest := by
  unfold Dev.slotOut
  split
  · exact hfail _ _
  · split
    · simp [hfail]
    · split <;> simp [hfail, hk]

@[simp] theorem Dev.rest_slotHold {d : Dev} {m : MastId} {x : Desc} {s : SlotIn} {fail : Status → Dev → Dev} {k : Dev → Dev}
    (hfail : ∀ x d, (fail x d).rest = d.rest) (hk : ∀ d, (k d).rest = d.rest) :
    (d.slotHold m x s fail k).rest = d.rest := by simp [Dev.slotHold, hfail, hk]

@[simp] theorem Dev.rest_slotCheck {d : Dev} {m : MastId} {x : Desc} {s : SlotIn} {fail : Status → Dev → Dev} {k : Dev → Dev}
    (hfail : ∀ x d, (fail x d).rest = d.rest) (hk : ∀ d, (k d).rest = d.rest) :
    (d.slotCheck m x s fail k).rest = d.rest := by simp [Dev.slotCheck, hfail, hk]

@[simp] theorem Dev.rest_slotIn {d : Dev} {m : MastId} {x : Desc} {s : SlotIn} {fail : Status → Dev → Dev} {k : Dev → Dev}
    (hfail : ∀ x d, (fail x d).rest = d.rest) (hk : ∀ d, (k d).rest = d.rest) :
    (d.slotIn m x s fail k).rest = d.rest := by simp [Dev.slotIn, hfail, hk]

/-! ### Cores -/

@[simp] theorem Dev.rest_setCore (d : Dev) (m : MastId) (k : Nat) (c : Core) :
    (d.setCore m k c).rest = d.rest := by simp [Dev.setCore]

@[simp] theorem Dev.rest_onCore (d : Dev) (m : MastId) (k : Nat) (f : Core → Core) :
    (d.onCore m k f).rest = d.rest := by simp [Dev.onCore]

@[simp] theorem Dev.rest_rewrote (d : Dev) (m : MastId) (k : Nat) : (d.rewrote m k).rest = d.rest := by simp [Dev.rewrote]

/-! ### Commands that last -/

@[simp] theorem Dev.rest_deliverHeld (d : Dev) (m : MastId) (j : Nat) : (d.deliverHeld m j).rest = d.rest := by
  simp only [Dev.deliverHeld]
  exact (Dev.rest_each (fun _ _ => by split <;> simp) _ _).trans (by simp)

@[simp] theorem Dev.rest_deliverTo (d : Dev) (m : MastId) (i : Nat) (e : RingEntry) :
    (d.deliverTo m i e).rest = d.rest := by simp [Dev.deliverTo]

@[simp] theorem Dev.rest_register (d : Dev) (m : MastId) (i : Nat) (e : RingEntry) :
    (d.register m i e).rest = d.rest := by simp [Dev.register]

@[simp] theorem Dev.rest_openCtx (d : Dev) (m : MastId) (k : Nat) (e : CtxEntry) :
    (d.openCtx m k e).rest = d.rest := by simp [Dev.openCtx]

@[simp] theorem Dev.rest_ctxOpenBody (d : Dev) (index : Nat) (ent : Option CtxEntry) (m : MastId) (x : Desc) :
    (d.ctxOpenBody index ent m x).rest = d.rest := by
  unfold Dev.ctxOpenBody
  split <;> simp

@[simp] theorem Dev.rest_closeSheafs (d : Dev) (m : MastId) (k : Nat) (p : Sheaf → Bool) :
    (d.closeSheafs m k p).rest = d.rest := by simp [Dev.closeSheafs]

@[simp] theorem Dev.rest_waitOn (d : Dev) (m : MastId) (x : Desc) (w : Wait) :
    (d.waitOn m x w).rest = d.rest := by simp [Dev.waitOn]

@[simp] theorem Dev.rest_ctxRebindBody (d : Dev) (index : Nat) (m : MastId) (x : Desc) :
    (d.ctxRebindBody index m x).rest = d.rest := by
  unfold Dev.ctxRebindBody
  exact Dev.rest_need fun _ => by split <;> simp

@[simp] theorem Dev.rest_stopRings (d : Dev) (m : MastId) (k : Nat) (atOnce : Bool) :
    (d.stopRings m k atOnce).rest = d.rest := by simp [Dev.stopRings]

@[simp] theorem Dev.rest_ctxCloseBody (d : Dev) (index : Nat) (dbs : List Doorbell) (m : MastId) (x : Desc) :
    (d.ctxCloseBody index dbs m x).rest = d.rest := by simp [Dev.ctxCloseBody]

@[simp] theorem Dev.rest_ctxCloseForceBody (d : Dev) (index : Nat) (m : MastId) (x : Desc) :
    (d.ctxCloseForceBody index m x).rest = d.rest := by simp [Dev.ctxCloseForceBody]

@[simp] theorem Dev.rest_closeStream (d : Dev) (m : MastId) (s : Nat) (owner : Option (Nat × Nat)) :
    (d.closeStream m s owner).rest = d.rest := by
  unfold Dev.closeStream
  split <;> simp

@[simp] theorem Dev.rest_ringRegBody (d : Dev) (index : Nat) (ent : Option RingEntry) (m : MastId) (x : Desc) :
    (d.ringRegBody index ent m x).rest = d.rest := by
  unfold Dev.ringRegBody
  split <;> simp

@[simp] theorem Dev.rest_ringUnregBody (d : Dev) (index : Nat) (force : Bool) (m : MastId) (x : Desc) :
    (d.ringUnregBody index force m x).rest = d.rest := by
  unfold Dev.ringUnregBody
  exact Dev.rest_need fun _ => by split <;> simp

@[simp] theorem Dev.rest_onKern (d : Dev) (m : MastId) (f : Kern → Kern) : (d.onKern m f).rest = d.rest := by simp [Dev.onKern]

@[simp] theorem Dev.rest_mirrorKern (d : Dev) (m : MastId) : (d.mirrorKern m).rest = d.rest := by simp [Dev.mirrorKern]

@[simp] theorem Dev.rest_kernelStored (d : Dev) (m : MastId) (x : Desc) : (d.kernelStored m x).rest = d.rest := by
  unfold Dev.kernelStored
  split <;> simp

@[simp] theorem Dev.rest_kernelBind (d : Dev) (tile handle : Nat) (m : MastId) (x : Desc) :
    (d.kernelBind tile handle m x).rest = d.rest := by simp [Dev.kernelBind]

@[simp] theorem Dev.rest_kernelDrop (d : Dev) (handle : Nat) (m : MastId) (x : Desc) :
    (d.kernelDrop handle m x).rest = d.rest := by simp [Dev.kernelDrop]

/-! ### Kernels and drive outputs -/

@[simp] theorem Dev.rest_startCores (d : Dev) (sb : MastId) : (d.startCores sb).rest = d.rest := by
  simp only [Dev.startCores]
  exact (Dev.rest_each (fun _ _ => by split <;> simp) _ _).trans (by simp)

@[simp] theorem Dev.rest_retarget (d : Dev) (t l : Nat) (hold : Bool) (f : Drive → Drive) :
    (d.retarget t l hold f).rest = d.rest := by simp [Dev.retarget]

@[simp] theorem Dev.rest_retargetAll (d : Dev) (t : Nat) (f : Drive → Drive) :
    (d.retargetAll t f).rest = d.rest := by simp [Dev.retargetAll]

@[simp] theorem Dev.rest_setTgt (d : Dev) (t l : Nat) (hold : Bool) (g : Tgt) :
    (d.setTgt t l hold g).rest = d.rest := by simp [Dev.setTgt]

@[simp] theorem Dev.rest_applyImm (d : Dev) (t : Nat) : (d.applyImm t).rest = d.rest := by
  simp only [Dev.applyImm]
  split <;> simp

@[simp] theorem Dev.rest_takeParams (d : Dev) (t : Nat) : (d.takeParams t).rest = d.rest := by simp [Dev.takeParams]

@[simp] theorem Dev.rest_lpBoundary (d : Dev) (t : Nat) : (d.lpBoundary t).rest = d.rest := by
  simp only [Dev.lpBoundary]
  split
  · simp
  · split <;> simp

@[simp] theorem Dev.rest_startScan (d : Dev) (t mv : Nat) : (d.startScan t mv).rest = d.rest := by simp [Dev.startScan]

@[simp] theorem Dev.rest_topoSwap (d : Dev) (slot : SlotIn) (m : MastId) (x : Desc) : (d.topoSwap slot m x).rest = d.rest := by
  unfold Dev.topoSwap
  refine Dev.rest_need fun _ => Dev.rest_slotIn (fun _ _ => by simp) fun _ => ?_
  simp only
  split
  · simp
  · split
    · simp
    · split <;> simp

@[simp] theorem Dev.rest_calLatch (d : Dev) (m : MastId) : (d.calLatch m).rest = d.rest := by simp [Dev.calLatch]

/-! ### The timebase -/

@[simp] theorem Dev.rest_onTim (d : Dev) (m : MastId) (f : Tim → Tim) : (d.onTim m f).rest = d.rest := by simp [Dev.onTim]

@[simp] theorem Dev.rest_onHal (d : Dev) (m : MastId) (f : Hal → Hal) : (d.onHal m f).rest = d.rest := by simp [Dev.onHal]

@[simp] theorem Dev.rest_stepTime (d : Dev) (m : MastId) (t : Stamp) : (d.stepTime m t).rest = d.rest := by simp [Dev.stepTime]

@[simp] theorem Dev.rest_pps (d : Dev) (m : MastId) : (d.pps m).rest = d.rest := by simp [Dev.pps]

/-! ### Streams -/

@[simp] theorem Dev.rest_streamOpenBody (d : Dev) (stream : Nat) (slot : SlotIn) (m : MastId) (x : Desc) :
    (d.streamOpenBody stream slot m x).rest = d.rest := by
  unfold Dev.streamOpenBody
  exact Dev.rest_need fun _ => by simp

@[simp] theorem Dev.rest_streamCloseBody (d : Dev) (stream : Nat) (m : MastId) (x : Desc) :
    (d.streamCloseBody stream m x).rest = d.rest := by
  unfold Dev.streamCloseBody
  refine Dev.rest_need fun d => ?_
  cases d.stream m stream <;> simp

@[simp] theorem Dev.rest_shapeSetBody (d : Dev) (kind index rate burst weight : Nat) (m : MastId) (x : Desc) :
    (d.shapeSetBody kind index rate burst weight m x).rest = d.rest := by
  unfold Dev.shapeSetBody
  refine Dev.rest_need fun _ => ?_
  split <;> split <;> simp

/-! ### The flight record -/

@[simp] theorem Dev.rest_restartRecord (d : Dev) (m : MastId) : (d.restartRecord m).rest = d.rest := by simp [Dev.restartRecord]

@[simp] theorem Dev.rest_gatherFrame (d : Dev) (m : MastId) : (d.gatherFrame m).rest = d.rest := by
  simp only [Dev.gatherFrame, Dev.rest_onGln]
  split <;> simp

@[simp] theorem Dev.rest_setUnit (d : Dev) (m : MastId) (u : Nat) (x : Unit_) :
    (d.setUnit m u x).rest = d.rest := by simp [Dev.setUnit]

@[simp] theorem Dev.rest_lagOk (d : Dev) (m : MastId) : (d.lagOk m).rest = d.rest := by
  unfold Dev.lagOk
  exact Dev.rest_each (fun _ _ => by split <;> simp) _ _

/-! ### The standby -/

@[simp] theorem Dev.rest_burnt (d : Dev) (m : MastId) (x : Desc) (i : Burn) :
    (d.burnt m x i).rest = d.rest := by simp [Dev.burnt]

@[simp] theorem Dev.rest_mirrorTables (d : Dev) (m : MastId) : (d.mirrorTables m).rest = d.rest := by simp [Dev.mirrorTables]

@[simp] theorem Dev.rest_lastingEffect (d : Dev) (m : MastId) (x : Desc) (i : Instr) :
    (d.lastingEffect m x i).rest = d.rest := by
  unfold Dev.lastingEffect
  split <;> simp

@[simp] theorem Dev.rest_undefer (d : Dev) (m : MastId) (ring seq : Nat) : (d.undefer m ring seq).rest = d.rest := by
  unfold Dev.undefer
  split
  · rfl
  · split
    · split <;> simp
    · simp

@[simp] theorem Dev.rest_judgeProtect (d : Dev) : d.judgeProtect.rest = d.rest := by
  unfold Dev.judgeProtect
  split <;> simp

/-! ### Power -/

@[simp] theorem Dev.rest_onPwr (d : Dev) (m : MastId) (f : Pwr → Pwr) : (d.onPwr m f).rest = d.rest := by simp [Dev.onPwr]

@[simp] theorem Dev.rest_endSprint (d : Dev) (m : MastId) (capped : Bool) :
    (d.endSprint m capped).rest = d.rest := by simp [Dev.endSprint]

@[simp] theorem Dev.rest_endWait (d : Dev) (m : MastId) : (d.endWait m).rest = d.rest := by simp [Dev.endWait]

/-! ### A beat -/

@[simp] theorem Dev.rest_tillCount (d : Dev) (m : MastId) : (d.tillCount m).rest = d.rest := by simp [Dev.tillCount]

@[simp] theorem Dev.rest_beatCounts (d : Dev) (m : MastId) : (d.beatCounts m).rest = d.rest := by simp [Dev.beatCounts]

@[simp] theorem Dev.rest_halStep (d : Dev) (m : MastId) : (d.halStep m).rest = d.rest := by
  unfold Dev.halStep
  split <;> simp

@[simp] theorem Dev.rest_stalls (d : Dev) (m : MastId) : (d.stalls m).rest = d.rest := by simp [Dev.stalls]

/-! ### A watch -/

@[simp] theorem Dev.rest_roundDither (d : Dev) (m : MastId) (t : Nat) : (d.roundDither m t).rest = d.rest := by
  unfold Dev.roundDither
  split <;> simp

@[simp] theorem Dev.rest_heaters (d : Dev) (t mv : Nat) : (d.heaters t mv).rest = d.rest := by simp [Dev.heaters]

@[simp] theorem Dev.rest_corePeriod (d : Dev) (m : MastId) (t : Nat) :
    (d.corePeriod m t).rest = d.rest := by simp [Dev.corePeriod]

@[simp] theorem Dev.rest_loadLoops (d : Dev) (m : MastId) (t : Nat) : (d.loadLoops m t).rest = d.rest := by
  unfold Dev.loadLoops
  split
  · rfl
  · simp only [Dev.rest_onTile]
    split <;> simp

@[simp] theorem Dev.rest_ramp (d : Dev) (m : MastId) : (d.ramp m).rest = d.rest := by simp [Dev.ramp]

@[simp] theorem Dev.rest_setReadyAt (d : Dev) (m : MastId) : (d.setReadyAt m).rest = d.rest := by simp [Dev.setReadyAt]

@[simp] theorem Dev.rest_tileWatch (d : Dev) (t mv : Nat) (cond : List (Nat × Nat)) (lanes : List Nat) :
    (d.tileWatch t mv cond lanes).rest = d.rest := by simp [Dev.tileWatch]

@[simp] theorem Dev.rest_railWatch (d : Dev) (m : MastId) : (d.railWatch m).rest = d.rest := by simp [Dev.railWatch]

@[simp] theorem Dev.rest_railAfter (d : Dev) (m : MastId) : (d.railAfter m).rest = d.rest := by simp [Dev.railAfter]

@[simp] theorem Dev.rest_capInterrupt (d : Dev) (m : MastId) : (d.capInterrupt m).rest = d.rest := by
  unfold Dev.capInterrupt
  split <;> simp

@[simp] theorem Dev.rest_srcTaken (d : Dev) (m : MastId) (old : Nat) :
    (d.srcTaken m old).rest = d.rest := by simp [Dev.srcTaken]

@[simp] theorem Dev.rest_latchMast (d : Dev) (m : MastId) : (d.latchMast m).rest = d.rest := by simp [Dev.latchMast]

@[simp] theorem Dev.rest_resetBudgets (d : Dev) (m : MastId) : (d.resetBudgets m).rest = d.rest := by simp [Dev.resetBudgets]

@[simp] theorem Dev.rest_telPeriodic (d : Dev) (m : MastId) (sel : Nat) (r : TelRec) :
    (d.telPeriodic m sel r).rest = d.rest := by
  unfold Dev.telPeriodic
  exact Dev.rest_each (fun _ _ => by split <;> simp) _ _

@[simp] theorem Dev.rest_countersTel (d : Dev) (m : MastId) : (d.countersTel m).rest = d.rest := by
  unfold Dev.countersTel
  exact Dev.rest_each (fun _ _ => by split <;> simp) _ _

@[simp] theorem Dev.rest_watchTel (d : Dev) (m : MastId) : (d.watchTel m).rest = d.rest := by simp [Dev.watchTel]

@[simp] theorem Dev.rest_cellRead (d : Dev) (m : MastId) (s : Nat) (x : Stream) (f : Frame) :
    (d.cellRead m s x f).rest = d.rest := by simp [Dev.cellRead]

@[simp] theorem Dev.rest_cellReads (d : Dev) (m : MastId) : (d.cellReads m).rest = d.rest := by
  unfold Dev.cellReads
  exact Dev.rest_each (fun _ _ => by split <;> simp) _ _

@[simp] theorem Dev.rest_sendMirror (d : Dev) (m : MastId) : (d.sendMirror m).rest = d.rest := by simp [Dev.sendMirror]

@[simp] theorem Dev.rest_recordOn (d : Dev) (m : MastId) : (d.recordOn m).rest = d.rest := by simp [Dev.recordOn]

/-! ## Answers -/

/-- A command whose meaning is a run of `f` answers what `f` makes of the block. -/
theorem answers_of_run {c : Instr} {s : State} {f : Dev → Dev} {d : Dev} (hc : exec c s = run s f) (hd : f s.dev = d) :
    Answers c s d := by
  subst hd
  exact hc

/-! ## The beat boundary -/

/-- The block as a beat begins (R24, R308): one beat on, its label, and PARK_N sampled. -/
def Dev.ticked (d : Dev) : Dev :=
  { d with beat := d.beat + 1, now := d.label, pins := { d.pins with parkSeen := !d.pins.parkN } }

/-- The serving mast's timebase in the beat that begins: TIM_SET used up, HOLD's mean, a Halyard step, PPS_OUT. -/
def Dev.beatTimebase (d : Dev) : Dev :=
  d.act (fun m =>
    let d := if d.now.ns == 0 then d.onTim m (fun t => { t with setSec := none }) else d
    ((d.onTim m Tim.lockedBeat).halStep m).pps m)

/-- What the beat does once its label stands. -/
def Dev.beatWork (d : Dev) : Dev :=
  let d := d.act (fun m =>
    let t := ((d.tim m).nextBeat).acc
    (d.onTim .fore (fun x => { x with acc := t })).onTim .main (fun x => { x with acc := t }))
  let d := (d.beatCounts .fore).beatCounts .main
  let d := ((d.act (fun m => d.stalls m)).pumpAll .fore).pumpAll .main
  let d := d.onTiles (d.aliveTiles.filter (fun t => d.loopEdge t)) (fun _ x => x.newPeriod)
  d.each d.aliveTiles (fun t d => d.applyImm t)

theorem exec_beatBoundary (s : State) : exec .beatBoundary s = run s (fun d =>
    if d.stands then { d with beat := d.beat + 1 } else d.ticked.beatTimebase.beatWork) := rfl

theorem answers_beatBoundary_of_stands {s : State} (h : s.dev.stands = true) :
    Answers .beatBoundary s { s.dev with beat := s.dev.beat + 1 } :=
  answers_of_run (exec_beatBoundary s) (by simp [h])

theorem answers_beatBoundary_of_runs {s : State} (h : s.dev.stands = false) :
    Answers .beatBoundary s s.dev.ticked.beatTimebase.beatWork :=
  answers_of_run (exec_beatBoundary s) (by simp [h])

@[simp] theorem Dev.rest_beatTimebase (d : Dev) : d.beatTimebase.rest = d.rest := by simp [Dev.beatTimebase]

@[simp] theorem Dev.rest_beatWork (d : Dev) : d.beatWork.rest = d.rest := by simp [Dev.beatWork]

theorem Dev.clock_act {d : Dev} {f : MastId → Dev} (hf : ∀ m, (f m).clock = d.clock) : (d.act f).clock = d.clock :=
  Dev.clock_act' hf rfl

@[simp] theorem Dev.clock_beatWork (d : Dev) : d.beatWork.clock = d.clock := by
  simp [Dev.beatWork, Dev.clock_act, Dev.clock_each]

theorem Dev.halStep_of_apply_none {d : Dev} {m : MastId} (h : (d.mast m).hal.apply = none) : d.halStep m = d := by
  simp [Dev.halStep, h]

@[simp] theorem Dev.hal_onTim (d : Dev) (m : MastId) (f : Tim → Tim) : ((d.onTim m f).mast m).hal = (d.mast m).hal := by
  simp [Dev.onTim]

theorem Dev.clock_beatTimebase {d : Dev} (h : ∀ m, d.serving = some m → (d.mast m).hal.apply = none) :
    d.beatTimebase.clock = d.clock := by
  cases hm : d.serving with
  | none => simp [Dev.beatTimebase, Dev.act_of_none hm]
  | some m =>
    simp only [Dev.beatTimebase, Dev.act, hm]
    rw [Dev.halStep_of_apply_none]
    · simp only [Dev.clock_pps, Dev.clock_onTim]
      exact Dev.clock_if (Dev.clock_onTim d m _) rfl
    · rw [Dev.hal_onTim]
      split <;> simpa using h m hm

@[simp] theorem Dev.mast_ticked (d : Dev) (m : MastId) : d.ticked.mast m = d.mast m := by cases m <;> rfl

@[simp] theorem Dev.holder_ticked (d : Dev) : d.ticked.holder = d.holder := rfl

@[simp] theorem Dev.serving_ticked (d : Dev) : d.ticked.serving = d.serving := by
  simp only [Dev.serving, Dev.holder_ticked, Dev.mast_ticked]

theorem Dev.now_of_clock {d e : Dev} (h : d.clock = e.clock) : d.now = e.now := congrArg Prod.snd h

/-- The label stands as the beat gave it where the serving mast has no Halyard step to apply (R308, R327). -/
theorem Dev.now_beat {d : Dev} (h : ∀ m, d.serving = some m → (d.mast m).hal.apply = none) :
    d.ticked.beatTimebase.beatWork.now = d.label := by
  refine Dev.now_of_clock (e := d.ticked) ?_
  rw [Dev.clock_beatWork, Dev.clock_beatTimebase (by simpa using h)]

theorem Dev.label_eq_nextLabel {d : Dev} (h : ∀ m, d.serving = some m → (d.tim m).setSec = none) :
    d.label = nextLabel d.now := by
  unfold Dev.label
  split
  · next m hm => simp [h m hm]
  · rfl

/-- R308: the seconds carry at 1,000,000,000 ns and wrap at 48 bits. -/
theorem stampNs_nextLabel {t : Stamp} (hns : t.ns < 1000000000) (hbeat : t.ns % 100 = 0) (hsec : t.sec < 2 ^ 48) :
    stampNs (nextLabel t) = (stampNs t + 100) % (2 ^ 48 * 1000000000) := by
  unfold nextLabel stampNs
  split <;> simp only <;> omega

/-! ## The watch boundary -/

/-- The boundary's first part: it is marked as taken, the watch that ends is recorded, and the accepted values take effect. -/
def Dev.watchLatch (d : Dev) : Dev :=
  let now := d.beat
  let d := { d with lastWatch := some now }
  let d := d.act (fun m => (((d.gatherFrame m).recordOn m).countersTel m).sendMirror m)
  ((((d.latchMast .fore).latchMast .main).channelsBack .fore).channelsBack .main).judgeProtect

/-- The boundary's second part: cores and budgets, the heater rail, the alive tiles, and the records of the new watch. -/
def Dev.watchWork (d : Dev) (vhtr : List Nat) (cond : List (Nat × Nat)) (limited : List Nat) : Dev :=
  let d := d.act (fun m => ((((d.when (d.mast m).pen.due (fun d => d.startCores m))).resetBudgets m).railWatch m).ramp m)
  let d := d.each d.aliveTiles (fun t d =>
    let mine := fun (c : Nat) => c / laneCount == t
    d.tileWatch t (vhtr.getD t (d.tile t).railMv)
      ((cond.filter (fun e => mine e.1)).map (fun e => (e.1 % laneCount, e.2))) ((limited.filter mine).map (· % laneCount)))
  d.act (fun m => ((((((d.railAfter m).capInterrupt m).setReadyAt m).calLatch m).lagOk m).cellReads m).watchTel m)

theorem exec_watchBoundary (v : List Nat) (c : List (Nat × Nat)) (l : List Nat) (s : State) :
    exec (.watchBoundary v c l) s = run s (fun d =>
      if d.stands || !d.watchEdge || d.lastWatch == some d.beat then d else d.watchLatch.watchWork v c l) := rfl

/-- The first watch boundary of a beat takes place. -/
theorem answers_watchBoundary_of_first {s : State} (v : List Nat) (c : List (Nat × Nat)) (l : List Nat)
    (hruns : s.dev.stands = false) (hedge : s.dev.watchEdge = true) (hfirst : s.dev.lastWatch ≠ some s.dev.beat) :
    Answers (.watchBoundary v c l) s (s.dev.watchLatch.watchWork v c l) :=
  answers_of_run (exec_watchBoundary v c l s) (by simp [hruns, hedge, hfirst])

theorem Dev.rest_watchLatch (d : Dev) : d.watchLatch.rest = ({ d with lastWatch := some d.beat } : Dev).rest := by
  simp only [Dev.watchLatch, Dev.rest_judgeProtect, Dev.rest_channelsBack, Dev.rest_latchMast]
  exact Dev.rest_act (fun m => by simp)

@[simp] theorem Dev.rest_watchWork (d : Dev) (v : List Nat) (c : List (Nat × Nat)) (l : List Nat) :
    (d.watchWork v c l).rest = d.rest := by simp [Dev.watchWork]

/-! ### With no holder and no tile alive, a watch boundary latches and no more (R491) -/

theorem Dev.holder_eq_none {d : Dev} : d.holder = none ↔ ∀ m, (d.mast m).pen.holder = false := by
  have hall : (∀ m, (d.mast m).pen.holder = false) ↔ d.fore.pen.holder = false ∧ d.main.pen.holder = false :=
    ⟨fun h => ⟨h .fore, h .main⟩, fun h m => by cases m <;> [exact h.1; exact h.2]⟩
  rw [hall, Dev.holder]
  cases d.fore.pen.holder <;> cases d.main.pen.holder <;> simp

theorem Dev.serving_of_no_holder {d : Dev} (h : d.holder = none) : d.serving = none := by simp [Dev.serving, h]

theorem Dev.judgeProtect_of_no_holder {d : Dev} (h : d.holder = none) : d.judgeProtect = d := by simp [Dev.judgeProtect, h]

theorem Dev.watchWork_of_idle {d : Dev} (h : d.holder = none) (hidle : d.aliveTiles = []) (v : List Nat) (c : List (Nat × Nat))
    (l : List Nat) : d.watchWork v c l = d := by
  simp [Dev.watchWork, Dev.act_of_none (Dev.serving_of_no_holder h), hidle, Dev.each]

/-- What latching reads and writes of a mast, with who holds the pennant and the tiles. -/
structure LatchView where
  holder : Bool
  regs : Tbl Reg64
  eff : Tbl Reg64
  tiles : Tbl Tile

def Dev.latchView (d : Dev) (k : MastId) : LatchView := ⟨(d.mast k).pen.holder, (d.mast k).regs, (d.mast k).eff, d.tiles⟩

/-- The view once the accepted register values are in force. -/
def LatchView.latched (v : LatchView) : LatchView := { v with eff := v.regs }

theorem Dev.latchView_onMast {f : Mast → Mast}
    (hf : ∀ x, (f x).pen.holder = x.pen.holder ∧ (f x).regs = x.regs ∧ (f x).eff = x.eff) (d : Dev) (m k : MastId) :
    (d.onMast m f).latchView k = d.latchView k := by
  cases m <;> cases k <;> simp [Dev.latchView, Dev.onMast, Dev.setMast, Dev.mast, hf]

@[simp] theorem Dev.latchView_dropCopy (d : Dev) (m k : MastId) (c : Nat) : (d.dropCopy m c).latchView k = d.latchView k := by
  simp [Dev.dropCopy, Dev.onGln, Dev.latchView_onMast]

@[simp] theorem Dev.latchView_channelsBack (d : Dev) (m k : MastId) : (d.channelsBack m).latchView k = d.latchView k := by
  unfold Dev.channelsBack
  rw [Dev.latchView_onMast (by simp)]
  generalize (d.mast m).mem.returning = l
  induction l generalizing d with
  | nil => rfl
  | cons c r ih => exact (ih (d.dropCopy m c)).trans (d.latchView_dropCopy m k c)

theorem Dev.holder_eq_none_of_latchView {d e : Dev} (h : ∀ k, d.latchView k = e.latchView k) (he : e.holder = none) :
    d.holder = none :=
  Dev.holder_eq_none.mpr fun k => (congrArg LatchView.holder (h k)).trans (Dev.holder_eq_none.mp he k)

/-- Where no mast serves, latching puts the accepted values in force and programs the counters. -/
theorem Dev.latchMast_of_no_holder {d : Dev} (h : d.holder = none) (m : MastId) :
    d.latchMast m = (d.onMast m Mast.latch).onEg m Egress.reprogram := by
  have hs : ((d.onMast m Mast.latch).onEg m Egress.reprogram).serving = none := by
    refine Dev.serving_of_no_holder (Dev.holder_eq_none.mpr fun k => ?_)
    have hk := Dev.holder_eq_none.mp h k
    cases m <;> cases k <;> exact hk
  simp [Dev.latchMast, hs]

theorem Dev.latchView_latchMast {d : Dev} (h : d.holder = none) (m k : MastId) :
    (d.latchMast m).latchView k = if k = m then (d.latchView k).latched else d.latchView k := by
  rw [Dev.latchMast_of_no_holder h, Dev.onEg, Dev.latchView_onMast (by simp)]
  cases m <;> cases k <;> rfl

theorem Dev.holder_latchMast_of_no_holder {d : Dev} (h : d.holder = none) (m : MastId) : (d.latchMast m).holder = none := by
  refine Dev.holder_eq_none.mpr fun k => ?_
  have hk : ((d.latchMast m).latchView k).holder = (d.latchView k).holder := by
    rw [Dev.latchView_latchMast h]
    split <;> rfl
  exact hk.trans (Dev.holder_eq_none.mp h k)

/-- With no holder the first part of a watch boundary latches both masts and no more. -/
theorem Dev.watchLatch_of_no_holder {d : Dev} (h : d.holder = none) :
    d.watchLatch.holder = none ∧ ∀ k, d.watchLatch.latchView k = (d.latchView k).latched := by
  have hmark : ({ d with lastWatch := some d.beat } : Dev).holder = none := h
  have hfore := Dev.holder_latchMast_of_no_holder hmark .fore
  have hmain := Dev.holder_latchMast_of_no_holder hfore .main
  have hback : ∀ e : Dev, e.holder = none → ((e.channelsBack .fore).channelsBack .main).judgeProtect =
      (e.channelsBack .fore).channelsBack .main := fun e he =>
    Dev.judgeProtect_of_no_holder (Dev.holder_eq_none_of_latchView (e := e) (by simp) he)
  have hlatch : d.watchLatch = (((({ d with lastWatch := some d.beat } : Dev).latchMast .fore).latchMast .main).channelsBack
      .fore).channelsBack .main := by
    rw [← hback _ hmain]
    simp only [Dev.watchLatch, Dev.act_of_none (Dev.serving_of_no_holder hmark)]
  rw [hlatch]
  refine ⟨Dev.holder_eq_none_of_latchView (by simp) hmain, fun k => ?_⟩
  rw [Dev.latchView_channelsBack, Dev.latchView_channelsBack, Dev.latchView_latchMast hfore, Dev.latchView_latchMast hmark]
  cases k <;> rfl

theorem Dev.aliveTiles_congr {d e : Dev} (h : d.tiles = e.tiles) : d.aliveTiles = e.aliveTiles := by
  simp [Dev.aliveTiles, Dev.tile, h]

/-- With no holder and no tile alive a watch boundary puts every accepted register value in force (R491). -/
theorem Dev.eff_watch_of_idle {d : Dev} (h : d.holder = none) (hidle : d.aliveTiles = []) (v : List Nat) (c : List (Nat × Nat))
    (l : List Nat) (k : MastId) : ((d.watchLatch.watchWork v c l).mast k).eff = (d.mast k).regs := by
  obtain ⟨hholder, hview⟩ := Dev.watchLatch_of_no_holder h
  have htiles : d.watchLatch.tiles = d.tiles := congrArg LatchView.tiles (hview k)
  rw [Dev.watchWork_of_idle hholder ((Dev.aliveTiles_congr htiles).trans hidle)]
  exact congrArg LatchView.eff (hview k)

/-! ## Register reads -/

theorem Dev.readReg_of_barUp {d : Dev} {m : MastId} {off : Nat} {i : RegInfo} (hup : d.barUp m = true)
    (hinfo : regInfo off = some i) (hoff : off ≠ 0x5010) (h : Half) :
    d.readReg m off h =
      let e := d.emit (.regRead m off (d.regValue m off &&& halfMask h))
      if i.rc = 0 then e else e.setReg m off (e.reg m off &&& ~~~ (i.rc &&& halfMask h)) := by
  simp [Dev.readReg, Dev.readRegAt, hup, hinfo, hoff]

/-- R329: a read of TIM_NOW_S latches the nanoseconds it is given, and no rc field is in it. -/
theorem Dev.readRegAt_timNowS {d : Dev} {m : MastId} (hup : d.barUp m = true) (ns : Nat) :
    d.readRegAt m 0x5010 .whole ns = (d.emit (.regRead m 0x5010 (d.regValue m 0x5010 &&& halfMask .whole))).onTim m
      (fun t => { t with latchNs := ns }) := by
  simp [Dev.readRegAt, hup, regInfo, Dev.onTim]

theorem Dev.regValue_of_regInfo {off : Nat} {i : RegInfo} (h : regInfo off = some i) (d : Dev) (m : MastId) :
    d.regValue m off = (d.reg m off &&& (i.rw ||| i.w1c ||| i.rc)) ||| (d.ro m off &&& i.ro) := by
  simp [Dev.regValue, h]

/-- Bits that neither of two masks takes are 0. -/
theorem masked_or_and_not {n : Nat} (x y a b : BitVec n) : ((x &&& a) ||| (y &&& b)) &&& ~~~ (a ||| b) = 0 := by
  ext j hj
  simp only [BitVec.getElem_and, BitVec.getElem_or, BitVec.getElem_not]
  cases a[j] <;> cases b[j] <;> simp

/-- Bits that the second mask alone takes come from the second word. -/
theorem masked_or_and_only {n : Nat} (x y a b : BitVec n) :
    ((x &&& a) ||| (y &&& b)) &&& (b &&& ~~~ a) = y &&& (b &&& ~~~ a) := by
  ext j hj
  simp only [BitVec.getElem_and, BitVec.getElem_or, BitVec.getElem_not]
  cases a[j] <;> simp

/-! ## The obligation -/

/-- Settles O54: the beat and the watch boundary leave the rest of the block alone, with no holder a watch boundary only
latches, and a register's value is put together from two masks. -/
theorem boundariesAndReadsComplete : Obligations.BoundariesAndReadsComplete := by
  refine ⟨fun s h => answers_beatBoundary_of_stands h, fun s h => ?_, fun d h => Dev.label_eq_nextLabel h,
    fun t hns hbeat => ?_, fun s v c l hruns hedge hfirst => ?_, fun s m off h i hup hinfo hoff => ?_,
    fun s m cycle hup => ?_, fun d m off i hinfo => ?_⟩
  · have hrest : s.dev.ticked.beatTimebase.beatWork.rest = s.dev.ticked.rest := by simp
    exact ⟨_, answers_beatBoundary_of_runs h, Dev.beat_of_rest hrest, Dev.parkSeen_of_rest hrest, Dev.now_beat⟩
  · by_cases hsec : 2 ^ 48 ≤ t.sec
    · exact .inr hsec
    · exact .inl (stampNs_nextLabel hns hbeat (by omega))
  · have hrest : (s.dev.watchLatch.watchWork v c l).rest = ({ s.dev with lastWatch := some s.dev.beat } : Dev).rest := by
      rw [Dev.rest_watchWork, Dev.rest_watchLatch]
    exact ⟨_, answers_watchBoundary_of_first v c l hruns hedge hfirst, Dev.lastWatch_of_rest hrest, fun hholder hidle =>
      ⟨Dev.eff_watch_of_idle hholder hidle v c l .fore, Dev.eff_watch_of_idle hholder hidle v c l .main⟩⟩
  · exact answers_of_run (f := fun d => d.readReg m off h) rfl (Dev.readReg_of_barUp hup hinfo hoff h)
  · refine ⟨_, answers_of_run (f := fun d => d.readRegAt m 0x5010 .whole (d.now.ns + (d.tim m).nsAt cycle)) rfl
      (Dev.readRegAt_timNowS hup _), ?_, ?_⟩
    · simp [Dev.onTim, Dev.emit]
    · simp [Dev.onTim]
  · rw [Dev.regValue_of_regInfo hinfo]
    exact ⟨masked_or_and_not _ _ _ _, masked_or_and_only _ _ _ _⟩

end Sys2Proof.Machine
end

section
/-! Proofs for the host interface registers (R70) and the poll that takes INTERVAL. -/

namespace Sys2Proof.Machine

/-! ## What leaves the host interface state alone

Counting, what leaves the block and host reads change no field of a mast's host interface state. -/

@[simp] theorem Mast.hif_addCtr (x : Mast) (c k : Nat) : (x.addCtr c k).hif = x.hif := rfl

theorem Mast.hif_foldl {α : Type} {f : Mast → α → Mast} (hf : ∀ x e, (f x e).hif = x.hif) (l : List α) (x : Mast) :
    (l.foldl f x).hif = x.hif := by
  induction l generalizing x with
  | nil => rfl
  | cons e r ih => exact (ih (f x e)).trans (hf x e)

theorem Dev.hif_onMast {f : Mast → Mast} (hf : ∀ x, (f x).hif = x.hif) (d : Dev) (m k : MastId) :
    (d.onMast m f).hif k = d.hif k := by
  cases m <;> cases k <;> simp [Dev.hif, Dev.onMast, Dev.setMast, Dev.mast, hf]

@[simp] theorem Dev.hif_onHif (d : Dev) (m : MastId) (f : Hif → Hif) : (d.onHif m f).hif m = f (d.hif m) := by
  simp [Dev.hif, Dev.onHif]

@[simp] theorem Dev.hif_emit (d : Dev) (o : Out) (k : MastId) : (d.emit o).hif k = d.hif k := by cases k <;> rfl

@[simp] theorem Dev.hif_pmc (d : Dev) (m : MastId) (ev : Nat) (insts : List Nat) (n : Nat) (k : MastId) :
    (d.pmc m ev insts n).hif k = d.hif k := by
  refine Dev.hif_onMast (fun x => Mast.hif_foldl (fun x e => ?_) _ x) d m k
  split
  · split
    · simp
    · split <;> simp
  · rfl

@[simp] theorem Dev.hif_moved (d : Dev) (m : MastId) (e out inn : Nat) (k : MastId) : (d.moved m e out inn).hif k = d.hif k :=
  Dev.hif_onMast (by simp) d m k

@[simp] theorem Dev.hif_hostIn (d : Dev) (m : MastId) (n : Nat) (k : MastId) : (d.hostIn m n).hif k = d.hif k := by
  simp [Dev.hostIn]

@[simp] theorem Dev.hif_readGroup (d : Dev) (m : MastId) (g : Nat) (k : MastId) : (d.readGroup m g).hif k = d.hif k := by
  simp [Dev.readGroup]

/-! ## A poll that is due -/

/-- A poll is taken: it is in progress, and INTERVAL as it stands gives the beat of the next one (R70). -/
def Dev.pollTaken (d : Dev) (m : MastId) : Dev :=
  d.onHif m (fun h => { h with
    polled := true, interval := d.regF m 0x1008 0 10, pollAt := d.beat + d.regF m 0x1008 0 10
    rings := h.rings.map (fun e => (e.1, e.2.map (fun r => { r with again := false }))) })

/-- The reads of a poll: the summary line and the doorbell words of a sweep group, with what they count (R76). -/
def Dev.pollReads (d : Dev) (m : MastId) (g : Nat) : Dev :=
  (((d.emit (.hostRead m 0 0 1 (d.sumAddr m))).hostIn m 64).readGroup m g).pmc m 0x013 [0] 1

theorem exec_poll (s : State) : exec .poll s = run s (fun d => d.act (fun m =>
    if !((d.hif m).running && d.hifEn m && !(d.hif m).polled && (d.hif m).pollAt ≤ d.beat) then d
    else (d.pollTaken m).pollReads m (d.hif m).sweep)) := rfl

theorem answers_poll_of_due {s : State} {m : MastId} (hserves : Serves s.dev m) (hrunning : (s.dev.hif m).running = true)
    (hen : s.dev.hifEn m = true) (hidle : (s.dev.hif m).polled = false) (hdue : (s.dev.hif m).pollAt ≤ s.dev.beat) :
    Answers .poll s ((s.dev.pollTaken m).pollReads m (s.dev.hif m).sweep) :=
  answers_of_run (exec_poll s) (by simp [Dev.act_of_serves hserves, hrunning, hen, hidle, hdue])

@[simp] theorem Dev.hif_pollReads (d : Dev) (m : MastId) (g : Nat) (k : MastId) : (d.pollReads m g).hif k = d.hif k := by
  simp [Dev.pollReads]

theorem Dev.interval_pollTaken (d : Dev) (m : MastId) : ((d.pollTaken m).hif m).interval = d.regF m 0x1008 0 10 := by
  simp [Dev.pollTaken]

theorem Dev.pollAt_pollTaken (d : Dev) (m : MastId) : ((d.pollTaken m).hif m).pollAt = d.beat + d.regF m 0x1008 0 10 := by
  simp [Dev.pollTaken]

/-! ## Writes of the host interface registers -/

theorem exec_hifAddrWrite (off : Nat) (w : RegWr) (s : State) : exec (.hifAddrWrite off w) s = run s (fun d =>
    if !inArr off 0x1010 8 4 then d
    else d.barWrite off w (fun m _ v d => if d.hifEn m then d.flag m 0x1030 33 else d.setReg m off v)) := rfl

theorem exec_hifPollWrite (w : RegWr) (s : State) : exec (.hifPollWrite w) s = run s (fun d =>
    d.barWrite 0x1008 w (fun m _ v d => if 1 ≤ fld v 0 10 && fld v 0 10 ≤ 1000 then d.setReg m 0x1008 v else d)) := rfl

/-- An address register takes an accepted write while EN is 0; while EN is 1 the write sets ADDR_REJ instead. -/
theorem answers_hifAddrWrite_of_writable {s : State} {off : Nat} {w : RegWr} {info : RegInfo}
    (haddr : inArr off 0x1010 8 4 = true) (hw : Writable s.dev off w info) :
    Answers (.hifAddrWrite off w) s (if s.dev.hifEn w.mast then s.dev.flag w.mast 0x1030 33
      else s.dev.setReg w.mast off (s.dev.written off w info)) :=
  answers_of_run (exec_hifAddrWrite off w s) (by simp [haddr, Dev.barWrite_of_writable hw])

/-- HIF_POLL takes an accepted write whose INTERVAL is in range, and no other. -/
theorem answers_hifPollWrite_of_writable {s : State} {w : RegWr} {info : RegInfo} (hw : Writable s.dev 0x1008 w info) :
    Answers (.hifPollWrite w) s
      (if 1 ≤ fld (s.dev.written 0x1008 w info) 0 10 ∧ fld (s.dev.written 0x1008 w info) 0 10 ≤ 1000
       then s.dev.setReg w.mast 0x1008 (s.dev.written 0x1008 w info) else s.dev) :=
  answers_of_run (exec_hifPollWrite w s) (by simp [Dev.barWrite_of_writable hw])

/-! ## The obligation -/

/-- Settles O6: accepted writes run the meaning of their register, and of a poll that is due only its start touches INTERVAL
and the beat of the next poll. -/
theorem hostInterfaceRegistersFollowR70 : Obligations.HostInterfaceRegistersFollowR70 := by
  refine ⟨fun s off w info haddr hw => answers_hifAddrWrite_of_writable haddr hw,
    fun s w info hw => answers_hifPollWrite_of_writable hw, fun s m hserves hrunning hen hidle hdue =>
      ⟨_, answers_poll_of_due hserves hrunning hen hidle hdue, ?_, ?_⟩⟩
  · rw [Dev.hif_pollReads, Dev.interval_pollTaken]
  · rw [Dev.hif_pollReads, Dev.pollAt_pollTaken]

end Sys2Proof.Machine
end

section
/-! Proofs for what the operations of a strike and of a change of mast leave alone: who holds the pennant, the epoch and the
map in force. -/

namespace Sys2Proof.Machine

/-! ## Views of a mast

What an update of one mast leaves of a mast, for any view of it that the update keeps. -/

theorem Dev.view_onMast {α : Type} {v : Mast → α} {f : Mast → Mast} (hf : ∀ x, v (f x) = v x) (d : Dev) (m k : MastId) :
    v ((d.onMast m f).mast k) = v (d.mast k) := by
  cases m <;> cases k <;> [exact hf _; rfl; rfl; exact hf _]

theorem Mast.view_foldl {α β : Type} {v : Mast → β} {f : Mast → α → Mast} (hf : ∀ x e, v (f x e) = v x) (l : List α)
    (x : Mast) : v (l.foldl f x) = v x := by
  induction l generalizing x with
  | nil => rfl
  | cons e r ih => exact (ih (f x e)).trans (hf x e)

theorem Dev.view_pmc {α : Type} {v : Mast → α} (hv : ∀ x e, v { x with eg := e } = v x) (d : Dev) (m : MastId) (ev : Nat)
    (insts : List Nat) (n : Nat) (k : MastId) : v ((d.pmc m ev insts n).mast k) = v (d.mast k) := by
  refine Dev.view_onMast (fun x => Mast.view_foldl (fun x e => ?_) _ x) d m k
  split
  · split
    · exact hv _ _
    · split
      · exact hv _ _
      · rfl
  · rfl

/-! ## The standing of a mast

A frame for every operation that a strike beat and a settlement run: what a mast holds of the pennant, its epoch and its
connection map. A lemma about an operation that takes a continuation asks the same of the continuation. -/

/-- What a mast holds of the pennant (R396, R400, R404). -/
structure Tenure where
  holder : Bool
  epoch : Nat
  claimAt : Option Nat
  stopped : Bool

/-- A mast's tenure, with the epoch and the connection map in force on it (R103). -/
structure Standing where
  tenure : Tenure
  epoch : Nat
  map : List (Nat × Nat)

def Pen.tenure (p : Pen) : Tenure := ⟨p.holder, p.epoch, p.claimAt, p.stopped⟩

def Mast.standing (x : Mast) : Standing := ⟨x.pen.tenure, x.fab.epoch, x.fab.map⟩

def Dev.standing (d : Dev) (k : MastId) : Standing := (d.mast k).standing

theorem Dev.standing_congr {d e : Dev} (hfore : d.fore = e.fore) (hmain : d.main = e.main) : d.standing = e.standing := by
  funext k
  cases k
  · exact congrArg Mast.standing hfore
  · exact congrArg Mast.standing hmain

theorem Dev.standing_onMast_of_standing {f : Mast → Mast} (hf : ∀ x, (f x).standing = x.standing) (d : Dev) (m : MastId) :
    (d.onMast m f).standing = d.standing := funext fun k => Dev.view_onMast hf d m k

@[simp] theorem Dev.standing_onMast {f : Mast → Mast} (hholder : ∀ x, (f x).pen.holder = x.pen.holder)
    (hpennant : ∀ x, (f x).pen.epoch = x.pen.epoch) (hclaim : ∀ x, (f x).pen.claimAt = x.pen.claimAt)
    (hstop : ∀ x, (f x).pen.stopped = x.pen.stopped) (hepoch : ∀ x, (f x).fab.epoch = x.fab.epoch)
    (hmap : ∀ x, (f x).fab.map = x.fab.map) (d : Dev) (m : MastId) : (d.onMast m f).standing = d.standing :=
  Dev.standing_onMast_of_standing
    (fun x => by simp [Mast.standing, Pen.tenure, hholder, hpennant, hclaim, hstop, hepoch, hmap]) d m

@[simp] theorem Dev.standing_onPen {f : Pen → Pen} (hholder : ∀ p, (f p).holder = p.holder)
    (hepoch : ∀ p, (f p).epoch = p.epoch) (hclaim : ∀ p, (f p).claimAt = p.claimAt) (hstop : ∀ p, (f p).stopped = p.stopped)
    (d : Dev) (m : MastId) : (d.onPen m f).standing = d.standing := by
  simp [Dev.onPen, hholder, hepoch, hclaim, hstop]

@[simp] theorem Dev.standing_onFab {f : Fab → Fab} (hepoch : ∀ x, (f x).epoch = x.epoch) (hmap : ∀ x, (f x).map = x.map)
    (d : Dev) (m : MastId) : (d.onFab m f).standing = d.standing := by simp [Dev.onFab, hepoch, hmap]

/-! ### Folds, tiles, outputs, free values, registers -/

@[simp] theorem Dev.standing_ite {p : Prop} [Decidable p] (a b : Dev) :
    (if p then a else b).standing = if p then a.standing else b.standing := apply_ite Dev.standing p a b

@[simp] theorem Dev.standing_foldl {α : Type} {f : Dev → α → Dev} (hf : ∀ d x, (f d x).standing = d.standing) (l : List α)
    (d : Dev) :
    (l.foldl f d).standing = d.standing := by
  induction l generalizing d with
  | nil => rfl
  | cons a r ih => exact (ih (f d a)).trans (hf d a)

@[simp] theorem Dev.standing_each {α : Type} {f : α → Dev → Dev} (hf : ∀ x d, (f x d).standing = d.standing) (l : List α)
    (d : Dev) :
    (d.each l f).standing = d.standing := Dev.standing_foldl (fun d x => hf x d) l d

@[simp] theorem Dev.standing_when {f : Dev → Dev} (hf : ∀ d, (f d).standing = d.standing) (d : Dev) (b : Bool) :
    (d.when b f).standing = d.standing := by simp [Dev.when, hf]

@[simp] theorem Dev.standing_setTile (d : Dev) (t : Nat) (x : Tile) : (d.setTile t x).standing = d.standing :=
  Dev.standing_congr rfl rfl

@[simp] theorem Dev.standing_onTile (d : Dev) (t : Nat) (f : Tile → Tile) :
    (d.onTile t f).standing = d.standing := by simp [Dev.onTile]

@[simp] theorem Dev.standing_onTiles (d : Dev) (ts : List Nat) (f : Nat → Tile → Tile) :
    (d.onTiles ts f).standing = d.standing := by simp [Dev.onTiles]

@[simp] theorem Dev.standing_onCell (d : Dev) (c : Nat) (f : Cell → Cell) :
    (d.onCell c f).standing = d.standing := by simp [Dev.onCell]

@[simp] theorem Dev.standing_emit (d : Dev) (o : Out) : (d.emit o).standing = d.standing := Dev.standing_congr rfl rfl

@[simp] theorem Dev.standing_drawNat {d : Dev} {k : Nat → Dev → Dev} (hk : ∀ x d, (k x d).standing = d.standing) :
    (d.drawNat k).standing = d.standing := (hk _ _).trans (Dev.standing_congr rfl rfl)

@[simp] theorem Dev.standing_drawBool {d : Dev} {k : Bool → Dev → Dev} (hk : ∀ x d, (k x d).standing = d.standing) :
    (d.drawBool k).standing = d.standing := (hk _ _).trans (Dev.standing_congr rfl rfl)

@[simp] theorem Dev.standing_setReg (d : Dev) (m : MastId) (off : Nat) (v : Reg64) :
    (d.setReg m off v).standing = d.standing := by simp [Dev.setReg]

@[simp] theorem Dev.standing_setRegF (d : Dev) (m : MastId) (off lo w v : Nat) :
    (d.setRegF m off lo w v).standing = d.standing := by simp [Dev.setRegF]

@[simp] theorem Dev.standing_flag (d : Dev) (m : MastId) (off b : Nat) :
    (d.flag m off b).standing = d.standing := by simp [Dev.flag]

@[simp] theorem Dev.standing_count (d : Dev) (m : MastId) (off lo w k : Nat) :
    (d.count m off lo w k).standing = d.standing := by simp [Dev.count]

/-! ### Counters and parts of a mast -/

@[simp] theorem Dev.standing_pmc (d : Dev) (m : MastId) (ev : Nat) (insts : List Nat) (k : Nat) :
    (d.pmc m ev insts k).standing = d.standing :=
  funext fun j => Dev.view_pmc (v := Mast.standing) (fun _ _ => rfl) d m ev insts k j

@[simp] theorem Dev.standing_moved (d : Dev) (m : MastId) (e out inn : Nat) :
    (d.moved m e out inn).standing = d.standing := by simp [Dev.moved]

@[simp] theorem Dev.standing_hostIn (d : Dev) (m : MastId) (n : Nat) :
    (d.hostIn m n).standing = d.standing := by simp [Dev.hostIn]

@[simp] theorem Dev.standing_hostOut (d : Dev) (m : MastId) (n : Nat) :
    (d.hostOut m n).standing = d.standing := by simp [Dev.hostOut]

@[simp] theorem Dev.standing_staySlot (d : Dev) (m : MastId) (t : Nat) (up : Bool) :
    (d.staySlot m t up).standing = d.standing := by simp [Dev.staySlot]

@[simp] theorem Dev.standing_onHif (d : Dev) (m : MastId) (f : Hif → Hif) :
    (d.onHif m f).standing = d.standing := by simp [Dev.onHif]

@[simp] theorem Dev.standing_onFlt (d : Dev) (m : MastId) (f : Flt → Flt) :
    (d.onFlt m f).standing = d.standing := by simp [Dev.onFlt]

@[simp] theorem Dev.standing_onEg (d : Dev) (m : MastId) (f : Egress → Egress) :
    (d.onEg m f).standing = d.standing := by simp [Dev.onEg]

@[simp] theorem Dev.standing_onGln (d : Dev) (m : MastId) (f : Glean → Glean) :
    (d.onGln m f).standing = d.standing := by simp [Dev.onGln]

@[simp] theorem Dev.standing_onBoot (d : Dev) (m : MastId) (f : Boot → Boot) :
    (d.onBoot m f).standing = d.standing := by simp [Dev.onBoot]

@[simp] theorem Dev.standing_onCal (d : Dev) (m : MastId) (f : CalSt → CalSt) :
    (d.onCal m f).standing = d.standing := by simp [Dev.onCal]

@[simp] theorem Dev.standing_onPass (d : Dev) (m : MastId) (f : Pass → Pass) :
    (d.onPass m f).standing = d.standing := by simp [Dev.onPass]

@[simp] theorem Dev.standing_onKern (d : Dev) (m : MastId) (f : Kern → Kern) :
    (d.onKern m f).standing = d.standing := by simp [Dev.onKern]

/-! ### Rings, records, slots -/

@[simp] theorem Dev.standing_msix (d : Dev) (m : MastId) (v : Nat) : (d.msix m v).standing = d.standing := by simp [Dev.msix]

@[simp] theorem Dev.standing_setRing (d : Dev) (m : MastId) (i : Nat) (r : Option Ring) :
    (d.setRing m i r).standing = d.standing := by simp [Dev.setRing]

@[simp] theorem Dev.standing_onRing (d : Dev) (m : MastId) (i : Nat) (f : Ring → Ring) :
    (d.onRing m i f).standing = d.standing := by
  unfold Dev.onRing
  split <;> simp

@[simp] theorem Dev.standing_setCtx (d : Dev) (m : MastId) (k : Nat) (c : Option Ctx) :
    (d.setCtx m k c).standing = d.standing := by simp [Dev.setCtx]

@[simp] theorem Dev.standing_onDesc (d : Dev) (m : MastId) (ring seq : Nat) (f : Desc → Desc) :
    (d.onDesc m ring seq f).standing = d.standing := by simp [Dev.onDesc]

@[simp] theorem Dev.standing_pushJournal (d : Dev) (m : MastId) (j : JEv) :
    (d.pushJournal m j).standing = d.standing := by simp [Dev.pushJournal]

@[simp] theorem Dev.standing_signalRing (d : Dev) (m : MastId) (i : Nat) : (d.signalRing m i).standing = d.standing := by
  unfold Dev.signalRing
  split <;> simp

@[simp] theorem Dev.standing_putRecord (d : Dev) (m : MastId) (i : Nat) (g : Ring) (r : Record) (irq : Bool) :
    (d.putRecord m i g r irq).standing = d.standing := by simp [Dev.putRecord]

@[simp] theorem Dev.standing_toBacklog (d : Dev) (m : MastId) (b : BackRec) :
    (d.toBacklog m b).standing = d.standing := by simp [Dev.toBacklog]

@[simp] theorem Dev.standing_deliver (d : Dev) (m : MastId) (i ctx : Nat) (r : Record) (irq back : Bool) :
    (d.deliver m i ctx r irq back).standing = d.standing := by
  unfold Dev.deliver
  split <;> simp

@[simp] theorem Dev.standing_retire (d : Dev) (m : MastId) (x : Desc) (sent : Bool) :
    (d.retire m x sent).standing = d.standing := by simp [Dev.retire]

@[simp] theorem Dev.standing_onSlots (d : Dev) (m : MastId) (x : Desc) (f : List Nat → List Nat) :
    (d.onSlots m x f).standing = d.standing := by simp [Dev.onSlots]

@[simp] theorem Dev.standing_giveSlot (d : Dev) (m : MastId) (x : Desc) (ref kind len ep : Nat) (crcBad trunc inc : Bool)
    (p : Payload) :
    (d.giveSlot m x ref kind len ep crcBad trunc inc p).standing = d.standing := by simp [Dev.giveSlot]

@[simp] theorem Dev.standing_holdSlot (d : Dev) (m : MastId) (x : Desc) (ref : Nat) :
    (d.holdSlot m x ref).standing = d.standing := by simp [Dev.holdSlot]

@[simp] theorem Dev.standing_unhold (d : Dev) (m : MastId) (x : Desc) (ref : Nat) :
    (d.unhold m x ref).standing = d.standing := by simp [Dev.unhold]

@[simp] theorem Dev.standing_settleHold (d : Dev) (m : MastId) (x : Desc) (ref owner : Nat) (err : Bool) :
    (d.settleHold m x ref owner err).standing = d.standing := by simp [Dev.settleHold]

@[simp] theorem Dev.standing_returnSlots (d : Dev) (m : MastId) (x : Desc) : (d.returnSlots m x).standing = d.standing := by
  unfold Dev.returnSlots
  split <;> simp

@[simp] theorem Dev.standing_returnIn (d : Dev) (m : MastId) (x : Desc) (s : SlotIn) (crcBad : Bool) :
    (d.returnIn m x s crcBad).standing = d.standing := by simp [Dev.returnIn]

@[simp] theorem Dev.standing_completeAt (d : Dev) (m : MastId) (x : Desc) (st : Status) (ep : Nat) (tm : Option Stamp)
    (always : Bool) :
    (d.completeAt m x st ep tm always).standing = d.standing := by simp [Dev.completeAt]

@[simp] theorem Dev.standing_complete (d : Dev) (m : MastId) (x : Desc) (st : Status) :
    (d.complete m x st).standing = d.standing := by simp [Dev.complete]

@[simp] theorem Dev.standing_need {d : Dev} {m : MastId} {x : Desc} {b : Nat} {k : Dev → Dev} (hk : ∀ d,
    (k d).standing = d.standing) :
    (d.need m x b k).standing = d.standing := by simp [Dev.need, hk]

@[simp] theorem Dev.standing_queueScan (d : Dev) (m : MastId) (master qos len : Nat) :
    (d.queueScan m master qos len).standing = d.standing :=
  Dev.standing_onMast_of_standing (fun x => by split <;> rfl) d m

/-! ### Command lanes and telemetry -/

@[simp] theorem Dev.standing_onStay (d : Dev) (m : MastId) (t : Nat) (f : Stay → Stay) :
    (d.onStay m t f).standing = d.standing := by simp [Dev.onStay]

@[simp] theorem Dev.standing_unlane (d : Dev) (m : MastId) (t : Nat) (p : LaneFrame → Bool) :
    (d.unlane m t p).standing = d.standing := by simp [Dev.unlane]

@[simp] theorem Dev.standing_leave (d : Dev) (m : MastId) (t : Nat) (f : LaneFrame) :
    (d.leave m t f).standing = d.standing := by simp [Dev.leave]

@[simp] theorem Dev.standing_pump (d : Dev) (m : MastId) (t n : Nat) : (Dev.pump m t n d).standing = d.standing := by
  induction n generalizing d with
  | zero => rfl
  | succ n ih =>
    unfold Dev.pump
    split
    · rfl
    · split
      · simp [ih]
      · rfl

@[simp] theorem Dev.standing_command (d : Dev) (m : MastId) (t cls : Nat) (words : List Nat) (writes : List
    (Nat × Tgt × Bool)) :
    (d.command m t cls words writes).standing = d.standing := by simp [Dev.command]

@[simp] theorem Dev.standing_writes (d : Dev) (m : MastId) (ws : List (Nat × Tgt × Bool)) :
    (d.writes m ws).standing = d.standing := by simp [Dev.writes]

@[simp] theorem Dev.standing_setStream (d : Dev) (m : MastId) (s : Nat) (x : Option Stream) :
    (d.setStream m s x).standing = d.standing := by simp [Dev.setStream]

@[simp] theorem Dev.standing_queueTel (d : Dev) (m : MastId) (s : Nat) (r : TelRec) :
    (d.queueTel m s r).standing = d.standing := by
  unfold Dev.queueTel
  split <;> simp

@[simp] theorem Dev.standing_tel (d : Dev) (m : MastId) (sel : Nat) (r : TelRec) : (d.tel m sel r).standing = d.standing := by
  unfold Dev.tel
  exact Dev.standing_foldl (fun _ _ => by split <;> simp) _ _

@[simp] theorem Dev.standing_gleanEvent (d : Dev) (m : MastId) (c : Cause) (beat : Nat) (t : Stamp) (cell : Option Nat)
    (hal : Nat) :
    (d.gleanEvent m c beat t cell hal).standing = d.standing := by simp [Dev.gleanEvent]

/-! ### Sheafs -/

@[simp] theorem Dev.standing_onSheaf (d : Dev) (m : MastId) (k : SKey) (f : Sheaf → Sheaf) :
    (d.onSheaf m k f).standing = d.standing := by simp [Dev.onSheaf]

@[simp] theorem Dev.standing_dropSheaf (d : Dev) (m : MastId) (k : SKey) : (d.dropSheaf m k).standing = d.standing := by
  unfold Dev.dropSheaf
  apply Dev.standing_onFab <;> exact fun _ => rfl

@[simp] theorem Dev.standing_restage (d : Dev) (m : MastId) : (d.restage m).standing = d.standing := by simp [Dev.restage]

@[simp] theorem Dev.standing_disarm (d : Dev) (m : MastId) (w : SheafWork) :
    (d.disarm m w).standing = d.standing := by simp [Dev.disarm]

@[simp] theorem Dev.standing_abortSheaf (d : Dev) (m : MastId) (k : SKey) (st : Status) :
    (d.abortSheaf m k st).standing = d.standing := by
  simp only [Dev.abortSheaf]
  split
  · rfl
  · split
    · simp
    · split <;> simp

@[simp] theorem Dev.standing_abortWhere (d : Dev) (m : MastId) (p : Sheaf → Bool) (st : Status) :
    (d.abortWhere m p st).standing = d.standing := by simp [Dev.abortWhere]

/-! ### Faults, fences, passes of calibration -/

@[simp] theorem Dev.standing_withdraw (d : Dev) (m : MastId) (u : FUnit) :
    (d.withdraw m u).standing = d.standing := by simp [Dev.withdraw]

@[simp] theorem Dev.standing_log (d : Dev) (m : MastId) (source sev kind unit : Nat) (ep : Nat) (t : Stamp)
    (info : BitVec 32) :
    (d.log m source sev kind unit ep t info).standing = d.standing := by simp [Dev.log]

@[simp] theorem Dev.standing_logUnit (d : Dev) (m : MastId) (source kind : Nat) (u : FUnit) (flags : Nat) :
    (d.logUnit m source kind u flags).standing = d.standing := by simp [Dev.logUnit]

@[simp] theorem Dev.standing_faultIrq (d : Dev) (m : MastId) (sev : Nat) : (d.faultIrq m sev).standing = d.standing := by
  unfold Dev.faultIrq
  split
  · split <;> simp
  · rfl

@[simp] theorem Dev.standing_logFault (d : Dev) (m : MastId) (source sev unit : Nat) (detail : BitVec 32) :
    (d.logFault m source sev unit detail).standing = d.standing := by simp [Dev.logFault]

@[simp] theorem Dev.standing_undo (d : Dev) (m : MastId) (x : Sheaf) :
    (d.undo m x).standing = d.standing := by simp [Dev.undo]

@[simp] theorem Dev.standing_placeHeal (d : Dev) (m : MastId) (source : Nat) (unit : FUnit) :
    (d.placeHeal m source unit).standing = d.standing := by
  simp only [Dev.placeHeal]
  rw [Dev.standing_onFab (fun f => by split <;> rfl) (fun f => by split <;> rfl)]
  exact Dev.standing_each (fun _ _ => Dev.standing_undo _ _ _) _ _

@[simp] theorem Dev.standing_staleShadow (d : Dev) (m : MastId) :
    (d.staleShadow m).standing = d.standing := by simp [Dev.staleShadow]

@[simp] theorem Dev.standing_healFor (d : Dev) (m : MastId) (u : FUnit) (source : Nat) :
    (d.healFor m u source).standing = d.standing := by simp [Dev.healFor]

@[simp] theorem Dev.standing_writeBack (d : Dev) (m : MastId) (cells : List Nat) :
    (d.writeBack m cells).standing = d.standing := by simp [Dev.writeBack]

@[simp] theorem Dev.standing_roundEnd (d : Dev) (m : MastId) (cells : List PassCell) :
    (d.roundEnd m cells).standing = d.standing := by
  simp only [Dev.roundEnd, Dev.standing_writeBack]
  exact Dev.standing_each (fun _ _ => by split <;> simp) _ _

@[simp] theorem Dev.standing_shutRounds (d : Dev) (m : MastId) : (d.shutRounds m).standing = d.standing := by
  unfold Dev.shutRounds
  split <;> simp

@[simp] theorem Dev.standing_leaveRound (d : Dev) (m : MastId) (p : Pass) (gone : PassCell → Bool) :
    (d.leaveRound m p gone).standing = d.standing := by simp [Dev.leaveRound]

@[simp] theorem Dev.standing_interrupt (d : Dev) (m : MastId) (hit waiting : PassCell → Bool) :
    (d.interrupt m hit waiting).standing = d.standing := by
  unfold Dev.interrupt
  split <;> simp

@[simp] theorem Dev.standing_skipFenced (d : Dev) (m : MastId) (u : FUnit) : (d.skipFenced m u).standing = d.standing := by
  unfold Dev.skipFenced
  split <;> simp

@[simp] theorem Dev.standing_keepHeld (d : Dev) (m : MastId) (r : Nat) :
    (d.keepHeld m r).standing = d.standing := by simp [Dev.keepHeld]

@[simp] theorem Dev.standing_dropCopy (d : Dev) (m : MastId) (channel : Nat) :
    (d.dropCopy m channel).standing = d.standing := by simp [Dev.dropCopy]

@[simp] theorem Dev.standing_fenceHbm (d : Dev) (m : MastId) (channel : Nat) :
    (d.fenceHbm m channel).standing = d.standing := by simp [Dev.fenceHbm]

@[simp] theorem Dev.standing_fenceEffect (d : Dev) (m : MastId) (u : FUnit) (source : Nat) :
    (d.fenceEffect m u source).standing = d.standing := by
  unfold Dev.fenceEffect
  split <;> simp

@[simp] theorem Dev.standing_fence (d : Dev) (m : MastId) (u : FUnit) (source : Nat) :
    (d.fence m u source).standing = d.standing := by simp [Dev.fence]

@[simp] theorem Dev.standing_lasting (d : Dev) (m : MastId) (u : FUnit) (flags : Nat) :
    (d.lasting m u flags).standing = d.standing := by simp [Dev.lasting]

@[simp] theorem Dev.standing_classify (d : Dev) (m : MastId) (u : FUnit) :
    (d.classify m u).standing = d.standing := by simp [Dev.classify]

@[simp] theorem Dev.standing_report (d : Dev) (m : MastId) (source sev unit : Nat) (detail : BitVec 32)
    (fence : Option FUnit) :
    (d.report m source sev unit detail fence).standing = d.standing := by
  unfold Dev.report
  split <;> simp

@[simp] theorem Dev.standing_pcieErr (d : Dev) (m : MastId) (kind index : Nat) :
    (d.pcieErr m kind index).standing = d.standing := by simp [Dev.pcieErr]

/-! ### Payload slots -/

@[simp] theorem Dev.standing_slotOut {d : Dev} {m : MastId} {x : Desc} {s : SlotOut} {fail : Status → Dev → Dev}
    {k : Dev → Dev}
    (hfail : ∀ x d, (fail x d).standing = d.standing) (hk : ∀ d, (k d).standing = d.standing) :
    (d.slotOut m x s fail k).standing = d.standing := by
  unfold Dev.slotOut
  split
  · exact hfail _ _
  · split
    · simp [hfail]
    · split <;> simp [hfail, hk]

@[simp] theorem Dev.standing_slotHold {d : Dev} {m : MastId} {x : Desc} {s : SlotIn} {fail : Status → Dev → Dev}
    {k : Dev → Dev}
    (hfail : ∀ x d, (fail x d).standing = d.standing) (hk : ∀ d, (k d).standing = d.standing) :
    (d.slotHold m x s fail k).standing = d.standing := by simp [Dev.slotHold, hfail, hk]

@[simp] theorem Dev.standing_slotCheck {d : Dev} {m : MastId} {x : Desc} {s : SlotIn} {fail : Status → Dev → Dev}
    {k : Dev → Dev}
    (hfail : ∀ x d, (fail x d).standing = d.standing) (hk : ∀ d, (k d).standing = d.standing) :
    (d.slotCheck m x s fail k).standing = d.standing := by simp [Dev.slotCheck, hfail, hk]

@[simp] theorem Dev.standing_slotIn {d : Dev} {m : MastId} {x : Desc} {s : SlotIn} {fail : Status → Dev → Dev} {k : Dev → Dev}
    (hfail : ∀ x d, (fail x d).standing = d.standing) (hk : ∀ d, (k d).standing = d.standing) :
    (d.slotIn m x s fail k).standing = d.standing := by simp [Dev.slotIn, hfail, hk]

/-! ### Commands that last -/

@[simp] theorem Dev.standing_deliverHeld (d : Dev) (m : MastId) (j : Nat) : (d.deliverHeld m j).standing = d.standing := by
  simp only [Dev.deliverHeld]
  exact (Dev.standing_each (fun _ _ => by split <;> simp) _ _).trans (by simp)

@[simp] theorem Dev.standing_deliverTo (d : Dev) (m : MastId) (i : Nat) (e : RingEntry) :
    (d.deliverTo m i e).standing = d.standing := by simp [Dev.deliverTo]

@[simp] theorem Dev.standing_register (d : Dev) (m : MastId) (i : Nat) (e : RingEntry) :
    (d.register m i e).standing = d.standing := by simp [Dev.register]

@[simp] theorem Dev.standing_openCtx (d : Dev) (m : MastId) (k : Nat) (e : CtxEntry) :
    (d.openCtx m k e).standing = d.standing := by simp [Dev.openCtx]

@[simp] theorem Dev.standing_ctxOpenBody (d : Dev) (index : Nat) (ent : Option CtxEntry) (m : MastId) (x : Desc) :
    (d.ctxOpenBody index ent m x).standing = d.standing := by
  unfold Dev.ctxOpenBody
  split <;> simp

@[simp] theorem Dev.standing_closeSheafs (d : Dev) (m : MastId) (k : Nat) (p : Sheaf → Bool) :
    (d.closeSheafs m k p).standing = d.standing := by simp [Dev.closeSheafs]

@[simp] theorem Dev.standing_waitOn (d : Dev) (m : MastId) (x : Desc) (w : Wait) :
    (d.waitOn m x w).standing = d.standing := by simp [Dev.waitOn]

@[simp] theorem Dev.standing_ctxRebindBody (d : Dev) (index : Nat) (m : MastId) (x : Desc) :
    (d.ctxRebindBody index m x).standing = d.standing := by
  unfold Dev.ctxRebindBody
  exact Dev.standing_need fun _ => by split <;> simp

@[simp] theorem Dev.standing_stopRings (d : Dev) (m : MastId) (k : Nat) (atOnce : Bool) :
    (d.stopRings m k atOnce).standing = d.standing := by simp [Dev.stopRings]

@[simp] theorem Dev.standing_ctxCloseBody (d : Dev) (index : Nat) (dbs : List Doorbell) (m : MastId) (x : Desc) :
    (d.ctxCloseBody index dbs m x).standing = d.standing := by simp [Dev.ctxCloseBody]

@[simp] theorem Dev.standing_ctxCloseForceBody (d : Dev) (index : Nat) (m : MastId) (x : Desc) :
    (d.ctxCloseForceBody index m x).standing = d.standing := by simp [Dev.ctxCloseForceBody]

@[simp] theorem Dev.standing_closeStream (d : Dev) (m : MastId) (s : Nat) (owner : Option (Nat × Nat)) :
    (d.closeStream m s owner).standing = d.standing := by
  unfold Dev.closeStream
  split <;> simp

@[simp] theorem Dev.standing_ringRegBody (d : Dev) (index : Nat) (ent : Option RingEntry) (m : MastId) (x : Desc) :
    (d.ringRegBody index ent m x).standing = d.standing := by
  unfold Dev.ringRegBody
  split <;> simp

@[simp] theorem Dev.standing_ringUnregBody (d : Dev) (index : Nat) (force : Bool) (m : MastId) (x : Desc) :
    (d.ringUnregBody index force m x).standing = d.standing := by
  unfold Dev.ringUnregBody
  exact Dev.standing_need fun _ => by split <;> simp

@[simp] theorem Dev.standing_mirrorKern (d : Dev) (m : MastId) : (d.mirrorKern m).standing = d.standing := by
  unfold Dev.mirrorKern
  split
  · exact Dev.standing_onMast_of_standing (fun x => by unfold Mast.takeKern; split <;> rfl) _ _
  · rfl

@[simp] theorem Dev.standing_kernelStored (d : Dev) (m : MastId) (x : Desc) : (d.kernelStored m x).standing = d.standing := by
  unfold Dev.kernelStored
  split <;> simp

@[simp] theorem Dev.standing_kernelBind (d : Dev) (tile handle : Nat) (m : MastId) (x : Desc) :
    (d.kernelBind tile handle m x).standing = d.standing := by simp [Dev.kernelBind]

@[simp] theorem Dev.standing_kernelDrop (d : Dev) (handle : Nat) (m : MastId) (x : Desc) :
    (d.kernelDrop handle m x).standing = d.standing := by simp [Dev.kernelDrop]

@[simp] theorem Dev.standing_topoSwap (d : Dev) (slot : SlotIn) (m : MastId) (x : Desc) :
    (d.topoSwap slot m x).standing = d.standing := by
  unfold Dev.topoSwap
  refine Dev.standing_need fun _ => Dev.standing_slotIn (fun _ _ => by simp) fun _ => ?_
  simp only
  split
  · simp
  · split
    · simp
    · split <;> simp

@[simp] theorem Dev.standing_streamOpenBody (d : Dev) (stream : Nat) (slot : SlotIn) (m : MastId) (x : Desc) :
    (d.streamOpenBody stream slot m x).standing = d.standing := by
  unfold Dev.streamOpenBody
  exact Dev.standing_need fun _ => by simp

@[simp] theorem Dev.standing_streamCloseBody (d : Dev) (stream : Nat) (m : MastId) (x : Desc) :
    (d.streamCloseBody stream m x).standing = d.standing := by
  unfold Dev.streamCloseBody
  refine Dev.standing_need fun d => ?_
  cases d.stream m stream <;> simp

@[simp] theorem Dev.standing_shapeSetBody (d : Dev) (kind index rate burst weight : Nat) (m : MastId) (x : Desc) :
    (d.shapeSetBody kind index rate burst weight m x).standing = d.standing := by
  unfold Dev.shapeSetBody
  refine Dev.standing_need fun _ => ?_
  split <;> split <;> simp

@[simp] theorem Dev.standing_burnt (d : Dev) (m : MastId) (x : Desc) (i : Burn) :
    (d.burnt m x i).standing = d.standing := by simp [Dev.burnt]

@[simp] theorem Dev.standing_mirrorTables (d : Dev) (m : MastId) :
    (d.mirrorTables m).standing = d.standing := by simp [Dev.mirrorTables]

@[simp] theorem Dev.standing_lastingEffect (d : Dev) (m : MastId) (x : Desc) (i : Instr) :
    (d.lastingEffect m x i).standing = d.standing := by
  unfold Dev.lastingEffect
  split <;> simp

@[simp] theorem Dev.standing_undefer (d : Dev) (m : MastId) (ring seq : Nat) :
    (d.undefer m ring seq).standing = d.standing := by
  unfold Dev.undefer
  split
  · rfl
  · split
    · split <;> simp
    · simp

@[simp] theorem Dev.standing_judgeProtect (d : Dev) : d.judgeProtect.standing = d.standing := by
  unfold Dev.judgeProtect
  split <;> simp

/-! ### A settlement -/

@[simp] theorem Dev.standing_healStruck (d : Dev) (m : MastId) (e : Nat) (now : Stamp) :
    (d.healStruck m e now).standing = d.standing := by simp [Dev.healStruck]

@[simp] theorem Dev.standing_missedTwice (d : Dev) (m : MastId) (t tsid : Nat) :
    (d.missedTwice m t tsid).standing = d.standing := by simp [Dev.missedTwice]

@[simp] theorem Dev.standing_armRecord (d : Dev) (sb : MastId) (a : Arm) (st : Status) (ep : Nat) (tm : Option Stamp) :
    (d.armRecord sb a st ep tm).standing = d.standing := by
  unfold Dev.armRecord
  split
  · rfl
  · split
    · simp
    · split
      · rfl
      · split <;> simp

@[simp] theorem Dev.standing_endPass (d : Dev) (sb : MastId) : (d.endPass sb).standing = d.standing := by
  unfold Dev.endPass
  split <;> simp

@[simp] theorem Dev.standing_staleRings (d : Dev) (sb : MastId) : (d.staleRings sb).standing = d.standing := by
  simp only [Dev.staleRings, Dev.standing_flag]
  exact (Dev.standing_each (fun _ _ => by split <;> simp) _ _).trans (by simp)

@[simp] theorem Dev.standing_rewrite (d : Dev) (sb : MastId) : (d.rewrite sb).standing = d.standing := by
  simp only [Dev.rewrite]
  refine Dev.standing_each (fun _ _ => ?_) _ _
  split
  · split <;> simp
  · rfl

@[simp] theorem Dev.standing_setUnit (d : Dev) (m : MastId) (u : Nat) (x : Unit_) :
    (d.setUnit m u x).standing = d.standing := by simp [Dev.setUnit]

@[simp] theorem Dev.standing_returnCap (d : Dev) (m : MastId) (unit : Nat) (u : Unit_) (inc : Bool) :
    (d.returnCap m unit u inc).standing = d.standing := by
  unfold Dev.returnCap
  split <;> simp

@[simp] theorem Dev.standing_endCapture (d : Dev) (m : MastId) (unit : Nat) (st : Status) (inc : Bool) :
    (d.endCapture m unit st inc).standing = d.standing := by
  unfold Dev.endCapture
  split
  · rfl
  · next u _ =>
    have hslots : (d.each (List.range (u.slots.length - u.slotIx)) (fun _ d => match d.unit m unit with
        | some v => d.returnCap m unit v inc
        | none => d)).standing = d.standing := Dev.standing_each (fun _ _ => by split <;> simp) _ _
    simp only
    split <;> split
    · exact (Dev.standing_setUnit _ _ _ _).trans ((Dev.standing_completeAt _ _ _ _ _ _ _).trans hslots)
    · exact (Dev.standing_setUnit _ _ _ _).trans hslots
    · exact (Dev.standing_completeAt _ _ _ _ _ _ _).trans hslots
    · exact hslots

@[simp] theorem Dev.standing_finishLasting (d : Dev) (sb : MastId) (x : Desc) :
    (d.finishLasting sb x).standing = d.standing := by
  simp only [Dev.finishLasting, Dev.standing_complete]
  split
  · split <;> simp
  all_goals simp

@[simp] theorem Dev.standing_dropJobs (d : Dev) (m : MastId) (ring seq : Nat) :
    (d.dropJobs m ring seq).standing = d.standing := by simp [Dev.dropJobs]

@[simp] theorem Dev.standing_giveBack (d : Dev) (m : MastId) (x : Desc) : (d.giveBack m x).standing = d.standing := by
  simp [Dev.giveBack]

@[simp] theorem Dev.standing_reconcile (d : Dev) (sb : MastId) (x : Desc) : (d.reconcile sb x).standing = d.standing := by
  unfold Dev.reconcile
  simp only
  split
  · split <;> simp
  · simp

@[simp] theorem Dev.standing_freshTests (d : Dev) (sb : MastId) : (d.freshTests sb).standing = d.standing := by
  simp [Dev.freshTests]

@[simp] theorem Dev.standing_reopenStreams (d : Dev) (sb : MastId) : (d.reopenStreams sb).standing = d.standing := by
  simp [Dev.reopenStreams]

@[simp] theorem Dev.standing_startLoops (d : Dev) : d.startLoops.standing = d.standing := by simp [Dev.startLoops]

end Sys2Proof.Machine
end

section
/-! Proofs for strikes: what one leaves of the sequencer's state (R103, R104, R140), the commands around it, and EPOCH_NOW. -/

namespace Sys2Proof.Machine

/-! ## Maps and the ports they change -/

/-- R104: the circuits that one map has and the other has not. -/
theorem mem_mapDiff {a b : List (Nat × Nat)} {c : Nat × Nat} : c ∈ mapDiff a b ↔ c ∈ a ∧ c ∉ b := by
  simp [mapDiff]

/-- A value written at every key of a list is read at each of them, and nothing else changes. -/
theorem tget_foldl_tset {α : Type} [DecidableEq α] (d v : α) (ks : List Nat) (t : Tbl α) (k : Nat) :
    tget d (ks.foldl (fun t j => tset d t j v) t) k = if k ∈ ks then v else tget d t k := by
  induction ks generalizing t with
  | nil => rfl
  | cons j r ih =>
    rw [List.foldl_cons, ih]
    by_cases hk : k = j
    · simp [hk]
    · simp [hk, tget_tset_ne]

/-- The ports of a list of circuits are their ends. -/
theorem mem_ports {l : List (Nat × Nat)} {p : Nat} :
    p ∈ l.flatMap (fun c => [c.1, c.2]) ↔ ∃ c ∈ l, c.1 = p ∨ c.2 = p := by
  simp [eq_comm]

/-! ## The journal -/

@[simp] theorem Fab.journal_place (f : Fab) : f.place.journal = f.journal := rfl

@[simp] theorem Fab.journal_note_getLast? (f : Fab) (j : JournalEnt) : (f.note j).journal.getLast? = some j := by
  simp only [Fab.note]
  split <;> simp

/-! ## The sequencer's state after a strike -/

theorem Fab.sheafs_strike (f : Fab) (y : Sheaf) (now : Stamp) (beat : Nat) :
    (f.strike y now beat).sheafs = f.sheafs.filter (fun z => z.key != y.key) := rfl

theorem Fab.journal_strike_getLast? (f : Fab) (y : Sheaf) (now : Stamp) (beat : Nat) :
    (f.strike y now beat).journal.getLast? =
      some ⟨f.epoch + 1, now, beat, mapDiff f.map y.work.wmap, mapDiff y.work.wmap f.map, y.tag⟩ := by
  simp [Fab.strike]

theorem Fab.portEpoch_strike (f : Fab) (y : Sheaf) (now : Stamp) (beat : Nat) :
    (f.strike y now beat).portEpoch =
      ((mapDiff f.map y.work.wmap ++ mapDiff y.work.wmap f.map).flatMap (fun c => [c.1, c.2])).foldl
        (fun t p => tset 0 t p (f.epoch + 1)) f.portEpoch := rfl

/-! ## The obligation about the sequencer's state -/

/-- Settles O23: each field of the sequencer's state is read off the strike, the journal's end through what it notes, and the
port epochs through the ports of the circuits that changed. -/
theorem strikeAdvancesTheEpoch : Obligations.StrikeAdvancesTheEpoch := by
  intro f y now beat
  refine ⟨rfl, rfl, rfl, rfl, f.journal_strike_getLast? y now beat, fun z hz => ?_, fun p => ?_,
    fun c => ⟨mem_mapDiff, mem_mapDiff⟩, rfl, rfl, rfl, rfl⟩
  · rw [Fab.sheafs_strike, List.mem_filter] at hz
    exact bne_iff_ne.mp hz.2
  · simp only [Fab.portEpoch_strike, tget_foldl_tset, mem_ports]

/-! ## EPOCH_NOW -/

/-- Settles O15: the descriptor starts and completes at once; a record made with a time carries it. -/
theorem epochNowFollowsR142 : Obligations.EpochNowFollowsR142 := by
  refine ⟨fun s ring seq m x hsheaf hstarts => ?_, fun x v ep t => ⟨rfl, rfl, rfl, rfl, rfl, rfl⟩⟩
  exact answers_of_run rfl (by simp [Dev.start_of_starts hstarts, hsheaf])

/-! ## What an arriving frame leaves alone

A frame from a tile touches the stay links and the counters; taking a report out touches the tile. -/

theorem Dev.view_arrived {α : Type} {v : Mast → α} (heg : ∀ x e, v { x with eg := e } = v x)
    (hstays : ∀ x l, v { x with stays := l } = v x) (d : Dev) (m : MastId) (t : Nat) (k : MastId) :
    v ((d.arrived m t).mast k) = v (d.mast k) := by
  unfold Dev.arrived Dev.staySlot Dev.moved Dev.onStay
  rw [Dev.view_onMast (fun x => heg x _), Dev.view_pmc heg, Dev.view_onMast (fun x => hstays x _)]

@[simp] theorem Dev.fab_arrived (d : Dev) (m : MastId) (t : Nat) (k : MastId) : (d.arrived m t).fab k = d.fab k :=
  Dev.view_arrived (v := Mast.fab) (fun _ _ => rfl) (fun _ _ => rfl) d m t k

@[simp] theorem Dev.isFenced_arrived (d : Dev) (m : MastId) (t : Nat) (k : MastId) (u : FUnit) :
    (d.arrived m t).isFenced k u = d.isFenced k u :=
  Dev.view_arrived (v := fun x => x.flt.fences.any (fun f => f.unit == u)) (fun _ _ => rfl) (fun _ _ => rfl) d m t k

@[simp] theorem Dev.beat_arrived (d : Dev) (m : MastId) (t : Nat) : (d.arrived m t).beat = d.beat := by
  simp [Dev.arrived, Dev.staySlot, Dev.moved, Dev.onStay]

@[simp] theorem Dev.fab_onTile (d : Dev) (t : Nat) (f : Tile → Tile) (k : MastId) : (d.onTile t f).fab k = d.fab k := by
  cases k <;> rfl

@[simp] theorem Dev.fab_takeReport (d : Dev) (t : Nat) (r : Rep) (k : MastId) : (d.takeReport t r).fab k = d.fab k := by
  simp [Dev.takeReport]

@[simp] theorem Dev.isFenced_takeReport (d : Dev) (t : Nat) (r : Rep) (k : MastId) (u : FUnit) :
    (d.takeReport t r).isFenced k u = d.isFenced k u := by
  cases k <;> rfl

@[simp] theorem Dev.beat_takeReport (d : Dev) (t : Nat) (r : Rep) : (d.takeReport t r).beat = d.beat := rfl

/-! ## The strike beat (R103, R119, R127) -/

/-- The block once a sheaf has struck, but for its descriptor's record: the next epoch and the working map in force, what the
strike interrupts and counts, a repair word for fenced tiles, and the STRIKE telemetry record. -/
def Dev.strikeOn (d : Dev) (m : MastId) (y : Sheaf) (x : Option Desc) : Dev :=
  let f := d.fab m
  let now := d.now
  let fenced := (d.stagedTiles m).any (fun t => d.isFenced m ⟨.strike, t⟩ && sizeOf (tget [] y.work.changes t) != 0)
  let d := (d.onFab m (fun f => f.strike y now d.beat)).pmc m 0x020 [0] 1
  let live := y.work.changes.flatMap (fun e => e.2.filterMap (fun c => match c with
    | .marks l true _ => some (e.1 * laneCount + l)
    | _ => none))
  let d := d.interrupt m (fun c => c.all.any live.contains)
    (fun c => c.lend.any (fun (g : CellSet) => live.contains g.cell))
  let d := if fenced then d.onFab m (fun f => { f with repair := some (y.work.tsid, d.beat + 2) }) else d
  let d := if y.work.migrate && y.key != .heal then d.count m 0x4068 0 16 1 else d
  let bad := if y.key == .heal then d.healBad m else fun _ => false
  let d := if f.rearranges bad y.work then d.count m 0x4068 32 16 1 else d
  let d := d.onGln m (fun g => { g with strikes := g.strikes ++ [now.ns % 20000 / 100] })
  let d := if y.key == .heal then d.healStruck m (f.epoch + 1) now else d
  d.tel m 0 (strikeTel y x (f.epoch + 1) now)

theorem exec_strikeBeat (s : State) : exec .strikeBeat s = run s (fun d => d.act (fun m =>
    match d.struck? m with
    | none => d
    | some y => match y.work.D with
      | none => d
      | some D =>
        if !y.work.word || d.beat != D + y.work.lead then d
        else
          let x := y.owner.bind (fun o => d.findDesc m o.1 o.2)
          match x with
          | some z => (d.strikeOn m y x).completeAt m z .ok ((d.fab m).epoch + 1) (some d.now) true
          | none => d.strikeOn m y x)) := rfl

theorem answers_strikeBeat_of_sent {s : State} {m : MastId} {y : Sheaf} {D : Nat} {o : Nat × Nat} {x : Desc}
    (hserves : Serves s.dev m) (hstruck : s.dev.struck? m = some y) (hD : y.work.D = some D) (hword : y.work.word = true)
    (hbeat : s.dev.beat = D + y.work.lead) (howner : y.owner = some o) (hdesc : s.dev.findDesc m o.1 o.2 = some x) :
    Answers .strikeBeat s
      ((s.dev.strikeOn m y (some x)).completeAt m x .ok ((s.dev.fab m).epoch + 1) (some s.dev.now) true) :=
  answers_of_run (exec_strikeBeat s) (by
    simp only [Dev.act_of_serves hserves, hstruck, hD, howner, Option.bind_some, hdesc]
    simp [hword, hbeat])

/-- The strike puts the next epoch and the working map in force, and nothing else of the strike beat touches them. -/
theorem Dev.standing_strikeOn (d : Dev) (m : MastId) (y : Sheaf) (x : Option Desc) :
    (d.strikeOn m y x).standing m = ⟨(d.pen m).tenure, (d.fab m).epoch + 1, y.work.wmap⟩ := by
  have hframe : (d.strikeOn m y x).standing = (d.onFab m (fun f => f.strike y d.now d.beat)).standing := by
    simp [Dev.strikeOn]
  rw [hframe]
  cases m <;> rfl

/-! ## Arming that ends without a strike (R133, R135) -/

/-- A tile drops a sheaf that the mast has given up. -/
theorem answers_disarmFrame_of_unknown {s : State} {m : MastId} {t i : Nat} (hserves : Serves s.dev m)
    (htakes : s.dev.takes m t = true) (hnone : s.dev.ofTsid m i = none) (hlane : s.dev.waiting m t 1 [i, 0] = false) :
    Answers (.disarmFrame t i) s (s.dev.onTile t (fun x => x.discard i)) :=
  answers_of_run rfl (by simp [Dev.act_of_serves hserves, htakes, hnone, hlane])

/-- 16 beats after it armed a tile discards the sheaf; the mast then looks whether the repair word was meant for the tile. -/
theorem answers_armedSheafTimeout_of_due {s : State} {m : MastId} {t : Nat} {a : Arm} (hserves : Serves s.dev m)
    (harmed : (s.dev.tile t).link.armed = some a) (hdue : a.armedAt + 16 ≤ s.dev.beat) :
    let d := s.dev.onTile t (fun x => x.discard a.tsid)
    Answers (.armedSheafTimeout t) s
      (if (s.dev.fab m).missed.contains t && (s.dev.fab m).lastTsid.any (fun l => l.1 == a.tsid) &&
          !(d.tile t).link.reports.contains (.miss a.tsid)
        then (d.onFab m (fun f => { f with missed := f.missed.erase t })).missedTwice m t a.tsid else d) := by
  have hserving : (s.dev.onTile t (fun x => x.discard a.tsid)).serving = some m := hserves
  exact answers_of_run rfl (by simp [harmed, Nat.not_lt.mpr hdue, Dev.act, hserving])

/-! ## Misses, repairs, strays (R134, R135) -/

/-- The first miss of the last strike, by the second beat after it: the repair word is to leave two beats after the strike. -/
theorem answers_strikeMissReport_of_repairable {s : State} {m : MastId} {t i S : Nat} {rest : List Rep}
    (hserves : Serves s.dev m) (hreports : (s.dev.tile t).link.reports = .miss i :: rest)
    (hlast : (s.dev.fab m).lastTsid = some (i, S)) (hfirst : t ∉ (s.dev.fab m).missed)
    (hrepair : (s.dev.fab m).lastRepair = true) (hbeat : s.dev.beat ≤ S + 2) (hup : UpFree s.dev m t 3) :
    Answers (.strikeMissReport t) s (((s.dev.arrived m t).takeReport t (.miss i)).onFab m (fun f =>
      { f with missed := f.missed ++ [t], repair := some (i, S + 2) })) :=
  answers_of_run rfl (by
    simp [Dev.act_of_serves hserves, hreports, Dev.upGo_of_free hup, hlast, hfirst, hrepair, hbeat])

theorem answers_repairWordSend_of_due {s : State} {m : MastId} {i : Nat} (hserves : Serves s.dev m)
    (hdue : (s.dev.fab m).repair = some (i, s.dev.beat)) :
    Answers .repairWordSend s ((s.dev.emit (.strikeWord m i ((s.dev.mast m).pen.epoch % 4096))).onFab m
      (fun f => { f with repair := none })) :=
  answers_of_run rfl (by simp [Dev.act_of_serves hserves, hdue])

theorem answers_strayStrikeReport_of_unfenced {s : State} {m : MastId} {t i : Nat} (hserves : Serves s.dev m)
    (hreport : .stray i ∈ (s.dev.tile t).link.reports) (hopen : s.dev.isFenced m ⟨.tile, t⟩ = false)
    (hup : UpFree s.dev m t 3) :
    Answers (.strayStrikeReport t i) s ((((s.dev.arrived m t).takeReport t (.stray i)).count m 0x4048 32 16 1).report m
      (16 + t) 1 t (BitVec.ofNat 32 i) none) :=
  answers_of_run rfl (by simp [Dev.act_of_serves hserves, hreport, Dev.upGo_of_free hup, hopen])

/-! ## Driver checks (R171) -/

theorem answers_driverCheck_of_due {s : State} {t : Nat} (rb : List (Nat × Nat)) (halive : (s.dev.tile t).alive = true)
    (hdue : s.dev.beat % 50 = 0) :
    Answers (.driverCheck t rb) s (s.dev.onTile t (fun x =>
      (rb.filter (fun r => r.1 < laneCount && ((s.dev.tile t).cell r.1).drv.O != r.2)).foldl (fun x r =>
        x.say (.driver r.1 (Nat.min r.2 4095))) x)) :=
  answers_of_run rfl (by simp [halive, hdue])

/-- A driver-mismatch report's lane and code. -/
def Rep.mismatch : Rep → Option (Nat × Nat)
  | .driver l c => some (l, c)
  | _ => none

/-- A driver mismatch received: it is the outcome of the cell's own test where that runs (R388), else it is reported. -/
def Dev.takeMismatch (m : MastId) (t : Nat) (h : Nat × Nat) (d : Dev) : Dev :=
  let e := d.takeReport t (.driver h.1 h.2)
  if e.testing m ⟨.cell, t * laneCount + h.1⟩ then e.testBad m ⟨.cell, t * laneCount + h.1⟩
  else e.report m (32 + t) 2 (t * laneCount + h.1) (BitVec.ofNat 32 h.2) (some ⟨.cell, t * laneCount + h.1⟩)

theorem exec_driverMismatchReport (t : Nat) (s : State) : exec (.driverMismatchReport t) s = run s (fun d => d.act (fun m =>
    let hits := (d.tile t).link.reports.filterMap Rep.mismatch
    if hits.isEmpty then d else d.upGo m t 3 (fun d => d.each hits (Dev.takeMismatch m t)))) := rfl

theorem answers_driverMismatchReport_of_mem {s : State} {m : MastId} {t l c : Nat} (hserves : Serves s.dev m)
    (hreport : .driver l c ∈ (s.dev.tile t).link.reports) (hup : UpFree s.dev m t 3) :
    Answers (.driverMismatchReport t) s
      ((s.dev.arrived m t).each ((s.dev.tile t).link.reports.filterMap Rep.mismatch) (Dev.takeMismatch m t)) := by
  have hhits : (s.dev.tile t).link.reports.filterMap Rep.mismatch ≠ [] :=
    List.ne_nil_of_mem (List.mem_filterMap.mpr ⟨_, hreport, rfl⟩)
  refine answers_of_run (exec_driverMismatchReport t s) ?_
  simp only [Dev.act_of_serves hserves, Dev.upGo_of_free hup]
  rw [if_neg (by simpa only [List.isEmpty_iff] using hhits)]

/-! ## FAB_STRIKE (R143) -/

/-- LEAD is taken within 4 to 64 and kept otherwise; REPAIR is taken as written. -/
theorem answers_fabStrikeWrite_of_writable {s : State} {w : RegWr} {info : RegInfo} (hw : Writable s.dev 0x4030 w info) :
    let v := s.dev.written 0x4030 w info
    let old := s.dev.reg w.mast 0x4030
    Answers (.fabStrikeWrite w) s (s.dev.setReg w.mast 0x4030 (plainWrite info old
      (if 4 ≤ fld v 0 7 ∧ fld v 0 7 ≤ 64 then v else setFld v 0 7 (fld old 0 7)))) :=
  answers_of_run rfl (by simp [Dev.barWrite_of_writable hw])

/-! ## The obligation about the commands around a strike -/

/-- Settles O24: each command runs its meaning where its conditions hold; in the strike beat only the strike itself touches
the epoch and the map. -/
theorem strikesComplete : Obligations.StrikesComplete := by
  refine ⟨fun s m hserves => ⟨fun y D o x hstruck hD hword hbeat _ howner hdesc => ?_,
      fun t i => answers_disarmFrame_of_unknown hserves, fun t a harmed hdue => ?_,
      fun t i S rest hreports hlast hfirst => ?_, fun i => answers_repairWordSend_of_due hserves,
      fun t i hreport => answers_strayStrikeReport_of_unfenced hserves (by simpa using hreport),
      fun t rb => answers_driverCheck_of_due rb, fun t hup hany => ?_⟩,
    fun s w info hw => ⟨fun hin => ?_, fun hout => ?_⟩⟩
  · have hstanding := s.dev.standing_strikeOn m y (some x)
    exact ⟨_, answers_strikeBeat_of_sent hserves hstruck hD hword hbeat howner hdesc, congrArg Standing.epoch hstanding,
      congrArg Standing.map hstanding⟩
  · have h := answers_armedSheafTimeout_of_due hserves harmed hdue
    refine ⟨fun hfirst => ?_, fun S hmissed hlast hsaid => ?_⟩
    · simpa only [hfirst, Bool.false_and, Bool.false_eq_true, if_false] using h
    · simpa only [hmissed, hlast, hsaid, Option.any_some, beq_self_eq_true, Bool.not_false, Bool.and_true, if_true] using h
  · exact answers_strikeMissReport_of_repairable hserves hreports hlast (by simpa using hfirst)
  · obtain ⟨r, hr, hdriver⟩ := List.any_eq_true.mp hany
    cases r with
    | driver l c => exact answers_driverMismatchReport_of_mem hserves hr hup
    | _ => cases hdriver
  · simpa only [if_pos hin] using answers_fabStrikeWrite_of_writable hw
  · have hno : ¬ (4 ≤ fld (s.dev.written 0x4030 w info) 0 7 ∧ fld (s.dev.written 0x4030 w info) 0 7 ≤ 64) := by omega
    simpa only [if_neg hno] using answers_fabStrikeWrite_of_writable hw

end Sys2Proof.Machine
end

section
/-! Proofs for a change of mast: claims, settlement and the voluntary handover (R399, R404 to R412). -/

namespace Sys2Proof.Machine

/-! ## Tenure through a settlement

What a settlement does to the sequencer's state leaves every mast's tenure alone; the rest of it leaves its standing alone. -/

theorem Dev.tenure_onMast {f : Mast → Mast} (hf : ∀ x, (f x).pen.tenure = x.pen.tenure) (d : Dev) (m k : MastId) :
    ((d.onMast m f).standing k).tenure = (d.standing k).tenure :=
  Dev.view_onMast (v := fun x => x.pen.tenure) hf d m k

@[simp] theorem Dev.tenure_onFab (d : Dev) (m : MastId) (f : Fab → Fab) (k : MastId) :
    ((d.onFab m f).standing k).tenure = (d.standing k).tenure := by
  unfold Dev.onFab
  exact Dev.tenure_onMast (fun _ => by rfl) d m k

@[simp] theorem Dev.standing_mirrorLoops (d : Dev) (sb : MastId) (y : Sheaf) :
    (d.mirrorLoops sb y).standing = d.standing := by simp [Dev.mirrorLoops]

@[simp] theorem Dev.tenure_each {α : Type} {f : α → Dev → Dev} {k : MastId}
    (hf : ∀ x d, ((f x d).standing k).tenure = (d.standing k).tenure) (l : List α) (d : Dev) :
    ((d.each l f).standing k).tenure = (d.standing k).tenure := by
  induction l generalizing d with
  | nil => rfl
  | cons a r ih => exact (ih (f a d)).trans (hf a d)

@[simp] theorem Dev.tenure_lateStrike (d : Dev) (sb : MastId) (a : Arm) (short : List Nat) (k : MastId) :
    ((d.lateStrike sb a short).standing k).tenure = (d.standing k).tenure := by
  simp only [Dev.lateStrike]
  split
  · simp
  · exact Dev.tenure_onFab d sb _ k

@[simp] theorem Dev.tenure_settleEpoch (d : Dev) (sb : MastId) (e : Nat) (k : MastId) :
    ((d.settleEpoch sb e).standing k).tenure = (d.standing k).tenure := by
  simp only [Dev.settleEpoch]
  split <;> simp

@[simp] theorem Dev.tenure_settle (d : Dev) (sb : MastId) (stale : Bool) (k : MastId) :
    ((d.settle sb stale).standing k).tenure = (d.standing k).tenure := by
  simp only [Dev.settle]
  split
  · simp
  · split <;> simp

/-! ## Settlement (R138, R405) -/

/-- The claimant's block with everything of the old holder settled, before the claimant takes over. -/
def Dev.settledBy (d : Dev) (sb : MastId) : Dev :=
  let stale := (d.pen sb).claimCause == 4
  let d := (d.endPass sb).settle sb stale
  let d := if stale then d.staleRings sb
    else
      let left := ((d.hif sb).inflight.filter (fun x => x.sentAt.isNone))
      (d.rewrite sb).each left (fun x d => d.reconcile sb x)
  let d := ((d.startLoops).reopenStreams sb).freshTests sb
  let d := d.onTiles d.enabledTiles (fun _ x => { x with temps := [] })
  let d := d.onBoot sb (fun x => if x.busy.isSome then
    { x with busy := none, status := .mastChange, stage := if x.stage == .arming then .seeded else x.stage } else x)
  let d := d.onGln sb (fun g => { g with recording := false, frames := [], build := none, startAt := none })
  let ready := (d.mast sb).boot.stage == .ready && d.hifEn sb
  let now := d.beat
  d.onHif sb (fun h => { h with
    running := ready, polled := false, firstPoll := true, pollAt := now
    rings := h.rings.map (fun e => (e.1, e.2.map (fun r => { r with granted := 0 }))) })

/-- The claimant takes over, reports the change (R405), and signals it where PEN_CTL asks for that. -/
def Dev.takenOver (d : Dev) (sb : MastId) (b cause : Nat) : Dev :=
  let d := (d.newHolder sb b cause).report sb 204 1 0 (BitVec.ofNat 32 cause) none
  if d.regF sb 0xA000 2 1 == 1 then d.msix sb 1 else d

theorem exec_pennantSettlement (s : State) : exec .pennantSettlement s = run s (fun d => match d.claimant with
    | none => d
    | some (sb, b) =>
      if (d.pen sb).accepted.isEmpty ||
        !d.enabledTiles.all (fun t => (d.pen sb).accepted.contains t || d.isFenced sb ⟨.tile, t⟩) then d
      else (d.settledBy sb).takenOver sb b (d.pen sb).claimCause) := rfl

@[simp] theorem Dev.tenure_settledBy (d : Dev) (sb k : MastId) :
    ((d.settledBy sb).standing k).tenure = (d.standing k).tenure := by
  simp [Dev.settledBy]

/-- The PEN_ block of a mast that `sb` succeeds as holder: it keeps running (`keep`) after a voluntary handover, and it
learns of the new holder where the gaff link tells it (`told`). -/
def Pen.succeeded (p : Pen) (sb : MastId) (ep cause : Nat) (now : Stamp) (keep told : Bool) : Pen :=
  let p := { p with
    holder := false, stopped := !keep, busy := none, due := false, yielding := false, released := false, toSend := []
    journal := [], mirrorOut := none, seen := [], ended := [], mirrorBeat := none, protect := false }
  if told then { p with epoch := ep, holderIdx := midx sb, cause := cause, last := now } else p

theorem Pen.holder_succeeded (p : Pen) (sb : MastId) (ep cause : Nat) (now : Stamp) (keep told : Bool) :
    (p.succeeded sb ep cause now keep told).holder = false := by
  simp only [Pen.succeeded]
  split <;> rfl

/-- The block once the pennant has changed hands: both masts' command lanes cleared, their PEN_ blocks rewritten. -/
def Dev.handedTo (d : Dev) (sb : MastId) (b cause : Nat) : Dev :=
  let now := d.now
  let ep := (d.pen sb).epoch + 1
  let told := (d.pen sb).gaff
  let clear := fun (x : Mast) => { x with
    stays := tmap (fun s : Stay => { s with down := { s.down with wait := [], again := [] }, gone := none }) stayReset x.stays }
  let d := (d.onMast sb clear).onMast (peerOf sb) clear
  let d := d.onPen sb (fun p => { p with
    holder := true, epoch := ep, holderIdx := midx sb, cause := cause, last := now, claimAt := none, lastFull := b
    sent := some b, stopped := false, busy := none, yielding := false, released := false, journal := [], toSend := []
    arms := [], accepted := [], seen := [], ended := [], mirrorOut := none, announce := true, due := true })
  d.onPen (peerOf sb) (fun p => p.succeeded sb ep cause now (cause == 1 || cause == 2) told)

theorem Mast.tenure_adopt (x : Mast) (sb : MastId) (g : Snap) (now : Nat) : (x.adopt sb g now).pen.tenure = x.pen.tenure := rfl

theorem Dev.newHolder_eq (d : Dev) (sb : MastId) (b cause : Nat) : d.newHolder sb b cause =
    let e := ((d.handedTo sb b cause).count sb 0xA010 16 16 1).when (d.pen sb).gaff
      (fun d => d.count (peerOf sb) 0xA010 16 16 1)
    if cause == 1 || cause == 2 then
      (e.onMast (peerOf sb) (fun x => x.adopt (peerOf sb) (e.mirrorOf sb) e.beat)).judgeProtect
    else e.judgeProtect := rfl

theorem Dev.tenure_handedTo (d : Dev) (sb : MastId) (b cause : Nat) :
    ((d.handedTo sb b cause).standing sb).tenure = ⟨true, (d.standing sb).tenure.epoch + 1, none, false⟩ := by
  cases sb <;> rfl

theorem Dev.holder_handedTo_peer (d : Dev) (sb : MastId) (b cause : Nat) :
    ((d.handedTo sb b cause).standing (peerOf sb)).tenure.holder = false := by
  cases sb <;> exact Pen.holder_succeeded ..

@[simp] theorem Dev.tenure_newHolder (d : Dev) (sb : MastId) (b cause : Nat) (k : MastId) :
    ((d.newHolder sb b cause).standing k).tenure = ((d.handedTo sb b cause).standing k).tenure := by
  rw [Dev.newHolder_eq]
  simp only
  split
  · rw [Dev.standing_judgeProtect, Dev.tenure_onMast (fun x => x.tenure_adopt _ _ _)]
    simp
  · simp

@[simp] theorem Dev.tenure_takenOver (d : Dev) (sb : MastId) (b cause : Nat) (k : MastId) :
    ((d.takenOver sb b cause).standing k).tenure = ((d.handedTo sb b cause).standing k).tenure := by
  simp [Dev.takenOver]

/-- With every enabled tile taken or fenced, the claimant takes over (R405). -/
theorem answers_pennantSettlement_of_claimed {s : State} {sb : MastId} {b : Nat} (hclaim : s.dev.claimant = some (sb, b))
    (hsome : (s.dev.pen sb).accepted ≠ [])
    (hall : ∀ t ∈ s.dev.enabledTiles, (s.dev.pen sb).accepted.contains t = true ∨ s.dev.isFenced sb ⟨.tile, t⟩ = true) :
    Answers .pennantSettlement s ((s.dev.settledBy sb).takenOver sb b (s.dev.pen sb).claimCause) := by
  have hdone : s.dev.enabledTiles.all (fun t => (s.dev.pen sb).accepted.contains t || s.dev.isFenced sb ⟨.tile, t⟩) = true :=
    List.all_eq_true.mpr fun t ht => (Bool.or_eq_true _ _).mpr (hall t ht)
  exact answers_of_run (exec_pennantSettlement s) (by simp only [hclaim, hdone]; simp [hsome])

/-- R405: the claimant holds the pennant under the next epoch, its claim ended; the old holder holds it no more. -/
theorem Dev.pen_takenOver_settledBy (d : Dev) (sb : MastId) (b cause : Nat) :
    let e := (d.settledBy sb).takenOver sb b cause
    (e.pen sb).holder = true ∧ (e.pen sb).epoch = (d.pen sb).epoch + 1 ∧ (e.pen (peerOf sb)).holder = false ∧
      (e.pen sb).claimAt = none ∧ (e.pen sb).stopped = false := by
  intro e
  have htenure : (e.pen sb).tenure = ⟨true, (d.pen sb).epoch + 1, none, false⟩ :=
    calc (e.standing sb).tenure
      _ = (((d.settledBy sb).handedTo sb b cause).standing sb).tenure := Dev.tenure_takenOver ..
      _ = ⟨true, ((d.settledBy sb).standing sb).tenure.epoch + 1, none, false⟩ := Dev.tenure_handedTo ..
      _ = ⟨true, (d.standing sb).tenure.epoch + 1, none, false⟩ := by rw [Dev.tenure_settledBy]
  have hold : (e.standing (peerOf sb)).tenure.holder = false := by
    rw [Dev.tenure_takenOver, Dev.holder_handedTo_peer]
  exact ⟨congrArg Tenure.holder htenure, congrArg Tenure.epoch htenure, hold, congrArg Tenure.claimAt htenure,
    congrArg Tenure.stopped htenure⟩

/-! ## Claims (R399, R404, R406) -/

theorem Dev.standby_of_holder {d : Dev} {m : MastId} (h : d.holder = some m) : d.standby = some (peerOf m) := by
  simp [Dev.standby, h]

theorem Dev.claimant_of_holder {d : Dev} {m : MastId} {b : Nat} (h : d.holder = some m)
    (hclaim : (d.pen (peerOf m)).claimAt = some b) : d.claimant = some (peerOf m, b) := by
  simp [Dev.claimant, Dev.standby_of_holder h, hclaim]

/-- A standby whose mirror is not stale claims once every tile it reaches reports its lease ended. -/
theorem answers_pennantClaim_of_ended {s : State} {sb : MastId} (hstandby : s.dev.standby = some sb)
    (hruns : s.dev.runs sb = true) (hclaim : (s.dev.pen sb).claimAt = none) {reach : List Nat}
    (hreach : s.dev.enabledTiles.filter (fun t => (s.dev.pen sb).seen.contains t || (s.dev.pen sb).ended.contains t) = reach)
    (hsome : reach ≠ []) (hended : reach.all (s.dev.pen sb).ended.contains = true)
    (hfresh : s.dev.stale sb ((reach.map (fun t => (s.dev.tile t).link.leaseEnd)).foldl Nat.max 0) = false) :
    Answers .pennantClaim s (s.dev.claim sb 3) :=
  answers_of_run rfl (by simp only [hstandby, hreach, hended, hfresh]; simp [hruns, hclaim, hsome])

/-- Once its lease has run out or its release has come, a tile accepts a claim of a later epoch, and its arm records return. -/
theorem answers_claimFrame_of_free {s : State} {sb : MastId} {t b : Nat} (hclaim : s.dev.claimant = some (sb, b))
    (halive : (s.dev.tile t).alive = true) (henabled : (s.dev.tile t).enabled = true)
    (hnew : t ∉ (s.dev.pen sb).accepted) (hgone : (s.dev.stay sb t).gone ≠ some b)
    (hlane : s.dev.waiting sb t 2 [(s.dev.pen sb).epoch + 1, b + 1000] = false)
    (hlater : (s.dev.tile t).link.pen < (s.dev.pen sb).epoch + 1)
    (hfree : (s.dev.tile t).leaseRuns s.dev.beat = false ∨ (s.dev.tile t).link.released = true) (hup : UpFree s.dev sb t 2) :
    let y := (s.dev.tile t).claimed ((s.dev.pen sb).epoch + 1) (b + 1000)
    Answers (.claimFrame t) s (((s.dev.arrived sb t).setTile t y).onPen sb (fun p => { p with
      accepted := p.accepted ++ [t], arms := p.arms ++ y.link.arms.map (fun a => (t, a))
      acks := tset 0 p.acks t (b + 1000) })) :=
  answers_of_run rfl (by
    simp only [hclaim]
    simp [halive, henabled, hnew, hgone, hlane, hfree, Nat.lt_succ_iff.mp hlater, Dev.upGo_of_free hup])

/-- While its lease runs and no release has come, a tile refuses a claim, and the claimant counts that. -/
theorem answers_claimFrame_of_leased {s : State} {sb : MastId} {t b : Nat} (hclaim : s.dev.claimant = some (sb, b))
    (halive : (s.dev.tile t).alive = true) (henabled : (s.dev.tile t).enabled = true)
    (hnew : t ∉ (s.dev.pen sb).accepted) (hgone : (s.dev.stay sb t).gone ≠ some b)
    (hlane : s.dev.waiting sb t 2 [(s.dev.pen sb).epoch + 1, b + 1000] = false)
    (hruns : (s.dev.tile t).leaseRuns s.dev.beat = true) (hheld : (s.dev.tile t).link.released = false) :
    Answers (.claimFrame t) s (s.dev.count sb 0xA010 32 16 1) :=
  answers_of_run rfl (by simp only [hclaim]; simp [halive, henabled, hnew, hgone, hlane, hruns, hheld])

theorem answers_claimReachTimeout_of_missed {s : State} {sb : MastId} {t b : Nat} (hclaim : s.dev.claimant = some (sb, b))
    (henabled : (s.dev.tile t).enabled = true) (hdue : b + 100 ≤ s.dev.beat)
    (hnew : t ∉ (s.dev.pen sb).accepted) :
    Answers (.claimReachTimeout t) s (s.dev.fence sb ⟨.tile, t⟩ t) :=
  answers_of_run rfl (by simp only [hclaim]; simp [henabled, hdue, hnew])

/-! ## The voluntary handover (R410 to R412) -/

theorem answers_releaseFrame_of_released {s : State} {m : MastId} {t : Nat} (hholder : s.dev.holder = some m)
    (hreleased : (s.dev.pen m).released = true) (hlane : s.dev.waiting m t 2 [(s.dev.pen m).epoch] = false)
    (halive : (s.dev.tile t).alive = true) (hpen : (s.dev.tile t).link.pen = (s.dev.pen m).epoch) :
    Answers (.releaseFrame t) s (s.dev.onTile t (fun x => { x with link := { x.link with released := true } })) :=
  answers_of_run rfl (by simp only [hholder]; simp [hreleased, hlane, halive, hpen])

theorem answers_handoverWord_of_released {s : State} {m : MastId} (hholder : s.dev.holder = some m)
    (hreleased : (s.dev.pen m).released = true) (hgaff : (s.dev.pen m).gaff = true) (hruns : s.dev.runs (peerOf m) = true)
    (hclaim : (s.dev.pen (peerOf m)).claimAt = none) :
    Answers .handoverWord s (s.dev.claim (peerOf m) ((s.dev.pen m).busy.getD 1)) :=
  answers_of_run rfl (by simp only [hholder]; simp [hreleased, hgaff, hruns, hclaim])

/-- R410: what PEN_CMD.HANDOVER asks of the mast that it is written to. -/
abbrev HandoverOk (d : Dev) (m : MastId) : Prop :=
  d.holder = some m ∧ (d.pen m).protect = true ∧ (d.pen m).busy = none ∧ (d.mast m).boot.stage = .ready

theorem answers_handover_of_writable {s : State} {w : RegWr} {info : RegInfo} (hw : Writable s.dev 0xA008 w info)
    (hset : fld (s.dev.written 0xA008 w info) 0 1 = 1) :
    Answers (.handover w) s (if HandoverOk s.dev w.mast then
      s.dev.onPen w.mast (fun p => { p with busy := some 1, busyAt := s.dev.beat }) else s.dev.flag w.mast 0xA010 3) := by
  refine answers_of_run rfl ?_
  rw [Dev.barWrite_of_writable hw]
  by_cases hok : HandoverOk s.dev w.mast
  · obtain ⟨hholder, hprotect, hbusy, hstage⟩ := hok
    simp [hset, hholder, hprotect, hbusy, hstage]
  · rw [if_neg hok]
    simp only [hset]
    simpa using fun hholder hprotect hbusy hstage => absurd ⟨hholder, hprotect, hbusy, hstage⟩ hok

theorem answers_handoverBegin_of_due {s : State} {m : MastId} (hserves : Serves s.dev m) (hedge : s.dev.watchEdge = true)
    (hbusy : (s.dev.pen m).busy.isSome = true) (hlater : (s.dev.pen m).busyAt < s.dev.beat)
    (hnew : (s.dev.pen m).yielding = false) :
    Answers .handoverBegin s ((s.dev.onPen m (fun p => { p with yielding := true, hAt := s.dev.beat })).onHif m
      (fun h => { h with running := false })) :=
  answers_of_run rfl (by simp [Dev.act_of_serves hserves, hedge, hbusy, hlater, hnew])

theorem answers_handoverRelease_of_due {s : State} {m : MastId} (hserves : Serves s.dev m)
    (hyield : (s.dev.pen m).yielding = true) (hdue : (s.dev.pen m).hAt + 200 ≤ s.dev.beat) :
    Answers .handoverRelease s ((s.dev.each s.dev.enabledTiles (fun t d => d.command m t 2 [(s.dev.pen m).epoch] [])).onPen m
      (fun p => { p with released := true, stopped := true })) :=
  answers_of_run rfl (by simp [Dev.act_of_serves hserves, hyield, hdue])

/-! ## The obligation -/

/-- Settles O52: each command runs its meaning where its conditions hold, and a settlement leaves who holds the pennant alone
until the claimant takes over. -/
theorem pennantChangesHands : Obligations.PennantChangesHands := by
  refine ⟨fun s m hholder => ⟨fun hruns hclaim =>
        answers_pennantClaim_of_ended (Dev.standby_of_holder hholder) hruns hclaim rfl,
      fun t b hclaim halive henabled hnew hgone => ?_, fun t b hclaim henabled hdue hnew => ?_, fun b hclaim hsome hall => ?_,
      fun t => answers_releaseFrame_of_released hholder, answers_handoverWord_of_released hholder⟩,
    fun s w info hw hset => ⟨fun hok => ?_, fun hno => ?_⟩,
    fun s m hserves => ⟨answers_handoverBegin_of_due hserves, answers_handoverRelease_of_due hserves⟩⟩
  · have hclaimant := Dev.claimant_of_holder hholder hclaim
    have hout : t ∉ (s.dev.pen (peerOf m)).accepted := by simpa using hnew
    exact fun hlane => ⟨answers_claimFrame_of_free hclaimant halive henabled hout hgone hlane,
      answers_claimFrame_of_leased hclaimant halive henabled hout hgone hlane⟩
  · exact answers_claimReachTimeout_of_missed (Dev.claimant_of_holder hholder hclaim) henabled hdue (by simpa using hnew)
  · obtain ⟨hholds, hepoch, hold, hended, hstop⟩ := s.dev.pen_takenOver_settledBy (peerOf m) b (s.dev.pen (peerOf m)).claimCause
    rw [peerOf_peerOf] at hold
    exact ⟨_, answers_pennantSettlement_of_claimed (Dev.claimant_of_holder hholder hclaim) hsome hall, hholds, hepoch, hold,
      hended, hstop⟩
  · simpa only [if_pos hok] using answers_handover_of_writable hw hset
  · simpa only [if_neg hno] using answers_handover_of_writable hw hset

end Sys2Proof.Machine
end

section
/-! Proofs for a core's rotating register names (R215) and its addressing modes (R218). -/

namespace Sys2Proof.Machine

/-! ## Results that land (R221) -/

theorem landRange_nil (r : CoreRegs) (t n : Nat) : landRange r [] t n = r := by
  induction n generalizing t with
  | zero => rfl
  | succ n ih => exact ih (t + 1)

/-- A lone result lands in the cycle that it is ready in, whichever slot it is of. -/
theorem landOne_singleton (r : CoreRegs) (x : Landing) (t : Nat) :
    landOne r [x] t = if x.ready = t then r.put x.dest x.val else r := by
  obtain ⟨ready, slot, dest, val⟩ := x
  by_cases hready : ready = t
  · cases slot <;> simp [landOne, hready]
  · simp [landOne, hready]

theorem landRange_singleton_of_past (r : CoreRegs) (x : Landing) (t n : Nat) (hpast : x.ready ≤ t) :
    landRange r [x] t n = r := by
  induction n generalizing t with
  | zero => rfl
  | succ n ih =>
    rw [landRange, landOne_singleton, if_neg (by omega)]
    exact ih (t + 1) (by omega)

theorem landRange_singleton_of_due (r : CoreRegs) (x : Landing) (t n : Nat) (hlater : t < x.ready)
    (hdue : x.ready ≤ t + n) : landRange r [x] t n = r.put x.dest x.val := by
  induction n generalizing t with
  | zero => omega
  | succ n ih =>
    rw [landRange, landOne_singleton]
    by_cases hnow : x.ready = t + 1
    · rw [if_pos hnow, landRange_singleton_of_past _ _ _ _ hnow.le]
    · rw [if_neg hnow]
      exact ih (t + 1) (by omega) (by omega)

theorem Core.r_pass_of_idle {c : Core} (hidle : c.land = []) (n : Nat) : (c.pass n).r = c.r := by
  simp only [Core.pass, hidle]
  exact landRange_nil ..

/-- The only result outstanding has been put into its register once its latency has passed. -/
theorem Core.r_pass_due {c : Core} (hidle : c.land = []) (s : Slot) {n : Nat} (hpos : 1 ≤ n) (hmax : n ≤ maxLatency)
    (x : Dest) (v : BitVec 72) : ((c.due s n x v).pass n).r = c.r.put x v := by
  simp only [Core.pass, Core.due, hidle, List.nil_append, show Nat.min n maxLatency = n from Nat.min_eq_left hmax]
  exact landRange_singleton_of_due _ _ _ _ (Nat.lt_add_of_pos_right hpos) le_rfl

/-! ## Rotating names (R215) -/

theorem physD_of_direct (rb : BitVec 5) {n : BitVec 6} (hn : n.toNat < 32) : physD rb n = n.toNat := if_pos hn

theorem physD_of_rotating (rb : BitVec 5) {n : BitVec 6} (hn : 32 ≤ n.toNat) :
    physD rb n = 32 + (n.toNat - 32 + rb.toNat) % 32 := if_neg (Nat.not_lt.mpr hn)

theorem physD_lt_iff (rb : BitVec 5) (n : BitVec 6) : physD rb n < 32 ↔ n.toNat < 32 := by
  unfold physD
  split <;> omega

/-- A rotation by one moves each rotating name to the register of the next one, and d63 to that of d32. -/
theorem physD_rotate (rb : BitVec 5) : physD rb 33 = physD (rb + 1) 32 ∧ physD rb 32 = physD (rb + 1) 63 := by
  have hsum : (rb + 1).toNat = (rb.toNat + 1) % 32 := BitVec.toNat_add rb 1
  rw [physD_of_rotating rb (by decide), physD_of_rotating rb (by decide), physD_of_rotating (rb + 1) (by decide),
    physD_of_rotating (rb + 1) (by decide), hsum]
  change 32 + (1 + rb.toNat) % 32 = 32 + (0 + (rb.toNat + 1) % 32) % 32 ∧
    32 + (0 + rb.toNat) % 32 = 32 + (31 + (rb.toNat + 1) % 32) % 32
  omega

theorem physD_injective (rb : BitVec 5) : Function.Injective (physD rb) := by
  intro n n' heq
  apply BitVec.eq_of_toNat_eq
  have hside := physD_lt_iff rb n
  rw [heq, physD_lt_iff] at hside
  rcases Nat.lt_or_ge n.toNat 32 with hn | hn
  · rwa [physD_of_direct rb hn, physD_of_direct rb (hside.mpr hn)] at heq
  · have hn' : 32 ≤ n'.toNat := by omega
    rw [physD_of_rotating rb hn, physD_of_rotating rb hn'] at heq
    omega

/-- A data-register result lands in the register that its name denoted at issue, and in no other, under any rotate base. -/
theorem Core.d_pass_dueD {c : Core} (hidle : c.land = []) (s : Slot) {n : Nat} (hpos : 1 ≤ n) (hmax : n ≤ maxLatency)
    (dn : BitVec 6) (v : Word) (rb : BitVec 5) :
    (Core.pass { c.dueD s n dn v with r := { c.r with rb := rb } } n).r.d = tset 0 c.r.d (physD c.r.rb dn) v := by
  have hland := Core.r_pass_due (c := { c with r := { c.r with rb := rb } }) hidle s hpos hmax
    (.d (physD c.r.rb dn)) (v.setWidth 72)
  exact (congrArg CoreRegs.d hland).trans (by simp [CoreRegs.put])

theorem Core.rb_pass_due {c : Core} (hidle : c.land = []) (v : BitVec 5) :
    ((c.due .b 1 .rb (v.setWidth 72)).pass 1).r.rb = v := by
  rw [Core.r_pass_due hidle .b le_rfl (by decide)]
  simp [CoreRegs.put]

theorem answers_rot_of_issues {s : State} {m : MastId} {k : Nat} {abs : Bool} {n : BitVec 5}
    (h : IssuesB s.dev m k (.rot k abs n)) :
    Answers (.rot k abs n) s (s.dev.onCore m k (fun c =>
      (c.due .b 1 .rb (if abs then n.setWidth 72 else (c.r.rb + n).setWidth 72)).close)) :=
  answers_of_run rfl (Dev.slotB_of_issues h _)

/-- Settles O29: a name's register is a one-to-one function of the rotate base at issue, and the results outstanding keep the
register rather than the name. -/
theorem rotatingNames : Obligations.RotatingNames := by
  refine ⟨fun rb n => physD_of_direct rb, fun rb n => physD_of_rotating rb, physD_rotate, fun rb n n' heq =>
    physD_injective rb heq, fun c slot n dn v rb hidle hpos hmax => ?_, fun c n => rfl, fun s m k abs n => answers_rot_of_issues,
    fun c v hidle => Core.rb_pass_due hidle v⟩
  intro e
  rw [Core.d_pass_dueD hidle slot hpos hmax dn v rb]
  exact ⟨tget_tset_self .., fun p hp => tget_tset_ne _ _ _ _ _ hp⟩

/-! ## Addressing modes (R218) -/

theorem getElem_regionMask : ∀ (i : Nat) (hi : i < 18), (0x38000 : Ptr)[i] = decide (15 ≤ i) := by decide

theorem getElem_offsetMask : ∀ (i : Nat) (hi : i < 18), (0x07FFF : Ptr)[i] = decide (i < 15) := by decide

/-- The lower 15 bits of an address put under the upper 3 of another: a step within one aligned region of 32 KiB. -/
theorem toNat_ringJoin (p q : Ptr) :
    ((p &&& 0x38000) ||| (q &&& 0x07FFF)).toNat = 0x8000 * (p.toNat / 0x8000) + q.toNat % 0x8000 := by
  have hjoin : (p &&& 0x38000) ||| (q &&& 0x07FFF) = p.extractLsb' 15 3 ++ q.extractLsb' 0 15 := by
    apply BitVec.eq_of_getElem_eq
    intro i hi
    rw [BitVec.getElem_or, BitVec.getElem_and, BitVec.getElem_and, getElem_regionMask, getElem_offsetMask,
      BitVec.getElem_append]
    by_cases hlow : i < 15
    · simp [hlow, Nat.not_le.mpr hlow, BitVec.getLsbD_eq_getElem hi]
    · simp [hlow, Nat.not_lt.mp hlow, BitVec.getLsbD_eq_getElem hi]
  have htop : p.toNat / 0x8000 < 8 := by omega
  rw [hjoin, BitVec.toNat_append, ← Nat.shiftLeft_add_eq_or_of_lt (BitVec.isLt _)]
  simp [Nat.shiftRight_eq_div_pow, Nat.shiftLeft_eq, Nat.mod_eq_of_lt htop, Nat.mul_comm]

/-- An aligned address is the greatest multiple of the alignment that is not above the address. -/
theorem alignTo_spec {n : Nat} (hn : 0 < n) (a : Ptr) :
    alignTo n a % n = 0 ∧ alignTo n a ≤ a.toNat ∧ a.toNat < alignTo n a + n :=
  ⟨Nat.mul_mod_left .., Nat.div_mul_le_self .., Nat.lt_div_mul_add hn⟩

@[simp] theorem Core.pr_postMod (c : Core) (f : MemF) (p : BitVec 3) : (c.postMod f).pr p = c.pr p := by
  unfold Core.postMod
  split <;> rfl

/-- From the next bundle on, the address register holds what its mode makes of it. -/
theorem Core.pr_pass_postMod {c : Core} (hidle : c.land = []) (f : MemF) : ((c.postMod f).pass 1).pr f.p = (c.addr f).2 := by
  unfold Core.postMod
  split
  next hoff =>
    rw [Core.pr, Core.r_pass_of_idle hidle]
    simp [Core.addr, eq_of_beq hoff, Core.pr]
  next =>
    rw [Core.pr, Core.r_pass_due hidle .a le_rfl (by decide)]
    simp [CoreRegs.put]

/-- Settles O31: each mode's address and successor by its row of the table, the ring's from its parts, and the
post-modification as a result that lands one bundle on. -/
theorem addressingModes : Obligations.AddressingModes := by
  intro c d p imm at_ step
  have hring : (at_ .ring).2.toNat = 0x8000 * ((c.pr p).toNat / 0x8000) + (c.pr p + step).toNat % 0x8000 :=
    toNat_ringJoin ..
  exact ⟨rfl, rfl, rfl, rfl, by omega, by omega, fun a n hn => alignTo_spec hn a, fun mode hidle =>
    ⟨Core.pr_postMod .., Core.pr_pass_postMod hidle ⟨d, p, mode, imm⟩⟩⟩

end Sys2Proof.Machine
end

section
/-! Proofs for SEED_SAVE, its snapshot and the NOR writes (R295, R299). -/

namespace Sys2Proof.Machine

/-! ## What a save's updates leave alone

A NOR device changes with its mast's boot state, and the progress of a save with the calibration state. Neither touches the
standby, who serves, or the descriptors in flight. -/

@[simp] theorem Dev.mast_onBoot (d : Dev) (m : MastId) (f : Boot → Boot) :
    (d.onBoot m f).mast m = { d.mast m with boot := f (d.mast m).boot } := by simp [Dev.onBoot]

@[simp] theorem Dev.mast_onBoot_peer (d : Dev) (m : MastId) (f : Boot → Boot) :
    (d.onBoot m f).mast (peerOf m) = d.mast (peerOf m) := by simp [Dev.onBoot]

@[simp] theorem Dev.mast_onCal (d : Dev) (m : MastId) (f : CalSt → CalSt) :
    (d.onCal m f).mast m = { d.mast m with cal := f (d.mast m).cal } := by simp [Dev.onCal]

@[simp] theorem Dev.mast_onCal_peer (d : Dev) (m : MastId) (f : CalSt → CalSt) :
    (d.onCal m f).mast (peerOf m) = d.mast (peerOf m) := by simp [Dev.onCal]

@[simp] theorem Dev.cal_onBoot (d : Dev) (m : MastId) (f : Boot → Boot) : (d.onBoot m f).cal m = d.cal m := by
  simp [Dev.cal]

@[simp] theorem Dev.peerUp_onBoot (d : Dev) (m : MastId) (f : Boot → Boot) : (d.onBoot m f).peerUp m = d.peerUp m := by
  simp [Dev.peerUp]

@[simp] theorem Dev.peerUp_onCal (d : Dev) (m : MastId) (f : CalSt → CalSt) : (d.onCal m f).peerUp m = d.peerUp m := by
  simp [Dev.peerUp]

@[simp] theorem Dev.findDesc_onBoot (d : Dev) (m : MastId) (f : Boot → Boot) (k : MastId) (ring seq : Nat) :
    (d.onBoot m f).findDesc k ring seq = d.findDesc k ring seq := by
  simp [Dev.findDesc, Dev.onBoot, Dev.hif_onMast]

@[simp] theorem Dev.findDesc_onCal (d : Dev) (m : MastId) (f : CalSt → CalSt) (k : MastId) (ring seq : Nat) :
    (d.onCal m f).findDesc k ring seq = d.findDesc k ring seq := by
  simp [Dev.findDesc, Dev.onCal, Dev.hif_onMast]

/-- Who serves does not depend on what the NOR devices hold. -/
theorem Dev.serving_onNor (d : Dev) (m : MastId) (f : Nor → Nor) :
    (d.onBoot m (fun b => { b with nor := f b.nor })).serving = d.serving := by
  have hholder : (d.onBoot m (fun b => { b with nor := f b.nor })).holder = d.holder := by cases m <;> rfl
  unfold Dev.serving
  rw [hholder]
  cases d.holder with
  | none => rfl
  | some k => cases m <;> cases k <;> rfl

/-! ## SEED_SAVE -/

theorem Dev.need_of_perm {x : Desc} {b : Nat} (h : x.perm b = true) (d : Dev) (m : MastId) (k : Dev → Dev) :
    d.need m x b k = k d := if_pos h

theorem answers_seedSave_of_saving {s : State} {ring seq : Nat} {m : MastId} {x : Desc}
    (hstarts : Starts s.dev ring seq 0x42 m x) (hperm : x.perm 7 = true)
    (hsaving : ((s.dev.begun m ring seq).cal m).save.isSome = true) :
    Answers (.seedSave ring seq) s ((s.dev.begun m ring seq).complete m x .calBusy) :=
  answers_of_run rfl (by simp [Dev.start_of_starts hstarts, Dev.need_of_perm hperm, hsaving])

theorem answers_seedSave_of_idle {s : State} {ring seq : Nat} {m : MastId} {x : Desc}
    (hstarts : Starts s.dev ring seq 0x42 m x) (hperm : x.perm 7 = true)
    (hidle : ((s.dev.begun m ring seq).cal m).save = none)
    (hkept : (s.dev.begun m ring seq).calLost m ((s.dev.begun m ring seq).enabledTiles.map (· * laneCount)) = false) :
    Answers (.seedSave ring seq) s
      ((s.dev.begun m ring seq).onCal m (fun c => { c with save := some (ring, seq), saved := none })) :=
  answers_of_run rfl (by simp [Dev.start_of_starts hstarts, Dev.need_of_perm hperm, hidle, hkept])

/-! ## The snapshot -/

/-- With the standby down, the snapshot begins the write on the holder's mast alone. -/
theorem answers_seedSnapshot_of_alone {s : State} {m : MastId} {g : SeedImage} (hserves : Serves s.dev m)
    (hsave : (s.dev.cal m).save.isSome = true) (hwaits : (s.dev.cal m).saved = none) (hedge : s.dev.watchEdge = true)
    (hnewest : (s.dev.mast m).boot.nor.newest = some g) (halone : s.dev.peerUp m = false) :
    Answers .seedSnapshot s ((s.dev.onBoot m (fun b =>
      { b with nor := b.nor.beginSave (s.dev.image m ((g.seq + 1) % 2 ^ 32)) })).onCal m
        (fun c => { c with saved := some (s.dev.cal m).epoch })) := by
  obtain ⟨rq, hrq⟩ := Option.isSome_iff_exists.mp hsave
  exact answers_of_run rfl (by simp [Dev.act_of_serves hserves, hrq, hwaits, hedge, hnewest, halone])

/-! ## The NOR writes -/

theorem answers_norEraseDone_of_erasing {s : State} {m : MastId} {j : NorJob}
    (hjob : (s.dev.mast m).boot.nor.job = some j) (hmore : j.erased < j.sectors) :
    Answers (.norEraseDone m) s (s.dev.onBoot m (fun b => { b with nor :=
      { b.nor.onSlot j.slot (fun l => eraseSector l j.erased) with job := some { j with erased := j.erased + 1 } } })) :=
  answers_of_run rfl (by simp [Dev.onBoot, Dev.onMast, hjob, Nat.not_le.mpr hmore])

/-- A page before the header page: the next page of the slot is programmed and the job moves on. -/
theorem Nor.program_of_page_lt {j : NorJob} (hmore : j.page < j.pages) (n : Nor) :
    n.program j = { n.onSlot j.slot (fun l => programPage l j.page j.img.bytes) with
      job := some { j with page := j.page + 1 } } := by
  simp [Nor.program, Nat.not_le.mpr hmore]

/-- The header page ends the job. -/
theorem Nor.job_program_of_pages_le {j : NorJob} (hlast : j.pages ≤ j.page) (n : Nor) : (n.program j).job = none := by
  simp [Nor.program, hlast]

/-- While the mast's own job goes on, the save is not done. -/
theorem Dev.saveDone_of_writing {d : Dev} {m : MastId} {j : NorJob} (hjob : (d.mast m).boot.nor.job = some j) :
    d.saveDone m = d := by
  simp only [Dev.saveDone, hjob]
  split
  next hnone _ => cases hnone
  next => rfl

/-- Neither mast writes any more and the standby, which is up, holds the newest image: the save completes with OK. -/
theorem Dev.saveDone_of_held {d : Dev} {m : MastId} {r q ep : Nat} {g : SeedImage} {x : Desc}
    (hsave : (d.cal m).save = some (r, q)) (hsaved : (d.cal m).saved = some ep) (hjob : (d.mast m).boot.nor.job = none)
    (hnewest : (d.mast m).boot.nor.newest = some g) (hpeer : (d.mast (peerOf m)).boot.nor.job = none)
    (hup : d.peerUp m = true) (hdesc : d.findDesc m r q = some x)
    (hholds : (d.mast (peerOf m)).boot.nor.holds g = true) :
    d.saveDone m = (d.onCal m (fun c => { c with save := none, saved := none })).completeAt m x .ok ep none false := by
  simp [Dev.saveDone, hsave, hsaved, hjob, hnewest, hpeer, hup, hholds, hdesc]

/-- The block with a page of the mast's write programmed. -/
def Dev.programmed (d : Dev) (m : MastId) (j : NorJob) : Dev := d.onBoot m (fun b => { b with nor := b.nor.program j })

@[simp] theorem Dev.nor_programmed (d : Dev) (m : MastId) (j : NorJob) :
    ((d.programmed m j).mast m).boot.nor = (d.mast m).boot.nor.program j := by simp [Dev.programmed]

/-- The header page that ends the mast's write ends the save, the standby being as it was. -/
theorem Dev.saveDone_programmed_of_held {d : Dev} {m : MastId} {j : NorJob} {r q ep : Nat} {g : SeedImage} {x : Desc}
    (hlast : j.pages ≤ j.page) (hsave : (d.cal m).save = some (r, q)) (hsaved : (d.cal m).saved = some ep)
    (hnewest : ((d.programmed m j).mast m).boot.nor.newest = some g) (hpeer : (d.mast (peerOf m)).boot.nor.job = none)
    (hup : d.peerUp m = true) (hdesc : d.findDesc m r q = some x)
    (hholds : (d.mast (peerOf m)).boot.nor.holds g = true) :
    (d.programmed m j).saveDone m =
      ((d.programmed m j).onCal m (fun c => { c with save := none, saved := none })).completeAt m x .ok ep none false := by
  have hdone : ((d.programmed m j).mast m).boot.nor.job = none := by simp [Nor.job_program_of_pages_le hlast]
  exact Dev.saveDone_of_held (r := r) (q := q) (by simp [Dev.programmed, hsave])
    (by simp [Dev.programmed, hsaved]) hdone hnewest
    (by simp [Dev.programmed, hpeer]) (by simp [Dev.programmed, hup]) (by simp [Dev.programmed, hdesc])
    (by simp [Dev.programmed, hholds])

/-- With its slot erased, the serving mast programs a page and looks whether that was the end of the save. -/
theorem answers_norPageProgramDone_of_erased {s : State} {m : MastId} {j : NorJob} (hserves : Serves s.dev m)
    (hjob : (s.dev.mast m).boot.nor.job = some j) (herased : j.sectors ≤ j.erased) :
    Answers (.norPageProgramDone m) s ((s.dev.programmed m j).saveDone m) := by
  have hserves' : Serves (s.dev.programmed m j) m := (s.dev.serving_onNor m (·.program j)).trans hserves
  refine answers_of_run rfl ?_
  simp only [hjob, if_neg (Nat.not_lt.mpr herased)]
  exact Dev.act_of_serves hserves' _

/-! ## The obligation -/

/-- Settles O40: each command runs its meaning where its conditions hold; a page program ends the save only with the header
page, and then by what the standby, untouched by it, holds. -/
theorem seedSavesComplete : Obligations.SeedSavesComplete := by
  refine ⟨fun s ring seq m x hstarts hperm => ⟨answers_seedSave_of_saving hstarts hperm,
      answers_seedSave_of_idle hstarts hperm⟩, fun s m g => answers_seedSnapshot_of_alone,
    fun s m j => answers_norEraseDone_of_erasing, fun s m j hserves hjob herased => ?_⟩
  have hanswers := answers_norPageProgramDone_of_erased hserves hjob herased
  refine ⟨fun hmore => ?_, fun hlast => ?_⟩
  · have hnor := (s.dev.nor_programmed m j).trans (Nor.program_of_page_lt hmore _)
    rw [Dev.saveDone_of_writing (congrArg Nor.job hnor)] at hanswers
    exact ⟨hanswers, hnor⟩
  · refine ⟨(congrArg Nor.job (s.dev.nor_programmed m j)).trans (Nor.job_program_of_pages_le hlast _), ?_⟩
    intro r q ep g x hsave hsaved hnewest hpeer hup hdesc hholds
    rwa [Dev.saveDone_programmed_of_held hlast hsave hsaved hnewest hpeer hup hdesc hholds] at hanswers

end Sys2Proof.Machine
end

section
/-! Proofs for the paths through a Beneš network (R149). -/

namespace Sys2Proof.Machine

/-- The arm by which light leaves a cell that it enters by arm `b`: the other one where the cell is in CROSS. -/
def across (cross : Bool) (b : Nat) : Nat := if cross then 1 - b else b

theorem across_lt (cross : Bool) {b : Nat} (hb : b < 2) : across cross b < 2 := by
  unfold across
  split <;> omega

theorem across_injective (cross : Bool) {b b' : Nat} (hb : b < 2) (hb' : b' < 2) (h : across cross b = across cross b') :
    b = b' := by
  unfold across at h
  split at h <;> omega

section

variable (st : Nat → Nat → Nat × Bool)

/-- A path through one cell, the network of two ports. -/
theorem walk_one (s o x : Nat) : walk (fun a b => some (st a b)) 1 s o x =
    some (across (st s o).2 x, [((st s o).1, across (st s o).2 x)]) := rfl

/-- A path through a larger network: a cell of the first stage, the half-size network it leads to, a cell of the last. -/
theorem walk_of_half {n s o x y : Nat} {hops : List Hop}
    (h : walk (fun a b => some (st a b)) (n + 1) (s + 1) (o + across (st s (o + x / 2)).2 (x % 2) * 2 ^ n) (x / 2) = some (y, hops)) :
    let b := across (st s (o + x / 2)).2 (x % 2)
    let last := st (s + 2 * (n + 1)) (o + y)
    walk (fun a b => some (st a b)) (n + 2) s o x =
      some (2 * y + across last.2 b, ((st s (o + x / 2)).1, b) :: hops ++ [(last.1, across last.2 b)]) := by
  simp only [across] at h ⊢
  simp only [walk, h]

/-- Every input of a network leads to one of its outputs, over 2k - 1 cells. -/
theorem walk_exists (n : Nat) : ∀ s o x, x < 2 ^ (n + 1) → ∃ y hops,
    walk (fun a b => some (st a b)) (n + 1) s o x = some (y, hops) ∧ y < 2 ^ (n + 1) ∧ hops.length = 2 * (n + 1) - 1 := by
  induction n with
  | zero =>
    intro s o x hx
    exact ⟨_, _, walk_one st s o x, by simpa using across_lt (st s o).2 (by simpa using hx), rfl⟩
  | succ n ih =>
    intro s o x hx
    have hb := across_lt (st s (o + x / 2)).2 (Nat.mod_lt x (by decide : 0 < 2))
    obtain ⟨y, hops, hwalk, hy, hlen⟩ := ih (s + 1) (o + across (st s (o + x / 2)).2 (x % 2) * 2 ^ n) (x / 2)
      (by rw [Nat.pow_succ] at hx; omega)
    have hlast := across_lt (st (s + 2 * (n + 1)) (o + y)).2 hb
    refine ⟨_, _, walk_of_half st hwalk, ?_, ?_⟩
    · rw [Nat.pow_succ]; omega
    · simp only [List.length_cons, List.length_append, List.length_nil, hlen]; omega

/-- Two inputs of a network that lead to one output are the same. -/
theorem walk_injective (n : Nat) : ∀ s o x x' y h h', x < 2 ^ (n + 1) → x' < 2 ^ (n + 1) →
    walk (fun a b => some (st a b)) (n + 1) s o x = some (y, h) →
    walk (fun a b => some (st a b)) (n + 1) s o x' = some (y, h') → x = x' := by
  induction n with
  | zero =>
    intro s o x x' y h h' hx hx' hw hw'
    rw [walk_one, Option.some.injEq, Prod.mk.injEq] at hw hw'
    exact across_injective (st s o).2 (by simpa using hx) (by simpa using hx') (hw.1.trans hw'.1.symm)
  | succ n ih =>
    intro s o x x' y h h' hx hx' hw hw'
    have hhalf : x / 2 < 2 ^ (n + 1) := by rw [Nat.pow_succ] at hx; omega
    have hhalf' : x' / 2 < 2 ^ (n + 1) := by rw [Nat.pow_succ] at hx'; omega
    have hb := across_lt (st s (o + x / 2)).2 (Nat.mod_lt x (by decide : 0 < 2))
    have hb' := across_lt (st s (o + x' / 2)).2 (Nat.mod_lt x' (by decide : 0 < 2))
    obtain ⟨z, hops, hz, -, -⟩ := walk_exists st n (s + 1) (o + across (st s (o + x / 2)).2 (x % 2) * 2 ^ n) _ hhalf
    obtain ⟨z', hops', hz', -, -⟩ := walk_exists st n (s + 1) (o + across (st s (o + x' / 2)).2 (x' % 2) * 2 ^ n) _ hhalf'
    rw [walk_of_half st hz, Option.some.injEq, Prod.mk.injEq] at hw
    rw [walk_of_half st hz', Option.some.injEq, Prod.mk.injEq] at hw'
    have hlast := across_lt (st (s + 2 * (n + 1)) (o + z)).2 hb
    have hlast' := across_lt (st (s + 2 * (n + 1)) (o + z')).2 hb'
    obtain rfl : z = z' := by omega
    have harm := across_injective _ hb hb' (by omega : across (st (s + 2 * (n + 1)) (o + z)).2 _ = across _ _)
    rw [← harm] at hz'
    have hpair : x / 2 = x' / 2 := ih _ _ _ _ _ _ _ hhalf hhalf' hz hz'
    rw [← hpair] at harm
    have hside : x % 2 = x' % 2 := across_injective _ (Nat.mod_lt _ (by decide)) (Nat.mod_lt _ (by decide)) harm
    omega

end

/-- Settles O18: by induction on the network's size; the cell of the last stage tells the two half-size networks apart, and
the cell of the first stage the two inputs it has. -/
theorem benesCarriesAPermutation : Obligations.BenesCarriesAPermutation := by
  intro st k s o hk
  obtain ⟨n, rfl⟩ : ∃ n, k = n + 1 := ⟨k - 1, by omega⟩
  exact ⟨walk_exists st n s o, fun x x' y h h' => walk_injective st n s o x x' y h h'⟩

end Sys2Proof.Machine
end

section
/-! Proofs for the words of the Tiller slots (R214, R219, R220). -/

namespace Sys2Proof

/-! ## Fields of a word

The library's lemmas on the bits of `x ++ y`, indexed so that `simp` finds them in a word of 32 bits whose fields have
literal widths. -/

theorem extract_append_above {v u lo n : Nat} (x : BitVec v) (y : BitVec u) (h : u ≤ lo) :
    BitVec.extractLsb' lo n (no_index (x ++ y)) = BitVec.extractLsb' (lo - u) n x := BitVec.extractLsb'_append_eq_of_le h

theorem extract_append_below {v u lo n : Nat} (x : BitVec v) (y : BitVec u) (h : lo + n ≤ u) :
    BitVec.extractLsb' lo n (no_index (x ++ y)) = BitVec.extractLsb' lo n y := BitVec.extractLsb'_append_eq_of_add_le h

theorem getLsbD_append_above {v u i : Nat} (x : BitVec v) (y : BitVec u) (h : u ≤ i) :
    BitVec.getLsbD (no_index (x ++ y)) i = x.getLsbD (i - u) := by simp [BitVec.getLsbD_append, Nat.not_lt.mpr h]

theorem getLsbD_append_below {v u i : Nat} (x : BitVec v) (y : BitVec u) (h : i < u) :
    BitVec.getLsbD (no_index (x ++ y)) i = y.getLsbD i := by simp [BitVec.getLsbD_append, h]

@[simp] theorem amodeOf_amodeBits (mode : AMode) : amodeOf (amodeBits mode) = mode := by cases mode <;> rfl

@[simp] theorem getLsbD_bitOf (b : Bool) : (bitOf b).getLsbD 0 = b := by cases b <;> rfl

theorem decMem_encMem (op : BitVec 6) (f : MemF) : decMem (encMem op f) = f := by
  simp (disch := omega) [decMem, encMem, fieldOf, extract_append_below, extract_append_above]

theorem decAlu_encAlu (op : BitVec 6) (f : AluF) : decAlu (encAlu op f) = f := by
  simp (disch := omega) [decAlu, encAlu, fieldOf, extract_append_below, extract_append_above, getLsbD_append_above,
    getLsbD_append_below, -BitVec.getLsbD_eq_getElem]

/-! ## Reading a word back

The operations of a slot in the groups of R219 and R220: each operation's fields are found again in its own word. -/

/-- The fields of an operation's slot-A word name the operation, on core `k`. -/
def ReadsBackA (k : Nat) (i : Instr) : Prop := (encA i).bind (fieldsA k) = some i

/-- The same of slot B. -/
def ReadsBackB (k : Nat) (i : Instr) : Prop := (encB i).bind (fieldsB k) = some i

theorem extract_opcode_encMem (op : BitVec 6) (f : MemF) : (encMem op f).extractLsb' 26 6 = op := by
  simp (disch := omega) [encMem, extract_append_above]

theorem extract_opcode_encAlu (op : BitVec 6) (f : AluF) : (encAlu op f).extractLsb' 26 6 = op := by
  simp (disch := omega) [encAlu, extract_append_above]

theorem readsBackA_memory (k : Nat) :
    (∀ f, ReadsBackA k (.ldW k f)) ∧ (∀ f, ReadsBackA k (.ldH k f)) ∧ (∀ f, ReadsBackA k (.ldHu k f)) ∧
    (∀ f, ReadsBackA k (.ldD k f)) ∧ (∀ f, ReadsBackA k (.stW k f)) ∧ (∀ f, ReadsBackA k (.stH k f)) ∧
    (∀ f, ReadsBackA k (.stD k f)) ∧ (∀ f, ReadsBackA k (.ldA k f)) ∧ (∀ f, ReadsBackA k (.stA k f)) ∧
    (∀ f, ReadsBackA k (.lds k f)) ∧ (∀ f, ReadsBackA k (.sts k f)) := by
  and_intros
  all_goals
    intros
    simp only [ReadsBackA, encA, Option.bind_some, fieldsA, fieldOf, extract_opcode_encMem, decMem_encMem]
    rfl

theorem readsBackA_branch (k : Nat) :
    (∀ off, ReadsBackA k (.b k off)) ∧ (∀ n off, ReadsBackA k (.beqz k n off)) ∧ (∀ n off, ReadsBackA k (.bnez k n off)) ∧
    (∀ n off, ReadsBackA k (.bltz k n off)) ∧ (∀ n off, ReadsBackA k (.bgez k n off)) ∧
    (∀ off, ReadsBackA k (.bcnt k off)) ∧ (∀ off, ReadsBackA k (.call k off)) ∧ ReadsBackA k (.ret k) ∧
    ReadsBackA k (.reti k) ∧ (∀ off, ReadsBackA k (.movlc k off)) ∧ ReadsBackA k (.wait k) := by
  and_intros
  all_goals
    intros
    simp (disch := omega) only [ReadsBackA, encA, Option.bind_some, fieldsA, fieldOf, encBr, extract_append_above,
      extract_append_below, Nat.reduceSub, BitVec.extractLsb'_eq_self]
    rfl

theorem readsBackA_move (k : Nat) :
    ReadsBackA k (.noOperation k .a) ∧ (∀ p imm, ReadsBackA k (.movip k p imm)) ∧
    (∀ pk pj imm, ReadsBackA k (.addp k pk pj imm)) ∧ (∀ pk n imm, ReadsBackA k (.movdp k pk n imm)) ∧
    (∀ mk imm, ReadsBackA k (.movim k mk imm)) ∧ (∀ n sr, ReadsBackA k (.mfs k n sr)) ∧
    (∀ n sr, ReadsBackA k (.mts k n sr)) ∧ (∀ ak clr pd pc, ReadsBackA k (.tapm k ak clr pd pc)) ∧
    (∀ e, ReadsBackA k (.ei k e)) := by
  and_intros
  all_goals
    intros
    simp (disch := omega) only [ReadsBackA, encA, Option.bind_some, fieldsA, fieldOf, extract_append_above,
      extract_append_below, getLsbD_append_above, getLsbD_append_below, getLsbD_bitOf, Nat.reduceSub, BitVec.extractLsb'_eq_self]
    rfl

theorem readsBackA_of_encA {k : Nat} {i : Instr} {w : BitVec 32} (henc : encA i = some w) (hcore : i.bounds = [(k, 64)]) :
    ReadsBackA k i := by
  unfold encA at henc
  split at henc
  case h_32 => cases henc
  all_goals
    cases hcore
    simp only [readsBackA_memory k, readsBackA_branch k, readsBackA_move k]

theorem readsBackB_alu (k : Nat) :
    (∀ f, ReadsBackB k (.add k f)) ∧ (∀ f, ReadsBackB k (.sub k f)) ∧ (∀ f, ReadsBackB k (.and k f)) ∧
    (∀ f, ReadsBackB k (.or k f)) ∧ (∀ f, ReadsBackB k (.xor k f)) ∧ (∀ f, ReadsBackB k (.shl k f)) ∧
    (∀ f, ReadsBackB k (.shr k f)) ∧ (∀ f, ReadsBackB k (.shra k f)) ∧ (∀ f, ReadsBackB k (.min k f)) ∧
    (∀ f, ReadsBackB k (.max k f)) ∧ (∀ f, ReadsBackB k (.zsel k f)) ∧ (∀ f, ReadsBackB k (.mulh k f)) ∧
    (∀ f, ReadsBackB k (.divq k f)) := by
  and_intros
  all_goals
    intros
    simp only [ReadsBackB, encB, Option.bind_some, fieldsB, fieldOf, extract_opcode_encAlu, decAlu_encAlu]
    rfl

theorem readsBackB_immediate (k : Nat) :
    ReadsBackB k (.noOperation k .b) ∧ (∀ d a imm s, ReadsBackB k (.addi k d a imm s)) ∧
    (∀ d imm, ReadsBackB k (.movi k d imm)) ∧
    (∀ d imm, ReadsBackB k (.movhi k d imm)) ∧ (∀ abs n, ReadsBackB k (.rot k abs n)) := by
  and_intros
  all_goals
    intros
    simp (disch := omega) only [ReadsBackB, encB, Option.bind_some, fieldsB, fieldOf, extract_append_above,
      extract_append_below, getLsbD_append_above, getLsbD_append_below, getLsbD_bitOf, Nat.reduceSub, BitVec.extractLsb'_eq_self]
    rfl

theorem readsBackB_shift (k : Nat) (d a : BitVec 6) (kind : ShKind) (n : BitVec 5) (s : Bool) :
    ReadsBackB k (.shi k d a kind n s) := by
  simp (disch := omega) only [ReadsBackB, encB, Option.bind_some, fieldsB, fieldOf, extract_append_above,
    extract_append_below, getLsbD_append_above, getLsbD_append_below, getLsbD_bitOf, Nat.reduceSub, BitVec.extractLsb'_eq_self]
  cases kind <;> rfl

theorem readsBackB_accumulator (k : Nat) :
    (∀ ak x c h n clr, ReadsBackB k (.mac k ak x c h n clr)) ∧
    (∀ pair x y c n clr, ReadsBackB k (.mac2 k pair x y c n clr)) ∧ (∀ d ak sh s, ReadsBackB k (.narrow k d ak sh s)) ∧
    (∀ d ak part, ReadsBackB k (.mva k d ak part)) ∧ (∀ d ak part, ReadsBackB k (.mta k d ak part)) := by
  and_intros
  all_goals
    intros
    simp (disch := omega) only [ReadsBackB, encB, Option.bind_some, fieldsB, fieldOf, extract_append_above,
      extract_append_below, getLsbD_append_above, getLsbD_append_below, getLsbD_bitOf, Nat.reduceSub, BitVec.extractLsb'_eq_self]
    rfl

theorem readsBackB_of_encB {k : Nat} {i : Instr} {w : BitVec 32} (henc : encB i = some w) (hcore : i.bounds = [(k, 64)]) :
    ReadsBackB k i := by
  unfold encB at henc
  split at henc
  case h_25 => cases henc
  all_goals
    cases hcore
    simp only [readsBackB_alu k, readsBackB_immediate k, readsBackB_shift k, readsBackB_accumulator k]

/-! ## The obligations -/

/-- Reading with `decWith` gives the operation whose word it is, once its fields are found again. -/
theorem decWith_of_enc {fields : BitVec 32 → Option Instr} {enc : Instr → Option (BitVec 32)} {i : Instr} {w : BitVec 32}
    (henc : enc i = some w) (hfields : (enc i).bind fields = some i) (hwf : i.opWf = true) : decWith fields enc w = .ok i := by
  rw [henc, Option.bind_some] at hfields
  simp [decWith, hfields, hwf, henc]

theorem enc_of_decWith {fields : BitVec 32 → Option Instr} {enc : Instr → Option (BitVec 32)} {i : Instr} {w : BitVec 32}
    (h : decWith fields enc w = .ok i) : enc i = some w ∧ i.opWf = true := by
  unfold decWith at h
  split at h
  · cases h
  · split at h
    · cases h
    · next hwf =>
      split at h
      · next henc =>
        cases h
        exact ⟨henc, by simpa using hwf⟩
      · cases h

/-- Settles O32: group by group an operation's fields are found again in its word; the way back is how words are read. -/
theorem tillerWordsRoundTrip : Obligations.TillerWordsRoundTrip :=
  ⟨fun _ _ _ henc hwf hcore => decWith_of_enc henc (readsBackA_of_encA henc hcore) hwf,
    fun _ _ _ henc hwf hcore => decWith_of_enc henc (readsBackB_of_encB henc hcore) hwf,
    fun _ _ _ => enc_of_decWith, fun _ _ _ => enc_of_decWith⟩

/-- Settles O33: the words are closed, and the decoder runs on them. -/
theorem tillerWordsOfTheManual : Obligations.TillerWordsOfTheManual := by
  unfold Obligations.TillerWordsOfTheManual
  and_intros <;> decide +kernel

end Sys2Proof
end

section
/-! Proofs about every command at once: it completes with an effect on the block alone (R395), and a step takes one command. -/

namespace Sys2Proof.Machine

/-- Does a SHEAF_OPEN of this descriptor name a SHEAF_ID that is open (R106)? -/
def Dev.reusesSheafId (d : Dev) (ring seq : Nat) : Bool :=
  match d.startable ring seq 0x10 with
  | some (m, x) => x.ent.sheafId != 0 && x.perm 0 && (d.sheafOf m x).isSome
  | none => false

theorem exec_sheafOpen (ring seq : Nat) (ra bn ps pv rf : Bool) (base : Nat) :
    ∃ f, ∀ s, exec (.sheafOpen ring seq ra bn ps pv rf base) s =
      if s.dev.reusesSheafId ring seq then .fault .sheafIdReuse else run s f := ⟨_, fun _ => rfl⟩

/-- Every command is an effect on the block, the queue left alone, but a SHEAF_OPEN that reuses an open SHEAF_ID. -/
theorem exec_eq_run_or_reuse (c : Instr) (s : State) : (∃ f, exec c s = run s f) ∨ (exec c s = .fault .sheafIdReuse ∧
    ∃ ring seq ra bn ps pv rf base, c = .sheafOpen ring seq ra bn ps pv rf base) := by
  cases c
  case sheafOpen ring seq ra bn ps pv rf base =>
    obtain ⟨f, hf⟩ := exec_sheafOpen ring seq ra bn ps pv rf base
    rw [hf]
    split
    · exact .inr ⟨rfl, ring, seq, ra, bn, ps, pv, rf, base, rfl⟩
    · exact .inl ⟨f, rfl⟩
  all_goals exact .inl ⟨_, rfl⟩

/-- Settles O60: a command that is not refused for its SHEAF_ID is an effect on the block. -/
theorem onlySheafIdReuseStops : Obligations.OnlySheafIdReuseStops := fun c s =>
  (exec_eq_run_or_reuse c s).imp_left fun ⟨_, hrun⟩ => ⟨_, hrun⟩

/-- Settles O55: `step` reads the queue's front; a command is an effect on the block. -/
theorem stepTakesTheFront : Obligations.StepTakesTheFront := by
  refine ⟨fun s c rest h => by simp only [step, h], fun s h => by simp only [step, h], fun s t c h => ?_⟩
  obtain ⟨f, hrun⟩ | ⟨hstop, -⟩ := exec_eq_run_or_reuse c s
  · cases hrun.symm.trans h
    rfl
  · cases hstop.symm.trans h

/-- Settles O56: the label of the block as it stands under PORESET_N. -/
theorem timeSoundAtReset : Obligations.TimeSoundAtReset := by
  unfold Obligations.TimeSoundAtReset
  decide

end Sys2Proof.Machine
end

section
/-! Proofs about the beat counter and the label through every command (R24, R307, R308, R313). -/

namespace Sys2Proof.Machine

/-! ## Operations that take a continuation

They keep the clock where their continuations do; `simp` asks the same of the continuation. -/

@[simp] theorem Dev.clock_ite {p : Prop} [Decidable p] (a b : Dev) :
    (if p then a else b).clock = if p then a.clock else b.clock := apply_ite Dev.clock p a b

@[simp] theorem Dev.clock_each_of {α : Type} {d : Dev} {f : α → Dev → Dev} {l : List α}
    (hf : ∀ x e, (f x e).clock = e.clock) : (d.each l f).clock = d.clock := Dev.clock_each f hf l d

@[simp] theorem Dev.clock_act_of {d : Dev} {f : MastId → Dev} (hf : ∀ m, (f m).clock = d.clock) :
    (d.act f).clock = d.clock :=
  Dev.clock_act hf

@[simp] theorem Dev.clock_when_of {d : Dev} {b : Bool} {f : Dev → Dev}
    (hf : ∀ e, (f e).clock = e.clock) : (d.when b f).clock = d.clock := Dev.clock_when' hf rfl

@[simp] theorem Dev.clock_drawNat_of {d : Dev} {k : Nat → Dev → Dev}
    (hk : ∀ x e, (k x e).clock = e.clock) : (d.drawNat k).clock = d.clock := Dev.clock_drawNat' hk rfl

@[simp] theorem Dev.clock_barWrite_of {d : Dev} {off : Nat} {w : RegWr} {k : MastId → RegInfo → Reg64 → Dev → Dev}
    (hk : ∀ m x y e, (k m x y e).clock = e.clock) : (d.barWrite off w k).clock = d.clock := Dev.clock_barWrite' hk rfl

@[simp] theorem Dev.clock_start_of {d : Dev} {ring seq op : Nat} {k : MastId → Desc → Dev → Dev}
    (hk : ∀ m x e, (k m x e).clock = e.clock) : (d.start ring seq op k).clock = d.clock := Dev.clock_start' hk rfl

@[simp] theorem Dev.clock_need_of {d : Dev} {m : MastId} {x : Desc} {b : Nat} {k : Dev → Dev}
    (hk : ∀ e, (k e).clock = e.clock) : (d.need m x b k).clock = d.clock := Dev.clock_need' hk rfl

@[simp] theorem Dev.clock_startLasting_of {d : Dev} {ring seq op : Nat} {i : Instr} {k : MastId → Desc → Dev → Dev}
    (hk : ∀ m x e, (k m x e).clock = e.clock) :
    (d.startLasting ring seq op i k).clock = d.clock := Dev.clock_startLasting' hk rfl

@[simp] theorem Dev.clock_hbmGo_of {d : Dev} {m : MastId} {cls n : Nat} {f : Dev → Dev}
    (hf : ∀ e, (f e).clock = e.clock) : (d.hbmGo m cls n f).clock = d.clock := Dev.clock_hbmGo' hf rfl

@[simp] theorem Dev.clock_upGo_of {d : Dev} {m : MastId} {t cls : Nat} {f : Dev → Dev}
    (hf : ∀ e, (f e).clock = e.clock) : (d.upGo m t cls f).clock = d.clock := Dev.clock_upGo' hf rfl

@[simp] theorem Dev.clock_carry_of {d : Dev} {m : MastId} {t : Nat} {up : Bool} {f : Dev → Dev}
    (hf : ∀ e, (f e).clock = e.clock) : (d.carry m t up f).clock = d.clock := Dev.clock_carry' hf rfl

@[simp] theorem Dev.clock_slotOut_of {d : Dev} {m : MastId} {x : Desc} {s : SlotOut} {fail : Status → Dev → Dev} {k : Dev
    → Dev}
    (hfail : ∀ x e, (fail x e).clock = e.clock) (hk : ∀ e, (k e).clock = e.clock) :
    (d.slotOut m x s fail k).clock = d.clock := Dev.clock_slotOut' hfail hk rfl

@[simp] theorem Dev.clock_slotHold_of {d : Dev} {m : MastId} {x : Desc} {s : SlotIn} {fail : Status → Dev → Dev} {k : Dev
    → Dev}
    (hfail : ∀ x e, (fail x e).clock = e.clock) (hk : ∀ e, (k e).clock = e.clock) :
    (d.slotHold m x s fail k).clock = d.clock := Dev.clock_slotHold' hfail hk rfl

@[simp] theorem Dev.clock_slotCheck_of {d : Dev} {m : MastId} {x : Desc} {s : SlotIn} {fail : Status → Dev → Dev} {k : Dev
    → Dev}
    (hfail : ∀ x e, (fail x e).clock = e.clock) (hk : ∀ e, (k e).clock = e.clock) :
    (d.slotCheck m x s fail k).clock = d.clock := Dev.clock_slotCheck' hfail hk rfl

@[simp] theorem Dev.clock_slotIn_of {d : Dev} {m : MastId} {x : Desc} {s : SlotIn} {fail : Status → Dev → Dev} {k : Dev →
    Dev}
    (hfail : ∀ x e, (fail x e).clock = e.clock) (hk : ∀ e, (k e).clock = e.clock) :
    (d.slotIn m x s fail k).clock = d.clock := Dev.clock_slotIn' hfail hk rfl

@[simp] theorem Dev.clock_slotA_of {d : Dev} {k : Nat} {i : Instr} {f : MastId → Dev → Dev}
    (hf : ∀ x e, (f x e).clock = e.clock) : (d.slotA k i f).clock = d.clock := Dev.clock_slotA' hf rfl

@[simp] theorem Dev.clock_srA_of {d : Dev} {k : Nat} {sr : BitVec 6} {f : MastId → Dev → Dev}
    (hf : ∀ x e, (f x e).clock = e.clock) : (d.srA k sr f).clock = d.clock := Dev.clock_srA' hf rfl

@[simp] theorem Dev.clock_action_of {d : Dev} {ring seq op perm : Nat} {k : MastId → Desc → Sheaf → Dev → Dev}
    (hk : ∀ m x y e, (k m x y e).clock = e.clock) :
    (d.action ring seq op perm k).clock = d.clock := Dev.clock_action' hk rfl

@[simp] theorem Dev.clock_bulk_of {d : Dev} {ring seq op perm : Nat} {slot : SlotIn} {k : MastId → Desc → Sheaf → Dev →
    Dev}
    (hk : ∀ m x y e, (k m x y e).clock = e.clock) :
    (d.bulk ring seq op perm slot k).clock = d.clock := Dev.clock_bulk' hk rfl

@[simp] theorem Dev.clock_sign_of {d : Dev} {msg : List Byte} {k : Nat × Nat → Dev → Dev}
    (hk : ∀ x e, (k x e).clock = e.clock) : (d.sign msg k).clock = d.clock := Dev.clock_sign' hk rfl

/-! ## Commands that keep the clock -/

/-- A command that leaves the beat counter and the label as they are. -/
def KeepsClock (c : Instr) : Prop := ∀ s t, exec c s = .next t → t.dev.clock = s.dev.clock

theorem keepsClock_of_run {c : Instr} {f : Dev → Dev} (hrun : ∀ s, exec c s = run s f) (hf : ∀ d, (f d).clock = d.clock) :
    KeepsClock c := by
  intro s t h
  cases (hrun s).symm.trans h
  exact hf s.dev

/-! ### Commands made of operations that keep it -/

@[simp] theorem keepsClock_boot :
    (∀ a, KeepsClock (.poresetNRise a)) ∧ (∀ a, KeepsClock (.pcieTunnelEstablished a)) ∧ KeepsClock .pennantBootTimeout ∧
    (∀ a, KeepsClock (.ident a)) ∧ (∀ a b, KeepsClock (.load a b)) ∧ (∀ a b, KeepsClock (.norWrite a b)) ∧
    (∀ a, KeepsClock (.status a)) ∧ (∀ a b, KeepsClock (.setupRegisterWrite a b)) ∧ (∀ a b, KeepsClock (.timNowSRead a b)) ∧
    (∀ a, KeepsClock (.topoLoad a)) ∧ (∀ a, KeepsClock (.power a)) ∧ (∀ a, KeepsClock (.seedRestore a)) ∧
    (∀ a, KeepsClock (.calFull a)) ∧ (∀ a, KeepsClock (.loopArm a)) := by
  and_intros <;> intros <;> exact keepsClock_of_run (fun _ => rfl) (fun d => by simp)

@[simp] theorem keepsClock_host :
    (∀ a, KeepsClock (.pcieReset a)) ∧ (∀ a, KeepsClock (.usb4LinkDown a)) ∧ (∀ a, KeepsClock (.hifDisable a)) ∧
    (∀ a, KeepsClock (.backlogDrop a)) ∧ (∀ a b, KeepsClock (.hifAddrWrite a b)) ∧ (∀ a, KeepsClock (.hifPollWrite a)) ∧
    KeepsClock .hostLossDrained ∧ KeepsClock .poll ∧ (∀ a b, KeepsClock (.inflightTailExpiry a b)) ∧
    (∀ a b, KeepsClock (.nop a b)) ∧ (∀ a b c d, KeepsClock (.ctxOpen a b c d)) ∧ (∀ a b c, KeepsClock (.ctxRebind a b c)) ∧
    (∀ a b c d, KeepsClock (.ctxClose a b c d)) ∧ (∀ a b c, KeepsClock (.ctxCloseForce a b c)) ∧
    (∀ a b c d, KeepsClock (.ringReg a b c d)) ∧ (∀ a b c d, KeepsClock (.ringUnreg a b c d)) := by
  and_intros <;> intros <;> exact keepsClock_of_run (fun _ => rfl) (fun d => by simp)

@[simp] theorem keepsClock_sheaf :
    (∀ a b c d, KeepsClock (.connect a b c d)) ∧ (∀ a b c d, KeepsClock (.disconnect a b c d)) ∧
    (∀ a b c d e f, KeepsClock (.move a b c d e f)) ∧ (∀ a b c d, KeepsClock (.assert a b c d)) ∧
    (∀ a b c d e, KeepsClock (.setCell a b c d e)) ∧ (∀ a b c d e f, KeepsClock (.setLoop a b c d e f)) ∧
    (∀ a b c d e, KeepsClock (.setPark a b c d e)) ∧ (∀ a b c, KeepsClock (.tag a b c)) ∧
    (∀ a b c, KeepsClock (.cells a b c)) ∧ (∀ a b, KeepsClock (.epochNow a b)) := by
  and_intros <;> intros <;> exact keepsClock_of_run (fun _ => rfl) (fun d => by simp)

@[simp] theorem keepsClock_strike :
    (∀ a b, KeepsClock (.disarmFrame a b)) ∧ (∀ a, KeepsClock (.shadowRefreshDone a)) ∧
    (∀ a b, KeepsClock (.strayStrikeReport a b)) ∧ (∀ a, KeepsClock (.fabStrikeWrite a)) ∧
    (∀ a b c, KeepsClock (.topoSwap a b c)) ∧ (∀ a b, KeepsClock (.planeSwap a b)) ∧ KeepsClock .healStrikeTurn ∧
    (∀ a b, KeepsClock (.driverCheck a b)) := by
  and_intros <;> intros <;> exact keepsClock_of_run (fun _ => rfl) (fun d => by simp)

@[simp] theorem keepsClock_tile :
    (∀ a b, KeepsClock (.conversion a b)) ∧ (∀ a, KeepsClock (.lowPowerWake a)) ∧
    (∀ a b, KeepsClock (.fabMonTileWrite a b)) ∧ (∀ a b, KeepsClock (.loopLaw a b)) ∧
    (∀ a b, KeepsClock (.fabBudWrite a b)) ∧ (∀ a b c, KeepsClock (.allowanceSpent a b c)) ∧
    (∀ a b c, KeepsClock (.stayFrameCrcFail a b c)) := by
  and_intros <;> intros <;> exact keepsClock_of_run (fun _ => rfl) (fun d => by simp)

@[simp] theorem keepsClock_slotA :
    (∀ a b, KeepsClock (.ldW a b)) ∧ (∀ a b, KeepsClock (.ldH a b)) ∧ (∀ a b, KeepsClock (.ldHu a b)) ∧
    (∀ a b, KeepsClock (.ldD a b)) ∧ (∀ a b, KeepsClock (.stW a b)) ∧ (∀ a b, KeepsClock (.stH a b)) ∧
    (∀ a b, KeepsClock (.stD a b)) ∧ (∀ a b, KeepsClock (.ldA a b)) ∧ (∀ a b, KeepsClock (.stA a b)) ∧
    (∀ a b, KeepsClock (.lds a b)) ∧ (∀ a b, KeepsClock (.sts a b)) ∧ (∀ a b c, KeepsClock (.movip a b c)) ∧
    (∀ a b c d, KeepsClock (.addp a b c d)) ∧ (∀ a b c d, KeepsClock (.movdp a b c d)) ∧
    (∀ a b c, KeepsClock (.movim a b c)) ∧ (∀ a b c, KeepsClock (.mfs a b c)) ∧ (∀ a b c, KeepsClock (.mts a b c)) ∧
    (∀ a b, KeepsClock (.b a b)) ∧ (∀ a b c, KeepsClock (.beqz a b c)) ∧ (∀ a b c, KeepsClock (.bnez a b c)) ∧
    (∀ a b c, KeepsClock (.bltz a b c)) ∧ (∀ a b c, KeepsClock (.bgez a b c)) ∧ (∀ a b, KeepsClock (.bcnt a b)) ∧
    (∀ a b, KeepsClock (.call a b)) ∧ (∀ a, KeepsClock (.ret a)) ∧ (∀ a, KeepsClock (.reti a)) ∧
    (∀ a b, KeepsClock (.movlc a b)) ∧ (∀ a b c d e, KeepsClock (.tapm a b c d e)) ∧ (∀ a, KeepsClock (.wait a)) ∧
    (∀ a, KeepsClock (.waitResume a)) ∧ (∀ a b, KeepsClock (.ei a b)) := by
  and_intros <;> intros <;> exact keepsClock_of_run (fun _ => rfl) (fun d => by simp)

@[simp] theorem keepsClock_slotB :
    (∀ a b, KeepsClock (.add a b)) ∧ (∀ a b, KeepsClock (.sub a b)) ∧ (∀ a b, KeepsClock (.and a b)) ∧
    (∀ a b, KeepsClock (.or a b)) ∧ (∀ a b, KeepsClock (.xor a b)) ∧ (∀ a b, KeepsClock (.shl a b)) ∧
    (∀ a b, KeepsClock (.shr a b)) ∧ (∀ a b, KeepsClock (.shra a b)) ∧ (∀ a b, KeepsClock (.min a b)) ∧
    (∀ a b, KeepsClock (.max a b)) ∧ (∀ a b, KeepsClock (.zsel a b)) ∧ (∀ a b, KeepsClock (.mulh a b)) ∧
    (∀ a b, KeepsClock (.divq a b)) ∧ (∀ a b c d e, KeepsClock (.addi a b c d e)) ∧
    (∀ a b c d e f, KeepsClock (.shi a b c d e f)) ∧ (∀ a b c, KeepsClock (.movi a b c)) ∧
    (∀ a b c, KeepsClock (.movhi a b c)) ∧ (∀ a b c d e f g, KeepsClock (.mac a b c d e f g)) ∧
    (∀ a b c d e f g, KeepsClock (.mac2 a b c d e f g)) ∧ (∀ a b c d e, KeepsClock (.narrow a b c d e)) ∧
    (∀ a b c d, KeepsClock (.mva a b c d)) ∧ (∀ a b c d, KeepsClock (.mta a b c d)) ∧
    (∀ a b c, KeepsClock (.rot a b c)) := by
  and_intros <;> intros <;> exact keepsClock_of_run (fun _ => rfl) (fun d => by simp)

@[simp] theorem keepsClock_kernel :
    (∀ a b, KeepsClock (.illegalBundle a b)) ∧ (∀ a, KeepsClock (.kernelBudgetStop a)) ∧
    (∀ a b, KeepsClock (.codeOut a b)) ∧ (∀ a b, KeepsClock (.sqCons a b)) ∧ (∀ a b c d, KeepsClock (.kernelBind a b c d)) ∧
    (∀ a b c, KeepsClock (.kernelDrop a b c)) ∧ (∀ a b c d e, KeepsClock (.immediateWrite a b c d e)) ∧
    KeepsClock .parkNFall ∧ KeepsClock .parkNRise ∧ (∀ a b, KeepsClock (.fabDrvTileWrite a b)) ∧
    (∀ a, KeepsClock (.temperatureUpdate a)) := by
  and_intros <;> intros <;> exact keepsClock_of_run (fun _ => rfl) (fun d => by simp)

@[simp] theorem keepsClock_calibration :
    (∀ a b c d e f g, KeepsClock (.calPass a b c d e f g)) ∧ (∀ a, KeepsClock (.ditherTimeout a)) ∧
    (∀ a b, KeepsClock (.seedSave a b)) ∧ (∀ a, KeepsClock (.norEraseDone a)) := by
  and_intros <;> intros <;> exact keepsClock_of_run (fun _ => rfl) (fun d => by simp)

@[simp] theorem keepsClock_time :
    (∀ a b c, KeepsClock (.syncMessage a b c)) ∧ (∀ a b c, KeepsClock (.announceMessage a b c)) ∧
    (∀ a b c, KeepsClock (.delayReq a b c)) ∧ (∀ a, KeepsClock (.announceReceiptTimeout a)) ∧
    (∀ a b, KeepsClock (.ppsInEdge a b)) ∧ KeepsClock .ppsInLoss ∧ (∀ a, KeepsClock (.timCtlWrite a)) ∧
    (∀ a, KeepsClock (.timSet a)) ∧ (∀ a b, KeepsClock (.timPtpWrite a b)) ∧ KeepsClock .halyardClockLoss ∧
    (∀ a b, KeepsClock (.halyardTriggerSymbol a b)) ∧ (∀ a, KeepsClock (.halyardTimeCode a)) := by
  and_intros <;> intros <;> exact keepsClock_of_run (fun _ => rfl) (fun d => by simp)

@[simp] theorem keepsClock_trigInRise (ns : Nat) : KeepsClock (.trigInRise ns) :=
  keepsClock_of_run (fun _ => rfl) (fun d => by simp)

@[simp] theorem keepsClock_egress :
    (∀ a b c d, KeepsClock (.streamOpen a b c d)) ∧ (∀ a b c, KeepsClock (.streamClose a b c)) ∧
    (∀ a b c d e f g, KeepsClock (.shapeSet a b c d e f g)) ∧ (∀ a b, KeepsClock (.bandwidthWindowEnd a b)) ∧
    KeepsClock .counterSnapLatch ∧ (∀ a b, KeepsClock (.pmcSelWrite a b)) ∧ (∀ a b, KeepsClock (.ethPortWrite a b)) ∧
    (∀ a b, KeepsClock (.ethernetLinkLost a b)) ∧ (∀ a b c, KeepsClock (.rsFecErrorLimit a b c)) := by
  and_intros <;> intros <;> exact keepsClock_of_run (fun _ => rfl) (fun d => by simp)

@[simp] theorem keepsClock_fault :
    (∀ a b, KeepsClock (.faultReport a b)) ∧ (∀ a b, KeepsClock (.pcieErrorCompletion a b)) ∧
    (∀ a, KeepsClock (.winnowTestStart a)) ∧ (∀ a, KeepsClock (.fltFirstClr a)) ∧
    (∀ a b, KeepsClock (.fltPendWrite a b)) := by
  and_intros <;> intros <;> exact keepsClock_of_run (fun _ => rfl) (fun d => by simp)

@[simp] theorem keepsClock_pennant :
    KeepsClock .renewalSend ∧ (∀ a, KeepsClock (.leaseEnd a)) ∧ KeepsClock .holderSelfStop ∧
    (∀ a, KeepsClock (.handover a)) ∧ KeepsClock .handoverBegin ∧ KeepsClock .handoverRelease ∧
    (∀ a b, KeepsClock (.mirrorAcknowledgement a b)) ∧ (∀ a, KeepsClock (.penCtlWrite a)) ∧
    (∀ a, KeepsClock (.gaffLinkDown a)) := by
  and_intros <;> intros <;> exact keepsClock_of_run (fun _ => rfl) (fun d => by simp)

@[simp] theorem keepsClock_power :
    KeepsClock .admissionSlot ∧ (∀ a, KeepsClock (.domainAlive a)) ∧ (∀ a, KeepsClock (.tileEnabled a)) ∧
    KeepsClock .sprintLimit ∧ KeepsClock .sprintWaitEnd ∧ (∀ a, KeepsClock (.junctionSample a)) ∧
    (∀ a, KeepsClock (.thermalRestart a)) ∧ (∀ a, KeepsClock (.pwrHtrWrite a)) ∧ (∀ a, KeepsClock (.pmbusPoll a)) ∧
    (∀ a, KeepsClock (.pmbAlertNFall a)) := by
  and_intros <;> intros <;> exact keepsClock_of_run (fun _ => rfl) (fun d => by simp)

@[simp] theorem keepsClock_memory :
    (∀ a b c, KeepsClock (.identRead a b c)) ∧ (∀ a, KeepsClock (.sramBankCopyDone a)) ∧
    (∀ a b c d, KeepsClock (.hbmEccError a b c d)) ∧ (∀ a, KeepsClock (.hbmRebuildDone a)) ∧
    (∀ a b c, KeepsClock (.memoryScrub a b c)) ∧ (∀ a b c d, KeepsClock (.defaultTargetAccess a b c d)) ∧
    (∀ a, KeepsClock (.yrdErrClr a)) ∧ (∀ a b, KeepsClock (.yardBypassSwitch a b)) ∧ (∀ a, KeepsClock (.init a)) ∧
    (∀ a b, KeepsClock (.feedB a b)) ∧ (∀ a b, KeepsClock (.feedH a b)) ∧ (∀ a b, KeepsClock (.feedW a b)) ∧
    (∀ a, KeepsClock (.result a)) ∧ (∀ a, KeepsClock (.crcScanStart a)) ∧ (∀ a, KeepsClock (.refclkLoss a)) ∧
    (∀ a, KeepsClock (.refclkReturn a)) ∧ (∀ a b c, KeepsClock (.rcRegisterRead a b c)) ∧
    (∀ a b, KeepsClock (.ethernetLinkUp a b)) ∧ (∀ a, KeepsClock (.halyardClockLock a)) ∧ KeepsClock .powerFailure := by
  and_intros <;> intros <;> exact keepsClock_of_run (fun _ => rfl) (fun d => by simp)


/-! ### Commands that look at the block first: directly, for the serving mast, for a descriptor, for a write -/

@[simp] theorem keepsClock_cases :
    (∀ a, KeepsClock (.armedSheafTimeout a)) ∧ (∀ a b, KeepsClock (.noOperation a b)) ∧ (∀ a, KeepsClock (.slewStep a)) ∧
    (∀ a, KeepsClock (.norPageProgramDone a)) ∧ (∀ a b c d e f, KeepsClock (.followUp a b c d e f)) ∧
    (∀ a b c d e f, KeepsClock (.delayResp a b c d e f)) ∧ (∀ a, KeepsClock (.faultVectorHoldoffEnd a)) ∧
    (∀ a b, KeepsClock (.winnowTestTimeout a b)) ∧ (∀ a, KeepsClock (.idleFrame a)) ∧ KeepsClock .pennantClaim ∧
    (∀ a, KeepsClock (.claimFrame a)) ∧ (∀ a, KeepsClock (.claimReachTimeout a)) ∧ KeepsClock .pennantSettlement ∧
    (∀ a, KeepsClock (.releaseFrame a)) ∧ KeepsClock .handoverWord ∧ KeepsClock .standbyRejoin ∧ KeepsClock .norHoldupEnd ∧
    (∀ a b, KeepsClock (.crcScanDone a b)) := by
  and_intros <;> intros
  all_goals
    refine keepsClock_of_run (fun _ => rfl) (fun d => ?_)
    split <;> simp

@[simp] theorem keepsClock_nestedCases :
    (∀ a, KeepsClock (.bootImageVerified a)) ∧ (∀ a, KeepsClock (.selfCalibrationDone a)) ∧
    (∀ a b c, KeepsClock (.hifEnable a b c)) ∧ (∀ a b c d e, KeepsClock (.strikeWord a b c d e)) ∧
    (∀ a, KeepsClock (.gainTake a)) ∧ (∀ a, KeepsClock (.holdoverEnd a)) ∧
    (∀ a b c d, KeepsClock (.ethFrameReceive a b c d)) ∧ KeepsClock .journalEntry ∧ KeepsClock .gaffMirror ∧
    (∀ a b c d e f, KeepsClock (.sramEccError a b c d e f)) ∧ KeepsClock .gaffLinkTrained := by
  and_intros <;> intros
  all_goals
    refine keepsClock_of_run (fun _ => rfl) (fun d => ?_)
    dsimp only
    repeat' split
    all_goals simp

@[simp] theorem keepsClock_serving :
    KeepsClock .seedRestoreDone ∧ KeepsClock .stageReady ∧ (∀ a b c, KeepsClock (.descriptorFetchReturn a b c)) ∧
    (∀ a, KeepsClock (.coalescingTimeout a)) ∧ (∀ a b, KeepsClock (.badOpcode a b)) ∧
    (∀ a b, KeepsClock (.ctxCloseComplete a b)) ∧ (∀ a b, KeepsClock (.ringUnregComplete a b)) ∧
    (∀ a b, KeepsClock (.scheduledDuePoint a b)) ∧ (∀ a b, KeepsClock (.stagingFrame a b)) ∧ KeepsClock .armFrameSend ∧
    (∀ a b, KeepsClock (.armFrame a b)) ∧ KeepsClock .strikeWordSend ∧ KeepsClock .repairWordSend ∧
    (∀ a, KeepsClock (.driverMismatchReport a)) ∧ (∀ a, KeepsClock (.exitReport a)) ∧
    (∀ a b, KeepsClock (.sampleFrame a b)) ∧ (∀ a, KeepsClock (.heaterCodeFrame a)) ∧ KeepsClock .heaterCodeDeadline ∧
    KeepsClock .flightRecordFrame ∧ KeepsClock .frameDropped ∧ (∀ a b, KeepsClock (.serviceContextRun a b)) ∧
    (∀ a b, KeepsClock (.kernelLoadDone a b)) ∧ (∀ a, KeepsClock (.heaterLimitReport a)) ∧
    (∀ a, KeepsClock (.passPlanDone a)) ∧ (∀ a b c d e f, KeepsClock (.dwell a b c d e f)) ∧
    (∀ a b, KeepsClock (.calReadDone a b)) ∧ KeepsClock .seedSnapshot ∧ KeepsClock .ppsOutEnd ∧
    (∀ a, KeepsClock (.captureTimeEvent a)) ∧ (∀ a, KeepsClock (.triggerSettle a)) ∧ KeepsClock .trigOutEnd ∧
    (∀ a, KeepsClock (.captureRateStep a)) ∧ (∀ a, KeepsClock (.captureStop a)) ∧ (∀ a, KeepsClock (.captureDrainEnd a)) ∧
    (∀ a, KeepsClock (.streamCloseDrained a)) ∧ (∀ a, KeepsClock (.streamCloseTimeout a)) ∧
    (∀ a, KeepsClock (.packetCloseTimeout a)) ∧ (∀ a, KeepsClock (.templateResend a)) ∧
    (∀ a, KeepsClock (.renewalFrame a)) ∧ (∀ a, KeepsClock (.renewalAck a)) ∧ KeepsClock .hoverDwellEnd ∧
    KeepsClock .junctionWarningClear := by
  and_intros <;> intros
  all_goals
    refine keepsClock_of_run (fun _ => rfl) (fun d => Dev.clock_act_of (fun m => ?_))
    repeat' split
    all_goals simp

@[simp] theorem keepsClock_servingLet :
    (∀ a, KeepsClock (.topoTableFetched a)) ∧ KeepsClock .fetchGrant ∧ (∀ a b, KeepsClock (.mapReadDone a b)) ∧
    (∀ a b, KeepsClock (.scheduledDecisionBeat a b)) ∧ KeepsClock .sheafTurn ∧ (∀ a, KeepsClock (.routeSolveDone a)) ∧
    KeepsClock .migrationShadowSettled ∧ KeepsClock .decisionToStrike ∧ KeepsClock .topoSwapApply ∧
    (∀ a, KeepsClock (.interruptEntry a)) ∧ (∀ a, KeepsClock (.kernelBindApply a)) ∧ KeepsClock .passStart ∧
    (∀ a b, KeepsClock (.roundStart a b)) ∧ KeepsClock .applicationBoundary ∧ KeepsClock .halyardSlot ∧
    (∀ a, KeepsClock (.captureWatchRead a)) ∧ (∀ a, KeepsClock (.portTransmit a)) ∧ KeepsClock .receiptSigned := by
  and_intros <;> intros
  all_goals
    refine keepsClock_of_run (fun _ => rfl) (fun d => Dev.clock_act_of (fun m => ?_))
    dsimp only
    repeat' split
    all_goals simp

@[simp] theorem keepsClock_descriptor :
    (∀ a b, KeepsClock (.sheafAbort a b)) ∧ (∀ a b c, KeepsClock (.permute a b c)) ∧
    (∀ a b c d, KeepsClock (.mapRead a b c d)) ∧ (∀ a b c d e, KeepsClock (.calRead a b c d e)) ∧
    (∀ a b c d, KeepsClock (.counterSnap a b c d)) := by
  and_intros <;> intros
  all_goals
    refine keepsClock_of_run (fun _ => rfl) (fun d => Dev.clock_start_of (fun m x d => ?_))
    repeat' split
    all_goals simp

@[simp] theorem keepsClock_permitted :
    (∀ a b c d, KeepsClock (.kernelLoad a b c d)) ∧
    (∀ a b c, KeepsClock (.capFire a b c)) ∧ (∀ a b c, KeepsClock (.capCancel a b c)) := by
  and_intros <;> intros
  all_goals
    refine keepsClock_of_run (fun _ => rfl) (fun d => Dev.clock_start_of (fun m x d => Dev.clock_need_of (fun d => ?_)))
    repeat' split
    all_goals simp

@[simp] theorem keepsClock_capArm (a b c d e f g h i j k l m n) : KeepsClock (.capArm a b c d e f g h i j k l m n) := by
  refine keepsClock_of_run (fun _ => rfl) (fun d => Dev.clock_start_of (fun m x d => Dev.clock_need_of (fun d => ?_)))
  dsimp only
  repeat' split
  all_goals simp

@[simp] theorem keepsClock_write :
    (∀ a, KeepsClock (.fabTileEnWrite a)) ∧ (∀ a, KeepsClock (.fltFenceCmd a)) := by
  and_intros <;> intros
  all_goals
    refine keepsClock_of_run (fun _ => rfl) (fun d => Dev.clock_barWrite_of (fun m i v d => ?_))
    repeat' split
    all_goals simp

/-! ### The others -/

@[simp] theorem keepsClock_sheafOpen (ring seq : Nat) (ra bn ps pv rf : Bool) (base : Nat) :
    KeepsClock (.sheafOpen ring seq ra bn ps pv rf base) := by
  intro s t h
  replace h : (if s.dev.reusesSheafId ring seq then .fault .sheafIdReuse else run s _) = .next t := h
  split at h
  · cases h
  · cases h
    simp [State.onDev]

theorem Dev.clock_watchLatch (d : Dev) : d.watchLatch.clock = d.clock := by
  simp only [Dev.watchLatch, Dev.clock_judgeProtect, Dev.clock_channelsBack, Dev.clock_latchMast]
  exact Dev.clock_act' (fun m => by simp) rfl

theorem Dev.clock_watchWork (d : Dev) (v : List Nat) (c : List (Nat × Nat)) (l : List Nat) :
    (d.watchWork v c l).clock = d.clock := by
  simp [Dev.watchWork]

@[simp] theorem keepsClock_watchBoundary (v : List Nat) (c : List (Nat × Nat)) (l : List Nat) :
    KeepsClock (.watchBoundary v c l) :=
  keepsClock_of_run (exec_watchBoundary v c l) (fun d => Dev.clock_if rfl
    ((Dev.clock_watchWork _ v c l).trans d.clock_watchLatch))

theorem Dev.clock_strikeOn (d : Dev) (m : MastId) (y : Sheaf) (x : Option Desc) : (d.strikeOn m y x).clock = d.clock := by
  simp [Dev.strikeOn]

@[simp] theorem keepsClock_strikeBeat : KeepsClock .strikeBeat := by
  refine keepsClock_of_run exec_strikeBeat (fun d => Dev.clock_act_of (fun m => ?_))
  split
  · rfl
  · split
    · rfl
    · refine Dev.clock_if rfl ?_
      dsimp only
      split <;> simp [Dev.clock_strikeOn]

@[simp] theorem keepsClock_usb4LinkTraining (m : MastId) (mode : LinkMode) : KeepsClock (.usb4LinkTraining m mode) := by
  refine keepsClock_of_run (fun _ => rfl) (fun d => ?_)
  cases mode <;> simp

@[simp] theorem keepsClock_hostLoss : KeepsClock .hostLoss := by
  refine keepsClock_of_run (fun _ => rfl) (fun d => Dev.clock_each_of (fun m e => ?_))
  split <;> simp

@[simp] theorem keepsClock_penCtlSync : KeepsClock .penCtlSync := by
  refine keepsClock_of_run (fun _ => rfl) (fun d => Dev.clock_each_of (fun m e => ?_))
  split <;> simp

@[simp] theorem keepsClock_parkRelease : KeepsClock .parkRelease := by
  refine keepsClock_of_run (fun _ => rfl) (fun d => Dev.clock_each_of (fun t e => ?_))
  split <;> simp

@[simp] theorem keepsClock_summaryLineReturn (line : Option (BitVec 512)) (sweep : List Doorbell) :
    KeepsClock (.summaryLineReturn line sweep) := by
  refine keepsClock_of_run (fun _ => rfl) (fun d => Dev.clock_act_of (fun m => ?_))
  refine Dev.clock_if rfl ?_
  cases line with
  | none => simp
  | some l =>
    refine (Dev.clock_each_of (fun g e => (Dev.clock_each_of (fun i e => ?_)).trans (by simp))).trans (by simp)
    split <;> simp

@[simp] theorem keepsClock_doorbellBurstReturn (dbs : List Doorbell) (spec : List (Nat × List (List Byte))) (bad :
    List Nat) :
    KeepsClock (.doorbellBurstReturn dbs spec bad) := by
  refine keepsClock_of_run (fun _ => rfl) (fun d => Dev.clock_act_of (fun m => Dev.clock_if rfl ?_))
  simp only [Dev.clock_acceptBursts, Dev.clock_consult, Dev.clock_learn, implies_true, Dev.clock_each_of]
  refine Dev.clock_each_of (fun i e => ?_)
  split <;> simp

@[simp] theorem keepsClock_calendarTick : KeepsClock .calendarTick := by
  refine keepsClock_of_run (fun _ => rfl) (fun d => Dev.clock_act_of (fun m => Dev.clock_if rfl ?_))
  refine (Dev.clock_each_of (fun i e => ?_)).trans (Dev.clock_each_of (fun i e => ?_)) <;> split <;> simp

@[simp] theorem keepsClock_ctxRebindComplete (ring seq : Nat) (ent : Option CtxEntry) (rings :
    List (Nat × Option RingEntry)) :
    KeepsClock (.ctxRebindComplete ring seq ent rings) := by
  refine keepsClock_of_run (fun _ => rfl) (fun d => Dev.clock_act_of (fun m => ?_))
  split
  · rfl
  · split
    · split
      · rfl
      · refine Dev.clock_if rfl ((Dev.clock_complete _ _ _ _).trans ?_)
        refine Dev.clock_each' (fun r e => by split <;> simp) (Dev.clock_each' (fun r e => by split <;> simp) ?_)
        simp
    · rfl

@[simp] theorem keepsClock_winCfgWrite (win : Nat) (w : RegWr) : KeepsClock (.winCfgWrite win w) := by
  refine keepsClock_of_run (fun _ => rfl) (fun d => Dev.clock_if rfl (Dev.clock_barWrite_of (fun m i v d => ?_)))
  dsimp only
  repeat' split
  all_goals simp

@[simp] theorem keepsClock_sheafCommit (ring seq : Nat) (at_ : Option Stamp) : KeepsClock (.sheafCommit ring seq at_) := by
  refine keepsClock_of_run (fun _ => rfl) (fun d => Dev.clock_start_of (fun m x e => ?_))
  split
  · simp
  · refine Dev.clock_need_of (fun e => ?_)
    dsimp only
    repeat' split
    all_goals simp

@[simp] theorem keepsClock_stageAcknowledgement (t : Nat) : KeepsClock (.stageAcknowledgement t) := by
  refine keepsClock_of_run (fun _ => rfl) (fun d => Dev.clock_act_of (fun m => ?_))
  split
  · refine Dev.clock_upGo_of (fun e => ?_)
    dsimp only
    repeat' split
    all_goals simp
  · rfl

@[simp] theorem keepsClock_stageRefusal (t : Nat) : KeepsClock (.stageRefusal t) := by
  refine keepsClock_of_run (fun _ => rfl) (fun d => Dev.clock_act_of (fun m => ?_))
  split
  · refine Dev.clock_upGo_of (fun e => ?_)
    dsimp only
    split <;> simp
  · rfl

@[simp] theorem keepsClock_strikeMissReport (t : Nat) : KeepsClock (.strikeMissReport t) := by
  refine keepsClock_of_run (fun _ => rfl) (fun d => Dev.clock_act_of (fun m => ?_))
  split
  · rfl
  · refine Dev.clock_upGo_of (fun e => ?_)
    dsimp only
    split <;> simp

@[simp] theorem keepsClock_plan (ring seq : Nat) (i : SlotIn) (o : SlotOut) : KeepsClock (.plan ring seq i o) := by
  refine keepsClock_of_run (fun _ => rfl) (fun d => Dev.clock_start_of (fun m x d => Dev.clock_need_of (fun d => ?_)))
  refine Dev.clock_slotHold_of (by simp) (fun d => Dev.clock_slotOut_of (by simp) (fun d => ?_))
  simp

@[simp] theorem keepsClock_threshPhaseEnd (t : Nat) : KeepsClock (.threshPhaseEnd t) := by
  refine keepsClock_of_run (fun _ => rfl) (fun d => Dev.clock_act_of (fun m => Dev.clock_if rfl ?_))
  simp only
  split
  · simp
  · simp

@[simp] theorem keepsClock_winnowTestEnd (m : MastId) (u : FUnit) (seen : List Int) :
    KeepsClock (.winnowTestEnd m u seen) := by
  refine keepsClock_of_run (fun _ => rfl) (fun d => ?_)
  split
  · rfl
  · refine Dev.clock_if rfl ?_
    split <;> simp

@[simp] theorem keepsClock_tileDisable (t : Nat) : KeepsClock (.tileDisable t) := by
  refine keepsClock_of_run (fun _ => rfl) (fun d => Dev.clock_if rfl ?_)
  refine (Dev.clock_act_of (fun m => ?_)).trans rfl
  simp

@[simp] theorem keepsClock_receipt (ring seq e : Nat) (slot : SlotOut) (nonce : BitVec 256) :
    KeepsClock (.receipt ring seq e slot nonce) := by
  refine keepsClock_of_run (fun _ => rfl) (fun d => Dev.clock_start_of (fun m x d => Dev.clock_need_of (fun d => ?_)))
  refine Dev.clock_if (by simp) ((Dev.clock_slotOut_of (by simp) (fun d => Dev.clock_if (by simp) ?_)).trans (by simp))
  dsimp only
  split
  · refine Dev.clock_if ?_ ?_ <;> simp
  · simp

@[simp] theorem keepsClock_keyProgram (ring seq : Nat) (slot : SlotIn) : KeepsClock (.keyProgram ring seq slot) := by
  refine keepsClock_of_run (fun _ => rfl) (fun d => Dev.clock_start_of (fun m x d => Dev.clock_need_of (fun d => ?_)))
  refine Dev.clock_if (by simp) ((Dev.clock_slotIn_of (by simp) (fun d => Dev.clock_if (by simp) ?_)).trans (by simp))
  split <;> simp

@[simp] theorem keepsClock_keyRevoke (ring seq : Nat) (slot : SlotIn) : KeepsClock (.keyRevoke ring seq slot) := by
  refine keepsClock_of_run (fun _ => rfl) (fun d => Dev.clock_start_of (fun m x d => Dev.clock_need_of (fun d => ?_)))
  refine Dev.clock_if (by simp) ((Dev.clock_slotIn_of (by simp) (fun d => Dev.clock_if (by simp) ?_)).trans (by simp))
  split <;> simp

theorem keepsClock_of_ne (c : Instr) (hbeat : c ≠ .beatBoundary) (hstep : c ≠ .timebaseStep) (hfall : c ≠ .poresetNFall)
    (htrip : c ≠ .thermalTrip) : KeepsClock c := by
  cases c
  case beatBoundary => exact absurd rfl hbeat
  case timebaseStep => exact absurd rfl hstep
  case poresetNFall => exact absurd rfl hfall
  case thermalTrip => exact absurd rfl htrip
  all_goals simp

/-- Settles O59: command by command, through the operations that each is made of. -/
theorem clockMovesOnlyAtItsCommands : Obligations.ClockMovesOnlyAtItsCommands := by
  intro c s t h hbeat hstep hfall htrip
  exact Prod.mk.inj (keepsClock_of_ne c hbeat hstep hfall htrip s t h)

end Sys2Proof.Machine
end

section
/-! Proofs about the label: every command keeps it sound (R24, R307, R308, R313, R327). -/

namespace Sys2Proof.Machine

/-! ## Labels -/

theorem beatLabelOk_stampOf {n : Nat} (h : n % 100 = 0) : BeatLabelOk (stampOf n) := by
  simp only [BeatLabelOk, LabelOk, stampOf]
  omega

theorem beatLabelOk_roundUpBeat (t : Stamp) : BeatLabelOk (roundUpBeat t) := beatLabelOk_stampOf (by omega)

theorem stampNs_mod_hundred {t : Stamp} (h : BeatLabelOk t) : stampNs t % 100 = 0 := by
  obtain ⟨-, h⟩ := h
  simp only [stampNs]
  omega

theorem beatLabelOk_moveLabel {t : Stamp} (h : BeatLabelOk t) {ns : Int} (hns : ns % 100 = 0) :
    BeatLabelOk (moveLabel t ns) := by
  have := stampNs_mod_hundred h
  exact beatLabelOk_stampOf (by omega)

theorem beatLabelOk_nextLabel {t : Stamp} (h : BeatLabelOk t) : BeatLabelOk (nextLabel t) := by
  obtain ⟨⟨hsec, hns⟩, hbeat⟩ := h
  simp only [BeatLabelOk, LabelOk, nextLabel]
  split <;> dsimp only <;> omega

theorem beatLabelOk_zeroNs (n : Nat) : BeatLabelOk ⟨n % 2 ^ 48, 0⟩ := 
  ⟨⟨Nat.mod_lt _ (by decide), Nat.zero_lt_succ _⟩, rfl⟩

theorem Dev.beatLabelOk_label {d : Dev} (h : BeatLabelOk d.now) : BeatLabelOk d.label := by
  unfold Dev.label
  dsimp only
  repeat' split
  case h_1.isTrue => exact beatLabelOk_zeroNs _
  all_goals exact beatLabelOk_nextLabel h

/-! ## What moves the label -/

/-- A label stays sound through what keeps the clock. -/
theorem Dev.beatLabelOk_of_clock {d e : Dev} (hclock : d.clock = e.clock) (h : BeatLabelOk e.now) : BeatLabelOk d.now :=
  Dev.now_of_clock hclock ▸ h

theorem Dev.beatLabelOk_act {d : Dev} {f : MastId → Dev} (hf : ∀ m, BeatLabelOk (f m).now) (h : BeatLabelOk d.now) :
    BeatLabelOk (d.act f).now := by
  unfold Dev.act
  split
  · exact h
  · exact hf _

theorem Dev.clock_stepTime (d : Dev) (m : MastId) (t : Stamp) : (d.stepTime m t).clock = (d.beat, t) := by
  unfold Dev.stepTime
  dsimp only
  split <;> simp only [Dev.clock_report, Dev.clock_onTim] <;> rfl

theorem Dev.now_stepTime (d : Dev) (m : MastId) (t : Stamp) : (d.stepTime m t).now = t :=
  congrArg Prod.snd (d.clock_stepTime m t)

theorem Dev.beatLabelOk_halStep {d : Dev} (m : MastId) (h : BeatLabelOk d.now) : BeatLabelOk (d.halStep m).now := by
  unfold Dev.halStep
  split
  · next t _ =>
    split
    · exact Dev.beatLabelOk_of_clock (Dev.clock_onHal _ m _) (Dev.now_stepTime d m _ ▸ beatLabelOk_roundUpBeat t)
    · exact h
  · exact h

theorem Dev.beatLabelOk_beatTimebase {d : Dev} (h : BeatLabelOk d.now) : BeatLabelOk d.beatTimebase.now := by
  refine Dev.beatLabelOk_act (fun m => ?_) h
  refine Dev.beatLabelOk_of_clock (Dev.clock_pps _ m) (Dev.beatLabelOk_halStep m ?_)
  refine Dev.beatLabelOk_of_clock (Dev.clock_onTim _ m _) ?_
  split
  · exact Dev.beatLabelOk_of_clock (Dev.clock_onTim d m _) h
  · exact h

/-! ## The four commands that move it -/

/-- A command leaves a sound label, where it leaves one. -/
def KeepsLabelSound (c : Instr) : Prop := ∀ s t : State, BeatLabelOk s.dev.now → exec c s = .next t → BeatLabelOk t.dev.now

theorem keepsLabelSound_of_run {c : Instr} {f : Dev → Dev} (hc : ∀ s, exec c s = run s f)
    (hf : ∀ d, BeatLabelOk d.now → BeatLabelOk (f d).now) : KeepsLabelSound c := by
  intro s t hs h
  cases (hc s).symm.trans h
  exact hf s.dev hs

theorem keepsLabelSound_of_keepsClock {c : Instr} (hc : KeepsClock c) : KeepsLabelSound c :=
  fun s t hs h => Dev.beatLabelOk_of_clock (hc s t h) hs

theorem keepsLabelSound_beatBoundary : KeepsLabelSound .beatBoundary := by
  refine keepsLabelSound_of_run exec_beatBoundary (fun d h => ?_)
  split
  · exact h
  · refine Dev.beatLabelOk_of_clock (Dev.clock_beatWork _) (Dev.beatLabelOk_beatTimebase ?_)
    exact Dev.beatLabelOk_label h

theorem keepsLabelSound_timebaseStep : KeepsLabelSound .timebaseStep := by
  refine keepsLabelSound_of_run (fun _ => rfl) (fun d h => Dev.beatLabelOk_act (fun m => ?_) h)
  split
  · exact h
  · next k b _ =>
    split
    · refine Dev.beatLabelOk_of_clock (Dev.clock_ppsMoved _ m _) ?_
      exact Dev.now_stepTime d m _ ▸ beatLabelOk_moveLabel h (by omega)
    · exact h

theorem keepsLabelSound_poresetNFall : KeepsLabelSound .poresetNFall :=
  keepsLabelSound_of_run (fun _ => rfl) (fun _ _ => beatLabelOk_zeroNs 0)

theorem keepsLabelSound_thermalTrip : KeepsLabelSound .thermalTrip := by
  refine keepsLabelSound_of_run (fun _ => rfl) (fun d h => ?_)
  split
  · exact h
  · simp only [Dev.now_onBoot]
    exact beatLabelOk_zeroNs 0

theorem keepsLabelSound (c : Instr) : KeepsLabelSound c := by
  by_cases hbeat : c = .beatBoundary
  · exact hbeat ▸ keepsLabelSound_beatBoundary
  by_cases hstep : c = .timebaseStep
  · exact hstep ▸ keepsLabelSound_timebaseStep
  by_cases hfall : c = .poresetNFall
  · exact hfall ▸ keepsLabelSound_poresetNFall
  by_cases htrip : c = .thermalTrip
  · exact htrip ▸ keepsLabelSound_thermalTrip
  exact keepsLabelSound_of_keepsClock (keepsClock_of_ne c hbeat hstep hfall htrip)

/-- Settles O57: a step runs the front command, and every command keeps the label sound. -/
theorem stepsKeepTimeSound : Obligations.StepsKeepTimeSound := by
  obtain ⟨hfront, hidle, -⟩ := stepTakesTheFront
  intro s t hs h
  cases hp : s.pending with
  | nil =>
    cases (hidle s hp).symm.trans h
    exact hs
  | cons c rest => exact keepsLabelSound c ⟨rest, s.dev⟩ t hs ((hfront s c rest hp).symm.trans h)

end Sys2Proof.Machine
end

section
/-! Proofs about the cycle that a result lands in (R221). -/

namespace Sys2Proof.Machine

/-! ## Landing in one cycle and over several -/

theorem landOne_of_none_due {l : List Landing} {t : Nat} (hnone : ∀ x ∈ l, x.ready ≠ t) (r : CoreRegs) : landOne r l t = r := by
  have hfilter : l.filter (fun x => x.ready == t) = [] := by simpa using hnone
  simp only [landOne, hfilter, List.filter_nil, List.foldl_nil]

theorem landOne_of_one_due {l : List Landing} {t : Nat} {x : Landing} (hone : l.filter (fun y => y.ready == t) = [x])
    (r : CoreRegs) : landOne r l t = r.put x.dest x.val := by
  simp only [landOne, hone]
  cases hslot : x.slot <;> simp [hslot]

theorem landRange_succ_last (r : CoreRegs) (l : List Landing) (t n : Nat) :
    landRange r l t (n + 1) = landOne (landRange r l t n) l (t + n + 1) := by
  induction n generalizing r t with
  | zero => rfl
  | succ n ih =>
    show landRange (landOne r l (t + 1)) l (t + 1) (n + 1) = _
    rw [ih, Nat.add_right_comm t 1 n]
    rfl

theorem landRange_of_none_due {l : List Landing} {t n : Nat} (hnone : ∀ x ∈ l, x.ready ≤ t ∨ t + n < x.ready) (r : CoreRegs) :
    landRange r l t n = r := by
  induction n with
  | zero => rfl
  | succ n ih =>
    rw [landRange_succ_last, ih (fun x hx => (hnone x hx).imp_right (by omega)), landOne_of_none_due]
    intro x hx
    have := hnone x hx
    omega

/-- Where the last of the cycles is the only one with a result due, only that cycle's land. -/
theorem landRange_of_last_due {l : List Landing} {t n : Nat} (hpos : 1 ≤ n) (hlast : ∀ x ∈ l, x.ready ≤ t ∨ t + n ≤ x.ready)
    (r : CoreRegs) : landRange r l t n = landOne r l (t + n) := by
  obtain ⟨n, rfl⟩ := Nat.exists_eq_add_of_le' hpos
  rw [landRange_succ_last, landRange_of_none_due]
  · rfl
  · exact fun x hx => (hlast x hx).imp_right (by omega)

theorem landRange_add (r : CoreRegs) (l : List Landing) (t n k : Nat) :
    landRange r l t (n + k) = landRange (landRange r l t n) l (t + n) k := by
  induction k with
  | zero => rfl
  | succ k ih => rw [← Nat.add_assoc, landRange_succ_last, landRange_succ_last, ih, Nat.add_assoc t n k]

theorem Core.r_pass {n : Nat} (hmax : n ≤ 10) (c : Core) : (c.pass n).r = landRange c.r c.land c.cycle n := by
  simp only [Core.pass, maxLatency, show Nat.min n 10 = n from Nat.min_eq_left hmax]

/-! ## Results of data registers -/

theorem Core.dr_of_put {c : Core} {r : CoreRegs} {dn : BitVec 6} {v : Word}
    (hput : c.r = r.put (.d (physD r.rb dn)) (v.setWidth 72)) : c.dr dn = v := by
  simp [Core.dr, hput, CoreRegs.put]

theorem Core.land_dueD {c : Core} (s : Slot) (n : Nat) (dn : BitVec 6) (v : Word) :
    (c.dueD s n dn v).land = c.land ++ [⟨c.cycle + n, s, .d (physD c.r.rb dn), v.setWidth 72⟩] := rfl

@[simp] theorem Core.r_dueD (c : Core) (s : Slot) (n : Nat) (dn : BitVec 6) (v : Word) : (c.dueD s n dn v).r = c.r := rfl

@[simp] theorem Core.cycle_dueD (c : Core) (s : Slot) (n : Nat) (dn : BitVec 6) (v : Word) :
    (c.dueD s n dn v).cycle = c.cycle := rfl

theorem Core.r_pass_before {c : Core} (hidle : c.land = []) (s : Slot) {n j : Nat} (hmax : n ≤ 10) (hj : j < n) (dn : BitVec 6)
    (v : Word) : ((c.dueD s n dn v).pass j).r = c.r := by
  rw [Core.r_pass (by omega), Core.land_dueD, hidle]
  exact landRange_of_none_due (by simp; omega) c.r

theorem Core.dr_pass_due {c : Core} (hidle : c.land = []) (s : Slot) {n : Nat} (hpos : 1 ≤ n) (hmax : n ≤ 10) (dn : BitVec 6)
    (v : Word) : ((c.dueD s n dn v).pass n).dr dn = v :=
  Core.dr_of_put (Core.r_pass_due hidle s hpos hmax _ _)

section
variable {c : Core} (hidle : c.land = []) (sl sl' : Slot) {n n' : Nat} (hpos : 1 ≤ n) (hlt : n < n') (dn : BitVec 6)
  (v v' : Word)
include hidle hpos hlt

/-- Of two results for a register, the earlier one has landed at its own cycle. -/
theorem Core.r_pass_earlier (hmax : n ≤ 10) :
    (((c.dueD sl' n' dn v').dueD sl n dn v).pass n).r = c.r.put (.d (physD c.r.rb dn)) (v.setWidth 72) := by
  simp only [Core.r_pass hmax, Core.land_dueD, Core.r_dueD, Core.cycle_dueD, hidle]
  rw [landRange_of_last_due hpos (by simp; omega)]
  exact landOne_of_one_due (x := ⟨c.cycle + n, sl, .d (physD c.r.rb dn), v.setWidth 72⟩)
    (by simp [hlt.ne'])  c.r

/-- The later one lands over it. -/
theorem Core.r_pass_later (hmax : n' ≤ 10) : (((c.dueD sl' n' dn v').dueD sl n dn v).pass n').r =
    (c.r.put (.d (physD c.r.rb dn)) (v.setWidth 72)).put (.d (physD c.r.rb dn)) (v'.setWidth 72) := by
  have hearlier := Core.r_pass_earlier hidle sl sl' hpos hlt dn v v' (by omega)
  obtain ⟨k, rfl⟩ := Nat.exists_eq_add_of_lt hlt
  rw [Core.r_pass (by omega), Nat.add_assoc n k 1] at hearlier
  rw [Core.r_pass hmax, Nat.add_assoc n k 1, landRange_add, hearlier, landRange_of_last_due (by omega)]
  · exact landOne_of_one_due (x := ⟨c.cycle + (n + (k + 1)), sl', .d (physD c.r.rb dn), v'.setWidth 72⟩)
      (by simp [Core.land_dueD, hidle, Nat.add_assoc]) _
  · simp [Core.land_dueD, hidle, Nat.add_assoc]

end

/-- Of two results that land in one cycle slot B's stays, whichever was issued first. -/
theorem landOne_both_slots {l : List Landing} {t : Nat} {x y : Landing} (hx : x.slot = .a) (hy : y.slot = .b)
    (hdue : l.filter (fun z => z.ready == t) = [x, y] ∨ l.filter (fun z => z.ready == t) = [y, x]) (r : CoreRegs) :
    landOne r l t = (r.put x.dest x.val).put y.dest y.val := by
  simp only [landOne]
  rcases hdue with h | h <;> simp [h, hx, hy]

section
variable {c : Core} (hidle : c.land = []) {n : Nat} (hpos : 1 ≤ n) (hmax : n ≤ 10) (dn : BitVec 6) (v v' : Word)
include hidle hpos hmax

theorem Core.dr_pass_both_slots_b_first : (((c.dueD .b n dn v).dueD .a n dn v').pass n).dr dn = v := by
  refine Core.dr_of_put (r := c.r.put (.d (physD c.r.rb dn)) (v'.setWidth 72)) ?_
  simp only [Core.r_pass hmax, Core.land_dueD, Core.r_dueD, Core.cycle_dueD, hidle]
  rw [landRange_of_last_due hpos (by simp)]
  exact landOne_both_slots (x := ⟨c.cycle + n, .a, .d (physD c.r.rb dn), v'.setWidth 72⟩)
    (y := ⟨c.cycle + n, .b, .d (physD c.r.rb dn), v.setWidth 72⟩) rfl rfl (.inr (by simp)) c.r

theorem Core.dr_pass_both_slots_a_first : (((c.dueD .a n dn v).dueD .b n dn v').pass n).dr dn = v' := by
  refine Core.dr_of_put (r := c.r.put (.d (physD c.r.rb dn)) (v.setWidth 72)) ?_
  simp only [Core.r_pass hmax, Core.land_dueD, Core.r_dueD, Core.cycle_dueD, hidle]
  rw [landRange_of_last_due hpos (by simp)]
  exact landOne_both_slots (x := ⟨c.cycle + n, .a, .d (physD c.r.rb dn), v.setWidth 72⟩)
    (y := ⟨c.cycle + n, .b, .d (physD c.r.rb dn), v'.setWidth 72⟩) rfl rfl (.inl (by simp)) c.r

end

/-! ## Results of accumulators -/

theorem CoreRegs.put_acc_a (r : CoreRegs) (view k : Nat) (v : Acc) : (r.put (.acc view k) v).a = tset 0 r.a (4 * view + k) v := rfl

section
variable {c : Core} (hidle : c.land = []) (s : Slot) (ak : BitVec 2) (v : Acc)
include hidle

theorem Core.r_dueMac_pass_one : ((c.dueMac s ak v).pass 1).r = c.r.put (.acc 0 ak.toNat) v := by
  simp only [Core.r_pass (show 1 ≤ 10 by decide), Core.dueMac, Core.due, hidle]
  rw [landRange_of_last_due le_rfl (by simp)]
  exact landOne_of_one_due (x := ⟨c.cycle + 1, s, _, _⟩) (by simp) c.r

theorem Core.r_dueMac_pass_two : ((c.dueMac s ak v).pass 2).r = c.r.put (.acc 0 ak.toNat) v := by
  have hone := Core.r_dueMac_pass_one hidle s ak v
  rw [Core.r_pass (by decide)] at hone ⊢
  rw [landRange_add _ _ _ 1 1, hone]
  exact landRange_of_none_due (by simp [Core.dueMac, Core.due, hidle]) _

theorem Core.r_dueMac_pass_three : ((c.dueMac s ak v).pass 3).r =
    ((c.r.put (.acc 0 ak.toNat) v).put (.acc 1 ak.toNat) v).put (.acc 2 ak.toNat) v := by
  have htwo := Core.r_dueMac_pass_two hidle s ak v
  rw [Core.r_pass (by decide)] at htwo ⊢
  rw [landRange_add _ _ _ 2 1, htwo]
  cases s <;> simp [Core.dueMac, Core.due, hidle, landRange, landOne]

end

/-- Settles O30: what lands in which of the cycles that pass. -/
theorem resultsLandWhenReady : Obligations.ResultsLandWhenReady := by
  intro c hidle
  refine ⟨fun s n j dn v hmax hj => ⟨Core.r_pass_before hidle s hmax hj dn v, Core.dr_pass_due hidle s (by omega) hmax dn v⟩,
    fun sl sl' n n' dn v v' hpos hlt hmax => ⟨?_, ?_⟩, fun n dn v v' hpos hmax => ⟨?_, ?_⟩, fun s ak v => ?_⟩
  · exact Core.dr_of_put (Core.r_pass_later hidle sl sl' hpos hlt dn v v' hmax)
  · exact Core.dr_of_put (Core.r_pass_earlier hidle sl sl' hpos hlt dn v v' (by omega))
  · exact Core.dr_pass_both_slots_b_first hidle hpos hmax dn v v'
  · exact Core.dr_pass_both_slots_a_first hidle hpos hmax dn v' v
  · have hak : ak.toNat < 4 := ak.isLt
    simp only [Core.ar, Core.r_dueMac_pass_one hidle, Core.r_dueMac_pass_two hidle, Core.r_dueMac_pass_three hidle,
      CoreRegs.put_acc_a]
    refine ⟨?_, ?_, ?_, ?_, ?_⟩
    · exact tget_tset_self ..
    · exact tget_tset_ne _ _ _ _ _ (by omega)
    · exact tget_tset_ne _ _ _ _ _ (by omega)
    · rw [tget_tset_ne _ _ _ _ _ (by omega), tget_tset_self]
    · exact tget_tset_self ..

end Sys2Proof.Machine
end

section
/-! Proofs about the Tiller's arithmetic: wrapping, clamping and rounding (R216, R217, R220). -/

namespace Sys2Proof.Machine

/-! ## Narrowing -/

theorem narrowTo_true_of_fits {x : Int} (hlo : -(2 ^ 31) ≤ x) (hhi : x < 2 ^ 31) : narrowTo true x = pureRes (BitVec.ofInt 32 x) := by
  unfold narrowTo
  rw [if_neg]
  simp only [Bool.true_and, decide_eq_true_eq]
  omega

theorem narrowTo_true_of_above {x : Int} (h : 2 ^ 31 ≤ x) : narrowTo true x = ⟨0x7FFFFFFF, true, false⟩ := by
  unfold narrowTo
  rw [if_pos, if_neg]
  · omega
  · simpa using Or.inr h

theorem narrowTo_true_of_below {x : Int} (h : x < -(2 ^ 31)) : narrowTo true x = ⟨0x80000000, true, false⟩ := by
  unfold narrowTo
  rw [if_pos, if_pos]
  · omega
  · simpa using Or.inl h

theorem narrowTo_div0 (s : Bool) (x : Int) : (narrowTo s x).div0 = false := by
  unfold narrowTo
  split <;> rfl

theorem sat_narrowTo_true_iff (x : Int) : (narrowTo true x).sat = true ↔ ¬ (-(2 ^ 31) ≤ x ∧ x < 2 ^ 31) := by
  rcases lt_or_ge x (-(2 ^ 31)) with hlo | hlo
  · simp [narrowTo_true_of_below hlo]
    omega
  · rcases lt_or_ge x (2 ^ 31) with hhi | hhi
    · simp [narrowTo_true_of_fits hlo hhi, pureRes]
      omega
    · simp [narrowTo_true_of_above hhi]
      omega

theorem toInt_narrowTo_of_fits {x : Int} (hlo : -(2 ^ 31) ≤ x) (hhi : x < 2 ^ 31) : (narrowTo true x).val.toInt = x := by
  rw [narrowTo_true_of_fits hlo hhi, pureRes, BitVec.toInt_ofInt]
  exact Int.bmod_eq_of_le (by omega) (by omega)

/-! ## Rounding half up -/

theorem rhuDiv_spec (x : Int) {b : Nat} (hb : 0 < b) : 2 * x - b < 2 * (b * rhuDiv x b) ∧ 2 * (b * rhuDiv x b) ≤ 2 * x + b := by
  have hb' : (0 : Int) < 2 * b := by omega
  have hle := Int.mul_ediv_self_le (x := 2 * x + b) hb'.ne'
  have hlt := Int.lt_mul_ediv_self_add (x := 2 * x + b) hb'
  simp only [rhuDiv, ← Int.mul_assoc]
  omega

theorem roundShift_spec (x : Int) (n : Nat) :
    2 * x - 2 ^ n < 2 * (2 ^ n * roundShift x n) ∧ 2 * (2 ^ n * roundShift x n) ≤ 2 * x + 2 ^ n := by
  have h := rhuDiv_spec x (Nat.two_pow_pos n)
  push_cast at h
  exact h

theorem roundShift_zero (x : Int) : roundShift x 0 = x := by
  have h := roundShift_spec x 0
  omega

/-! ## The operations -/

theorem val_aluShl_false (a : Word) (n : Nat) : (aluShl false a n).val = a <<< n := by
  show BitVec.ofInt 32 (a.toInt * 2 ^ n) = _
  rw [BitVec.shiftLeft_eq_mul_twoPow, BitVec.ofInt_mul, BitVec.ofInt_toInt]
  congr 1
  apply BitVec.eq_of_toNat_eq
  simp only [BitVec.toNat_ofInt, BitVec.toNat_twoPow]
  norm_cast

theorem aluMin_toInt (a b : Word) : (aluMin a b).val.toInt = min a.toInt b.toInt := by
  unfold aluMin pureRes
  split <;> simp <;> omega

theorem aluMax_toInt (a b : Word) : (aluMax a b).val.toInt = max a.toInt b.toInt := by
  unfold aluMax pureRes
  split <;> simp <;> omega

theorem aluDivq_zero (a : Word) : aluDivq a 0 = ⟨if 0 ≤ a.toInt then 0x7FFFFFFF else 0x80000000, false, true⟩ := if_pos rfl

theorem aluDivq_of_pos (a : Word) {b : Word} (hb : 0 < b.toInt) : aluDivq a b = narrowTo true (rhuDiv (2 ^ 31 * a.toInt) b.toNat) := by
  unfold aluDivq
  rw [if_neg]
  · simp only [hb, if_true]
  · rintro rfl
    exact absurd hb (by decide)

theorem toInt_eq_toNat_of_pos {b : Word} (hb : 0 < b.toInt) : b.toInt = b.toNat := by
  rw [BitVec.toInt_eq_toNat_cond] at hb ⊢
  split at hb <;> omega

theorem aluDivq_spec {a b : Word} (hb : 0 < b.toInt) (hsat : (aluDivq a b).sat = false) :
    2 * (2 ^ 31 * a.toInt) - b.toInt < 2 * (b.toInt * (aluDivq a b).val.toInt) ∧
      2 * (b.toInt * (aluDivq a b).val.toInt) ≤ 2 * (2 ^ 31 * a.toInt) + b.toInt := by
  rw [aluDivq_of_pos a hb] at hsat ⊢
  have hfits := (sat_narrowTo_true_iff _).not.mp (Bool.eq_false_iff.mp hsat)
  rw [not_not] at hfits
  have hnat := toInt_eq_toNat_of_pos hb
  rw [toInt_narrowTo_of_fits hfits.1 hfits.2, hnat]
  exact rhuDiv_spec _ (by omega)

theorem toInt_product (x : Word) (c : BitVec 16) : (product x c).toInt = x.toInt * c.toInt * 2 ^ 16 := by
  have hx : |x.toInt| ≤ 2 ^ 31 := abs_le.mpr ⟨BitVec.le_toInt x, (BitVec.toInt_lt (x := x)).le⟩
  have hc : |c.toInt| ≤ 2 ^ 15 := abs_le.mpr ⟨BitVec.le_toInt c, (BitVec.toInt_lt (x := c)).le⟩
  have hprod : |x.toInt * c.toInt| ≤ 2 ^ 31 * 2 ^ 15 := abs_mul x.toInt c.toInt ▸ mul_le_mul hx hc (abs_nonneg _) (by decide)
  have hbounds := abs_le.mp hprod
  rw [product, BitVec.toInt_ofInt]
  exact Int.bmod_eq_of_le (by omega) (by omega)

/-- Settles O28, operation by operation. -/
theorem tillerArithmetic : Obligations.TillerArithmetic := by
  refine ⟨fun a b => ⟨?_, ?_⟩, fun a n _ => val_aluShl_false a n, sat_narrowTo_true_iff,
    fun x hlo hhi => toInt_narrowTo_of_fits hlo hhi, fun x h => by rw [narrowTo_true_of_above h],
    fun x h => by rw [narrowTo_true_of_below h], fun s x => ⟨narrowTo_div0 s x, ?_⟩, roundShift_spec, fun a => ?_,
    fun a b => ⟨aluMin_toInt a b, aluMax_toInt a b⟩, aluDivq_zero, fun a b hb hsat => aluDivq_spec hb hsat,
    fun a p => ⟨rfl, rfl, ?_, ?_⟩, toInt_product⟩
  · show BitVec.ofInt 32 (a.toInt + b.toInt) = _
    simp [BitVec.ofInt_add]
  · show BitVec.ofInt 32 (a.toInt - b.toInt) = _
    exact BitVec.eq_of_toInt_eq (by simp [BitVec.toInt_sub])
  · rintro rfl
    rfl
  · rw [aluShra, roundShift_zero, BitVec.ofInt_toInt]
    rfl
  · exact BitVec.zero_add p
  · exact BitVec.zero_sub p

end Sys2Proof.Machine
end

section
/-! Proofs about the bytes that stores put (R9, R205) and that the CRC units take (R457, R459). -/

namespace Sys2Proof.Machine

/-! ## Bytes put into a core's memory -/

theorem byteOf_succ (v i : Nat) : byteOf v (i + 1) = byteOf (v / 256) i := by
  simp only [byteOf, Nat.pow_succ', Nat.div_div_eq_div_mul]

theorem tget_putBytes_outside {a b n : Nat} (h : b < a ∨ a + n ≤ b) (mem : List Host.Cell) (v : Nat) :
    tget 0 (putBytes mem a v n) b = tget 0 mem b := by
  induction n generalizing mem a v with
  | zero => rfl
  | succ n ih =>
    rw [putBytes, ih (by omega)]
    exact tget_tset_ne _ _ _ _ _ (by omega)

theorem tget_putBytes_inside {j n : Nat} (h : j < n) (mem : List Host.Cell) (a v : Nat) :
    tget 0 (putBytes mem a v n) (a + j) = byteOf v j := by
  induction n generalizing mem a v j with
  | zero => omega
  | succ n ih =>
    rw [putBytes]
    cases j with
    | zero => rw [tget_putBytes_outside (by omega), Nat.add_zero, tget_tset_self]
    | succ j => rw [byteOf_succ, Nat.add_comm j 1, ← Nat.add_assoc, ih (by omega)]

theorem twf_putBytes {mem : List Host.Cell} (h : twf 0 mem = true) (a v n : Nat) : twf 0 (putBytes mem a v n) = true := by
  induction n generalizing mem a v with
  | zero => exact h
  | succ n ih => exact ih (twf_tset _ _ _ _ h) _ _

/-! ## Stores -/

@[simp] theorem Core.mem_ioStore (c : Core) (off : Nat) (w bytes : Word) : (c.ioStore off w bytes).mem = c.mem := by
  unfold Core.ioStore
  dsimp only [Core.post, Core.putCons]
  repeat' split
  all_goals rfl

theorem Core.mem_store_of_io {a : Nat} (h : 0x3F000 ≤ a) (c : Core) (n v : Nat) : (c.store a n v).mem = c.mem := by
  unfold Core.store
  simp only [h, if_true]
  repeat' split
  all_goals simp only [Core.mem_ioStore]

theorem Core.mem_store_of_plain {a : Nat} (h : a < 0x3F000) (c : Core) (n v : Nat) :
    (c.store a n v).mem = putBytes c.mem a v n := by
  unfold Core.store
  rw [if_neg (Nat.not_le.mpr h)]

theorem coreMemOk_store {c : Core} (h : CoreMemOk c) (a n v : Nat) : CoreMemOk (c.store a n v) := by
  rcases Nat.lt_or_ge a 0x3F000 with ha | ha
  · rw [CoreMemOk, Core.mem_store_of_plain ha]
    exact twf_putBytes h a v n
  · rw [CoreMemOk, Core.mem_store_of_io ha]
    exact h

/-- Settles O58: `putBytes` byte by byte, and where a store puts its bytes. -/
theorem storesTouchTheirBytes : Obligations.StoresTouchTheirBytes := by
  refine ⟨fun mem a v n => ⟨fun b hb => tget_putBytes_outside hb mem v, fun j hj => tget_putBytes_inside hj mem a v⟩,
    fun c a n v h => coreMemOk_store h a n v, fun c a n v h => ?_, fun c a n v h => Core.mem_store_of_io h c n v⟩
  rw [Core.mem_store_of_plain (by omega)]
  exact ⟨fun b hb => tget_putBytes_outside hb c.mem v, fun j hj => tget_putBytes_inside hj c.mem a v⟩

/-! ## CRC-32C -/

theorem getLsbD_crcBit_top (c : Word) : (crcBit c).getLsbD 31 = c.getLsbD 0 := by
  unfold crcBit
  split
  next h => simp_all
  next h => simp_all

/-- A shifted-out bit shows in the top bit of the result, so a bit step can be undone. -/
theorem crcBit_injective : Function.Injective crcBit := by
  intro c e h
  have hlow : c.getLsbD 0 = e.getLsbD 0 := by rw [← getLsbD_crcBit_top, h, getLsbD_crcBit_top]
  have hshift : c >>> 1 = e >>> 1 := by
    simp only [crcBit, hlow] at h
    split at h
    · exact (BitVec.xor_left_inj _).mp h
    · exact h
  refine BitVec.eq_of_getLsbD_eq (fun i hi => ?_)
  cases i with
  | zero => exact hlow
  | succ i =>
    have hbit := congrArg (BitVec.getLsbD · i) hshift
    simpa [Nat.add_comm 1 i] using hbit

theorem crcByte_injective (b : Byte) : Function.Injective (crcByte · b) := by
  intro c e h
  simp only [crcByte, crcBit_injective.eq_iff] at h
  exact (BitVec.xor_left_inj _).mp h

theorem Dev.feed_append (d : Dev) (m : MastId) (a b : List Byte) : d.feed m (a ++ b) = (d.feed m a).feed m b := by
  unfold Dev.feed
  simp only [List.foldl_append]
  cases m <;> rfl

/-! ## The scan engine's choice -/

/-- No request of `x`'s kind goes before `r`: higher QoS, then older, then the lower master (R459, R462). -/
def ScanReq.Yields (x r : ScanReq) : Prop :=
  x.qos ≤ r.qos ∧ (x.qos = r.qos → r.at_ ≤ x.at_ ∧ (x.at_ = r.at_ → r.master ≤ x.master))

theorem ScanReq.yields_self (r : ScanReq) : r.Yields r := ⟨le_rfl, fun _ => ⟨le_rfl, fun _ => le_rfl⟩⟩

theorem ScanReq.yields_of_before {r x : ScanReq} (h : r.before x = true) : x.Yields r := by
  simp only [ScanReq.before, Bool.or_eq_true, Bool.and_eq_true, decide_eq_true_eq, beq_iff_eq] at h
  unfold ScanReq.Yields
  omega

theorem ScanReq.yields_of_not_before {r x : ScanReq} (h : ¬ r.before x = true) : r.Yields x := by
  simp only [ScanReq.before, Bool.or_eq_true, Bool.and_eq_true, decide_eq_true_eq, beq_iff_eq] at h
  unfold ScanReq.Yields
  omega

theorem ScanReq.Yields.trans {x y r : ScanReq} (hxy : x.Yields y) (hyr : y.Yields r) : x.Yields r := by
  unfold ScanReq.Yields at *
  omega

theorem nextScan_eq_none_iff (l : List ScanReq) : nextScan l = none ↔ l = [] := by
  cases l with
  | nil => simp [nextScan]
  | cons a l =>
    simp only [nextScan, reduceCtorEq, iff_false]
    repeat' split
    all_goals simp

theorem nextScan_spec {l : List ScanReq} {r : ScanReq} (h : nextScan l = some r) : r ∈ l ∧ ∀ x ∈ l, x.Yields r := by
  induction l generalizing r with
  | nil => cases h
  | cons a l ih =>
    simp only [nextScan] at h
    split at h
    next hnone =>
      cases h
      simp [(nextScan_eq_none_iff l).mp hnone, ScanReq.yields_self]
    next b hb =>
      obtain ⟨hmem, hyields⟩ := ih hb
      split at h
      next hbefore =>
        cases h
        exact ⟨.tail a hmem, List.forall_mem_cons.mpr ⟨ScanReq.yields_of_before hbefore, hyields⟩⟩
      next hbefore =>
        cases h
        have hba := ScanReq.yields_of_not_before hbefore
        exact ⟨.head l, List.forall_mem_cons.mpr ⟨a.yields_self, fun x hx => (hyields x hx).trans hba⟩⟩

/-- Settles O50. -/
theorem crcFollowsR457 : Obligations.CrcFollowsR457 := by
  refine ⟨fun a b c => List.foldl_append, fun d m v => ?_, by decide +kernel, by decide, fun c e b h => crcByte_injective b h,
    fun l r h => nextScan_spec h⟩
  simp only [← Dev.feed_append, List.cons_append, List.nil_append]

end Sys2Proof.Machine
end

section
/-! Proofs about the acceptance of fetched entries (R81). -/

namespace Sys2Proof.Machine

/-! ## What a ring takes in -/

/-- What acceptance is about: the descriptors in flight, and whether the ring is stalled. -/
def Dev.intake (d : Dev) (m : MastId) (i : Nat) : List Desc × Option Bool := ((d.hif m).inflight, (d.ring m i).map Ring.stalled)

theorem Dev.intake_of_hif {d e : Dev} {m : MastId} (h : e.hif m = d.hif m) (i : Nat) : e.intake m i = d.intake m i := by
  simp only [Dev.intake, Dev.ring, h]

theorem Dev.hif_onRing {d : Dev} {m : MastId} {i : Nat} {r : Ring} (h : d.ring m i = some r) (f : Ring → Ring) :
    (d.onRing m i f).hif m = { d.hif m with rings := tset none (d.hif m).rings i (some (f r)) } := by
  simp [Dev.onRing, h, Dev.setRing]

theorem Dev.ring_onRing {d : Dev} {m : MastId} {i : Nat} {r : Ring} (h : d.ring m i = some r) (f : Ring → Ring) :
    (d.onRing m i f).ring m i = some (f r) := by
  simp [Dev.onRing, h]

theorem Dev.inflight_onRing (d : Dev) (m : MastId) (i : Nat) (f : Ring → Ring) :
    ((d.onRing m i f).hif m).inflight = (d.hif m).inflight := by
  cases h : d.ring m i with
  | none => simp [Dev.onRing, h]
  | some r => rw [Dev.hif_onRing h]

theorem Dev.intake_onRing {f : Ring → Ring} (hf : ∀ r, (f r).stalled = r.stalled) (d : Dev) (m : MastId) (i j : Nat) :
    (d.onRing m i f).intake m j = d.intake m j := by
  cases h : d.ring m i with
  | none => simp [Dev.onRing, h]
  | some r =>
    simp only [Dev.intake, Dev.ring, Dev.hif_onRing h, Prod.mk.injEq, true_and]
    by_cases hij : j = i
    · subst hij
      rw [Dev.ring] at h
      simp [h, hf]
    · rw [tget_tset_ne _ _ _ _ _ hij]

@[simp] theorem Dev.hif_pushJournal (d : Dev) (m : MastId) (j : JEv) (k : MastId) : (d.pushJournal m j).hif k = d.hif k := by
  simp [Dev.pushJournal, Dev.hif_onMast]

@[simp] theorem Dev.hif_setReg (d : Dev) (m : MastId) (off : Nat) (v : Reg64) (k : MastId) : (d.setReg m off v).hif k = d.hif k := by
  simp [Dev.setReg, Dev.hif_onMast]

@[simp] theorem Dev.hif_msix (d : Dev) (m : MastId) (v : Nat) (k : MastId) : (d.msix m v).hif k = d.hif k := by
  unfold Dev.msix
  split <;> simp [Dev.setRegF]

@[simp] theorem Dev.hif_hostOut (d : Dev) (m : MastId) (n : Nat) (k : MastId) : (d.hostOut m n).hif k = d.hif k := by
  simp [Dev.hostOut]

theorem Dev.intake_onHif {f : Hif → Hif} (hinflight : ∀ h, (f h).inflight = h.inflight) (hrings : ∀ h, (f h).rings = h.rings)
    (d : Dev) (m : MastId) (i : Nat) : (d.onHif m f).intake m i = d.intake m i := by
  simp [Dev.intake, Dev.ring, hinflight, hrings]

theorem Dev.intake_signalRing (d : Dev) (m : MastId) (i j : Nat) : (d.signalRing m i).intake m j = d.intake m j := by
  unfold Dev.signalRing
  split
  · rfl
  · exact (Dev.intake_onRing (by simp) _ m i j).trans (Dev.intake_of_hif (by simp) j)

theorem Dev.intake_putRecord (d : Dev) (m : MastId) (i j : Nat) (g : Ring) (r : Record) (irq : Bool) :
    (d.putRecord m i g r irq).intake m j = d.intake m j := by
  have hput : ∀ e : Dev, e.intake m j = d.intake m j → ((e.pmc m 0x012 [0] 1).hostOut m 32).intake m j = d.intake m j :=
    fun e he => (Dev.intake_of_hif (by simp) j).trans he
  unfold Dev.putRecord
  dsimp only
  split
  · rw [Dev.intake_signalRing, hput]
    rw [Dev.intake_onRing (by simp), Dev.intake_onHif (by simp) (by simp)]
    exact Dev.intake_of_hif (by simp) j
  · rw [hput]
    rw [Dev.intake_onRing (by simp), Dev.intake_onHif (by simp) (by simp)]
    exact Dev.intake_of_hif (by simp) j

theorem Dev.intake_toBacklog (d : Dev) (m : MastId) (b : BackRec) (j : Nat) : (d.toBacklog m b).intake m j = d.intake m j :=
  (Dev.intake_onHif (by simp) (by simp) _ m j).trans (Dev.intake_of_hif (by simp) j)

theorem Dev.intake_deliver (d : Dev) (m : MastId) (i ctx : Nat) (r : Record) (irq back : Bool) (j : Nat) :
    (d.deliver m i ctx r irq back).intake m j = d.intake m j := by
  unfold Dev.deliver
  dsimp only
  repeat' split
  · exact Dev.intake_putRecord ..
  · exact Dev.intake_toBacklog ..
  · exact Dev.intake_toBacklog ..

/-! ## The three outcomes of an entry -/

/-- The descriptor that acceptance makes of an entry (R81). -/
def Dev.accepted (d : Dev) (m : MastId) (i : Nat) (e : Entry) (r : Ring) : Desc :=
  let prof := match d.ctx m r.ent.ctx with
    | some c => d.eff m (0x3000 + 8 * c.profile)
    | none => 0
  let x : Desc := ⟨i, e, r.ent.ctx, r.ent.cplTarget, false, [], .none, none, none, d.beat, prof, false, none⟩
  { x with slots := d.slotsFrom m x }

section
variable {d : Dev} {m : MastId} {i : Nat} {e : Entry} {r : Ring} (hring : d.ring m i = some r) (hruns : r.stalled = false)
include hring hruns

theorem Dev.inflight_acceptOne_of_next (hseq : e.seq = r.next) :
    ((d.acceptOne m i e).hif m).inflight = (d.hif m).inflight ++ [d.accepted m i e r] := by
  simp only [Dev.acceptOne, hring, hruns, hseq, bne_self_eq_false, Bool.false_eq_true, if_false, Dev.hif_pmc,
    Dev.inflight_onRing, Dev.hif_onHif, Dev.hif_pushJournal]
  rfl

theorem Dev.acceptOne_of_early_mismatch (hseq : e.seq ≠ r.next) (hmiss : r.miss < 3) :
    d.acceptOne m i e = d.onRing m i (fun r => { r with miss := r.miss + 1, again := true }) := by
  simp only [Dev.acceptOne, hring, hruns, bne_iff_ne, ne_eq, hseq, not_false_eq_true, if_true, Bool.false_eq_true, if_false]
  exact if_neg (by omega)

theorem Dev.intake_acceptOne_of_fourth_mismatch (hseq : e.seq ≠ r.next) (hmiss : 3 ≤ r.miss) :
    (d.acceptOne m i e).intake m i = ((d.hif m).inflight, some true) := by
  simp only [Dev.acceptOne, hring, hruns, bne_iff_ne, ne_eq, hseq, not_false_eq_true, if_true, Bool.false_eq_true, if_false]
  rw [if_pos (by omega), Dev.intake_deliver]
  simp only [Dev.intake, Dev.inflight_onRing, Dev.ring_onRing (Dev.ring_onRing hring _), Option.map_some]

end

theorem Dev.out_onRing (d : Dev) (m : MastId) (i : Nat) (f : Ring → Ring) : (d.onRing m i f).out = d.out := by
  unfold Dev.onRing
  split
  · rfl
  · cases m <;> rfl

/-- Settles O8: the expected entry, an early mismatch, the fourth one. -/
theorem acceptInSequence : Obligations.AcceptInSequence := by
  intro d m i e r hring hruns
  refine ⟨fun hseq => ⟨d.accepted m i e r, rfl, rfl, rfl, rfl, rfl, rfl, Dev.inflight_acceptOne_of_next hring hruns hseq⟩,
    fun hseq hmiss => ?_, fun hseq hmiss => ?_⟩
  · rw [Dev.acceptOne_of_early_mismatch hring hruns hseq hmiss]
    exact ⟨Dev.inflight_onRing .., Dev.ring_onRing hring _, Dev.out_onRing ..⟩
  · exact Prod.mk.inj (Dev.intake_acceptOne_of_fourth_mismatch hring hruns hseq hmiss)

end Sys2Proof.Machine
end

section
/-! Proofs about what recording a fault leaves alone (R379 to R383): whatever of a mast is not its registers, its fault unit,
its Glean units, its egress or the events that wait for a Halyard slot. -/

namespace Sys2Proof.Machine

section
variable {α : Type} {v : Mast → α} (hregs : ∀ x r, v { x with regs := r } = v x) (heg : ∀ x e, v { x with eg := e } = v x)
  (hflt : ∀ x f, v { x with flt := f } = v x) (hgln : ∀ x g, v { x with gln := g } = v x)
  (hpend : ∀ x p, v { x with hal := { x.hal with pend := p } } = v x)

theorem Dev.view_if {b : Prop} [Decidable b] {e f : Dev} {k : MastId} {w : α} (hf : v (f.mast k) = w) (he : v (e.mast k) = w) :
    v ((if b then f else e).mast k) = w := by
  split
  · exact hf
  · exact he

include hregs in
theorem Dev.view_setReg (d : Dev) (m : MastId) (off : Nat) (w : Reg64) (k : MastId) :
    v ((d.setReg m off w).mast k) = v (d.mast k) := Dev.view_onMast (fun x => hregs x _) d m k

include hregs in
theorem Dev.view_setRegF (d : Dev) (m : MastId) (off lo w n : Nat) (k : MastId) :
    v ((d.setRegF m off lo w n).mast k) = v (d.mast k) := Dev.view_setReg hregs ..

include hregs in
theorem Dev.view_msix (d : Dev) (m : MastId) (n : Nat) (k : MastId) : v ((d.msix m n).mast k) = v (d.mast k) := by
  unfold Dev.msix
  split
  · exact Dev.view_setReg hregs ..
  · cases k <;> rfl

include hflt in
theorem Dev.view_onFlt (d : Dev) (m : MastId) (f : Flt → Flt) (k : MastId) : v ((d.onFlt m f).mast k) = v (d.mast k) :=
  Dev.view_onMast (fun x => hflt x _) d m k

include hregs hflt in
theorem Dev.view_log (d : Dev) (m : MastId) (source sev kind unit ep : Nat) (t : Stamp) (info : BitVec 32) (k : MastId) :
    v ((d.log m source sev kind unit ep t info).mast k) = v (d.mast k) := by
  unfold Dev.log
  dsimp only
  split
  · exact (Dev.view_setReg hregs ..).trans (Dev.view_onFlt hflt ..)
  · exact Dev.view_onFlt hflt ..

include hregs hflt in
theorem Dev.view_faultIrq (d : Dev) (m : MastId) (sev : Nat) (k : MastId) : v ((d.faultIrq m sev).mast k) = v (d.mast k) := by
  unfold Dev.faultIrq
  repeat' split
  · exact (Dev.view_onFlt hflt ..).trans (Dev.view_msix hregs ..)
  · exact Dev.view_onFlt hflt ..
  · exact (Dev.view_onFlt hflt ..).trans (Dev.view_msix hregs ..)
  · rfl

include heg in
theorem Dev.view_setStream (d : Dev) (m : MastId) (s : Nat) (x : Option Stream) (k : MastId) :
    v ((d.setStream m s x).mast k) = v (d.mast k) := Dev.view_onMast (fun x => heg x _) d m k

include hregs heg in
theorem Dev.view_queueTel (d : Dev) (m : MastId) (s : Nat) (r : TelRec) (k : MastId) :
    v ((d.queueTel m s r).mast k) = v (d.mast k) := by
  unfold Dev.queueTel
  split
  · rfl
  · refine Dev.view_if ?_ (Dev.view_setStream heg ..)
    rw [Dev.view_pmc heg]
    exact (Dev.view_setReg hregs ..).trans (Dev.view_setStream heg ..)

include hregs heg in
theorem Dev.view_tel (d : Dev) (m : MastId) (sel : Nat) (r : TelRec) (k : MastId) :
    v ((d.tel m sel r).mast k) = v (d.mast k) := by
  unfold Dev.tel
  induction ((d.mast m).eg.streams.map Prod.fst) generalizing d with
  | nil => rfl
  | cons s l ih =>
    rw [List.foldl_cons, ih]
    repeat' split
    · exact Dev.view_queueTel hregs heg ..
    all_goals rfl

include hgln hpend in
theorem Dev.view_gleanEvent (d : Dev) (m : MastId) (c : Cause) (beat : Nat) (t : Stamp) (cell : Option Nat) (hal : Nat)
    (k : MastId) : v ((d.gleanEvent m c beat t cell hal).mast k) = v (d.mast k) := by
  have hevent : ∀ g : Glean → Glean, v ((d.onGln m g).mast k) = v (d.mast k) := fun g =>
    Dev.view_onMast (fun x => hgln x _) d m k
  refine Dev.view_if ?_ (hevent _)
  rw [Dev.view_onMast (v := v) (fun x => hpend x _), hevent]

include hregs heg hflt hgln hpend in
theorem Dev.view_logFault (d : Dev) (m : MastId) (source sev unit : Nat) (detail : BitVec 32) (k : MastId) :
    v ((d.logFault m source sev unit detail).mast k) = v (d.mast k) := by
  unfold Dev.logFault
  dsimp only
  rw [Dev.view_tel hregs heg, Dev.view_if (Dev.view_gleanEvent hgln hpend ..) rfl, Dev.view_pmc heg, Dev.view_faultIrq hregs hflt,
    Dev.view_if (Dev.view_setRegF hregs ..) rfl, Dev.view_onFlt hflt, Dev.view_log hregs hflt]

end

end Sys2Proof.Machine
end

section
/-! Proofs about the servo: what an offset does, and the loss of the source (R312 to R314). -/

namespace Sys2Proof.Machine

theorem clampI_bounds {lo hi : Int} (h : lo ≤ hi) (x : Int) : lo ≤ clampI lo hi x ∧ clampI lo hi x ≤ hi := by
  unfold clampI
  split
  · omega
  · split <;> omega

theorem clampI_of_within {lo hi x : Int} (hlo : lo ≤ x) (hhi : x ≤ hi) : clampI lo hi x = x := by
  unfold clampI
  rw [if_neg (by omega), if_neg (by omega)]

@[simp] theorem Dev.tim_onTim (d : Dev) (m : MastId) (f : Tim → Tim) : (d.onTim m f).tim m = f (d.tim m) := by
  simp [Dev.tim, Dev.onTim]

/-- What an offset makes of the timebase's discipline while a source is being acquired or locked. -/
def Dev.served (d : Dev) (m : MastId) (offset corr : Int) : Tim :=
  let t := d.tim m
  let run := if offset.natAbs ≤ d.effF m 0x5008 16 16 then t.run + 1 else 0
  { t with
    offset := clampI (-2147483648) 2147483647 offset
    rate := clampI (-rateLimit) rateLimit (t.hold + clampI (-d.slewMax m) (d.slewMax m) corr)
    run := run
    state := if 16 ≤ run then .locked else t.state
    fresh := t.fresh && run < 16
    step := if (d.effF m 0x5008 0 16 * 1000 : Nat) < offset.natAbs && d.mayStep m && t.step.isNone then
      some (rhuDiv offset 80000, d.beat) else t.step }

theorem Dev.tim_servo_of_serving {d : Dev} {m : MastId} (h : (d.tim m).state = .acquiring ∨ (d.tim m).state = .locked)
    (offset corr : Int) : (d.servo m offset corr).tim m = d.served m offset corr := by
  unfold Dev.servo Dev.served
  rcases h with h | h <;> simp [h]

theorem Dev.tim_servo_of_idle {d : Dev} {m : MastId} (h : (d.tim m).state = .holdover ∨ (d.tim m).state = .freerun)
    (offset corr : Int) :
    (d.servo m offset corr).tim m = { d.tim m with offset := clampI (-2147483648) 2147483647 offset } := by
  unfold Dev.servo
  rcases h with h | h <;> simp [h]

/-! ## A source lost -/

theorem Dev.tim_report_none (d : Dev) (m : MastId) (source sev unit : Nat) (detail : BitVec 32) (k : MastId) :
    (d.report m source sev unit detail none).tim k = d.tim k :=
  Dev.view_logFault (v := Mast.tim) (fun _ _ => rfl) (fun _ _ => rfl) (fun _ _ => rfl) (fun _ _ => rfl) (fun _ _ => rfl)
    d m source sev unit detail k

theorem Dev.tim_onMast {f : Mast → Mast} (hf : ∀ x, (f x).tim = x.tim) (d : Dev) (m k : MastId) :
    (d.onMast m f).tim k = d.tim k := Dev.view_onMast (v := Mast.tim) hf d m k

@[simp] theorem Dev.tim_onHal (d : Dev) (m : MastId) (f : Hal → Hal) (k : MastId) : (d.onHal m f).tim k = d.tim k := by
  simp [Dev.onHal, Dev.tim_onMast]

theorem Dev.tim_holdover {d : Dev} {m : MastId} (h : (d.tim m).state = .locked ∨ (d.tim m).state = .acquiring) :
    (d.holdover m).tim m =
      { d.tim m with state := .holdover, rate := (d.tim m).hold, step := none, run := 0, fresh := false } := by
  have hdisc : ((d.tim m).state == .locked || (d.tim m).state == .acquiring) = true := by simpa using h
  simp only [Dev.holdover, hdisc, if_true, Dev.tim_report_none, Dev.tim_onHal, Dev.tim_onTim]

/-- Settles O43: an offset while disciplined, an offset while not, a loss. -/
theorem servoFollowsR312 : Obligations.ServoFollowsR312 := by
  intro d m o c
  refine ⟨fun h => ?_, fun h => ?_, fun h => ?_⟩
  · simp only [Dev.tim_servo_of_serving h, Dev.served]
    obtain ⟨hlo, hhi⟩ := clampI_bounds (lo := -rateLimit) (hi := rateLimit) (by decide)
      ((d.tim m).hold + clampI (-d.slewMax m) (d.slewMax m) c)
    refine ⟨hlo, hhi, fun hlo hhi hslo hshi => ?_, fun hfar => ?_, fun hnear => ?_⟩
    · rw [clampI_of_within hslo hshi, clampI_of_within hlo hhi]
    · rw [if_neg (by omega)]
      exact ⟨rfl, rfl⟩
    · rw [if_pos hnear]
      exact ⟨rfl, fun hrun => if_pos (by omega)⟩
  · simp only [Dev.tim_servo_of_idle h, and_self]
  · simp only [Dev.tim_holdover h, and_self]

end Sys2Proof.Machine
end

section
/-! Proofs for boot and the recovery boot class (R43, R49, R55, R56, R58, R65). -/

namespace Sys2Proof.Machine

/-! ## PORESET_N -/

theorem Dev.wake_changes_aon (d : Dev) (dom : Nat) : ∃ a, d.wake dom = { d with aon := a } := by
  unfold Dev.wake
  split
  · exact ⟨d.aon, rfl⟩
  · exact ⟨_, rfl⟩

theorem Dev.each_changes_aon {α : Type} {f : α → Dev → Dev} (hf : ∀ x d, ∃ a, f x d = { d with aon := a }) (l : List α) (d : Dev) :
    ∃ a, d.each l f = { d with aon := a } := by
  induction l generalizing d with
  | nil => exact ⟨d.aon, rfl⟩
  | cons x l ih =>
    obtain ⟨a, ha⟩ := hf x d
    obtain ⟨b, hb⟩ := ih (f x d)
    exact ⟨b, hb.trans (by rw [ha])⟩

/-- A start changes the boots, the beat of the rise and the always-on domain. -/
theorem Dev.powerUp_eq (d : Dev) (sel : BitVec 2) : ∃ a, d.powerUp sel =
    { d with
      fore := { d.fore with boot := d.fore.boot.start sel d.beat }, main := { d.main with boot := d.main.boot.start sel d.beat }
      pins := { d.pins with riseBeat := d.beat }, aon := a } := by
  unfold Dev.powerUp
  refine Dev.each_changes_aon (fun i d => ?_) bootDomains _
  obtain ⟨a, ha⟩ := d.wake_changes_aon i
  obtain ⟨b, hb⟩ := (d.wake i).wake_changes_aon (8 + i)
  exact ⟨b, hb.trans (by rw [ha])⟩

theorem answers_poresetNRise_of_untripped {s : State} (hlow : s.dev.pins.poresetN = false) (htrip : s.dev.aon.tripped = none)
    (sel : BitVec 2) :
    Answers (.poresetNRise sel) s ({ s.dev with pins := { s.dev.pins with poresetN := true } }.powerUp sel) :=
  answers_of_run rfl (by simp [hlow, htrip])

/-! ## Images -/

section
variable {s : State} {m : MastId} {t : Nat} {rest : List Nat} {g : FwImage} (hstage : (s.dev.mast m).boot.stage = .boot)
  (hidle : (s.dev.mast m).boot.running = false) (htries : (s.dev.mast m).boot.tries = t :: rest)
  (himage : (s.dev.mast m).boot.nor.fw t = some g)
include hstage hidle htries himage

theorem answers_bootImageVerified_of_verifies (hok : (s.dev.mast m).boot.verifies g = true) :
    Answers (.bootImageVerified m) s (s.dev.onBoot m (fun b => b.runImage g t false)) :=
  answers_of_run rfl (by simp [hstage, hidle, htries, himage, hok])

theorem answers_bootImageVerified_of_last_fails (hbad : (s.dev.mast m).boot.verifies g = false) (hlast : rest = []) :
    Answers (.bootImageVerified m) s (s.dev.onBoot m (fun b => { b with tries := [], recoveryClass := true })) :=
  answers_of_run rfl (by simp [hstage, hidle, htries, himage, hbad, hlast])

end

/-! ## The link, the tunnel and the first pennant -/

theorem answers_usb4LinkTraining_of_runs {s : State} {m : MastId} {mode : LinkMode} (hrun : (s.dev.mast m).boot.running = true)
    (hmode : mode ≠ .other) : Answers (.usb4LinkTraining m mode) s (s.dev.onBoot m (fun b => { b with usb := true })) := by
  cases mode with
  | other => exact absurd rfl hmode
  | _ => exact answers_of_run rfl (by simp [hrun])

theorem answers_pcieTunnelEstablished_of_link_up {s : State} {m : MastId} (hrun : (s.dev.mast m).boot.running = true)
    (husb : (s.dev.mast m).boot.usb = true) : Answers (.pcieTunnelEstablished m) s
      (let d := s.dev.onBoot m (fun b => { b with tunnel := true, stage := if b.stage == .boot then .setup else b.stage })
       if d.claimsFirst m then d.firstPennant m else d) :=
  answers_of_run rfl (by simp [hrun, husb])

theorem answers_pennantBootTimeout_of_claims {s : State} (h : s.dev.claimsFirst .main = true) :
    Answers .pennantBootTimeout s (s.dev.firstPennant .main) :=
  answers_of_run rfl (by simp [h])

/-! ## The recovery boot class -/

section
variable {s : State} {m : MastId} (hclass : (s.dev.mast m).boot.recoveryClass = true)
include hclass

theorem answers_ident_of_recovery : Answers (.ident m) s (s.dev.identReply m) :=
  answers_of_run rfl (by simp [Dev.recoveryRequest, Dev.recovery, recoveryOf, hclass])

theorem answers_load_of_recovery (img : FwImage) : Answers (.load m img) s (s.dev.loadImage m img) :=
  answers_of_run rfl (by simp [Dev.recoveryRequest, Dev.recovery, recoveryOf, hclass])

theorem answers_norWrite_of_recovery (img : FwImage) : Answers (.norWrite m img) s (s.dev.norWrite m img) :=
  answers_of_run rfl (by simp [Dev.recoveryRequest, Dev.recovery, recoveryOf, hclass])

theorem answers_status_of_recovery : Answers (.status m) s (s.dev.emit (.reply m (s.dev.mast m).boot.lastResult [])) :=
  answers_of_run rfl (by simp [Dev.recoveryRequest, Dev.recovery, recoveryOf, hclass])

end

theorem refusalCode_bounds (n : Nat) : 0x100 ≤ refusalCode n ∧ refusalCode n < 0x600 := by
  unfold refusalCode
  omega

section
variable {d : Dev} {m : MastId} {img : FwImage}

theorem Dev.norWrite_of_verifies (hok : (d.mast m).boot.verifies img = true) : d.norWrite m img =
    (d.onBoot m (fun b => { b with nor := b.nor.putFw img, lastResult := 0 })).emit (.reply m 0 []) := by
  simp [Dev.norWrite, hok]

variable (hstage : (d.mast m).boot.stage = .boot) (hidle : (d.mast m).boot.running = false)
include hstage hidle

theorem Dev.loadImage_of_verifies (hok : (d.mast m).boot.verifies img = true) : d.loadImage m img =
    (d.onBoot m (fun b => { b.runImage img 0 true with lastResult := 0 })).emit (.reply m 0 []) := by
  simp [Dev.loadImage, hstage, hidle, hok]

theorem Dev.loadImage_of_fails (hbad : (d.mast m).boot.verifies img = false) : d.loadImage m img = d.drawNat (fun n d =>
    (d.onBoot m (fun b => { b with stage := .halted, lastResult := refusalCode n })).emit (.reply m (refusalCode n) [])) := by
  simp [Dev.loadImage, hstage, hidle, hbad]

end

/-- Settles O1, event by event. -/
theorem bootAndRecoveryComplete : Obligations.BootAndRecoveryComplete := by
  refine ⟨⟨fun s sel hlow htrip => ?_, fun s => ?_, fun s m t rest g hstage hidle htries himage => ⟨fun hok => ?_, fun hbad hlast => ?_⟩,
    fun s m mode hrun hmode => ?_, fun s m hrun husb _ => ?_, fun s h => ?_⟩, fun s m img hclass =>
    ⟨?_, ?_, fun hok => ⟨?_, fun hstage hidle => ?_⟩, fun hbad hstage hidle => ?_⟩⟩
  · obtain ⟨a, ha⟩ := Dev.powerUp_eq { s.dev with pins := { s.dev.pins with poresetN := true } } sel
    refine ⟨_, answers_poresetNRise_of_untripped hlow htrip sel, ?_⟩
    rw [ha]
    exact ⟨rfl, rfl, rfl, rfl, rfl, rfl, rfl, rfl, rfl, rfl⟩
  · exact ⟨_, answers_of_run rfl rfl, rfl, rfl, rfl, rfl, rfl, rfl, rfl, rfl, rfl, rfl⟩
  · exact answers_bootImageVerified_of_verifies hstage hidle htries himage hok
  · exact answers_bootImageVerified_of_last_fails hstage hidle htries himage hbad hlast
  · exact answers_usb4LinkTraining_of_runs hrun hmode
  · exact answers_pcieTunnelEstablished_of_link_up hrun husb
  · exact answers_pennantBootTimeout_of_claims h
  · exact answers_ident_of_recovery hclass
  · exact answers_status_of_recovery hclass
  · exact Dev.norWrite_of_verifies hok ▸ answers_norWrite_of_recovery hclass img
  · exact Dev.loadImage_of_verifies hstage hidle hok ▸ answers_load_of_recovery hclass img
  · obtain ⟨hlo, hhi⟩ := refusalCode_bounds (Config.freeNat s.dev.free)
    have hload := answers_load_of_recovery hclass img
    rw [Dev.loadImage_of_fails hstage hidle hbad] at hload
    exact ⟨_, hlo, hhi, hload⟩

end Sys2Proof.Machine
end

section
/-! Proofs for set-up writes: plain registers, FAB_BRING and FAB_TILE_EN (R2, R10, R41, R42, R51 to R53, R418, R489, R490). -/

namespace Sys2Proof.Machine

/-! ## A field just set -/

theorem testBit_fld (r : Reg64) (lo w i : Nat) : (fld r lo w).testBit i = (decide (i < w) && r.getLsbD (lo + i)) := by
  simp [fld, Nat.testBit_mod_two_pow, BitVec.getLsbD]

theorem getLsbD_msk (lo w i : Nat) : (msk lo w).getLsbD i = (decide (i < 64) && decide (lo ≤ i) && decide (i - lo < w)) := by
  simp only [msk, BitVec.getLsbD_shiftLeft, BitVec.getLsbD_ofNat, Nat.testBit_two_pow_sub_one]
  grind

theorem getLsbD_setFld (r : Reg64) (lo w v i : Nat) (hi : i < 64) :
    (setFld r lo w v).getLsbD i = if lo ≤ i ∧ i < lo + w then v.testBit (i - lo) else r.getLsbD i := by
  simp only [setFld, BitVec.getLsbD_or, BitVec.getLsbD_and, BitVec.getLsbD_not, getLsbD_msk, BitVec.getLsbD_shiftLeft,
    BitVec.getLsbD_ofNat]
  grind

theorem fld_setFld_same (r : Reg64) {lo w v : Nat} (hfit : lo + w ≤ 64) (hv : v < 2 ^ w) : fld (setFld r lo w v) lo w = v := by
  apply Nat.eq_of_testBit_eq
  intro i
  rw [testBit_fld]
  by_cases hi : i < w
  · rw [getLsbD_setFld _ _ _ _ _ (by omega), if_pos (by omega)]
    simp [hi]
  · have hout : v.testBit i = false := Nat.testBit_lt_two_pow (hv.trans_le (Nat.pow_le_pow_right (by decide) (by omega)))
    simp [hi, hout]

theorem fld_lt (r : Reg64) (lo w : Nat) : fld r lo w < 2 ^ w := Nat.mod_lt _ (Nat.two_pow_pos w)

theorem Dev.regF_setRegF_same (d : Dev) (m : MastId) (off : Nat) {lo w v : Nat} (hfit : lo + w ≤ 64) (hv : v < 2 ^ w) :
    (d.setRegF m off lo w v).regF m off lo w = v := by
  rw [Dev.regF, Dev.setRegF, Dev.reg_setReg, fld_setFld_same _ hfit hv]

/-! ## Writes that are not taken -/

theorem Dev.barWrite_of_reserved {d : Dev} {off : Nat} {w : RegWr} (hup : d.barUp w.mast = true)
    (hmay : d.holder = some w.mast ∨ standbyTakes off = true) (hnone : regInfo off = none)
    (k : MastId → RegInfo → Reg64 → Dev → Dev) : d.barWrite off w k = d := by
  rcases hmay with hmay | hmay <;> simp [Dev.barWrite, hup, hmay, hnone]

theorem Dev.barWrite_of_other_width {d : Dev} {off : Nat} {w : RegWr} (hup : d.barUp w.mast = true)
    (hmay : d.holder = some w.mast ∨ standbyTakes off = true) (hwidth : w.half = .other)
    (k : MastId → RegInfo → Reg64 → Dev → Dev) : d.barWrite off w k = d := by
  rcases hmay with hmay | hmay <;> simp [Dev.barWrite, hup, hmay, hwidth]

/-! ## A register without a row of its own -/

theorem exec_setupRegisterWrite_plain {off : Nat} (hrow : ownRow off = false) (hbring : off ≠ 0x4020) (w : RegWr) (s : State) :
    exec (.setupRegisterWrite off w) s = run s (fun d => d.barWrite off w (fun m info v d => d.plainTaken m off info v)) := by
  show run s _ = _
  simp [hrow, hbring]

theorem exec_setupRegisterWrite_bring (w : RegWr) (s : State) :
    exec (.setupRegisterWrite 0x4020 w) s = run s (fun d => d.bringWrite w) := rfl

/-- What a standby makes of a write outside its blocks, to FAB_BRING as well. -/
theorem answers_setupRegisterWrite_of_standby {s : State} {off : Nat} {w : RegWr} (hrow : ownRow off = false)
    (hup : s.dev.barUp w.mast = true) (hholder : s.dev.holder ≠ some w.mast) (htakes : standbyTakes off = false) :
    Answers (.setupRegisterWrite off w) s (s.dev.flag w.mast 0x0010 3) := by
  by_cases hbring : off = 0x4020
  · subst hbring
    exact answers_of_run (exec_setupRegisterWrite_bring w s) (Dev.barWrite_standby hup hholder htakes _)
  · exact answers_of_run (exec_setupRegisterWrite_plain hrow hbring w s) (Dev.barWrite_standby hup hholder htakes _)

section
variable {s : State} {w : RegWr} {info : RegInfo} (hw : Writable s.dev 0x4020 w info)
include hw

theorem answers_bringWrite_of_one_bit {b : Nat} {c : Bring} (hbit : bitsOf (s.dev.written 0x4020 w info).toNat 5 = [b])
    (hcmd : bringOf b = some c) : Answers (.setupRegisterWrite 0x4020 w) s (s.dev.bringStart w.mast c) :=
  answers_of_run (exec_setupRegisterWrite_bring w s) (by simp [Dev.bringWrite, Dev.barWrite_of_writable hw, hbit, hcmd])

theorem answers_bringWrite_of_several_bits (hidle : (s.dev.mast w.mast).boot.busy = none)
    (hbits : 2 ≤ (bitsOf (s.dev.written 0x4020 w info).toNat 5).length) :
    Answers (.setupRegisterWrite 0x4020 w) s (s.dev.onBoot w.mast (fun b => { b with status := .notPermitted })) := by
  refine answers_of_run (exec_setupRegisterWrite_bring w s) ?_
  rw [Dev.bringWrite, Dev.barWrite_of_writable hw]
  split
  next h => simp [h] at hbits
  next h => simp [h] at hbits
  next => simp [hidle]

end

/-! ## FAB_TILE_EN -/

/-- What an accepted FAB_TILE_EN write makes of the block (R51, R418). -/
def Dev.tileEnTaken (d : Dev) (m : MastId) (v : Reg64) : Dev :=
  let old := d.regF m 0x4010 0 16
  let new := fld v 0 16
  let clears := (d.fab m).tableTiles.any (fun t => bit old t && !bit new t)
  let kept := d.setRegF m 0x4010 0 16 (maskOf ((bitsOf new 16).filter (bit d.part.fitted)))
  match (d.mast m).boot.stage with
  | .setup => kept
  | .topo => if clears then d.flag m 0x8010 2
    else kept.when ((kept.mast m).boot.busy == some .power) (fun d => d.enables m old)
  | _ => if clears || (bitsOf new 16).any (fun t => !bit d.part.fitted t) then d.flag m 0x8010 2
    else (d.setRegF m 0x4010 0 16 new).enables m old

theorem answers_fabTileEnWrite {s : State} {w : RegWr} {info : RegInfo} (hw : Writable s.dev 0x4010 w info) {d : Dev}
    (hd : s.dev.tileEnTaken w.mast (s.dev.written 0x4010 w info) = d) : Answers (.fabTileEnWrite w) s d :=
  answers_of_run rfl ((Dev.barWrite_of_writable hw _).trans hd)

@[simp] theorem Dev.boot_setRegF (d : Dev) (m : MastId) (off lo w v : Nat) :
    ((d.setRegF m off lo w v).mast m).boot = (d.mast m).boot := by
  simp [Dev.setRegF, Dev.setReg]

/-- Settles O2, clause by clause. -/
theorem setupWritesComplete : Obligations.SetupWritesComplete := by
  refine ⟨fun s off w hrow => ⟨fun info hbring hw => ?_, fun hbring hup hmay hnone => ?_, fun hup hholder htakes => ?_,
    fun hbring hup hmay hwidth => ?_, fun info b c hbring hw hbit hcmd => ?_, fun info hbring hw hidle hbits => ?_⟩,
    fun s w info hw => ⟨fun hstage => ?_, fun hstage hclears hbusy => ?_, fun ⟨hstage, hclears⟩ => ?_,
      fun ⟨hstage, hclears, hfit⟩ => ?_⟩⟩
  · exact answers_of_run (exec_setupRegisterWrite_plain hrow hbring w s) (Dev.barWrite_of_writable hw _)
  · exact answers_of_run (exec_setupRegisterWrite_plain hrow hbring w s) (Dev.barWrite_of_reserved hup hmay hnone _)
  · exact answers_setupRegisterWrite_of_standby hrow hup hholder htakes
  · exact answers_of_run (exec_setupRegisterWrite_plain hrow hbring w s) (Dev.barWrite_of_other_width hup hmay hwidth _)
  · subst hbring
    exact answers_bringWrite_of_one_bit hw hbit hcmd
  · subst hbring
    exact answers_bringWrite_of_several_bits hw hidle hbits
  · refine answers_fabTileEnWrite hw ?_
    rcases hstage with hstage | ⟨hstage, hclears, hbusy⟩
    · simp only [Dev.tileEnTaken, hstage]
    · simp [Dev.tileEnTaken, hstage, hclears, Dev.when, hbusy]
  · refine answers_fabTileEnWrite hw ?_
    simp [Dev.tileEnTaken, hstage, hclears, Dev.when, hbusy]
  · refine answers_fabTileEnWrite hw ?_
    simp only [Dev.tileEnTaken, hclears, Bool.true_or, if_true]
    split
    · contradiction
    all_goals rfl
  · refine answers_fabTileEnWrite hw ?_
    simp only [Dev.tileEnTaken, hstage, hclears, hfit, Bool.or_false, Bool.false_eq_true, if_false, Dev.enables,
      Dev.regF_setRegF_same _ _ _ (show 0 + 16 ≤ 64 by decide) (fld_lt _ 0 16)]

end Sys2Proof.Machine
end

section
/-! Proofs for bring-up from TOPO_LOAD to READY (R52, R53, R60 to R64, R71, R151, R300, R301). -/

namespace Sys2Proof.Machine

@[simp] theorem Dev.reg_onBoot (d : Dev) (m : MastId) (f : Boot → Boot) (off : Nat) : (d.onBoot m f).reg m off = d.reg m off := by
  simp [Dev.onBoot, Dev.reg]

theorem Dev.mast_onTile (d : Dev) (t : Nat) (f : Tile → Tile) (m : MastId) : (d.onTile t f).mast m = d.mast m := by
  cases m <;> rfl

@[simp] theorem Dev.regF_busyWith (d : Dev) (m : MastId) (b : Bring) (off lo w : Nat) :
    (d.busyWith m b).regF m off lo w = d.regF m off lo w := by
  simp [Dev.busyWith, Dev.regF]

theorem answers_topoLoad_of_brings {s : State} {m : MastId} (h : Brings s.dev m [.setup, .topo]) :
    Answers (.topoLoad m) s
      (let n := (s.dev.busyWith m .topoLoad).regF m 0x4008 0 32
       ((s.dev.busyWith m .topoLoad).emit (.hostRead m 5 0 n ((s.dev.busyWith m .topoLoad).reg m 0x4000).toNat)).hostIn m n) :=
  answers_of_run rfl (Dev.bring_of_brings h _ _)

theorem answers_power_of_brings {s : State} {m : MastId} (h : Brings s.dev m [.topo]) : Answers (.power m) s
    (((s.dev.busyWith m .power).each (bitsOf (s.dev.regF m 0x4010 0 16) 16) (fun t d => d.wake (16 + 2 * t))).powerDone m) :=
  answers_of_run rfl ((Dev.bring_of_brings h _ _).trans (by rw [Dev.regF_busyWith]))

/-! ## Ends of bring-up commands -/

section
variable {s : State} {m : MastId} (hserves : Serves s.dev m)
include hserves

section
variable (hbusy : (s.dev.mast m).boot.busy = some .topoLoad) (b : List Byte)
include hbusy

theorem answers_topoTableFetched_of_bad {e : Nat × Nat}
    (hbad : topoCheck s.dev.part (s.dev.regF m 0x4010 0 16) (topoOf (b.take (s.dev.regF m 0x4008 0 32))) = some e) :
    Answers (.topoTableFetched (some b)) s ((s.dev.onFab m (fun f => { f with topoErr := e.1, topoErrEntry := e.2 })).onBoot m
      (fun b => { b with busy := none, status := .topoInvalid })) :=
  answers_of_run rfl ((Dev.act_of_serves hserves _).trans (by simp [hbusy, hbad, Dev.bringEnd]))

theorem answers_topoTableFetched_of_good
    (hgood : topoCheck s.dev.part (s.dev.regF m 0x4010 0 16) (topoOf (b.take (s.dev.regF m 0x4008 0 32))) = none) :
    Answers (.topoTableFetched (some b)) s ((s.dev.loadTopo m (topoOf (b.take (s.dev.regF m 0x4008 0 32)))).onBoot m
      (fun b => { b with busy := none, status := .ok, stage := .topo })) :=
  answers_of_run rfl ((Dev.act_of_serves hserves _).trans (by simp [hbusy, hgood, Dev.bringEnd]))

end

section
variable (hbusy : (s.dev.mast m).boot.busy = some .seedRestore)
include hbusy

theorem answers_seedRestoreDone_of_absent (hnone : (s.dev.mast m).boot.nor.newest = none) :
    Answers .seedRestoreDone s (s.dev.onBoot m (fun b => { b with busy := none, status := .seedAbsent })) :=
  answers_of_run rfl ((Dev.act_of_serves hserves _).trans (by simp [hbusy, hnone, Dev.bringEnd]))

variable {g : SeedImage} {z : Topo} (himage : (s.dev.mast m).boot.nor.newest = some g)
  (htopo : (s.dev.fab m).topo = some z)
include himage htopo

theorem answers_seedRestoreDone_of_mismatch (hcrc : g.topoCrc ≠ z.table.crc) :
    Answers .seedRestoreDone s (s.dev.onBoot m (fun b => { b with busy := none, status := .seedMismatch })) :=
  answers_of_run rfl ((Dev.act_of_serves hserves _).trans (by simp [hbusy, himage, htopo, hcrc, Dev.bringEnd]))

theorem answers_seedRestoreDone_of_match (hcrc : g.topoCrc = z.table.crc) :
    Answers .seedRestoreDone s ((s.dev.loadSeed g).onBoot m (fun b => { b with busy := none, status := .ok, stage := .seeded })) :=
  answers_of_run rfl ((Dev.act_of_serves hserves _).trans (by simp [hbusy, himage, htopo, hcrc, Dev.bringEnd]))

end

theorem answers_selfCalibrationDone_outside_power {t b : Nat} (hcal : (s.dev.tile t).selfcal = some b)
    (halive : (s.dev.tile t).alive = true) (hdue : b ≤ s.dev.beat) (hbusy : (s.dev.mast m).boot.busy ≠ some .power) :
    Answers (.selfCalibrationDone t) s (s.dev.onTile t (fun x => ({ x with selfcal := none } : Tile).markAll 4)) := by
  refine answers_of_run rfl ?_
  simp only [hcal, halive, Bool.not_true, Bool.false_or, decide_eq_true_eq, Nat.not_lt.mpr hdue, if_false]
  refine (Dev.act_of_serves (d := s.dev.onTile t _) hserves _).trans (if_neg ?_)
  simpa only [Dev.mast_onTile, beq_iff_eq] using hbusy

theorem answers_stageReady_of_due {b : Nat} (hready : (s.dev.mast m).boot.readyAt = some b)
    (hbusy : (s.dev.mast m).boot.busy = some .loopArm) (hdue : b ≤ s.dev.beat) :
    Answers .stageReady s (((s.dev.onBoot m (fun x => { x with
        readyAt := none, busy := none, status := .ok, stage := .ready })).onHif m (fun h => { h with
          running := s.dev.hifEn m, firstPoll := true, pollAt := s.dev.beat, sweep := 0 })).onFab m (fun f => { f with
            epoch := 0, map := [], portEpoch := [], strikeTime := none })) := by
  refine answers_of_run rfl ((Dev.act_of_serves hserves _).trans ?_)
  simp only [hready, hbusy, bne_self_eq_false, Bool.false_or, decide_eq_true_eq, Nat.not_lt.mpr hdue, if_false]
  cases m <;> rfl

end

/-- Settles O3, command by command. -/
theorem bringUpCompletes : Obligations.BringUpCompletes := by
  refine ⟨fun s m => ⟨answers_topoLoad_of_brings, answers_power_of_brings, fun h => ?_, fun h => ?_,
    fun hserves hbusy b => ⟨fun e hbad => ?_, fun hgood => ?_⟩, fun hserves hbusy => ⟨fun hnone => ?_, fun g z himage htopo =>
      ⟨fun hcrc => ?_, fun hcrc => ?_⟩⟩⟩, fun s m t b hserves hcal halive hdue hbusy => ?_,
    fun s m b hserves hready hbusy hdue => ?_, fun s => ?_⟩
  · exact answers_of_run rfl (Dev.bring_of_brings h _ _)
  · exact answers_of_run rfl (Dev.bring_of_brings h _ _)
  · exact answers_topoTableFetched_of_bad hserves hbusy b hbad
  · exact answers_topoTableFetched_of_good hserves hbusy b hgood
  · exact answers_seedRestoreDone_of_absent hserves hbusy hnone
  · exact answers_seedRestoreDone_of_mismatch hserves hbusy himage htopo hcrc
  · exact answers_seedRestoreDone_of_match hserves hbusy himage htopo hcrc
  · exact answers_selfCalibrationDone_outside_power hserves hcal halive hdue hbusy
  · exact answers_stageReady_of_due hserves hready hbusy hdue
  · exact answers_of_run rfl rfl

end Sys2Proof.Machine
end

section
/-! Proofs for the fast-drive channels, PARK_N, the gain and the heater-limit reports (R239 to R246, R252, R255, R386). -/

namespace Sys2Proof.Machine

/-! ## Step beats and immediate writes -/

theorem answers_slewStep_of_due {s : State} {c b : Nat} (hcell : c < cellCount) (halive : (s.dev.tile (c / laneCount)).alive = true)
    (hpark : (s.dev.tile (c / laneCount)).parkLow = false) (hstep : (s.dev.cell c).drv.step = some b) (hdue : b ≤ s.dev.beat) :
    let k := s.dev.drvSet (c / laneCount)
    Answers (.slewStep c) s (if s.dev.testing s.dev.server ⟨.cell, c⟩ then s.dev
      else s.dev.onCell c (fun x => { x with drv := x.drv.toward (x.drv.E false) k.1 k.2 s.dev.beat })) := by
  refine answers_of_run rfl ?_
  simp only [hstep, hdue, halive, hpark, hcell, decide_true, Bool.not_false, Bool.and_true, Bool.true_and, Bool.not_eq_true']
  cases s.dev.testing s.dev.server ⟨.cell, c⟩ <;> rfl

section
variable {s : State} {c p : Nat} (g : Tgt) (thresh : Bool)

theorem answers_immediateWrite_of_free (hcell : c < cellCount) (halive : (s.dev.tile (c / laneCount)).alive = true)
    (hpen : p = (s.dev.tile (c / laneCount)).link.pen) (hlease : s.dev.beat < (s.dev.tile (c / laneCount)).link.leaseEnd)
    (hlive : thresh = true → (s.dev.cell c).drv.live = false)
    (hfree : (s.dev.stay s.dev.server (c / laneCount)).down.writeFree s.dev.beat = true) :
    Answers (.immediateWrite c g p thresh true) s
      ((s.dev.onStay s.dev.server (c / laneCount) (fun z => { z with down := z.down.writeUse s.dev.beat })).onTile (c / laneCount)
        (fun x => { x with imm := x.imm ++ [(c % laneCount, g, thresh)] })) := by
  have hthresh : (thresh && (s.dev.cell c).drv.live) = false := by
    cases thresh
    · rfl
    · exact hlive rfl
  exact answers_of_run rfl (by simp [hcell, halive, hpen, hlease, hthresh, hfree])

theorem answers_immediateWrite_of_discarded {crcOk : Bool} (h : crcOk = false ∨ p ≠ (s.dev.tile (c / laneCount)).link.pen) :
    Answers (.immediateWrite c g p thresh crcOk) s s.dev := by
  refine answers_of_run rfl (if_neg ?_)
  rcases h with h | h <;> simp [h]

end

/-! ## PARK_N -/

@[simp] theorem Cell.drv_stepped (c : Cell) (e0 e1 : Nat) : (c.stepped e0 e1).drv = c.drv := rfl

@[simp] theorem Cell.htr_stepped (c : Cell) (e0 e1 : Nat) : (c.stepped e0 e1).htr = c.htr := rfl

/-- A channel as PARK_N's fall leaves it: O is P, and nothing moves. -/
theorem Tile.drv_park (x : Tile) (l : Nat) : (x.park.cell l).drv = { (x.cell l).drv with O := (x.cell l).drv.P, step := none } ∧
    (x.park.cell l).htr = (x.cell l).htr := by
  have hcell : x.park.cell l = (x.mapCells (fun c =>
    let e0 := c.drv.E x.parkLow
    let c' := { c with drv := { c.drv with O := c.drv.P, step := none }, before := none }
    let c' := if e0 = c.drv.P then c' else c'.stepped e0 c.drv.P
    if x.conv.scanning then c'.restart else c')).cell l := rfl
  rw [hcell, Tile.cell_mapCells]
  dsimp only
  split <;> split <;> exact ⟨rfl, rfl⟩

/-- A released channel keeps P, T and W. -/
theorem Cell.drv_retarget_id (c : Cell) (S R beat : Nat) :
    let x := (c.retarget true false false S R beat id).drv
    x.P = c.drv.P ∧ x.T = c.drv.T ∧ x.W = c.drv.W := by
  have hfollow : ∀ (y : Drive) (e : Nat), (y.follow e S R beat).P = y.P ∧ (y.follow e S R beat).T = y.T ∧
      (y.follow e S R beat).W = y.W := by
    intro y e
    unfold Drive.follow
    repeat' split
    all_goals exact ⟨rfl, rfl, rfl⟩
  unfold Cell.retarget
  dsimp only
  split
  · exact ⟨rfl, rfl, rfl⟩
  · split
    · exact ⟨rfl, rfl, rfl⟩
    · simp only [Cell.drv_stepped, Bool.false_or, Bool.false_and, Bool.false_eq_true, if_false]
      split
      · exact ⟨rfl, rfl, rfl⟩
      · exact hfollow _ _

theorem Tile.cell_release (x : Tile) (S R b l : Nat) : (x.release S R b).cell l = (x.cell l).retarget true false false S R b id :=
  Tile.cell_mapCells x (fun c => c.retarget true false false S R b id) l

/-! ## Heater-limit reports -/

theorem answers_heaterLimitReport_of_free {s : State} {m : MastId} {t : Nat} (hserves : Serves s.dev m) (hfree : UpFree s.dev m t 3)
    (hhits : (s.dev.tile t).link.reports.filterMap (fun r => match r with
      | .heater l c => some (l, c)
      | _ => none) ≠ []) :
    Answers (.heaterLimitReport t) s (((s.dev.arrived m t).onTile t (fun x => { x with link := { x.link with
        reports := x.link.reports.filter (fun r => match r with
          | .heater _ _ => false
          | _ => true) } })).each ((s.dev.tile t).link.reports.filterMap (fun r => match r with
            | .heater l c => some (l, c)
            | _ => none)) (fun h d =>
      if d.testing m ⟨.lane, t * laneCount + h.1⟩ then d.testBad m ⟨.lane, t * laneCount + h.1⟩
      else d.report m (48 + t) 2 (t * laneCount + h.1) (BitVec.ofNat 32 h.2) (some ⟨.lane, t * laneCount + h.1⟩))) :=
  answers_of_run rfl ((Dev.act_of_serves hserves _).trans
    ((if_neg (mt List.isEmpty_iff.mp hhits)).trans (Dev.upGo_of_free hfree _)))

/-! ## FAB_DRV_TILEt -/

/-- The register as a write leaves it while PARK may still be set: STEP and RATE written 0 keep their value (R255). -/
def drvStored (info : RegInfo) (old v : Reg64) : Reg64 :=
  let r := if fld v 20 12 = 0 then setFld (plainWrite info old v) 20 12 (fld old 20 12) else plainWrite info old v
  if fld v 32 8 = 0 then setFld r 32 8 (fld old 32 8) else r

/-- The block with the register stored. -/
def Dev.drvWritten (d : Dev) (off : Nat) (w : RegWr) (info : RegInfo) : Dev :=
  (d.setReg w.mast off (drvStored info (d.reg w.mast off) (d.written off w info))).mirrorClear w.mast off
    (d.written off w info &&& info.w1c)

/-- What follows on the tile: a new PARK, before ARMING, and the gain asked for. -/
def Dev.drvAsked (d : Dev) (m : MastId) (t : Nat) (half : Half) (park : Bool) (v : Reg64) : Dev :=
  let d := if park && d.takes m t && (d.tile t).leaseRuns d.beat then d.onTile t (fun x => { x with parkW := some (fld v 0 12) })
    else d
  if half == .hi then d
  else
    let g := fld v 16 1 == 1
    let d := if g == (d.tile t).gain then d else d.remeasure m t
    d.onTile t (fun x => { x with gainReq := if g == x.gain then none else some g })

theorem answers_fabDrvTileWrite {s : State} {t : Nat} {w : RegWr} {info : RegInfo} (ht : t < 16)
    (hw : Writable s.dev (0x4500 + 8 * t) w info) {park : Bool}
    (hpark : (fld (s.dev.written (0x4500 + 8 * t) w info) 0 12 != fld (s.dev.reg w.mast (0x4500 + 8 * t)) 0 12) = park)
    (hearly : park = false ∨ ¬ ((s.dev.mast w.mast).boot.stage = .arming ∨ (s.dev.mast w.mast).boot.stage = .ready)) {d : Dev}
    (hd : (s.dev.drvWritten (0x4500 + 8 * t) w info).drvAsked w.mast t w.half park
      (s.dev.written (0x4500 + 8 * t) w info) = d) : Answers (.fabDrvTileWrite t w) s d := by
  refine answers_of_run rfl ((if_neg (by omega)).trans ((Dev.barWrite_of_writable hw _).trans (Eq.trans ?_ hd)))
  simp only [hpark, Dev.drvWritten, drvStored, Dev.drvAsked, beq_iff_eq]
  rcases hearly with rfl | hearly
  · simp only [Bool.false_and, Bool.false_eq_true, if_false]
  · have hlate : ((s.dev.mast w.mast).boot.stage == .arming || (s.dev.mast w.mast).boot.stage == .ready) = false := by
      simpa using hearly
    cases park <;> simp only [hlate, Bool.and_false, Bool.true_and, Bool.false_and, Bool.false_eq_true, if_false, if_true]

theorem Dev.gain_parkW (d : Dev) (t : Nat) (p : Option Nat) :
    ((d.onTile t (fun x => { x with parkW := p })).tile t).gain = (d.tile t).gain := by
  simp [Dev.onTile]

/-- Settles O4, event by event. -/
theorem driveEventsAndParkComplete : Obligations.DriveEventsAndParkComplete := by
  refine ⟨⟨⟨fun s c b hcell halive hpark hstep hdue => ?_, fun s c p g thresh hcell halive hpen hlease hlive hfree => ?_,
    fun s c p g thresh crcOk hbad => ?_, fun s hlow => ?_, fun s t g hreq halive hparked => ?_⟩,
    fun s => ?_, fun x l => ?_, fun s hhigh => ?_, fun x S R b l => ?_, fun s m t hserves hfree => ?_⟩,
    fun s t w info ht hw => ⟨fun hhalf hpark => ?_, fun hhalf hpark hearly hgain ⟨htakes, hlease⟩ => ?_,
      fun hhalf hpark hgain => ?_⟩⟩
  · exact answers_slewStep_of_due hcell halive hpark hstep hdue
  · exact answers_immediateWrite_of_free g thresh hcell halive hpen hlease hlive hfree
  · exact answers_immediateWrite_of_discarded g thresh hbad
  · exact answers_of_run rfl (if_neg (by simp [hlow]))
  · exact answers_of_run rfl (by simp [hreq, halive, hparked])
  · exact answers_of_run rfl rfl
  · obtain ⟨hdrv, hhtr⟩ := x.drv_park l
    rw [hdrv, hhtr]
    exact ⟨rfl, rfl, rfl, rfl, rfl⟩
  · refine answers_of_run rfl (congrArg (s.dev.each s.dev.aliveTiles) (funext fun t => funext fun d => ?_))
    cases (d.tile t).parkRelease with
    | none => rfl
    | some b => simp only [Bool.and_eq_true, decide_eq_true_eq]
  · obtain ⟨hP, hT, hW⟩ := (x.cell l).drv_retarget_id S R b
    rw [Tile.cell_release]
    simp only [Drive.E, hP, hT, hW]
    exact ⟨rfl, trivial, trivial⟩
  · exact answers_heaterLimitReport_of_free hserves hfree
  · exact answers_fabDrvTileWrite ht hw (by simp [hpark]) (.inl rfl) (by simp [Dev.drvAsked, hhalf]; rfl)
  · refine answers_fabDrvTileWrite ht hw (bne_iff_ne.mpr hpark) (.inr hearly) ?_
    change _ = ((s.dev.drvWritten (0x4500 + 8 * t) w info).tile t).gain at hgain
    change (s.dev.drvWritten (0x4500 + 8 * t) w info).takes w.mast t = true at htakes
    change ((s.dev.drvWritten (0x4500 + 8 * t) w info).tile t).leaseRuns (s.dev.drvWritten (0x4500 + 8 * t) w info).beat = true
      at hlease
    simp only [Dev.drvAsked, htakes, hlease, Bool.and_true, if_true, Dev.gain_parkW, ← hgain, beq_self_eq_true, beq_iff_eq,
      hhalf, if_false]
    rfl
  · refine answers_fabDrvTileWrite ht hw (by simp [hpark]) (.inl rfl) ?_
    change _ ≠ ((s.dev.drvWritten (0x4500 + 8 * t) w info).tile t).gain at hgain
    simp only [Dev.drvAsked, Bool.false_and, Bool.false_eq_true, if_false, beq_iff_eq, hhalf, hgain]
    rfl

end Sys2Proof.Machine
end

section
/-! Proofs for the host interface's control and its losses (R44, R69 to R71, R98). -/

namespace Sys2Proof.Machine

/-! ## A host loss leaves the peer alone -/

@[simp] theorem Dev.peer_emit (d : Dev) (o : Out) (k : MastId) : (d.emit o).mast k = d.mast k := by cases k <;> rfl

theorem Dev.peer_each {α : Type} {m : MastId} {f : α → Dev → Dev}
    (hf : ∀ x e, (f x e).mast (peerOf m) = e.mast (peerOf m)) (l : List α) (d : Dev) :
    (d.each l f).mast (peerOf m) = d.mast (peerOf m) := by
  induction l generalizing d with
  | nil => rfl
  | cons x l ih => exact (ih (f x d)).trans (hf x d)

section
variable (d : Dev) (m : MastId)

@[simp] theorem Dev.peer_onHif (f : Hif → Hif) : (d.onHif m f).mast (peerOf m) = d.mast (peerOf m) := by simp [Dev.onHif]

@[simp] theorem Dev.peer_onFab (f : Fab → Fab) : (d.onFab m f).mast (peerOf m) = d.mast (peerOf m) := by simp [Dev.onFab]

@[simp] theorem Dev.peer_setReg (off : Nat) (v : Reg64) : (d.setReg m off v).mast (peerOf m) = d.mast (peerOf m) := by
  simp [Dev.setReg]

@[simp] theorem Dev.peer_setRegF (off lo w v : Nat) : (d.setRegF m off lo w v).mast (peerOf m) = d.mast (peerOf m) := by
  simp [Dev.setRegF]

@[simp] theorem Dev.peer_pmc (ev : Nat) (l : List Nat) (k : Nat) : (d.pmc m ev l k).mast (peerOf m) = d.mast (peerOf m) := by
  simp [Dev.pmc]

@[simp] theorem Dev.peer_hostOut (n : Nat) : (d.hostOut m n).mast (peerOf m) = d.mast (peerOf m) := by
  simp [Dev.hostOut, Dev.moved]

@[simp] theorem Dev.peer_msix (v : Nat) : (d.msix m v).mast (peerOf m) = d.mast (peerOf m) := by
  unfold Dev.msix
  split <;> simp

@[simp] theorem Dev.peer_pushJournal (j : JEv) : (d.pushJournal m j).mast (peerOf m) = d.mast (peerOf m) := by
  simp [Dev.pushJournal]

@[simp] theorem Dev.peer_onRing (i : Nat) (f : Ring → Ring) : (d.onRing m i f).mast (peerOf m) = d.mast (peerOf m) := by
  unfold Dev.onRing
  split <;> simp [Dev.setRing]

@[simp] theorem Dev.peer_signalRing (i : Nat) : (d.signalRing m i).mast (peerOf m) = d.mast (peerOf m) := by
  unfold Dev.signalRing
  split <;> simp

@[simp] theorem Dev.peer_putRecord (i : Nat) (g : Ring) (r : Record) (irq : Bool) :
    (d.putRecord m i g r irq).mast (peerOf m) = d.mast (peerOf m) := by
  unfold Dev.putRecord
  dsimp only
  split <;> simp

@[simp] theorem Dev.peer_deliver (i ctx : Nat) (r : Record) (irq back : Bool) :
    (d.deliver m i ctx r irq back).mast (peerOf m) = d.mast (peerOf m) := by
  unfold Dev.deliver
  dsimp only
  repeat' split
  all_goals simp [Dev.toBacklog]

@[simp] theorem Dev.peer_onDesc (ring seq : Nat) (f : Desc → Desc) : (d.onDesc m ring seq f).mast (peerOf m) = d.mast (peerOf m) := by
  simp [Dev.onDesc]

@[simp] theorem Dev.peer_giveSlot (x : Desc) (ref kind len ep : Nat) (crcBad trunc inc : Bool) (p : Payload) :
    (d.giveSlot m x ref kind len ep crcBad trunc inc p).mast (peerOf m) = d.mast (peerOf m) := by
  simp [Dev.giveSlot, Dev.onSlots]

@[simp] theorem Dev.peer_returnSlots (x : Desc) : (d.returnSlots m x).mast (peerOf m) = d.mast (peerOf m) := by
  unfold Dev.returnSlots
  repeat' split
  · rfl
  · rfl
  · exact Dev.peer_each (fun _ _ => by simp) _ d

@[simp] theorem Dev.peer_retire (x : Desc) (sent : Bool) : (d.retire m x sent).mast (peerOf m) = d.mast (peerOf m) := by
  unfold Dev.retire
  dsimp only
  split <;> split <;> simp

@[simp] theorem Dev.peer_completeAt (x : Desc) (st : Status) (ep : Nat) (tm : Option Stamp) (always : Bool) :
    (d.completeAt m x st ep tm always).mast (peerOf m) = d.mast (peerOf m) := by
  unfold Dev.completeAt
  dsimp only
  split <;> simp

@[simp] theorem Dev.peer_leave (t : Nat) (f : LaneFrame) : (d.leave m t f).mast (peerOf m) = d.mast (peerOf m) := by
  unfold Dev.leave
  dsimp only
  split <;> simp [Dev.staySlot, Dev.moved, Dev.mast_onTile]

@[simp] theorem Dev.peer_pump (t n : Nat) : (Dev.pump m t n d).mast (peerOf m) = d.mast (peerOf m) := by
  induction n generalizing d with
  | zero => rfl
  | succ n ih =>
    unfold Dev.pump
    repeat' split
    · rfl
    · simp [ih]
    · rfl

@[simp] theorem Dev.peer_disarm (w : SheafWork) : (d.disarm m w).mast (peerOf m) = d.mast (peerOf m) := by
  have hunlane : (d.each (List.range 16) (fun t d => d.unlane m t (fun f => (f.cls == 1 || f.cls == 4) &&
      f.words.head? == some w.tsid))).mast (peerOf m) = d.mast (peerOf m) :=
    Dev.peer_each (fun _ _ => by simp [Dev.unlane]) _ d
  unfold Dev.disarm
  dsimp only
  split
  · exact hunlane
  · refine (Dev.peer_each (fun _ _ => ?_) _ _).trans hunlane
    simp [Dev.command]

@[simp] theorem Dev.peer_abortSheaf (k : SKey) (st : Status) : (d.abortSheaf m k st).mast (peerOf m) = d.mast (peerOf m) := by
  unfold Dev.abortSheaf
  dsimp only
  repeat' split
  all_goals simp [Dev.dropSheaf]

@[simp] theorem Dev.peer_abortWhere (p : Sheaf → Bool) (st : Status) :
    (d.abortWhere m p st).mast (peerOf m) = d.mast (peerOf m) :=
  Dev.peer_each (f := fun k d => d.abortSheaf m k st) (fun _ _ => by simp) _ d

@[simp] theorem Dev.peer_loseDesc (x : Desc) : (d.loseDesc m x).mast (peerOf m) = d.mast (peerOf m) := by
  simp only [Dev.loseDesc, Dev.complete, Dev.peer_completeAt, Dev.dropJobs, Dev.mast_onMast_peer, Dev.onSlots, Dev.peer_onDesc]
  exact Dev.peer_each (fun _ _ => by simp [Dev.keepHeld]) _ d

theorem Dev.peer_loseHost : (d.loseHost m).mast (peerOf m) = d.mast (peerOf m) := by
  unfold Dev.loseHost
  dsimp only
  rw [Dev.peer_each (fun _ _ => by simp), Dev.peer_abortWhere, Dev.peer_each (fun _ _ => by simp), Dev.peer_onHif,
    Dev.peer_each (fun _ _ => by simp), Dev.peer_setRegF, Dev.peer_onHif]

end

/-! ## Resets and links -/

theorem answers_pcieReset_of_holder {s : State} {m : MastId} (htunnel : (s.dev.mast m).boot.tunnel = true)
    (hholder : s.dev.holder = some m) :
    Answers (.pcieReset m) s (((((s.dev.onMast m (fun x => x.resetRegs 0x3F000 0x40000)).keepWindows m).onMast m
      (fun x => x.resetRegs 0x1000 0x4000)).onMast (peerOf m) (fun x => x.resetRegs 0x1000 0x4000)).hostLost m 1) := by
  have hstill : (s.dev.onMast m (fun x => x.resetRegs 0x3F000 0x40000)).holder = s.dev.holder := by cases m <;> rfl
  exact answers_of_run rfl (by simp [htunnel, hstill, hholder])

theorem answers_usb4LinkDown_of_up {s : State} {m : MastId} (husb : (s.dev.mast m).boot.usb = true) :
    Answers (.usb4LinkDown m) s ((s.dev.onBoot m (fun b => { b with usb := false, tunnel := false })).hostLost m 0) :=
  answers_of_run rfl (by simp [husb])

/-! ## HIF_CTL -/

section
variable {s : State} {w : RegWr} {info : RegInfo} (hw : Writable s.dev 0x1000 w info)
include hw

theorem answers_hifDisable_of_enabled (hclear : fld (s.dev.written 0x1000 w info) 0 2 = 0) (hen : s.dev.hifEn w.mast = true) :
    Answers (.hifDisable w) s ((s.dev.setRegF w.mast 0x1000 0 1 0).hostLost w.mast 2) := by
  have hen0 : fld (s.dev.written 0x1000 w info) 0 1 = 0 := by
    simp only [fld, BitVec.toNat_ushiftRight, Nat.shiftRight_eq_div_pow] at hclear ⊢
    omega
  have hdrop : fld (s.dev.written 0x1000 w info) 1 1 = 0 := by
    simp only [fld, BitVec.toNat_ushiftRight, Nat.shiftRight_eq_div_pow] at hclear ⊢
    omega
  refine answers_of_run rfl ((Dev.barWrite_of_writable hw _).trans ?_)
  simp [hen0, hdrop, hen, Dev.when]

theorem answers_hifEnable_of_sound {c : CtxEntry} {e : RingEntry} (hset : fld (s.dev.written 0x1000 w info) 0 1 = 1)
    (hdrop : fld (s.dev.written 0x1000 w info) 1 1 = 0) (hen : s.dev.hifEn w.mast = false)
    (hdrain : (s.dev.hif w.mast).draining = false) :
    let d := (((s.dev.setRegF w.mast 0x1000 0 1 1).onHif w.mast (fun h => { h with
      running := (s.dev.mast w.mast).boot.stage == .ready, firstPoll := true, polled := false, pollAt := s.dev.beat
      sweep := 0 })).hostIn w.mast 96).openCtx w.mast 0 c
    d.ringBasics w.mast (ring0Entry 0 e) = true → d.targetOk w.mast 0 (ring0Entry 0 e) = true →
    Answers (.hifEnable w (some c) (some e)) s (d.register w.mast 0 (ring0Entry 0 e)) := by
  intro d hbasics htarget
  refine answers_of_run rfl ((Dev.barWrite_of_writable hw _).trans ?_)
  simp only [hset, hdrop, hen, hdrain, Dev.when, Bool.false_eq_true, if_false, Bool.or_false, beq_iff_eq, Nat.one_ne_zero,
    Nat.zero_ne_one, Dev.boot_setRegF, Dev.beat_setRegF, Option.isSome_some, if_true]
  exact if_pos (by rw [hbasics, htarget]; rfl)

end

theorem answers_backlogDrop_of_writable {s : State} {m : MastId} {info : RegInfo}
    (hw : Writable s.dev 0x1000 ⟨m, .whole, setFld (s.dev.reg m 0x1000) 1 1 1⟩ info) :
    Answers (.backlogDrop m) s (s.dev.dropBacklog m) :=
  answers_of_run rfl (Dev.barWrite_of_writable hw _)

/-! ## A host loss at its beat -/

/-- What a mast's host loss does where none, or a later one, waits on it. -/
def Dev.hostLossOn (d : Dev) (m : MastId) (cause : Nat) : Dev :=
  let d := (d.onHif m (fun h => { h with lossAt := none })).report m 200 1 0 (BitVec.ofNat 32 cause) none
  if d.serving == some m then d.loseHost m else d

theorem Dev.lossAt_hostLossOn_peer (d : Dev) (m : MastId) (cause : Nat) :
    ((d.hostLossOn m cause).hif (peerOf m)).lossAt = (d.hif (peerOf m)).lossAt := by
  have hreport : (((d.onHif m (fun h => { h with lossAt := none })).report m 200 1 0 (BitVec.ofNat 32 cause) none).hif
      (peerOf m)).lossAt = (d.hif (peerOf m)).lossAt := by
    refine (Dev.view_logFault (v := fun x => x.hif.lossAt) (fun _ _ => rfl) (fun _ _ => rfl) (fun _ _ => rfl) (fun _ _ => rfl)
      (fun _ _ => rfl) _ m 200 1 0 (BitVec.ofNat 32 cause) (peerOf m)).trans ?_
    rw [Dev.peer_onHif]
    rfl
  unfold Dev.hostLossOn
  dsimp only
  split
  · rw [Dev.hif, Dev.peer_loseHost]
    exact hreport
  · exact hreport

/-- A mast's loss taken where it is due. -/
def Dev.takeLoss (m : MastId) (d : Dev) : Dev :=
  match (d.hif m).lossAt with
  | none => d
  | some l => if d.beat < l.1 then d else d.hostLossOn m l.2

theorem exec_hostLoss (s : State) : exec .hostLoss s = run s (fun d => Dev.takeLoss .main (Dev.takeLoss .fore d)) := rfl

theorem Dev.takeLoss_of_none {d : Dev} {m : MastId} (h : (d.hif m).lossAt = none) : Dev.takeLoss m d = d := by
  simp [Dev.takeLoss, h]

theorem Dev.takeLoss_of_due {d : Dev} {m : MastId} {b cause : Nat} (h : (d.hif m).lossAt = some (b, cause)) (hdue : b ≤ d.beat) :
    Dev.takeLoss m d = d.hostLossOn m cause := by
  simp [Dev.takeLoss, h, Nat.not_lt.mpr hdue]

theorem answers_hostLoss_of_due {s : State} {m : MastId} {b cause : Nat} (hloss : (s.dev.hif m).lossAt = some (b, cause))
    (hpeer : (s.dev.hif (peerOf m)).lossAt = none) (hdue : b ≤ s.dev.beat) :
    Answers .hostLoss s (s.dev.hostLossOn m cause) := by
  have hother := (s.dev.lossAt_hostLossOn_peer m cause).trans hpeer
  refine answers_of_run (exec_hostLoss s) ?_
  cases m with
  | fore => rw [Dev.takeLoss_of_due hloss hdue, Dev.takeLoss_of_none (m := .main) hother]
  | main => rw [Dev.takeLoss_of_none (m := .fore) hpeer, Dev.takeLoss_of_due hloss hdue]

/-- Settles O5, event by event. -/
theorem hostInterfaceControlCompletes : Obligations.HostInterfaceControlCompletes := by
  refine ⟨⟨fun s m => answers_pcieReset_of_holder, fun s m => answers_usb4LinkDown_of_up, fun s w info => ?_, fun s m info => ?_,
    fun d m => ?_, fun s w info c e hw hset hdrop hen hdrain => ?_⟩, fun s m b cause hloss hpeer hdue => ?_,
    fun s m hserves hdrain hidle => ?_⟩
  · exact answers_hifDisable_of_enabled
  · exact answers_backlogDrop_of_writable
  · simp [Dev.dropBacklog]
  · exact answers_hifEnable_of_sound hw hset hdrop hen hdrain
  · exact answers_hostLoss_of_due hloss hpeer hdue
  · exact answers_of_run rfl ((Dev.act_of_serves hserves _).trans (by simp [hdrain, hidle]))

end Sys2Proof.Machine
end

section
/-! Proofs for polling, grants and acceptance on the serving mast (R76 to R79, R81, R87, R352 to R357, R498) and for the
windows (R95, R100). -/

namespace Sys2Proof.Machine

/-- A command of the serving mast runs its effect there. -/
theorem answers_of_serves {c : Instr} {s : State} {m : MastId} {f : Dev → MastId → Dev} {d : Dev} (hserves : Serves s.dev m)
    (hc : exec c s = run s (fun d => d.act (f d))) (hd : f s.dev m = d) : Answers c s d :=
  answers_of_run hc ((Dev.act_of_serves hserves _).trans hd)

section
variable {s : State} {m : MastId} (hserves : Serves s.dev m)
include hserves

theorem answers_fetchGrant_of_winner {i n t : Nat} {r : Ring} (hen : s.dev.hifEn m = true) (hrun : (s.dev.hif m).running = true)
    (hwin : (s.dev.consult m).winner m = some (i, n, t)) :
    let d := ((s.dev.consult m).charge m i n t).onRing m i (fun r => { r with granted := n })
    d.ring m i = some r → Answers .fetchGrant s (d.readEntries m i n r) := by
  intro d hring
  refine answers_of_serves hserves rfl ?_
  simp only [hen, hrun, Bool.and_self, Bool.not_true, Bool.false_eq_true, if_false, hwin]
  rw [hring]

theorem answers_descriptorFetchReturn_of_granted {i : Nat} {r : Ring} (es : List (List Byte)) (err : Bool)
    (hring : s.dev.ring m i = some r) (hgrant : 0 < r.granted) (hen : s.dev.hifEn m = true) :
    Answers (.descriptorFetchReturn i es err) s
      (let d := s.dev.onRing m i (fun r => { r with granted := 0 })
       if err then d.pcieErr m 0 r.ent.ctx
       else d.acceptAll m i ((es.take (if s.dev.fetching m r then Nat.min r.granted r.avail else 0)).map entryOf)) :=
  answers_of_serves hserves rfl (by simp [hring, hen, Nat.pos_iff_ne_zero.mp hgrant])

theorem answers_coalescingTimeout_of_due {i b : Nat} {r : Ring} (hring : s.dev.ring m i = some r) (hfirst : r.firstUnsig = some b)
    (hirq : r.ent.irqEn = true) (hdue : b + 10 * r.ent.coalUs ≤ s.dev.beat) :
    Answers (.coalescingTimeout i) s (s.dev.signalRing m i) :=
  answers_of_serves hserves rfl (by simp [hring, hfirst, hirq, hdue])

theorem answers_summaryLineReturn_of_error (sweep : List Doorbell) (hpolled : (s.dev.hif m).polled = true) :
    Answers (.summaryLineReturn none sweep) s ((s.dev.onHif m (fun h => { h with polled := false })).pcieErr m 4 0xFFFF) :=
  answers_of_serves hserves rfl (by simp [hpolled])

end

/-- Settles O7, row by row. -/
theorem pollingCompletes : Obligations.PollingCompletes := by
  intro s m hserves
  refine ⟨fun hrun hen hidle hdue => ?_, fun l sweep hpolled => ?_, fun sweep hpolled => ?_, fun i n t r hen hrun hwin => ?_,
    fun i r es err hring hgrant hen => ?_, fun dbs spec bad hen hrun => ?_, fun i r b hring hfirst hirq hdue => ?_, fun i q => ?_⟩
  · exact answers_poll_of_due hserves hrun hen hidle hdue
  · exact answers_of_serves hserves rfl (if_neg (by simp [hpolled]))
  · exact answers_summaryLineReturn_of_error hserves sweep hpolled
  · exact answers_fetchGrant_of_winner hserves hen hrun hwin
  · exact answers_descriptorFetchReturn_of_granted hserves es err hring hgrant hen
  · exact answers_of_serves hserves rfl (if_neg (by simp [hen, hrun]))
  · exact answers_coalescingTimeout_of_due hserves hring hfirst hirq hdue
  · exact answers_of_serves hserves rfl rfl

/-! ## Windows -/

section
variable {s : State} {win : Nat} {w : RegWr} {info : RegInfo} (hwin : win < 64) (hw : Writable s.dev (winCfg win) w info)
  (hoff : s.dev.regF w.mast (winCfg win) 31 1 = 0)
include hwin hw hoff

theorem answers_winCfgWrite_of_bad_geometry (hset : fld (s.dev.written (winCfg win) w info) 31 1 = 1)
    (hbad : geomOk (fld (s.dev.written (winCfg win) w info) 0 21) (fld (s.dev.written (winCfg win) w info) 24 6) = false) :
    Answers (.winCfgWrite win w) s ((s.dev.setReg w.mast (winCfg win)
      (setFld (plainWrite info (s.dev.reg w.mast (winCfg win)) (s.dev.written (winCfg win) w info)) 31 1 0)).flag w.mast
        (winBase win + 16) 0) := by
  refine answers_of_run rfl ((if_neg (by omega)).trans ((Dev.barWrite_of_writable hw _).trans ?_))
  rw [Dev.regF] at hoff
  simp [hoff, hset, hbad]

theorem answers_winCfgWrite_of_clear (hclear : fld (s.dev.written (winCfg win) w info) 31 1 = 0) :
    Answers (.winCfgWrite win w) s (s.dev.setReg w.mast (winCfg win)
      (plainWrite info (s.dev.reg w.mast (winCfg win)) (s.dev.written (winCfg win) w info))) := by
  refine answers_of_run rfl ((if_neg (by omega)).trans ((Dev.barWrite_of_writable hw _).trans ?_))
  rw [Dev.regF] at hoff
  simp [hoff, hclear]

end

/-- Settles O9: an enable refused, a write without EN, an enable taken. -/
theorem windowWriteCompletes : Obligations.WindowWriteCompletes := by
  intro s win w info hwin hw m v hoff
  refine ⟨answers_winCfgWrite_of_bad_geometry hwin hw hoff, answers_winCfgWrite_of_clear hwin hw hoff, fun hset hgood => ?_⟩
  refine answers_of_run rfl ((if_neg (by omega)).trans ((Dev.barWrite_of_writable hw _).trans ?_))
  have hold : fld (s.dev.reg m (winCfg win)) 31 1 = 0 := hoff
  change fld (s.dev.written (winCfg win) w info) 31 1 = 1 at hset
  change geomOk (fld (s.dev.written (winCfg win) w info) 0 21) (fld (s.dev.written (winCfg win) w info) 24 6) = true at hgood
  simp [hold, hset, hgood, m, v]

end Sys2Proof.Machine
end

section
/-! Proofs for administrative descriptors (R75, R82, R84, R85, R88 to R93, R402). -/

namespace Sys2Proof.Machine

/-! ## Descriptors that start -/

/-- A descriptor that starts runs its effect on the block with it started. -/
theorem answers_of_starts {c : Instr} {s : State} {ring seq op : Nat} {m : MastId} {x : Desc} {k : MastId → Desc → Dev → Dev}
    {d : Dev} (hstarts : Starts s.dev ring seq op m x) (hc : exec c s = run s (fun d => d.start ring seq op k))
    (hd : k m x (s.dev.begun m ring seq) = d) : Answers c s d :=
  answers_of_run hc ((Dev.start_of_starts hstarts k).trans hd)

@[simp] theorem Dev.pen_begun (d : Dev) (m : MastId) (ring seq : Nat) : ((d.begun m ring seq).mast m).pen = (d.mast m).pen := by
  simp [Dev.begun, Dev.onDesc, Dev.onHif]

theorem Dev.startLasting_of_starts {d : Dev} {ring seq op : Nat} {m : MastId} {x : Desc} (hstarts : Starts d ring seq op m x)
    (hfree : (d.mast m).pen.protect = false) (i : Instr) (k : MastId → Desc → Dev → Dev) :
    d.startLasting ring seq op i k = k m x (d.begun m ring seq) := by
  refine (Dev.start_of_starts hstarts _).trans (if_neg ?_)
  rw [Dev.pen_begun, hfree]
  exact Bool.false_ne_true

/-- One with a lasting effect runs it where PROTECTED is 0. -/
theorem answers_of_lasting {c i : Instr} {s : State} {ring seq op : Nat} {m : MastId} {x : Desc} {k : MastId → Desc → Dev → Dev}
    {d : Dev} (hstarts : Starts s.dev ring seq op m x) (hfree : (s.dev.mast m).pen.protect = false)
    (hc : exec c s = run s (fun d => d.startLasting ring seq op i k)) (hd : k m x (s.dev.begun m ring seq) = d) :
    Answers c s d :=
  answers_of_run hc ((Dev.startLasting_of_starts hstarts hfree i k).trans hd)

theorem Dev.need_of_no_perm {x : Desc} {b : Nat} (h : x.perm b = false) (d : Dev) (m : MastId) (k : Dev → Dev) :
    d.need m x b k = (d.onSlots m x (fun _ => [])).complete m x .notPermitted := if_neg (by simp [h])

/-! ## Bodies -/

section
variable {d : Dev} {m : MastId} {x : Desc} (hperm : x.perm 9 = true)
include hperm

theorem Dev.ctxOpenBody_of_bad {k : Nat} (hbad : 4095 < k ∨ k = 0 ∨ (d.ctx m k).isSome = true) (ent : Option CtxEntry) :
    d.ctxOpenBody k ent m x = d.complete m x .badState := by
  rw [Dev.ctxOpenBody, Dev.need_of_perm hperm]
  exact if_pos (by simpa [or_assoc] using hbad)

theorem Dev.ctxOpenBody_of_new {k : Nat} (hpos : 0 < k) (hmax : k ≤ 4095) (hnew : d.ctx m k = none) (e : CtxEntry) :
    d.ctxOpenBody k (some e) m x = if 63 < e.profile then (d.hostIn m 32).complete m x .badState
      else ((d.hostIn m 32).openCtx m k e).complete m x .ok := by
  rw [Dev.ctxOpenBody, Dev.need_of_perm hperm]
  exact if_neg (by simp [hnew]; omega)

theorem Dev.ctxRebindBody_of_open {k : Nat} {c : Ctx} (hmax : k ≤ 4095) (hopen : d.ctx m k = some c) :
    d.ctxRebindBody k m x =
      ((d.setCtx m k (some { c with fetchStop := true })).closeSheafs m k Sheaf.uncommitted).waitOn m x (.drainCtx k true) := by
  simp only [Dev.ctxRebindBody, Dev.need_of_perm hperm, hopen]
  exact if_neg (by omega)

section
variable {k : Nat} {c : Ctx} (hpos : 0 < k) (hmax : k ≤ 4095) (hopen : d.ctx m k = some c)
include hpos hmax hopen

theorem Dev.ctxCloseBody_of_open (hfence : d.isFenced m ⟨.ctx, k⟩ = false) (dbs : List Doorbell) :
    d.ctxCloseBody k dbs m x = ((d.each (dbs.filter (fun b => (d.ringsOf m k).contains b.ring)) (fun b d =>
      d.onRing m b.ring (fun r => { r with prod := b.prod }))).stopRings m k false).waitOn m x (.drainCtx k false) := by
  rw [Dev.ctxCloseBody, Dev.need_of_perm hperm, if_neg (by simp [hopen]; omega)]
  simp only [hfence, Bool.false_eq_true, if_false]

theorem Dev.ctxCloseForceBody_of_open : d.ctxCloseForceBody k m x =
    ((d.stopRings m k true).closeSheafs m k (fun y => !y.decided)).waitOn m x (.drainCtx k false) := by
  rw [Dev.ctxCloseForceBody, Dev.need_of_perm hperm, if_neg (by simp [hopen]; omega)]

end

theorem Dev.ringRegBody_of_new {i : Nat} (hmax : i ≤ 4095) (hnew : d.ring m i = none) (e : RingEntry) :
    d.ringRegBody i (some e) m x =
      (let d := d.hostIn m 64
       let e := ring0Entry i e
       if d.ringBasics m e && d.targetOk m i e then (d.register m i e).complete m x .ok else d.complete m x .badState) := by
  rw [Dev.ringRegBody, Dev.need_of_perm hperm, if_neg (by simp [hnew]; omega)]

end

/-! ## Descriptors that wait for others to drain -/

section
variable {s : State} {ring seq k : Nat} {m : MastId} {x : Desc} (hserves : Serves s.dev m)
  (hfind : s.dev.findDesc m ring seq = some x)
include hserves hfind

theorem answers_ctxCloseComplete_of_drained (hwait : x.wait = .drainCtx k false) (hdrained : s.dev.ctxDrained m k x = true)
    (hserved : (s.dev.ringsOf m k).all (s.dev.ringServed m) = true) :
    let d1 := s.dev.closeSheafs m k (fun y => !y.decided)
    let d2 := d1.each (d1.ringsOf m k) (fun i d => d.setRing m i none)
    let d3 := (d2.setCtx m k none).unfenceCtx m k
    Answers (.ctxCloseComplete ring seq) s
      ((d3.each (d3.streamsOf m k) (fun i d => d.closeStream m i none)).complete m x .ok) := by
  refine answers_of_serves hserves rfl ?_
  simp only [hfind, hwait]
  exact if_neg (by rw [hdrained, hserved]; decide)

theorem answers_ringUnregComplete_of_drained (hwait : x.wait = .drainRing k)
    (hidle : (s.dev.hif m).inflight.all (fun y => y.ring != k || (y.ring == x.ring && y.ent.seq == x.ent.seq)) = true)
    (hserved : s.dev.ringServed m k = true) :
    Answers (.ringUnregComplete ring seq) s
      (((s.dev.abortWhere m (fun y => y.onRing k && !y.decided) .ctxClosed).setRing m k none).complete m x .ok) := by
  refine answers_of_serves hserves rfl ?_
  simp only [hfind, hwait]
  exact if_neg (by rw [hidle, hserved]; decide)

end

/-- Settles O10, descriptor by descriptor. -/
theorem adminDescriptorsComplete : Obligations.AdminDescriptorsComplete := by
  refine ⟨fun s ring seq m x => ⟨fun hstarts => ?_, fun op hop hstarts => ?_, fun k ent hstarts hfree =>
    ⟨fun hperm => ?_, fun hperm hbad => ?_, fun e hperm hpos hmax hnew hent => ?_⟩,
    fun k c hstarts hfree hperm hmax hopen => ?_, fun k c hstarts hfree hperm hpos hmax hopen => ⟨fun dbs hfence => ?_, ?_⟩,
    fun i e hstarts hfree hperm hmax hnew => ?_, fun i r force hstarts hfree hperm hmax hring hwanted => ?_⟩,
    fun s ring seq k m x hserves hfind => ⟨?_, ?_, fun c ent rings hwait hopen hdrained => ?_⟩⟩
  · exact answers_of_starts hstarts rfl rfl
  · obtain ⟨hserves, hfind, hopcode, -⟩ := hstarts.facts
    subst hopcode
    exact answers_of_serves hserves rfl (by simp [hfind, hop, Dev.start_of_starts hstarts])
  · exact answers_of_lasting hstarts hfree rfl (Dev.need_of_no_perm hperm _ _ _)
  · exact answers_of_lasting hstarts hfree rfl (Dev.ctxOpenBody_of_bad hperm hbad ent)
  · subst hent
    exact answers_of_lasting hstarts hfree rfl (Dev.ctxOpenBody_of_new hperm hpos hmax hnew e)
  · exact answers_of_lasting hstarts hfree rfl (Dev.ctxRebindBody_of_open hperm hmax hopen)
  · exact answers_of_lasting hstarts hfree rfl (Dev.ctxCloseBody_of_open hperm hpos hmax hopen hfence dbs)
  · exact answers_of_lasting hstarts hfree rfl (Dev.ctxCloseForceBody_of_open hperm hpos hmax hopen)
  · exact answers_of_lasting hstarts hfree rfl (Dev.ringRegBody_of_new hperm hmax hnew e)
  · refine answers_of_lasting hstarts hfree rfl ((Dev.need_of_perm hperm _ _ _).trans ?_)
    rw [hring]
    refine if_neg (fun hrefused => ?_)
    rcases (Bool.or_eq_true _ _).mp hrefused with hpast | hneeded
    · exact absurd hmax (Nat.not_le.mpr (of_decide_eq_true hpast))
    · exact Bool.eq_false_iff.mp hwanted hneeded
  · exact answers_ctxCloseComplete_of_drained hserves hfind
  · exact answers_ringUnregComplete_of_drained hserves hfind
  · refine answers_of_serves hserves rfl ?_
    simp only [hfind, hwait, hopen]
    exact if_neg (by simp [hdrained])

end Sys2Proof.Machine
end

section
/-! Proofs for SHEAF_OPEN, SHEAF_COMMIT, SHEAF_ABORT and the due point (R106, R109, R118, R120, R395), and for the sheaf
actions (R75, R96, R97, R106 to R118, R450). -/

namespace Sys2Proof.Machine

/-! ## SHEAF_OPEN -/

/-- The sheaf that a SHEAF_OPEN opens (R109). -/
def Desc.newSheaf (x : Desc) (ring : Nat) (ra bn ps pv rf : Bool) (base : Nat) : Sheaf :=
  { key := .sheaf ring x.ent.sheafId, ctx := x.ctx, commit := none, readAll := ra, baseNow := bn, presolved := ps
    preserve := pv, reefFail := rf, base := base, acts := [], hasPermute := false, cells := [], tag := 0, doomed := none
    nPort := 0, nCell := 0, phase := .open_, at_ := none, due := false, work := noWork, pool := 0, spill := 0
    spillLost := false }

section
variable {s : State} {ring seq : Nat} {m : MastId} {x : Desc} (hstarts : Starts s.dev ring seq 0x10 m x)
  (hid : x.ent.sheafId ≠ 0) (hperm : x.perm 0 = true)
include hstarts hid hperm

theorem Dev.reusesSheafId_eq : s.dev.reusesSheafId ring seq = (s.dev.sheafOf m x).isSome := by
  have h : s.dev.startable ring seq 0x10 = some (m, x) := hstarts
  simp [Dev.reusesSheafId, h, hid, hperm]

theorem answers_sheafOpen_of_new (ra bn ps pv rf : Bool) (base : Nat) (hnew : s.dev.sheafOf m x = none) {d : Dev}
    (hd : (if 1024 ≤ (((s.dev.begun m ring seq).fab m).sheafs.filter (fun y => y.key.isSheaf)).length then
        (s.dev.begun m ring seq).complete m x .sheafLimit
      else ((s.dev.begun m ring seq).onFab m (fun f =>
        { f with sheafs := x.newSheaf ring ra bn ps pv rf base :: f.sheafs })).complete m x .ok) = d) :
    Answers (.sheafOpen ring seq ra bn ps pv rf base) s d := by
  have hfresh : s.dev.reusesSheafId ring seq = false := by rw [Dev.reusesSheafId_eq hstarts hid hperm, hnew]; rfl
  refine answers_of_run (if_neg (Bool.eq_false_iff.mp hfresh)) ((Dev.start_of_starts hstarts _).trans (Eq.trans ?_ hd))
  rw [if_neg (by simpa using hid), Dev.need_of_perm hperm]
  rfl

theorem exec_sheafOpen_of_open (ra bn ps pv rf : Bool) (base : Nat) (hopen : (s.dev.sheafOf m x).isSome = true) :
    exec (.sheafOpen ring seq ra bn ps pv rf base) s = .fault .sheafIdReuse :=
  if_pos ((Dev.reusesSheafId_eq hstarts hid hperm).trans hopen)

end

/-! ## SHEAF_COMMIT -/

/-- What a commit does to an open sheaf (R108, R110, R118, R124). -/
def Dev.commit (d : Dev) (m : MastId) (y : Sheaf) (seq : Nat) (at_ : Option Stamp) : Dev :=
  let d := d.onSheaf m y.key (fun y => { y with commit := some seq })
  match y.doomed, at_ with
  | some st, _ => d.abortSheaf m y.key st
  | none, none => d.bind m y.key none false
  | none, some a => match d.atBad m a (roundUpBeat a) with
    | some st => d.abortSheaf m y.key st
    | none => d.bind m y.key (some (roundUpBeat a)) (d.isDue m (roundUpBeat a))

theorem answers_sheafCommit_of_open {s : State} {ring seq : Nat} {m : MastId} {x : Desc} {y : Sheaf}
    (hstarts : Starts s.dev ring seq 0x11 m x) (hopen : (s.dev.begun m ring seq).openSheaf m x = some y)
    (hperm : x.perm 0 = true) (at_ : Option Stamp) {d : Dev} (hd : (s.dev.begun m ring seq).commit m y seq at_ = d) :
    Answers (.sheafCommit ring seq at_) s d := by
  refine answers_of_starts hstarts rfl (Eq.trans ?_ hd)
  simp only [hopen, Dev.need_of_perm hperm]
  rfl

/-- Settles O11, descriptor by descriptor. -/
theorem sheafControlCompletes : Obligations.SheafControlCompletes := by
  intro s ring seq m x d
  refine ⟨fun ra bn ps pv rf base hstarts hid hperm => ⟨fun hnew hroom => ?_, fun hnew hfull => ?_, fun hopen => ?_⟩,
    fun y hstarts hopen hperm => ⟨fun hsound => ?_, fun a hsound hat => ?_, fun a st hsound hat => ?_, fun st at_ hdoomed => ?_⟩,
    fun y hstarts hfind hperm => ?_, fun y t hserves hfind hat hphase hdue hcome => ?_⟩
  · exact answers_sheafOpen_of_new hstarts hid hperm ra bn ps pv rf base hnew (if_neg (Nat.not_le.mpr hroom))
  · exact answers_sheafOpen_of_new hstarts hid hperm ra bn ps pv rf base hnew (if_pos hfull)
  · exact exec_sheafOpen_of_open hstarts hid hperm ra bn ps pv rf base hopen
  · exact answers_sheafCommit_of_open hstarts hopen hperm none (by simp only [Dev.commit, hsound]; rfl)
  · exact answers_sheafCommit_of_open hstarts hopen hperm (some a) (by simp only [Dev.commit, hsound, d, hat])
  · exact answers_sheafCommit_of_open hstarts hopen hperm (some a) (by simp only [Dev.commit, hsound, d, hat])
  · exact answers_sheafCommit_of_open hstarts hopen hperm at_ (by simp only [Dev.commit, hdoomed]; rfl)
  · refine answers_of_starts hstarts rfl ?_
    simp only [hfind, d, Dev.need_of_perm hperm]
  · exact answers_of_serves hserves rfl (by simp [hfind, hat, hphase, hdue, hcome])

/-! ## Sheaf actions -/

section
variable {s : State} {ring seq op perm : Nat} {m : MastId} {x : Desc} (hstarts : Starts s.dev ring seq op m x)
include hstarts

theorem Dev.action_of_unknown (hopen : (s.dev.begun m ring seq).openSheaf m x = none) (k : MastId → Desc → Sheaf → Dev → Dev) :
    s.dev.action ring seq op perm k = (s.dev.begun m ring seq).complete m x .sheafUnknown := by
  simp [Dev.action, Dev.start_of_starts hstarts, hopen]

variable {y : Sheaf} (hopen : (s.dev.begun m ring seq).openSheaf m x = some y)
include hopen

theorem Dev.action_of_doomed (hdoomed : y.doomed.isSome = true) (k : MastId → Desc → Sheaf → Dev → Dev) :
    s.dev.action ring seq op perm k = (s.dev.begun m ring seq).complete m x .ok := by
  simp [Dev.action, Dev.start_of_starts hstarts, hopen, hdoomed]

variable (hsound : y.doomed = none)
include hsound

theorem Dev.action_of_no_perm (hperm : x.perm perm = false) (k : MastId → Desc → Sheaf → Dev → Dev) :
    s.dev.action ring seq op perm k = (s.dev.begun m ring seq).doom m x y .notPermitted := by
  simp [Dev.action, Dev.start_of_starts hstarts, hopen, hsound, hperm]

theorem Dev.action_of_sound (hperm : x.perm perm = true) (k : MastId → Desc → Sheaf → Dev → Dev) :
    s.dev.action ring seq op perm k = k m x y (s.dev.begun m ring seq) := by
  simp [Dev.action, Dev.start_of_starts hstarts, hopen, hsound, hperm]

end

section
variable {d : Dev} {m : MastId} {x : Desc} {y : Sheaf}

theorem Dev.portAct_of_taken {ps : List Nat} (hports : d.portBad m x ps = none) (hroom : y.nPort < 4096) (a : Act) :
    d.portAct m x y ps a =
      (d.onSheaf m y.key (fun y => { y with acts := y.acts ++ [a], nPort := y.nPort + 1 })).complete m x .ok := by
  simp only [Dev.portAct, hports]
  exact if_neg (by omega)

theorem Dev.portAct_of_bad {ps : List Nat} {st : Status} (hports : d.portBad m x ps = some st) (a : Act) :
    d.portAct m x y ps a = d.doom m x y st := by
  simp only [Dev.portAct, hports]

theorem Dev.portAct_of_full {ps : List Nat} (hports : d.portBad m x ps = none) (hfull : 4096 ≤ y.nPort) (a : Act) :
    d.portAct m x y ps a = d.doom m x y .sheafLimit := by
  simp only [Dev.portAct, hports]
  exact if_pos (by omega)

theorem Dev.cellAct_of_taken {cell n : Nat} (hcell : cell < cellCount) (hentry : ((d.fab m).entry? cell).isSome = true)
    (hroom : y.nCell + n ≤ 24576) (a : Act) : d.cellAct m x y cell n none a =
      (d.onSheaf m y.key (fun y => { y with acts := y.acts ++ [a], nCell := y.nCell + n })).complete m x .ok := by
  have hbad : ¬ (cellCount ≤ cell || ((d.fab m).entry? cell).isNone) = true := by
    simp [Nat.not_le.mpr hcell, Option.ne_none_iff_isSome.mpr hentry]
  rw [Dev.cellAct, if_neg hbad]
  exact if_neg (by omega)

theorem Dev.portBad_of_outside {p q : Nat} (h : p < x.ports.1 ∨ x.ports.2 < p ∨ q < x.ports.1 ∨ x.ports.2 < q) :
    d.portBad m x [p, q] = some .notPermitted :=
  if_pos (by simpa [or_assoc] using h)

theorem Dev.portBad_of_beyond {p q : Nat} (hp : x.ports.1 ≤ p) (hp' : p ≤ x.ports.2) (hq : x.ports.1 ≤ q) (hq' : q ≤ x.ports.2)
    (h : (d.fab m).ports ≤ p ∨ (d.fab m).ports ≤ q) : d.portBad m x [p, q] = some .portInvalid := by
  refine (if_neg ?_).trans (if_pos ?_)
  · simp; omega
  · simpa using h

end

/-- Settles O12, action by action; CONNECT's failing forms. -/
theorem sheafActionsComplete : Obligations.SheafActionsComplete := by
  refine ⟨fun s ring seq m x y => ?_, fun s ring seq p q m x hstarts => ⟨fun hopen => ?_, fun y hopen hdoomed => ?_,
    fun y hopen hsound => ⟨fun hperm => ?_, fun hperm hout => ?_, fun hperm hp hp' hq hq' hN => ?_,
      fun hperm hports hfull => ?_⟩⟩⟩
  · intro d hopen hsound portTaken cellTaken
    refine ⟨fun p q hstarts hperm hports hroom => ?_, fun p side hstarts hperm hports hroom => ?_,
      fun k o n side hstarts hperm hports hroom => ?_, fun p q hstarts hperm hports hroom => ?_,
      fun c mode code hstarts hperm hcell hentry hroom => ?_, fun c sc p v hstarts hparam hperm hcell hentry hroom => ?_,
      fun c sc code hstarts hperm hcell hentry hroom => ?_, fun data hstarts hperm => ?_⟩
    iterate 4
      exact answers_of_run rfl ((Dev.action_of_sound hstarts hopen hsound hperm _).trans (Dev.portAct_of_taken hports hroom _))
    · exact answers_of_run rfl ((Dev.action_of_sound hstarts hopen hsound hperm _).trans
        (Dev.cellAct_of_taken hcell hentry hroom _))
    · refine answers_of_run rfl ((Dev.action_of_sound hstarts hopen hsound hperm _).trans ?_)
      rw [hparam]
      exact Dev.cellAct_of_taken hcell hentry hroom _
    · exact answers_of_run rfl ((Dev.action_of_sound hstarts hopen hsound hperm _).trans
        (Dev.cellAct_of_taken hcell hentry hroom _))
    · exact answers_of_run rfl (Dev.action_of_sound hstarts hopen hsound hperm _)
  · exact answers_of_run rfl (Dev.action_of_unknown hstarts hopen _)
  · exact answers_of_run rfl (Dev.action_of_doomed hstarts hopen hdoomed _)
  · exact answers_of_run rfl (Dev.action_of_no_perm hstarts hopen hsound hperm _)
  · exact answers_of_run rfl ((Dev.action_of_sound hstarts hopen hsound hperm _).trans
      (Dev.portAct_of_bad (Dev.portBad_of_outside hout) _))
  · exact answers_of_run rfl ((Dev.action_of_sound hstarts hopen hsound hperm _).trans
      (Dev.portAct_of_bad (Dev.portBad_of_beyond hp hp' hq hq' hN) _))
  · exact answers_of_run rfl ((Dev.action_of_sound hstarts hopen hsound hperm _).trans (Dev.portAct_of_full hports hfull _))

end Sys2Proof.Machine
end

section
/-! Proofs for PERMUTE and CELLS (R96, R97, R116, R117, R450). -/

namespace Sys2Proof.Machine

theorem Dev.slotHold_of_sound {d : Dev} {m : MastId} {x : Desc} {slot : SlotIn} (h : SlotSound d m x slot)
    (fail : Status → Dev → Dev) (k : Dev → Dev) :
    d.slotHold m x slot fail k = k ((d.holdSlot m x slot.ref).hostIn m 64) := by
  obtain ⟨hlost, herr, hgood, -, -⟩ := h
  simp [Dev.slotHold, Dev.slotOut, hlost, herr, hgood]

theorem Dev.slotCheck_of_sound {d : Dev} {m : MastId} {x : Desc} {slot : SlotIn} (h : SlotSound d m x slot)
    (fail : Status → Dev → Dev) (k : Dev → Dev) :
    ((d.holdSlot m x slot.ref).hostIn m 64).slotCheck m x slot fail k = k (d.scanned m x slot) := by
  obtain ⟨-, -, -, hcrc, hlen⟩ := h
  simp [Dev.slotCheck, Dev.scanned, hcrc, Nat.not_lt.mpr hlen]

theorem Dev.bulk_of_sound {s : State} {ring seq op perm : Nat} {m : MastId} {x : Desc} {y : Sheaf} {slot : SlotIn}
    (hstarts : Starts s.dev ring seq op m x) (hopen : (s.dev.begun m ring seq).openSheaf m x = some y) (hsound : y.doomed = none)
    (hperm : x.perm perm = true) (k : MastId → Desc → Sheaf → Dev → Dev) :
    s.dev.bulk ring seq op perm slot k = k m x y (s.dev.begun m ring seq) := by
  simp [Dev.bulk, Dev.start_of_starts hstarts, hopen, hsound, hperm]

section
variable {s : State} {ring seq : Nat} {m : MastId} {x : Desc} {y : Sheaf} {slot : SlotIn}
  (hopen : (s.dev.begun m ring seq).openSheaf m x = some y) (hsound : y.doomed = none)
  (hslot : SlotSound (s.dev.begun m ring seq) m x slot)

/-- The block with a bulk action's slot read through and returned. -/
def Dev.slotRead (d : Dev) (m : MastId) (x : Desc) (slot : SlotIn) : Dev := (d.scanned m x slot).returnIn m x slot false

include hopen hsound hslot

theorem answers_permute_of_sound (hstarts : Starts s.dev ring seq 0x1B m x) (hperm : x.perm 0 = true) (hfirst : x.ports.1 = 0)
    (hlast : ((s.dev.begun m ring seq).fab m).ports ≤ x.ports.2 + 1) (hone : y.hasPermute = false)
    (hroom : y.nPort + ((s.dev.begun m ring seq).fab m).ports ≤ 4096) (hkind : slot.kind = 0x11)
    (hlen : slot.len = 2 * ((s.dev.begun m ring seq).fab m).ports)
    (hmap : (portMapOf slot.bytes).length = ((s.dev.begun m ring seq).fab m).ports)
    (hok : portMapOk ((s.dev.begun m ring seq).fab m).ports (portMapOf slot.bytes) = true) :
    Answers (.permute ring seq slot) s ((((s.dev.begun m ring seq).slotRead m x slot).onSheaf m y.key (fun z =>
      ((s.dev.begun m ring seq).slotRead m x slot).stow m slot.len
        { z with acts := z.acts ++ [.permute (portMapOf slot.bytes)], hasPermute := true,
                 nPort := z.nPort + ((s.dev.begun m ring seq).fab m).ports })).complete m x .ok) := by
  refine answers_of_run rfl ((Dev.bulk_of_sound hstarts hopen hsound hperm _).trans ?_)
  rw [if_neg (by simpa [hfirst] using hlast), Dev.slotHold_of_sound hslot, if_neg (by simpa [hone] using hroom),
    Dev.slotCheck_of_sound hslot, if_neg (by simp [hkind, hlen, hmap, hok])]
  rfl

theorem answers_cells_of_sound (hstarts : Starts s.dev ring seq 0x1C m x) (hperm : x.perm 1 = true) (hkind : slot.kind = 0x12)
    (hlen : slot.len = 4 * (cellListOf slot.bytes).length) (hmax : (cellListOf slot.bytes).length ≤ 24576)
    (hroom : y.nCell + (cellListOf slot.bytes).length ≤ 24576)
    (hgood : ∀ e ∈ cellListOf slot.bytes, e.2.1 ≤ 2 ∧ e.1 < cellCount ∧
      ((((s.dev.begun m ring seq).slotRead m x slot).fab m).entry? e.1).isSome = true) :
    Answers (.cells ring seq slot) s ((((s.dev.begun m ring seq).slotRead m x slot).onSheaf m y.key (fun z =>
      ((s.dev.begun m ring seq).slotRead m x slot).stow m slot.len
        { z with cells := z.cells ++ (cellListOf slot.bytes).map (fun e => (e.1, tgtOf e.2.1 e.2.2)),
                 nCell := z.nCell + (cellListOf slot.bytes).length })).complete m x .ok) := by
  have hall : (cellListOf slot.bytes).any (fun e => 2 < e.2.1 || cellCount ≤ e.1 ||
      ((((s.dev.begun m ring seq).slotRead m x slot).fab m).entry? e.1).isNone) = false := by
    rw [List.any_eq_false]
    intro e he
    obtain ⟨hmode, hcell, hentry⟩ := hgood e he
    simp [Nat.not_lt.mpr hmode, Nat.not_le.mpr hcell, Option.ne_none_iff_isSome.mpr hentry]
  refine answers_of_run rfl ((Dev.bulk_of_sound hstarts hopen hsound hperm _).trans ((Dev.slotIn_of_sound hslot _ _).trans ?_))
  change (if (_ || List.any _ _) = true then _ else _) = _
  rw [if_neg, if_neg (by omega)]
  · rfl
  · rw [Dev.slotRead] at hall
    simp [hkind, hlen, hall]
    omega

end

/-- Settles O13. -/
theorem sheafBulkActionsComplete : Obligations.SheafBulkActionsComplete := by
  intro s ring seq m x y slot d hopen hsound hslot
  exact ⟨answers_permute_of_sound hopen hsound hslot, answers_cells_of_sound hopen hsound hslot⟩

end Sys2Proof.Machine
end

section
/-! Proofs for MAP_READ and its payload (R106, R139 to R141). -/

namespace Sys2Proof.Machine

@[simp] theorem Dev.fab_onHif (d : Dev) (m : MastId) (f : Hif → Hif) (k : MastId) : (d.onHif m f).fab k = d.fab k :=
  Dev.view_onMast (v := Mast.fab) (f := fun x => { x with hif := f x.hif }) (fun _ => rfl) d m k

@[simp] theorem Dev.fab_holdSlot (d : Dev) (m : MastId) (x : Desc) (ref : Nat) (k : MastId) :
    (d.holdSlot m x ref).fab k = d.fab k := Dev.fab_onHif d m _ k

@[simp] theorem Dev.fab_unhold (d : Dev) (m : MastId) (x : Desc) (ref : Nat) (k : MastId) :
    (d.unhold m x ref).fab k = d.fab k := Dev.fab_onHif d m _ k

@[simp] theorem Dev.fab_settleHold (d : Dev) (m : MastId) (x : Desc) (ref owner : Nat) (err : Bool) (k : MastId) :
    (d.settleHold m x ref owner err).fab k = d.fab k := by
  unfold Dev.settleHold
  split
  · exact d.fab_unhold m x ref k
  · exact d.fab_holdSlot m x ref k

@[simp] theorem Dev.fab_hostIn (d : Dev) (m : MastId) (n : Nat) (k : MastId) : (d.hostIn m n).fab k = d.fab k := by
  unfold Dev.hostIn Dev.moved
  refine (Dev.view_onMast (v := Mast.fab) ?_ _ m k).trans (Dev.view_pmc (v := Mast.fab) (fun _ _ => rfl) d m _ _ n k)
  exact fun _ => rfl

theorem Dev.settleHold_of_free {d : Dev} {m : MastId} {x : Desc} {o : SlotOut} (h : SlotFree d m x o) :
    d.settleHold m x o.ref o.owner o.err = d.holdSlot m x o.ref := by
  obtain ⟨-, herr, hgood⟩ := h
  simp [Dev.settleHold, herr, hgood]

theorem Dev.epochLost_holdSlot (d : Dev) (m : MastId) (x : Desc) (ref e : Nat) :
    (d.holdSlot m x ref).epochLost m e = d.epochLost m e := by
  simp [Dev.epochLost, Dev.holdSlot, Dev.onSlots, Dev.onDesc, Dev.onHif]

theorem Dev.onFab_congr {d : Dev} {m : MastId} {f g : Fab → Fab} (h : f (d.fab m) = g (d.fab m)) : d.onFab m f = d.onFab m g := by
  have h' : f (d.mast m).fab = g (d.mast m).fab := h
  simp only [Dev.onFab, Dev.onMast, h']

/-! ## A MAP_READ that starts -/

section
variable {s : State} {ring seq e : Nat} {m : MastId} {x : Desc} {slot : SlotOut} (hstarts : Starts s.dev ring seq 0x1D m x)
  (hid : x.ent.sheafId = 0) (hperm : x.perm 2 = true)
include hstarts hid hperm

theorem answers_mapRead_of_kept (hpast : e ≤ ((s.dev.begun m ring seq).fab m).epoch)
    (hwindow : ((s.dev.begun m ring seq).fab m).epoch ≤ e + 1048575) (hmax : e < 2 ^ 64 - 1)
    (hkept : (s.dev.begun m ring seq).epochLost m e = false) (hfree : SlotFree (s.dev.begun m ring seq) m x slot)
    (hheld : SlotFree ((s.dev.begun m ring seq).holdSlot m x slot.ref) m x slot) :
    let d := s.dev.begun m ring seq
    Answers (.mapRead ring seq e slot) s (((d.holdSlot m x slot.ref).heldOut m x slot).onFab m (fun f => { f with
      reads := f.reads ++ [⟨ring, seq, e, slot.ref, 0, (List.range (d.fab m).ports).map (fun p =>
        (match mapOut ((d.fab m).mapAt e) p with
          | some q => ⟨q, 0, true⟩
          | none => ⟨0, 0, false⟩ : PortEnt)),
        .map (d.fab m).ports (lowStamp (((d.fab m).strikeOf e).getD ⟨0, 0⟩)) [], true⟩] })) := by
  intro d
  refine answers_of_starts hstarts rfl ?_
  rw [if_neg (by simp [hid]), Dev.need_of_perm hperm]
  simp only [Dev.settleHold_of_free hfree, Dev.fab_holdSlot, beq_iff_eq, hmax.ne, if_false]
  rw [if_neg (by simp [Dev.epochLost_holdSlot, hkept]; omega), Dev.slotOut_of_free hheld]
  refine Dev.onFab_congr ?_
  simp only [Dev.heldOut, Dev.fab_hostIn, Dev.fab_holdSlot, List.length_map, List.length_range]
  rfl

theorem answers_mapRead_of_future (hfuture : ((s.dev.begun m ring seq).fab m).epoch < e) (hne : e ≠ 2 ^ 64 - 1) :
    let d := s.dev.begun m ring seq
    Answers (.mapRead ring seq e slot) s ((d.settleHold m x slot.ref slot.owner slot.err).complete m x .mapEpoch) := by
  intro d
  refine answers_of_starts hstarts rfl ?_
  rw [if_neg (by simp [hid]), Dev.need_of_perm hperm]
  simp only [Dev.fab_settleHold, beq_iff_eq, hne, if_false]
  exact if_pos (by simp [hfuture])

end

/-! ## The payload -/

/-- Is the circuit of entry `e` of port `p` carried by a worn cell: one fenced, or pinned against the solver's state (R141)? -/
def Dev.mapDegraded (d : Dev) (m : MastId) (p : Nat) (e : PortEnt) : Bool :=
  let f := d.fab m
  let g := f.choices []
  let worn := fun (h : Hop) => d.cellFenced m h.1 || (f.pinned.contains h.1 && (d.cell h.1).drv.logical != g h.1)
  e.valid && f.map.contains (p, e.out) && (match f.path g p with
    | some (_, hops) => hops.any worn
    | none => false)

/-- The entries of a MAP_READ's payload (R141). -/
def Dev.mapEntries (d : Dev) (m : MastId) (j : ReadJob) : List Nat :=
  j.map.zipIdx.map (fun (e : PortEnt × Nat) =>
    if e.1.valid then e.1.out + 16384 * b2n (d.mapDegraded m e.2 e.1) + 32768 else 0)

theorem Dev.length_mapEntries (d : Dev) (m : MastId) (j : ReadJob) : (d.mapEntries m j).length = j.map.length := by
  simp [Dev.mapEntries]

theorem Dev.mapEntries_of_entry (d : Dev) (m : MastId) {j : ReadJob} {i : Nat} {e : PortEnt} (he : j.map[i]? = some e) :
    (d.mapEntries m j)[i]? = some (if e.valid then e.out + 16384 * b2n (d.mapDegraded m i e) + 32768 else 0) := by
  simp [Dev.mapEntries, he]

theorem answers_mapReadDone_of_found {s : State} {ring seq n : Nat} {m : MastId} {j : ReadJob} {x : Desc} {t : Stamp} {l : List Nat}
    (hserves : Serves s.dev m) (hjob : (s.dev.fab m).reads.find? (fun j => j.ring == ring && j.seq == seq) = some j)
    (hfind : s.dev.findDesc m ring seq = some x) (hdata : j.data = .map n t l) :
    Answers (.mapReadDone ring seq) s (((s.dev.onFab m (fun f =>
      { f with reads := f.reads.filter (fun k => !(k.ring == ring && k.seq == seq)) })).writeOut m x j.first 0x10
        (16 + 2 * (s.dev.fab m).ports) j.epoch (.map j.map.length t (s.dev.mapEntries m j))).completeAt m x .ok j.epoch none
          false) := by
  refine answers_of_serves hserves rfl ?_
  simp only [hjob, hfind, hdata]
  rfl

/-- Settles O14, the start and the payload. -/
theorem mapReadsComplete : Obligations.MapReadsComplete := by
  refine ⟨fun s ring seq m x hid => ⟨fun e slot hstarts hperm hpast hwindow hmax hkept hfree hheld => ?_,
    fun e slot hstarts hperm hfuture hne => ?_⟩, fun s ring seq m j x n t l hserves hjob hfind hdata =>
    ⟨s.dev.mapEntries m j, Dev.length_mapEntries .., fun i e he => ⟨fun hvalid => ?_, fun hvalid => ?_⟩, ?_⟩⟩
  · exact answers_mapRead_of_kept hstarts hid hperm hpast hwindow hmax hkept hfree hheld
  · exact answers_mapRead_of_future hstarts hid hperm hfuture hne
  · simp [s.dev.mapEntries_of_entry m he, hvalid]
  · cases h : s.dev.mapDegraded m i e <;> simp [s.dev.mapEntries_of_entry m he, hvalid, h, b2n]
  · exact answers_mapReadDone_of_found hserves hjob hfind hdata

end Sys2Proof.Machine
end

section
/-! Proofs for the turn at the head of strike order and its checks (R121, R123, R128, R157, R166, R168, R450). -/

namespace Sys2Proof.Machine

/-! ## The port-level actions -/

theorem filter_snd_of_mapIn_none {map : List (Nat × Nat)} {q : Nat} (h : mapIn map q = none) :
    map.filter (fun c => c.2 != q) = map := by
  simp only [mapIn, Option.map_eq_none_iff, List.find?_eq_none] at h
  exact List.filter_eq_self.2 fun c hc => by simpa using h c hc

theorem mapCut_of_mapOut_none {map : List (Nat × Nat)} {p : Nat} (h : mapOut map p = none) : mapCut map p = map := by
  simp only [mapOut, Option.map_eq_none_iff, List.find?_eq_none] at h
  exact List.filter_eq_self.2 fun c hc => by simpa using h c hc

/-- Settles O17, action by action. -/
theorem portActionsOnMap : Obligations.PortActionsOnMap := by
  intro map p q r
  refine ⟨fun h => ?connectBusy, fun hp hq => ?connect, fun h => ?moveFailed, fun h hr => ?moveBusy, fun h hr => ?move,
    fun hq h => ?assertFailed, fun h hq => ?assert, fun h => ?assertNone, fun h => ?disconnectIn, fun h => ?disconnectOut⟩
  case connectBusy => exact if_pos (by simpa using h)
  case connect => exact if_neg (by simp [hp, hq])
  case moveFailed => simp [stepMap, h]
  case moveBusy => simp [stepMap, h, hr]
  case move => simp [stepMap, h, hr]
  case assertFailed => simp [stepMap, hq, h]
  case assert => simp [stepMap, h, hq]
  case assertNone => simp [stepMap, h]
  case disconnectIn => simp [stepMap, mapCut_of_mapOut_none h]
  case disconnectOut => simp [stepMap, filter_snd_of_mapIn_none h]

/-! ## The checks of a turn, in order -/

/-- The base epoch of a sheaf's checks. -/
def Dev.baseOf (d : Dev) (m : MastId) (y : Sheaf) : Nat := if y.baseNow then (d.fab m).epoch else y.base

/-- Has a port of the read set changed since the base? -/
def Dev.readChanged (d : Dev) (m : MastId) (y : Sheaf) : Bool :=
  (y.readSet (d.fab m).ports).any (fun p => d.baseOf m y < tget 0 (d.fab m).portEpoch p)

section
variable {d : Dev} {m : MastId} {y : Sheaf}

theorem Dev.turnCheck_of_parked (hpark : d.pins.parkSeen = true) : d.turnCheck m y = .error .parked := by
  simp [Dev.turnCheck, hpark]

variable (hpark : d.pins.parkSeen = false)
include hpark

theorem Dev.turnCheck_of_future (h : (d.fab m).epoch < d.baseOf m y) : d.turnCheck m y = .error .mapEpoch := by
  rw [Dev.turnCheck, if_neg (by simp [hpark])]
  exact if_pos h

variable (hpast : ¬ (d.fab m).epoch < d.baseOf m y)
include hpast

theorem Dev.turnCheck_of_stale (h : d.readChanged m y = true) : d.turnCheck m y = .error .conflict := by
  rw [Dev.turnCheck, if_neg (by simp [hpark])]
  exact (if_neg hpast).trans (if_pos h)

variable (hfresh : d.readChanged m y = false)
include hfresh

theorem Dev.turnCheck_of_cells (hpre : y.presolved = true) (hnow : y.baseNow = false) (h : d.baseOf m y < (d.fab m).cellEpoch) :
    d.turnCheck m y = .error .conflict := by
  rw [Dev.turnCheck, if_neg (by simp [hpark])]
  refine (if_neg hpast).trans ((if_neg (ne_true_of_eq_false hfresh)).trans (if_pos ?_))
  rw [hpre]
  exact Bool.and_eq_true_iff.2 ⟨by simp [hnow], decide_eq_true h⟩

variable (hpre : y.presolved = false)
include hpre

theorem Dev.turnCheck_of_runActs : d.turnCheck m y = (match runActs (d.fab m).map y.acts with
    | .error st => .error st
    | .ok map =>
      if y.named.any (d.cellFenced m) then .error .cellFenced
      else if y.reefFail && y.at_.isNone && d.beat + 1 + d.lead m < d.pauseEnd m then .error .reefHeld
      else .ok map) := by
  rw [Dev.turnCheck, if_neg (by simp [hpark])]
  refine (if_neg hpast).trans ((if_neg (ne_true_of_eq_false hfresh)).trans ((if_neg (by simp [hpre])).trans ?_))
  cases runActs (d.fab m).map y.acts <;> rfl

theorem Dev.turnCheck_of_action {st : Status} (h : runActs (d.fab m).map y.acts = .error st) : d.turnCheck m y = .error st := by
  simp [Dev.turnCheck_of_runActs hpark hpast hfresh hpre, h]

theorem Dev.turnCheck_of_fenced {map : List (Nat × Nat)} (h : runActs (d.fab m).map y.acts = .ok map)
    (hcell : y.named.any (d.cellFenced m) = true) : d.turnCheck m y = .error .cellFenced := by
  simp only [Dev.turnCheck_of_runActs hpark hpast hfresh hpre, h]
  exact if_pos hcell

theorem Dev.turnCheck_of_ok {map : List (Nat × Nat)} (h : runActs (d.fab m).map y.acts = .ok map)
    (hcell : y.named.any (d.cellFenced m) = false) (hreef : y.reefFail = false) : d.turnCheck m y = .ok map := by
  simp only [Dev.turnCheck_of_runActs hpark hpast hfresh hpre, h]
  exact (if_neg (ne_true_of_eq_false hcell)).trans (if_neg (by simp [hreef]))

end

/-! ## The turn -/

section
variable {s : State} {m : MastId} {k : SKey} {rest : List SKey} {y : Sheaf} (hserves : Serves s.dev m)
  (horder : (s.dev.fab m).order = k :: rest) (hfind : s.dev.findSheaf m k = some y) (hphase : y.phase = .bound)
  (hswap : (s.dev.fab m).swap = none) (hheal : y.key ≠ .heal)
include hserves horder hfind hphase hswap hheal

theorem answers_sheafTurn_of_swap (hk : k.isSheaf = false) (hpark : s.dev.pins.parkSeen = false) (hshadow : s.dev.shadowOk m = true) :
    Answers .sheafTurn s ((s.dev.newTsid m k).solved m k ((s.dev.fab m).edgeSets (s.dev.fab m).shadow (s.dev.fab m).map)
      (s.dev.fab m).map false true) := by
  refine answers_of_serves hserves rfl ?_
  simp only [horder, hfind]
  rw [if_neg (by simp [hphase, hswap, hheal])]
  simp [hk, hpark, hshadow]

variable (hk : k.isSheaf = true)
include hk

theorem answers_sheafTurn_of_spillLost (hlost : y.spillLost = true) : Answers .sheafTurn s (s.dev.abortSheaf m k .memLost) := by
  refine answers_of_serves hserves rfl ?_
  simp only [horder, hfind]
  rw [if_neg (by simp [hphase, hswap, hheal])]
  simp [hk, hlost]

variable (hlost : y.spillLost = false)
include hlost

theorem answers_sheafTurn_of_error {st : Status} (hcheck : s.dev.turnCheck m y = .error st) :
    Answers .sheafTurn s (s.dev.abortSheaf m k st) := by
  refine answers_of_serves hserves rfl ?_
  simp only [horder, hfind]
  rw [if_neg (by simp [hphase, hswap, hheal])]
  simp [hk, hlost, hcheck]

/-- The device once a sheaf's turn has passed its checks: with an id, its payloads back in SRAM and its solve running. -/
def Dev.turned (d : Dev) (m : MastId) (k : SKey) : Dev :=
  (d.newTsid m k).onSheaf m k (fun y => { y with spill := 0, work := { y.work with solveAt := some d.beat } })

theorem answers_sheafTurn_of_ok {map : List (Nat × Nat)} {d : Dev} (hcheck : s.dev.turnCheck m y = .ok map)
    (hd : (let e := s.dev.turned m k
      let away := (s.dev.fab m).kind == 2 && e.beyondKeep m y map
      if y.solves then
        (e.onSheaf m k (fun y => { y with work := { y.work with wmap := map, migrate := away } })).when away (fun d =>
          d.onFab m (fun f => { f with shadowBusy := false }))
      else e.solved m k [] map false false) = d) : Answers .sheafTurn s d := by
  refine answers_of_serves hserves rfl ?_
  simp only [horder, hfind]
  rw [if_neg (by simp [hphase, hswap, hheal])]
  simp only [hk, hlost, hcheck]
  exact hd

end

/-- Settles O16, the turn's branches, then its checks. -/
theorem sheafTurnChecksInOrder : Obligations.SheafTurnChecksInOrder := by
  refine ⟨fun s m k rest y hserves horder hfind hphase hswap hheal => ⟨fun hk => ⟨fun hlost => ?lost, fun st hlost hcheck => ?failed,
    fun map hlost hcheck => ⟨fun hsolve => ?changes, fun hsolve haway => ?keep, fun hsolve haway => ?away⟩⟩,
    fun hk hpark hshadow => ?swap⟩, fun d m y => ⟨fun hpark => ?parked, fun hpark hnow hfut => ?future,
    fun hpark hpast hstale => ?stale, fun hpark hpast hfresh => ⟨fun hpre hnow hcell => ?cells, fun st hpre hacts => ?acts,
    fun map hpre hacts => ⟨fun hcell => ?fenced, fun hcell hreef => ?ok⟩⟩⟩⟩
  case lost => exact answers_sheafTurn_of_spillLost hserves horder hfind hphase hswap hheal hk hlost
  case failed => exact answers_sheafTurn_of_error hserves horder hfind hphase hswap hheal hk hlost hcheck
  case changes =>
    refine answers_sheafTurn_of_ok hserves horder hfind hphase hswap hheal hk hlost hcheck ?_
    simp only [hsolve]
    rfl
  case keep =>
    refine answers_sheafTurn_of_ok hserves horder hfind hphase hswap hheal hk hlost hcheck ?_
    change ((_ : Nat) == 2 && (s.dev.turned m k).beyondKeep m y map) = false at haway
    simp only [hsolve, haway]
    rfl
  case away =>
    refine answers_sheafTurn_of_ok hserves horder hfind hphase hswap hheal hk hlost hcheck ?_
    change ((_ : Nat) == 2 && (s.dev.turned m k).beyondKeep m y map) = true at haway
    simp only [hsolve, haway]
    rfl
  case swap => exact answers_sheafTurn_of_swap hserves horder hfind hphase hswap hheal hk hpark hshadow
  case parked => exact Dev.turnCheck_of_parked hpark
  case future => exact Dev.turnCheck_of_future hpark (by simpa [Dev.baseOf, hnow] using hfut)
  case stale => exact Dev.turnCheck_of_stale hpark hpast hstale
  case cells => exact Dev.turnCheck_of_cells hpark hpast hfresh hpre hnow hcell
  case acts => exact Dev.turnCheck_of_action hpark hpast hfresh hpre hacts
  case fenced => exact Dev.turnCheck_of_fenced hpark hpast hfresh hpre hacts hcell
  case ok => exact Dev.turnCheck_of_ok hpark hpast hfresh hpre hacts hcell hreef

end Sys2Proof.Machine
end

section
/-! Proofs for the ends of solves (R114, R157, R158, R162, R163, R165, R166, R172, R354). -/

namespace Sys2Proof.Machine

/-! ## The result of a sheaf's solve -/

section
variable {s : State} {m : MastId} {y : Sheaf} {us : Nat} (hserves : Serves s.dev m)
  (hbusy : (s.dev.fab m).sheafs.find? (fun y => y.phase == .solving && !y.work.solved && y.work.shadowAt.isNone) = some y)
  (hplans : (s.dev.fab m).plans = []) (hheal : y.key ≠ .heal)
include hserves hbusy hplans hheal

/-- Without a plan the result is the solving sheaf's. -/
theorem answers_routeSolveDone_of_sheaf {res : Solve} {d : Dev} (hd : s.dev.solveSheaf m y res = d) :
    Answers (.routeSolveDone res) s (d.solverBusy m y) := by
  refine answers_of_serves hserves rfl ?_
  simp only [hbusy, hplans]
  rw [Dev.solveFor, if_neg (by simpa using hheal), hd]

theorem answers_routeSolveDone_of_preserving {sets : List CellSet} (hkeep : (y.preserve || (s.dev.fab m).fresh y.work.wmap ≤ 256) = true)
    (hmigrate : y.work.migrate = false) (hsets : (s.dev.fab m).preserves (s.dev.cellFenced m) ((s.dev.fab m).split y.work.wmap).1
      ((s.dev.fab m).split y.work.wmap).2 sets = true) : Answers (.routeSolveDone (.preserving sets us)) s
      (((s.dev.solved m y.key sets y.work.wmap false false).chargeSolve m y.key.ring us).solverBusy m y) := by
  refine answers_routeSolveDone_of_sheaf hserves hbusy hplans hheal ?_
  simp only [Dev.solveSheaf, hmigrate]
  exact if_pos (Bool.and_eq_true_iff.2 ⟨hkeep, hsets⟩)

theorem answers_routeSolveDone_of_full {sets : List CellSet} (hbeyond : s.dev.beyondKeep m y y.work.wmap = true)
    (hkind : (s.dev.fab m).kind ≠ 2) (hsets : (s.dev.fab m).fullySolves (s.dev.cellFenced m) y.work.wmap sets = true)
    (hbefore : (s.dev.fab m).asBefore (s.dev.cellFenced m) (s.dev.fab m).active y.work.wmap sets = true) :
    Answers (.routeSolveDone (.full sets us)) s
      ((((s.dev.onFab m (fun f => f.recall (s.dev.cellFenced m) f.active y.work.wmap sets)).solved m y.key sets
        y.work.wmap true false).chargeSolve m y.key.ring us).solverBusy m y) := by
  refine answers_routeSolveDone_of_sheaf hserves hbusy hplans hheal ?_
  exact if_pos (by simp [hbeyond, hkind, hsets, hbefore])

theorem answers_routeSolveDone_of_migration {sets : List CellSet} (hbeyond : s.dev.beyondKeep m y y.work.wmap = true)
    (hkind : (s.dev.fab m).kind = 2) (hsets : (s.dev.fab m).shadowFull (s.dev.cellFenced m) y.work.wmap sets = true)
    (hbefore : (s.dev.fab m).asBefore (s.dev.cellFenced m) (s.dev.fab m).shadow y.work.wmap sets = true)
    (hedges : ((s.dev.fab m).edgeSets (s.dev.fab m).shadow y.work.wmap).all (fun (e : CellSet) => !s.dev.cellFenced m e.cell) = true) :
    Answers (.routeSolveDone (.migration sets us)) s
      (((((s.dev.onFab m (fun f => { f.recall (s.dev.cellFenced m) f.shadow y.work.wmap sets with shadowBusy := false })).driveQueue
        m sets true).onSheaf m y.key (fun z => { z with work := { z.work with migrate := true, shadowAt := some (s.dev.beat + 2) } })).chargeSolve
          m y.key.ring us).solverBusy m y) := by
  refine answers_routeSolveDone_of_sheaf hserves hbusy hplans hheal ?_
  refine if_pos ?_
  rw [hbeyond, hsets, hbefore, hedges, hkind]
  rfl

theorem answers_routeSolveDone_of_needsRearrange (hpreserve : y.preserve = true) (hkeeps : s.dev.keeps m y.work.wmap = (false, false)) :
    Answers (.routeSolveDone (.needsRearrange us)) s
      (((s.dev.abortSheaf m y.key .needsRearrange).chargeSolve m y.key.ring us).solverBusy m y) :=
  answers_routeSolveDone_of_sheaf hserves hbusy hplans hheal (if_pos (by simp [hpreserve, hkeeps]))

theorem answers_routeSolveDone_of_fenced (hkeep : (y.preserve || (s.dev.fab m).fresh y.work.wmap ≤ 256) = true)
    (hkeeps : s.dev.keeps m y.work.wmap = (false, true)) :
    Answers (.routeSolveDone (.fenced us)) s
      (((s.dev.abortSheaf m y.key .cellFenced).chargeSolve m y.key.ring us).solverBusy m y) := by
  refine answers_routeSolveDone_of_sheaf hserves hbusy hplans hheal (if_pos ?_)
  rw [hkeeps]
  exact Bool.or_eq_true_iff.2 (.inl (Bool.and_eq_true_iff.2 ⟨hkeep, rfl⟩))

end

/-! ## The result of a plan -/

/-- The fabric a plan is judged against: the map and paths it planned from (R162). -/
def Fab.planned (f : Fab) (j : PlanJob) : Fab := { f with map := j.map, settings := j.settings, active := j.active }

section
variable {s : State} {m : MastId} {j : PlanJob} {rest : List PlanJob} {x : Desc} {us : Nat} (hserves : Serves s.dev m)
  (hbusy : (s.dev.fab m).sheafs.find? (fun y => y.phase == .solving && !y.work.solved && y.work.shadowAt.isNone) = none)
  (hplans : (s.dev.fab m).plans = j :: rest) (hfind : s.dev.findDesc m j.ring j.seq = some x)
include hserves hbusy hplans hfind

theorem answers_routeSolveDone_of_plan {moved : List Nat} {sets : List CellSet}
    (hsets : ((s.dev.fab m).planned j).plans? (s.dev.cellFenced m) j.want moved sets = true) :
    Answers (.routeSolveDone (.plan moved sets us)) s
      ((((s.dev.onFab m (fun f => { f with plans := f.plans.drop 1 })).chargeSolve m j.ring us).writeOut m x j.slot 0x31
        (planLen moved sets) j.epoch (.plan j.epoch moved sets)).completeAt m x .ok j.epoch none false) := by
  refine answers_of_serves hserves rfl ?_
  simp only [hbusy, hplans]
  simp only [Dev.planDone, hfind]
  exact if_pos hsets

theorem answers_routeSolveDone_of_fencedPlan
    (hfull : ((s.dev.fab m).planned j).canFull (s.dev.cellFenced m) ((s.dev.fab m).planned j).active true j.want = false) :
    Answers (.routeSolveDone (.fenced us)) s
      (((s.dev.onFab m (fun f => { f with plans := f.plans.drop 1 })).chargeSolve m j.ring us).completeAt m x .cellFenced j.epoch
        none false) := by
  refine answers_of_serves hserves rfl ?_
  simp only [hbusy, hplans]
  simp only [Dev.planDone, hfind]
  exact if_neg (ne_true_of_eq_false hfull)

end

/-! ## Migrations, refreshes and heal strikes -/

section
variable {s : State} {m : MastId} (hserves : Serves s.dev m)
include hserves

theorem answers_migrationShadowSettled_of_due {y : Sheaf} {b : Nat}
    (hfind : (s.dev.fab m).sheafs.find? (fun y => y.work.migrate && !y.work.solved) = some y) (hat : y.work.shadowAt = some b)
    (hdue : b ≤ s.dev.beat) : Answers .migrationShadowSettled s
      (s.dev.solved m y.key ((s.dev.fab m).edgeSets (s.dev.fab m).shadow y.work.wmap) y.work.wmap false true) := by
  refine answers_of_serves hserves rfl ?_
  simp only [hfind, hat]
  exact if_pos hdue

variable {sets : List CellSet} (hrefresh : (s.dev.fab m).shadowBusy = true)
  (hsets : (s.dev.fab m).refreshes (s.dev.cellFenced m) (s.dev.fab m).map sets = true)

include hrefresh hsets in
theorem answers_shadowRefreshDone_of_keep (hkeep : (s.dev.fab m).canKeepShadow (s.dev.cellFenced m) (s.dev.fab m).map = true) :
    Answers (.shadowRefreshDone sets) s
      ((s.dev.driveQueue m sets false).onFab m (fun f => { f with shadowBusy := false })) := by
  refine answers_of_serves hserves rfl ?_
  simp [hrefresh, hsets, hkeep]

include hrefresh hsets in
theorem answers_shadowRefreshDone_of_asBefore
    (hkeep : (s.dev.fab m).canKeepShadow (s.dev.cellFenced m) (s.dev.fab m).map = false)
    (hbefore : (s.dev.fab m).asBefore (s.dev.cellFenced m) (s.dev.fab m).shadow (s.dev.fab m).map sets = true) :
    Answers (.shadowRefreshDone sets) s
      (((s.dev.onFab m (fun f => f.recall (s.dev.cellFenced m) f.shadow f.map sets)).driveQueue m sets
        true).onFab m (fun f => { f with shadowBusy := false })) := by
  refine answers_of_serves hserves rfl ?_
  simp [hrefresh, hsets, hkeep, hbefore]

/-- The device with the heal strike as strike order holds it. -/
def Dev.healing (d : Dev) (m : MastId) : Dev :=
  d.onFab m (fun f => { f with sheafs := f.sheafs.filter (fun y => y.key != .heal) ++ [healSheaf] })

variable {rest : List SKey} (horder : (s.dev.fab m).order = .heal :: rest) (hnone : s.dev.findSheaf m .heal = none)
  (hpark : s.dev.pins.parkSeen = false) (hidle : (s.dev.fab m).shadowBusy = false) (hswap : (s.dev.fab m).swap = none)

include horder hnone hpark hidle hswap in
theorem answers_healStrikeTurn_of_solve (hkind : (s.dev.fab m).kind ≠ 2) : Answers .healStrikeTurn s
    (((s.dev.healing m).newTsid m .heal).onSheaf m .heal (fun y =>
      { y with work := { y.work with wmap := (s.dev.fab m).map } })) := by
  refine answers_of_serves hserves rfl ?_
  simp [horder, hnone, hpark, hidle, hswap, hkind, Dev.healing]

include horder hnone hpark hidle hswap in
theorem answers_healStrikeTurn_of_swap (hkind : (s.dev.fab m).kind = 2) (hshadow : (s.dev.healing m).shadowOk m = true) :
    Answers .healStrikeTurn s (((s.dev.healing m).newTsid m .heal).solved m .heal
      ((s.dev.fab m).edgeSets (s.dev.fab m).shadow (s.dev.fab m).map) (s.dev.fab m).map false true) := by
  rw [Dev.healing] at hshadow ⊢
  refine answers_of_serves hserves rfl ?_
  simp [horder, hnone, hpark, hidle, hswap, hkind, hshadow]

end

/-- Settles O19, result by result. -/
theorem solvesComplete : Obligations.SolvesComplete := by
  intro s m hserves
  refine ⟨fun y us hbusy hplans hheal => ⟨fun sets hkeep hmigrate hsets => ?preserving, fun sets hbeyond hkind hsets hbefore => ?full,
    fun sets hbeyond hkind hsets hbefore hedges => ?migration, fun hpreserve hkeeps => ?needsRearrange,
    fun hkeep hkeeps => ?fenced⟩, fun j rest x hbusy hplans hfind => ⟨fun moved sets us hsets => ?plan, fun us hfull => ?fencedPlan⟩,
    fun y b hfind hat hdue => ?settled, fun sets hrefresh hsets => ⟨fun hkeep => ?refreshKept, fun hkeep hbefore => ?refreshBefore⟩,
    fun rest horder hnone hpark hidle hswap => ⟨fun hkind => ?healSolve, fun hkind hshadow => ?healSwap⟩⟩
  case preserving => exact answers_routeSolveDone_of_preserving hserves hbusy hplans hheal hkeep hmigrate hsets
  case full => exact answers_routeSolveDone_of_full hserves hbusy hplans hheal hbeyond hkind hsets hbefore
  case migration => exact answers_routeSolveDone_of_migration hserves hbusy hplans hheal hbeyond hkind hsets hbefore hedges
  case needsRearrange => exact answers_routeSolveDone_of_needsRearrange hserves hbusy hplans hheal hpreserve hkeeps
  case fenced => exact answers_routeSolveDone_of_fenced hserves hbusy hplans hheal hkeep hkeeps
  case plan => exact answers_routeSolveDone_of_plan hserves hbusy hplans hfind hsets
  case fencedPlan => exact answers_routeSolveDone_of_fencedPlan hserves hbusy hplans hfind hfull
  case settled => exact answers_migrationShadowSettled_of_due hserves hfind hat hdue
  case refreshKept => exact answers_shadowRefreshDone_of_keep hserves hrefresh hsets hkeep
  case refreshBefore => exact answers_shadowRefreshDone_of_asBefore hserves hrefresh hsets hkeep hbefore
  case healSolve => exact answers_healStrikeTurn_of_solve hserves horder hnone hpark hidle hswap hkind
  case healSwap => exact answers_healStrikeTurn_of_swap hserves horder hnone hpark hidle hswap hkind hshadow

end Sys2Proof.Machine
end

section
/-! Proofs for PLAN, PLANE_SWAP, TOPO_SWAP and the swap of a table (R152, R155, R156, R162, R163, R168). -/

namespace Sys2Proof.Machine

theorem Dev.part_of_rest {d e : Dev} (h : d.rest = e.rest) : d.part = e.part := congrArg Prod.fst h

/-! ## PLANE_SWAP and PLAN -/

section
variable {s : State} {ring seq : Nat} {m : MastId} {x : Desc}

section
variable (hstarts : Starts s.dev ring seq 0x32 m x) (hperm : x.perm 9 = true)
include hstarts hperm

theorem answers_planeSwap_of_benes (hkind : ((s.dev.begun m ring seq).fab m).kind ≠ 2) :
    Answers (.planeSwap ring seq) s ((s.dev.begun m ring seq).complete m x .badState) := by
  refine answers_of_starts hstarts rfl ?_
  rw [Dev.need_of_perm hperm]
  exact if_pos (by simpa using hkind)

theorem answers_planeSwap_of_twin (hkind : ((s.dev.begun m ring seq).fab m).kind = 2) :
    Answers (.planeSwap ring seq) s ((s.dev.begun m ring seq).onFab m (fun f => ({ f with sheafs := f.sheafs ++ [
      { key := .swap ring seq, ctx := x.ctx, commit := some seq, readAll := false, baseNow := true, presolved := false
        preserve := false, reefFail := false, base := 0, acts := [], hasPermute := false, cells := [], tag := 0
        doomed := none, nPort := 0, nCell := 0, phase := .bound, at_ := none, due := false, work := noWork, pool := 0, spill := 0
        spillLost := false }] } : Fab).place)) := by
  refine answers_of_starts hstarts rfl ?_
  rw [Dev.need_of_perm hperm]
  exact if_neg (by simp [hkind])

end

@[simp] theorem Dev.fab_heldOut (d : Dev) (m : MastId) (x : Desc) (o : SlotOut) (k : MastId) : (d.heldOut m x o).fab k = d.fab k := by
  simp [Dev.heldOut]

@[simp] theorem Dev.fab_onSlots (d : Dev) (m : MastId) (x : Desc) (f : List Nat → List Nat) (k : MastId) :
    (d.onSlots m x f).fab k = d.fab k := by
  simp [Dev.onSlots, Dev.onDesc]

@[simp] theorem Dev.fab_queueScan (d : Dev) (m : MastId) (master qos len : Nat) (k : MastId) :
    (d.queueScan m master qos len).fab k = d.fab k := by
  refine Dev.view_onMast (v := Mast.fab) (fun x => ?_) d m k
  split <;> rfl

@[simp] theorem Dev.fab_hostOut (d : Dev) (m : MastId) (n : Nat) (k : MastId) : (d.hostOut m n).fab k = d.fab k := by
  unfold Dev.hostOut Dev.moved
  refine (Dev.view_onMast (v := Mast.fab) ?_ _ m k).trans (Dev.view_pmc (v := Mast.fab) (fun _ _ => rfl) d m _ _ n k)
  exact fun _ => rfl

@[simp] theorem Dev.fab_giveSlot (d : Dev) (m : MastId) (x : Desc) (ref kind len ep : Nat) (crcBad trunc inc : Bool) (p : Payload)
    (k : MastId) : (d.giveSlot m x ref kind len ep crcBad trunc inc p).fab k = d.fab k := by
  have hemit : ∀ o, (d.emit o).fab k = d.fab k := fun _ => by cases k <;> rfl
  simp [Dev.giveSlot, hemit]

@[simp] theorem Dev.fab_returnIn (d : Dev) (m : MastId) (x : Desc) (slot : SlotIn) (crcBad : Bool) (k : MastId) :
    (d.returnIn m x slot crcBad).fab k = d.fab k := by simp [Dev.returnIn]

theorem Dev.slotCheck_of_fits {d : Dev} {m : MastId} {x : Desc} {i : SlotIn} (hcrc : Sys2Proof.Machine.crcOk i = true)
    (hlen : i.len ≤ d.slotSize m (refWin i.ref) - 64) (fail : Status → Dev → Dev) (k : Dev → Dev) :
    d.slotCheck m x i fail k = k ((d.hostIn m i.len).queueScan m 7 12 i.len) := by
  rw [Dev.slotCheck, if_neg (Nat.not_lt.2 hlen)]
  exact if_neg (by simp [hcrc])

theorem answers_plan_of_sound {i : SlotIn} {o : SlotOut} (hstarts : Starts s.dev ring seq 0x31 m x) (hperm : x.perm 0 = true)
    (hlost : x.lost = false) (herr : i.err = false) (hgood : (s.dev.begun m ring seq).slotBad m x i.ref i.owner = none)
    (hcrc : Sys2Proof.Machine.crcOk i = true) (hne : i.ref ≠ o.ref) (hkind : i.kind = 0x11)
    (hfree : SlotFree ((s.dev.begun m ring seq).heldOut m x ⟨i.ref, i.owner, i.err⟩) m x o)
    (hlen : i.len ≤ (((s.dev.begun m ring seq).heldOut m x ⟨i.ref, i.owner, i.err⟩).heldOut m x o).slotSize m (refWin i.ref) - 64)
    {n : Nat} (hn : (((((((s.dev.begun m ring seq).heldOut m x ⟨i.ref, i.owner, i.err⟩).heldOut m x o).hostIn m i.len).queueScan m 7 12
      i.len).returnIn m x i false).fab m).ports = n)
    (hsize : i.len = 2 * n) (hmap : (portMapOf i.bytes).length = n) (hok : portMapOk n (portMapOf i.bytes) = true) :
    Answers (.plan ring seq i o) s
      (((((((s.dev.begun m ring seq).heldOut m x ⟨i.ref, i.owner, i.err⟩).heldOut m x o).hostIn m i.len).queueScan m 7 12
        i.len).returnIn m x i false).onFab m (fun f => { f with
          plans := f.plans ++ [⟨ring, seq, o.ref, mapOfPorts (portMapOf i.bytes), f.epoch, f.map, f.settings, f.active⟩] })) := by
  refine answers_of_starts hstarts rfl ?_
  rw [Dev.need_of_perm hperm, Dev.slotHold, Dev.slotOut_of_free (o := ⟨i.ref, i.owner, i.err⟩) ⟨hlost, herr, hgood⟩, Dev.slotOut_of_free hfree,
    if_neg (by simpa using hne), Dev.slotCheck_of_fits hcrc hlen]
  refine if_neg ?_
  rw [hn]
  simp [hkind, hsize, hmap, hok]

/-! ## TOPO_SWAP -/

@[simp] theorem Dev.rest_scanned (d : Dev) (m : MastId) (x : Desc) (slot : SlotIn) : (d.scanned m x slot).rest = d.rest := by
  simp [Dev.scanned]

/-- The device with TOPO_SWAP's table read and its slot returned. -/
def Dev.tableRead (d : Dev) (m : MastId) (x : Desc) (slot : SlotIn) : Dev := (d.scanned m x slot).returnIn m x slot false

theorem Dev.part_tableRead (d : Dev) (m : MastId) (x : Desc) (slot : SlotIn) (ring seq : Nat) :
    ((d.begun m ring seq).tableRead m x slot).part = d.part :=
  Dev.part_of_rest (by simp [Dev.tableRead, Dev.begun])

section
variable {slot : SlotIn} (hstarts : Starts s.dev ring seq 0x30 m x) (hperm : x.perm 9 = true)
  (hfree : (s.dev.mast m).pen.protect = false) (hswap : (s.dev.fab m).swap = none)
  (hsound : SlotSound (s.dev.begun m ring seq) m x slot) (hkind : slot.kind = 0x30)
  (hclosed : (((s.dev.begun m ring seq).tableRead m x slot).fab m).sheafs.any (fun y => y.key != .heal) = false)
include hstarts hperm hfree hswap hsound hkind hclosed

theorem answers_topoSwap_of_sound {d : Dev}
    (hd : (match topoCheck s.dev.part (((s.dev.begun m ring seq).tableRead m x slot).regF m 0x4010 0 16)
        { topoOf slot.bytes with len := slot.len } with
      | some e => (((s.dev.begun m ring seq).tableRead m x slot).onFab m (fun f =>
        { f with topoErr := e.1, topoErrEntry := e.2 })).complete m x .topoInvalid
      | none => ((s.dev.begun m ring seq).tableRead m x slot).onFab m (fun f =>
        { f with swap := some (x.ring, x.ent.seq, topoOf slot.bytes) })) = d) : Answers (.topoSwap ring seq slot) s d := by
  have hserves : s.dev.serving = some m := hstarts.facts.1
  refine answers_of_run rfl ((if_neg (by simp [hserves, hswap])).trans
    ((Dev.startLasting_of_starts hstarts hfree _ _).trans ?_))
  rw [Dev.topoSwap, Dev.need_of_perm hperm, Dev.slotIn_of_sound hsound]
  refine (if_neg (ne_true_of_eq_false hclosed)).trans ((if_neg (by simp [hkind])).trans ?_)
  rw [← Dev.part_tableRead s.dev m x slot ring seq] at hd
  exact hd

end

end

/-! ## The swap applied -/

theorem Dev.mast_onCell (d : Dev) (c : Nat) (f : Cell → Cell) (k : MastId) : (d.onCell c f).mast k = d.mast k :=
  Dev.mast_onTile d _ _ k

theorem Dev.view_each {α β : Type} {v : Mast → β} {k : MastId} {f : α → Dev → Dev} (hf : ∀ x e, v ((f x e).mast k) = v (e.mast k))
    (l : List α) (d : Dev) : v ((d.each l f).mast k) = v (d.mast k) := by
  induction l generalizing d with
  | nil => rfl
  | cons x l ih => exact (ih _).trans (hf x d)

theorem Dev.mast_setTones (d : Dev) (m : MastId) (t : Nat) (k : MastId) : (d.setTones m t).mast k = d.mast k := by
  unfold Dev.setTones
  split
  · rfl
  · exact (Dev.view_each (v := id) (fun _ e => e.mast_onCell _ _ k) _ _).trans (d.mast_onTile _ _ k)

theorem Dev.mast_retone (d : Dev) (old : Nat → Nat) (t : Nat) (k : MastId) : (d.retone old t).mast k = d.mast k := by
  refine Dev.view_each (v := id) (fun l e => ?_) _ _
  dsimp only [id]
  split
  · rfl
  · exact e.mast_onCell _ _ k

/-- A record rewritten for a core is seen in the mast's cores alone. -/
theorem Dev.view_rewrote {α : Type} {v : Mast → α} (hcores : ∀ x c, v { x with cores := c } = v x) (d : Dev) (m : MastId) (i : Nat)
    (k : MastId) : v ((d.rewrote m i).mast k) = v (d.mast k) := by
  unfold Dev.rewrote Dev.onCore Dev.setCore
  exact Dev.view_onMast (fun x => hcores x _) d m k

/-- A new table leaves a mast's own parts but the fabric's. -/
theorem Dev.hif_loadTopo (d : Dev) (m : MastId) (t : TopoTable) (k : MastId) : (d.loadTopo m t).hif k = d.hif k := by
  unfold Dev.loadTopo
  split
  · rfl
  · refine (Dev.view_each (v := Mast.hif) (fun i e => congrArg Mast.hif (e.mast_setTones m i k)) _ _).trans ?_
    simp only [Dev.onFab]
    refine (Dev.view_onMast (v := Mast.hif) ?_ _ _ k).trans (Dev.view_onMast (v := Mast.hif) ?_ _ _ k) <;> exact fun _ => rfl

theorem Dev.standing_setTones (d : Dev) (m : MastId) (t : Nat) : (d.setTones m t).standing = d.standing :=
  Dev.standing_congr (d.mast_setTones m t .fore) (d.mast_setTones m t .main)

theorem Dev.standing_loadTopo (d : Dev) (m : MastId) (t : TopoTable) : (d.loadTopo m t).standing = d.standing := by
  unfold Dev.loadTopo
  split
  · rfl
  · refine (Dev.standing_each (fun i e => e.standing_setTones m i) _ _).trans ?_
    refine (Dev.standing_onFab ?_ ?_ _ _).trans (Dev.standing_onFab ?_ ?_ _ _) <;> exact fun _ => rfl

/-- The device with a new table in force: in the solvers and the tiles, the windows and cores that see it told of it. -/
def Dev.swapped (d : Dev) (m : MastId) (t : TopoTable) : Dev :=
  let old := fun c => (d.cell c).lp.tone
  let d := d.loadTopo m t
  let alive := (List.range 16).filter (fun t => (d.tile t).alive)
  let d := d.each alive (fun t d => d.retone old t)
  d.each alive (fun t d => d.each [4 * t, 4 * t + 1, 4 * t + 2, 4 * t + 3] (fun k d => d.rewrote m k))

theorem Dev.view_swapped {α : Type} {v : Mast → α} (hcores : ∀ x c, v { x with cores := c } = v x) (d : Dev) (m : MastId)
    (t : TopoTable) (k : MastId) : v ((d.swapped m t).mast k) = v ((d.loadTopo m t).mast k) :=
  (Dev.view_each (fun _ e => Dev.view_each (fun i e => e.view_rewrote hcores m i k) _ e) _ _).trans
    (Dev.view_each (fun _ e => congrArg v (e.mast_retone _ _ k)) _ _)

theorem Dev.hif_swapped (d : Dev) (m : MastId) (t : TopoTable) (k : MastId) : (d.swapped m t).hif k = d.hif k :=
  (d.view_swapped (v := Mast.hif) (fun _ _ => rfl) m t k).trans (d.hif_loadTopo m t k)

theorem Dev.standing_swapped (d : Dev) (m : MastId) (t : TopoTable) : (d.swapped m t).standing = d.standing :=
  (funext fun k => d.view_swapped (v := Mast.standing) (fun _ _ => rfl) m t k).trans (d.standing_loadTopo m t)

/-- The device once the swap has been applied: the new table in force, the pins kept. -/
def Dev.swapApplied (d : Dev) (m : MastId) (t : TopoTable) : Dev :=
  (d.swapped m t).onFab m (fun f => { f with swap := none, pinned := (d.fab m).pinned })

theorem Dev.standing_swapApplied (d : Dev) (m : MastId) (t : TopoTable) : (d.swapApplied m t).standing = d.standing := by
  refine (Dev.standing_onFab ?_ ?_ _ m).trans (d.standing_swapped m t) <;> exact fun _ => rfl

theorem Dev.hif_swapApplied (d : Dev) (m : MastId) (t : TopoTable) (k : MastId) : (d.swapApplied m t).hif k = d.hif k := by
  refine (Dev.view_onMast (v := Mast.hif) ?_ _ m k).trans (d.hif_swapped m t k)
  exact fun _ => rfl

theorem answers_topoSwapApply_of_empty {s : State} {m : MastId} {x : Desc} {ring q : Nat} {t : TopoTable} (hserves : Serves s.dev m)
    (hswap : (s.dev.fab m).swap = some (ring, q, t)) (hedge : s.dev.watchEdge = true) (hpass : (s.dev.mast m).cal.pass = none)
    (hmap : (s.dev.fab m).map = []) (hfind : s.dev.findDesc m ring q = some x) : Answers .topoSwapApply s
      ((s.dev.swapApplied m t).complete m x .ok) := by
  refine answers_of_serves hserves rfl ?_
  simp only [hswap]
  rw [if_neg (by simp [hedge, hpass])]
  have hdesc : (s.dev.swapApplied m t).findDesc m ring q = some x := by
    rw [Dev.findDesc, Dev.hif_swapApplied]
    exact hfind
  rw [Dev.swapApplied, Dev.swapped] at hdesc ⊢
  simp only [hmap, hdesc, List.isEmpty_nil, if_true]

/-- Settles O20, descriptor by descriptor. -/
theorem plansAndSwapsComplete : Obligations.PlansAndSwapsComplete := by
  intro s ring seq m x hlost
  refine ⟨fun hstarts hperm hkind => ?benes, fun hstarts hperm hkind => ?twin,
    fun i o hstarts hperm herr hgood hcrc hne hkind hsize hmap hok hfree hlen => ?plan,
    fun slot hstarts hperm hfree hswap hsound hkind hclosed => ⟨fun e he => ?invalid, fun he => ?valid⟩,
    fun q t hserves hswap hedge hpass hmap hfind => ?apply⟩
  case benes => exact answers_planeSwap_of_benes hstarts hperm hkind
  case twin => exact answers_planeSwap_of_twin hstarts hperm hkind
  case plan =>
    exact answers_plan_of_sound hstarts hperm hlost herr hgood hcrc hne hkind hfree hlen (by simp) hsize hmap hok
  case invalid =>
    refine answers_topoSwap_of_sound hstarts hperm hfree hswap hsound hkind hclosed ?_
    change topoCheck _ (((s.dev.begun m ring seq).tableRead m x slot).regF m 0x4010 0 16) _ = _ at he
    rw [he]
    rfl
  case valid =>
    refine answers_topoSwap_of_sound hstarts hperm hfree hswap hsound hkind hclosed ?_
    change topoCheck _ (((s.dev.begun m ring seq).tableRead m x slot).regF m 0x4010 0 16) _ = _ at he
    rw [he]
    rfl
  case apply =>
    refine ⟨_, answers_topoSwapApply_of_empty hserves hswap hedge hpass hmap hfind, ?_, ?_, ?_⟩
    · simp [Dev.swapApplied, Dev.fab, Dev.onFab]
    · exact (congrArg Standing.map (congrFun (s.dev.standing_swapApplied m t) m)).trans hmap
    · exact congrArg Standing.epoch (congrFun (s.dev.standing_swapApplied m t) m)

end Sys2Proof.Machine
end

section
/-! Proofs for staging, the decision, arming, acknowledgements and strike words (R16, R20, R21, R26, R128 to R136). -/

namespace Sys2Proof.Machine

/-! ## A tile's check and its answer -/

/-- R131's check of a tile: nothing armed, and the identifier's changes complete, with the count and the CRC of the frame. -/
theorem Tile.mayArm_facts {x : Tile} {a : Arm} (h : x.mayArm a = true) : x.link.armed = none ∧ ∃ g, g ∈ x.link.staged ∧
    g.tsid = a.tsid ∧ g.gap = false ∧ Sys2Proof.Machine.sizeOf g.changes = a.count ∧ changesCrc g.changes = a.crc := by
  unfold Tile.mayArm at h
  split at h
  · next g hfind =>
    simp only [Bool.and_eq_true, Option.isNone_iff_eq_none, Bool.not_eq_true', beq_iff_eq] at h
    obtain ⟨harmed, ⟨hgap, hcount⟩, hcrc⟩ := h
    exact ⟨harmed, g, List.mem_of_find?_eq_some hfind, by simpa using List.find?_some hfind, hgap, hcount, hcrc⟩
  · simp at h

/-- The device with a tile's answer arrived. -/
def Dev.answered (d : Dev) (m : MastId) (t : Nat) : Dev :=
  (d.arrived m t).onTile t (fun x => { x with link := { x.link with ack := none } })

@[simp] theorem Dev.struck?_answered (d : Dev) (m : MastId) (t : Nat) (k : MastId) : (d.answered m t).struck? k = d.struck? k := by
  simp [Dev.struck?, Dev.answered]

@[simp] theorem Dev.beat_answered (d : Dev) (m : MastId) (t : Nat) : (d.answered m t).beat = d.beat :=
  congrArg (fun r => r.2.1) (show (d.answered m t).rest = d.rest by simp [Dev.answered, Dev.arrived])

/-! ## Staging and the decision -/

section
variable {s : State} {m : MastId} {y : Sheaf} (hserves : Serves s.dev m)
include hserves

theorem answers_stagingFrame_of_taken {t i : Nat} (hof : s.dev.ofTsid m i = some y) (hsolved : y.work.solved = true)
    (hstaged : y.work.stagedOn t = false) (htile : (s.dev.stagedTiles m).contains t = true)
    (hroom : ((s.dev.tile t).link.staged.filter (fun g => g.tsid != i)).length < 4) (htakes : s.dev.takes m t = true)
    (hwait : s.dev.waiting m t 4 [i, (tget 0 y.work.sent t - 1 + 15) / 16] = false) :
    let all := tget [] y.work.changes t
    let n := Nat.min (tget 0 y.work.sent t - 1 + 16) (Sys2Proof.Machine.sizeOf all)
    let gap := (s.dev.tile t).link.staged.any (fun g => g.tsid == i && g.gap)
    Answers (.stagingFrame t i) s (((s.dev.onTile t (fun x => { x with link := { x.link with
      staged := (s.dev.tile t).link.staged.filter (fun g => g.tsid != i) ++ [⟨i, gap, firstChanges n all⟩] } })).onSheaf m y.key
        (fun y => { y with work := { y.work with sent := tset 0 y.work.sent t (n + 1) } })).restage m) := by
  refine answers_of_serves hserves rfl ?_
  simp only [hof]
  rw [if_neg (by simp [hsolved, hstaged, htakes, hwait, Nat.not_le.2 hroom]; simpa using htile)]

theorem answers_decisionToStrike_of_ready {k : SKey} {rest : List SKey} (horder : (s.dev.fab m).order = k :: rest)
    (hfind : s.dev.findSheaf m k = some y) (hphase : y.phase = .staged) (hat : y.at_ = none) (hdone : s.dev.stagingDone m y = true)
    (hyield : (s.dev.mast m).pen.yielding = false) (hlast : (s.dev.fab m).lastStrike.getD 0 ≤ s.dev.beat + 1)
    (hpause : k = .heal ∨ s.dev.pauseEnd m ≤ s.dev.beat + 1 + s.dev.lead m) :
    Answers .decisionToStrike s (s.dev.decideStrike m k (s.dev.beat + 1)) := by
  refine answers_of_serves hserves rfl ?_
  simp only [horder, hfind]
  refine if_neg ?_
  simp [hphase, hat, hdone, hyield, hlast]
  simpa [or_iff_not_imp_left] using hpause

theorem answers_scheduledDecisionBeat_of_ready {ring id : Nat} {t : Stamp} (hfind : s.dev.findSheaf m (.sheaf ring id) = some y)
    (hat : y.at_ = some t) (hphase : y.phase = .staged) (hbeat : stampNs s.dev.now + 100 * s.dev.lead m = stampNs t)
    (hhead : (s.dev.fab m).order.head? = some (.sheaf ring id)) (hdone : s.dev.stagingDone m y = true)
    (hlast : (s.dev.fab m).lastStrike.getD 0 ≤ s.dev.beat) (hyield : (s.dev.mast m).pen.yielding = false)
    (hpause : s.dev.pauseEnd m ≤ s.dev.beat + s.dev.lead m) :
    Answers (.scheduledDecisionBeat ring id) s (s.dev.decideStrike m (.sheaf ring id) s.dev.beat) := by
  refine answers_of_serves hserves rfl ?_
  simp only [hfind, hat]
  rw [if_neg (by simp [hphase, hbeat, Sheaf.decided]), if_neg (by simp [hbeat, hphase, hhead, hdone, hlast, hyield]),
    if_neg (by omega)]

/-! ## Arming -/

theorem answers_armFrameSend_of_due {D : Nat} (hstruck : s.dev.struck? m = some y) (hD : y.work.D = some D) (harms : y.work.arms = false)
    (hbeat : s.dev.beat + 4 = D + y.work.lead) :
    let frames : Tbl (Option Arm) := (s.dev.stagedTiles m).foldl (fun l t => tset none l t (some (s.dev.armOf m y D t))) []
    Answers .armFrameSend s ((s.dev.each (s.dev.stagedTiles m) (fun t d => d.command m t 1 [y.work.tsid, 1] [])).onSheaf m y.key
      (fun z => { z with work := { z.work with arms := true, frames := frames } })) := by
  refine answers_of_serves hserves rfl ?_
  simp only [hstruck, hD]
  exact if_neg (by simp [harms, hbeat])

theorem answers_armFrame_of_taken {t : Nat} {g : Arm} {crcOk : Bool} (hstruck : s.dev.struck? m = some y)
    (hframe : tget none y.work.frames t = some g) (htakes : s.dev.takes m t = true) (hwait : s.dev.waiting m t 1 [g.tsid, 1] = false) :
    let taken := s.dev.onSheaf m y.key (fun z => { z with work := { z.work with frames := tset none z.work.frames t none } })
    let now := { g with armedAt := s.dev.beat }
    Answers (.armFrame t crcOk) s
      (if crcOk = true ∧ (s.dev.tile t).mayArm g = true then
        taken.onTile t (fun x => { x with link := { x.link with
          armed := some now, arms := keepArms (x.link.arms ++ [now]), ack := some (g.tsid, true) } })
       else taken.onTile t (fun x => { x with link := { x.link with ack := some (g.tsid, false) } })) := by
  intro taken now
  refine answers_of_serves hserves rfl ?_
  simp only [hstruck, hframe]
  rw [if_neg (by simp [htakes, hwait])]
  cases hok : crcOk && (s.dev.tile t).mayArm g with
  | true => rw [if_pos (by simpa using hok)]; rfl
  | false => rw [if_neg (by simpa using hok)]; rfl

/-! ## Acknowledgements and refusals -/

section
variable {t : Nat} (hstruck : s.dev.struck? m = some y) (hfree : UpFree s.dev m t 1)
include hstruck hfree

theorem answers_stageAcknowledgement_of_counted {D : Nat} (hD : y.work.D = some D)
    (hack : (s.dev.tile t).link.ack = some (y.work.tsid, true)) (hbeat : s.dev.beat + 2 < D + y.work.lead) :
    Answers (.stageAcknowledgement t) s
      ((s.dev.answered m t).onSheaf m y.key (fun y => { y with work := { y.work with acks := y.work.acks ++ [t] } })) := by
  refine answers_of_serves hserves rfl ?_
  have hstruck : (s.dev.answered m t).struck? m = some y := (Dev.struck?_answered ..).trans hstruck
  have hbeat : (s.dev.answered m t).beat + 2 < D + y.work.lead := by simpa using hbeat
  simp only [hack, Dev.upGo_of_free hfree]
  rw [Dev.answered] at hstruck hbeat ⊢
  simp only [hstruck, hD]
  exact if_pos (by simpa using hbeat)

theorem answers_stageAcknowledgement_of_other {i : Nat} (hack : (s.dev.tile t).link.ack = some (i, true)) (hne : i ≠ y.work.tsid) :
    Answers (.stageAcknowledgement t) s (s.dev.answered m t) := by
  refine answers_of_serves hserves rfl ?_
  have hstruck : (s.dev.answered m t).struck? m = some y := (Dev.struck?_answered ..).trans hstruck
  simp only [hack, Dev.upGo_of_free hfree]
  rw [Dev.answered] at hstruck ⊢
  simp only [hstruck]
  cases y.work.D with
  | none => rfl
  | some D => exact if_neg (by simp [hne.symm])

theorem answers_stageRefusal_of_refused (hack : (s.dev.tile t).link.ack = some (y.work.tsid, false)) :
    Answers (.stageRefusal t) s
      ((s.dev.answered m t).onSheaf m y.key (fun y => { y with work := { y.work with refused := true } })) := by
  refine answers_of_serves hserves rfl ?_
  have hstruck : (s.dev.answered m t).struck? m = some y := (Dev.struck?_answered ..).trans hstruck
  simp only [hack, Dev.upGo_of_free hfree]
  rw [Dev.answered] at hstruck ⊢
  simp only [hstruck]
  exact if_pos (by simp)

end
end

/-- Settles O21, step by step from staging to the answers. -/
theorem stagingAndArmingComplete : Obligations.StagingAndArmingComplete := by
  intro s m y hserves
  refine ⟨fun t i hof hsolved hstaged htile hroom htakes hwait => ?frame,
    fun k rest horder hfind hphase hat hdone hyield hlast hpause => ?decision,
    fun ring id t hfind hat hphase hbeat hhead hdone hlast hyield hpause => ?scheduled,
    fun D hstruck hD harms hbeat => ?send, fun t g crcOk hstruck hframe htakes hwait => ?arm, fun t g h => ?check,
    fun t D hstruck hD hack hbeat hfree => ?counted, fun t i hstruck hack hne hfree => ?other,
    fun t hstruck hack hfree => ?refused⟩
  case frame => exact answers_stagingFrame_of_taken hserves hof hsolved hstaged htile hroom htakes hwait
  case decision => exact answers_decisionToStrike_of_ready hserves horder hfind hphase hat hdone hyield hlast hpause
  case scheduled => exact answers_scheduledDecisionBeat_of_ready hserves hfind hat hphase hbeat hhead hdone hlast hyield hpause
  case send => exact answers_armFrameSend_of_due hserves hstruck hD harms hbeat
  case arm => exact answers_armFrame_of_taken hserves hstruck hframe htakes hwait
  case check => exact Tile.mayArm_facts h
  case counted => exact answers_stageAcknowledgement_of_counted hserves hstruck hfree hD hack hbeat
  case other => exact answers_stageAcknowledgement_of_other hserves hstruck hfree hack hne
  case refused => exact answers_stageRefusal_of_refused hserves hstruck hfree hack

/-! ## The strike word sent -/

/-- Every staged tile has acknowledged, none has refused, and the leases outlast the strike beat (R132). -/
def Dev.mayStrike (d : Dev) (m : MastId) (y : Sheaf) (D : Nat) : Prop :=
  (d.stagedTiles m).all y.work.acks.contains = true ∧ y.work.refused = false ∧ d.leased m (D + y.work.lead) = true

section
variable {s : State} {m : MastId} {y : Sheaf} {D : Nat} (hserves : Serves s.dev m) (hstruck : s.dev.struck? m = some y)
  (hD : y.work.D = some D) (hword : y.work.word = false) (hbeat : s.dev.beat + 1 = D + y.work.lead)
include hserves hstruck hD hword hbeat

theorem answers_strikeWordSend_of_due {d : Dev}
    (hd : (if !(s.dev.stagedTiles m).all y.work.acks.contains || y.work.refused || !s.dev.leased m (D + y.work.lead) then
        s.dev.notStruck m y .stageFail
      else if s.dev.pins.parkSeen then s.dev.notStruck m y .parked
      else (s.dev.emit (.strikeWord m y.work.tsid ((s.dev.mast m).pen.epoch % 4096))).onSheaf m y.key (fun y =>
        { y with work := { y.work with word := true } })) = d) : Answers .strikeWordSend s d := by
  refine answers_of_serves hserves rfl ?_
  simp only [hstruck, hD]
  rw [if_neg (by simp [hword, hbeat])]
  exact hd

theorem answers_strikeWordSend_of_sound (hsound : s.dev.mayStrike m y D) (hpark : s.dev.pins.parkSeen = false) :
    Answers .strikeWordSend s ((s.dev.emit (.strikeWord m y.work.tsid ((s.dev.mast m).pen.epoch % 4096))).onSheaf m y.key
      (fun y => { y with work := { y.work with word := true } })) := by
  obtain ⟨hacks, hrefused, hleased⟩ := hsound
  refine answers_strikeWordSend_of_due hserves hstruck hD hword hbeat ?_
  rw [hacks, hrefused, hleased, hpark]
  rfl

variable (hheal : y.key ≠ .heal)
include hheal

theorem answers_strikeWordSend_of_parked (hsound : s.dev.mayStrike m y D) (hpark : s.dev.pins.parkSeen = true) :
    Answers .strikeWordSend s (s.dev.abortSheaf m y.key .parked) := by
  obtain ⟨hacks, hrefused, hleased⟩ := hsound
  refine answers_strikeWordSend_of_due hserves hstruck hD hword hbeat ?_
  rw [hacks, hrefused, hleased, hpark]
  change s.dev.notStruck m y .parked = _
  exact if_neg (by simpa using hheal)

theorem answers_strikeWordSend_of_unsound (hsound : ¬ s.dev.mayStrike m y D) :
    Answers .strikeWordSend s (s.dev.abortSheaf m y.key .stageFail) := by
  refine answers_strikeWordSend_of_due hserves hstruck hD hword hbeat ((if_pos ?_).trans (if_neg (by simpa using hheal)))
  rw [Dev.mayStrike, not_and_or, not_and_or] at hsound
  simpa [or_assoc] using hsound

end

/-! ## The strike word at a tile -/

section
variable {s : State} {t i p : Nat} (halive : (s.dev.tile t).alive = true)
include halive

/-- A word with the start bits good runs its branches on the tile as it is. -/
theorem answers_strikeWord_of_alive {crcOk : Bool} {d : Dev}
    (hd : (if !crcOk then
        s.dev.onTile t (fun x => x.say (match x.link.armed with
          | some a => .miss a.tsid
          | none => .stray i))
      else if p != (s.dev.tile t).link.pen % 4096 || !(s.dev.tile t).leaseRuns s.dev.beat then s.dev.onTile t (fun x => x.say (.stray i))
      else match (s.dev.tile t).link.armed with
        | some a => if a.tsid == i then (s.dev.applyArmed t a).repairedOn t i else s.dev.onTile t (fun x => x.say (.stray i))
        | none => match (s.dev.tile t).link.applied with
          | some (j, S) => if j == i && s.dev.beat == S + 3 then s.dev else s.dev.onTile t (fun x => x.say (.stray i))
          | none => s.dev.onTile t (fun x => x.say (.stray i))) = d) : Answers (.strikeWord t true crcOk i p) s d :=
  answers_of_run rfl ((if_neg (by simp [halive])).trans hd)

theorem answers_strikeWord_of_bad_crc : Answers (.strikeWord t true false i p) s
    (s.dev.onTile t (fun x => x.say (match (s.dev.tile t).link.armed with
      | some a => .miss a.tsid
      | none => .stray i))) :=
  answers_strikeWord_of_alive halive rfl

theorem answers_strikeWord_of_stale (h : ¬ (p = (s.dev.tile t).link.pen % 4096 ∧ s.dev.beat < (s.dev.tile t).link.leaseEnd)) :
    Answers (.strikeWord t true true i p) s (s.dev.onTile t (fun x => x.say (.stray i))) := by
  refine answers_strikeWord_of_alive halive ((if_neg (by simp)).trans (if_pos ?_))
  rw [not_and_or] at h
  simpa [Tile.leaseRuns] using h

variable (hfresh : p = (s.dev.tile t).link.pen % 4096 ∧ s.dev.beat < (s.dev.tile t).link.leaseEnd)
include hfresh

theorem answers_strikeWord_of_armed {a : Arm} (harmed : (s.dev.tile t).link.armed = some a) :
    Answers (.strikeWord t true true i p) s
      (if a.tsid == i then (s.dev.applyArmed t a).repairedOn t i else s.dev.onTile t (fun x => x.say (.stray i))) := by
  obtain ⟨hpen, hlease⟩ := hfresh
  refine answers_strikeWord_of_alive halive ((if_neg (by simp)).trans ((if_neg (by simp [hpen, Tile.leaseRuns, hlease])).trans ?_))
  simp only [harmed]

variable (harmed : (s.dev.tile t).link.armed = none)
include harmed

theorem answers_strikeWord_of_repair (happlied : (s.dev.tile t).link.applied = some (i, s.dev.beat - 3)) (hbeat : 3 ≤ s.dev.beat) :
    Answers (.strikeWord t true true i p) s s.dev := by
  obtain ⟨hpen, hlease⟩ := hfresh
  refine answers_strikeWord_of_alive halive ((if_neg (by simp)).trans ((if_neg (by simp [hpen, Tile.leaseRuns, hlease])).trans ?_))
  simp only [harmed, happlied]
  exact if_pos (by simp; omega)

theorem answers_strikeWord_of_stray (happlied : ∀ S, (s.dev.tile t).link.applied = some (i, S) → s.dev.beat ≠ S + 3) :
    Answers (.strikeWord t true true i p) s (s.dev.onTile t (fun x => x.say (.stray i))) := by
  obtain ⟨hpen, hlease⟩ := hfresh
  refine answers_strikeWord_of_alive halive ((if_neg (by simp)).trans ((if_neg (by simp [hpen, Tile.leaseRuns, hlease])).trans ?_))
  simp only [harmed]
  cases h : (s.dev.tile t).link.applied with
  | none => rfl
  | some e =>
    obtain ⟨j, S⟩ := e
    refine if_neg fun hrepair => ?_
    obtain ⟨hj, hbeat⟩ := Bool.and_eq_true_iff.1 hrepair
    exact happlied S (by rw [h, eq_of_beq hj]) (eq_of_beq hbeat)

end

/-- Settles O22, the word sent and the word received. -/
theorem strikeWordsComplete : Obligations.StrikeWordsComplete := by
  refine ⟨fun s m y D hserves hstruck hD hword hbeat hheal => ⟨fun hsound hpark => ?sent, fun hsound hpark => ?parked,
    fun hsound => ?unsound⟩, fun s t i p halive => ⟨fun a harmed => ?miss, fun harmed => ?badStray,
    fun harmed happlied hbeat hfresh => ?repair, fun harmed happlied hfresh => ?stray, fun a hfresh harmed hne => ?other,
    fun hstale => ?stale, fun a hfresh harmed heq => ?struck⟩⟩
  case sent => exact answers_strikeWordSend_of_sound hserves hstruck hD hword hbeat hsound hpark
  case parked => exact answers_strikeWordSend_of_parked hserves hstruck hD hword hbeat hheal hsound hpark
  case unsound => exact answers_strikeWordSend_of_unsound hserves hstruck hD hword hbeat hheal hsound
  case miss =>
    have h := answers_strikeWord_of_bad_crc (i := i) (p := p) halive
    rw [harmed] at h
    exact h
  case badStray =>
    have h := answers_strikeWord_of_bad_crc (i := i) (p := p) halive
    rw [harmed] at h
    exact h
  case repair => exact answers_strikeWord_of_repair halive hfresh harmed happlied hbeat
  case stray => exact answers_strikeWord_of_stray halive hfresh harmed happlied
  case other =>
    have h := answers_strikeWord_of_armed (i := i) halive hfresh harmed
    rw [if_neg (by simpa using hne)] at h
    exact h
  case stale => exact answers_strikeWord_of_stale halive hstale
  case struck =>
    have h := answers_strikeWord_of_armed (i := i) halive hfresh harmed
    rw [if_pos (by simpa using heq)] at h
    exact h

end Sys2Proof.Machine
end

section
/-! Proofs for the operations of a Tiller core (R205, R214 to R223, R225, R228). -/

namespace Sys2Proof.Machine

/-! ## Slot B -/

section
variable {c i : Instr} {s : State} {m : MastId} {k : Nat}

/-- An operation of slot B that issues changes its core and ends the bundle. -/
theorem answers_of_issuesB {f : Core → Core} (h : IssuesB s.dev m k i) (hc : exec c s = run s (fun d => d.slotB k i f)) :
    Answers c s (s.dev.onCore m k (fun q => (f q).close)) :=
  answers_of_run hc (Dev.slotB_of_issues h f)

/-! ## Slot A -/

/-- An operation of slot A that issues runs on the opened bundle. -/
theorem answers_of_issuesA {f : MastId → Dev → Dev} {d : Dev} (h : IssuesA s.dev m k i)
    (hc : exec c s = run s (fun d => d.slotA k i f)) (hd : f m (s.dev.opened m k) = d) : Answers c s d :=
  answers_of_run hc ((Dev.slotA_of_issues h f).trans hd)

theorem answers_of_issuesCore {f : Core → Core} (h : IssuesA s.dev m k i) (hc : exec c s = run s (fun d => d.coreA k i f)) :
    Answers c s ((s.dev.opened m k).onCore m k f) :=
  answers_of_issuesA h hc rfl

/-- A special-register operation issues like a no-operation and then meets its index (R224). -/
theorem answers_of_issuesSr {sr : BitVec 6} {f : MastId → Dev → Dev} {d : Dev} (h : IssuesA s.dev m k (.noOperation k .a))
    (hc : exec c s = run s (fun d => d.srA k sr f))
    (hd : (if srOk sr then f m (s.dev.opened m k) else (s.dev.opened m k).illegal m k) = d) : Answers c s d :=
  answers_of_issuesA h hc hd

theorem answers_of_issuesBranch {dst : Core → Option Nat} {f : Core → Core} (h : IssuesA s.dev m k i)
    (hdelay : ((s.dev.opened m k).core m k).delay = false) (hc : exec c s = run s (fun d => d.branchA k i dst f)) :
    Answers c s ((s.dev.opened m k).onCore m k (fun q => { f q with br := true, target := dst q })) :=
  answers_of_issuesA h hc (if_neg (ne_true_of_eq_false hdelay))

theorem answers_of_issuesBranch_delay {dst : Core → Option Nat} {f : Core → Core} (h : IssuesA s.dev m k i)
    (hdelay : ((s.dev.opened m k).core m k).delay = true) (hc : exec c s = run s (fun d => d.branchA k i dst f)) :
    Answers c s ((s.dev.opened m k).illegal m k) :=
  answers_of_issuesA h hc (if_pos hdelay)

theorem answers_of_issuesStore {f : MemF} {n : Nat} {val : Core → Nat} {d : Dev} (h : IssuesA s.dev m k i)
    (hc : exec c s = run s (fun d => d.storeA k i f n val))
    (hd : (s.dev.opened m k).onCore m k (fun q => (q.store (alignTo n (q.addr f).1) n (val q)).postMod f) = d) : Answers c s d :=
  answers_of_run hc ((Dev.slotA_of_issues h (fun m d => d.onCore m k (fun q =>
    (q.store (alignTo n (q.addr f).1) n (val q)).postMod f))).trans hd)

end

theorem srOk_of_le {sr : BitVec 6} (h : sr.toNat ≤ 21) : srOk sr = true := by simpa [srOk] using h

theorem srOk_of_lt {sr : BitVec 6} (h : 21 < sr.toNat) : srOk sr = false := by simpa [srOk] using h

/-- Settles O25: every operation is one change of its core. -/
theorem slotBOperationsComplete : Obligations.SlotBOperationsComplete := by
  intro s m k
  refine ⟨?noOperation, ?add, ?sub, ?and, ?or, ?xor, ?shl, ?shr, ?shra, ?min, ?max, ?zsel, ?mulh, ?divq, ?addi, ?shiShl, ?shiShr,
    ?shiShra, ?movi, ?movhi, ?mac, ?mac2, ?narrow, ?mva, ?mta, ?rot⟩
  case noOperation => exact fun h => answers_of_issuesB h rfl
  case add | sub | and | or | xor | shl | shr | shra | min | max | zsel | mulh | divq =>
    exact fun f h => answers_of_issuesB h rfl
  case addi => exact fun d a imm z h => answers_of_issuesB h rfl
  case shiShl => exact fun d a amt z h => answers_of_issuesB h rfl
  case shiShr | shiShra => exact fun d a amt h => answers_of_issuesB h rfl
  case movi | movhi => exact fun d imm h => answers_of_issuesB h rfl
  case mac => exact fun ak x c half neg clr h => answers_of_issuesB h rfl
  case mac2 => exact fun pair x y c neg clr h => answers_of_issuesB h rfl
  case narrow => exact fun d ak sh z h => answers_of_issuesB h rfl
  case mva | mta => exact fun d ak part h => answers_of_issuesB h rfl
  case rot => exact fun abs n h => answers_of_issuesB h rfl

theorem answers_waitResume_of_wakes {s : State} {m : MastId} {k : Nat} (hserves : Serves s.dev m)
    (hrun : (s.dev.core m k).run = .waiting) (hwakes : (s.dev.core m k).wakes = true) : Answers (.waitResume k) s
      (({ s.dev with free := s.dev.free + 1 } : Dev).onCore m k (fun c =>
        { (if c.slotA then c.close else c).pass (2 + Config.freeNat s.dev.free) with run := s.dev.liveRun m k })) :=
  answers_of_serves hserves rfl (if_pos (by simp [hrun, hwakes]))

/-- Settles O26: the changes of a core, the special registers, the wait and the branches. -/
theorem slotAOperationsComplete : Obligations.SlotAOperationsComplete := by
  intro s m k
  refine ⟨?noOperation, ?movip, ?addp, ?movdp, ?movim, fun dn sr h hsr => ⟨?mfs, ?mts⟩, fun dn sr h hsr => ⟨?mfsBad, ?mtsBad⟩,
    ?movlc, ?ei, ?wait, ?resume, fun hdelay => ⟨?b, ?beqz, ?bnez, ?bltz, ?bgez, ?bcnt, ?call, ?ret, ?reti⟩,
    fun off hdelay h => ?bDelay⟩
  case noOperation | wait => exact fun h => answers_of_issuesCore h rfl
  case movip => exact fun p imm h => answers_of_issuesCore h rfl
  case addp => exact fun pk pj imm h => answers_of_issuesCore h rfl
  case movdp => exact fun pk dn imm h => answers_of_issuesCore h rfl
  case movim => exact fun mk imm h => answers_of_issuesCore h rfl
  case mfs | mts => exact answers_of_issuesSr h rfl (if_pos (srOk_of_le hsr))
  case mfsBad | mtsBad => exact answers_of_issuesSr h rfl (if_neg (ne_true_of_eq_false (srOk_of_lt hsr)))
  case movlc => exact fun imm h => answers_of_issuesCore h rfl
  case ei => exact fun e h => answers_of_issuesCore h rfl
  case resume => exact answers_waitResume_of_wakes
  case b | bcnt | call => exact fun off h => answers_of_issuesBranch h hdelay rfl
  case beqz | bnez | bltz | bgez => exact fun n off h => answers_of_issuesBranch h hdelay rfl
  case ret | reti => exact fun h => answers_of_issuesBranch h hdelay rfl
  case bDelay => exact answers_of_issuesBranch_delay h hdelay rfl

section
variable {s : State} {m : MastId} {k : Nat} {f : MemF} (h : IssuesA s.dev m k (.noOperation k .a)) (hwf : f.wf = true)
  (hsr : f.d.toNat ≤ 21)
include h hwf hsr

theorem answers_lds_of_issues :
    let d := s.dev.opened m k
    let a := alignTo 4 ((d.core m k).addr f).1
    Answers (.lds k f) s ((d.load m k 4 a).2.onCore m k (fun q =>
      (q.due .a 3 (srDest f.d.toNat) (BitVec.ofNat 72 (d.memNat m k a 4))).postMod f)) :=
  answers_of_run rfl ((if_neg (by simp [hwf])).trans ((Dev.slotA_of_issues h _).trans (if_pos (srOk_of_le hsr))))

theorem answers_sts_of_issues :
    let d := s.dev.opened m k
    Answers (.sts k f) s (d.onCore m k (fun q =>
      (q.store (alignTo 4 ((d.core m k).addr f).1) 4 (q.sr f.d.toNat).toNat).postMod f)) :=
  answers_of_run rfl ((if_neg (by simp [hwf])).trans ((Dev.slotA_of_issues h _).trans (if_pos (srOk_of_le hsr))))

end

/-- Settles O27: loads, stores and the filter tap. -/
theorem loadsAndStoresComplete : Obligations.LoadsAndStoresComplete := by
  intro s m k f
  refine ⟨?ldW, ?ldH, ?ldHu, ?ldD, ?ldA, ?stW, ?stH, ?stD, ?stA, fun h hwf hsr => ⟨?lds, ?sts⟩, fun ak clr pd pc h => ?tapm⟩
  case ldW | ldH | ldHu | ldD | ldA => exact fun h => answers_of_issuesA h rfl rfl
  case stW | stH | stD | stA => exact fun h => answers_of_issuesStore h rfl rfl
  case lds => exact answers_lds_of_issues h hwf hsr
  case sts => exact answers_sts_of_issues h hwf hsr
  case tapm => exact answers_of_issuesA h rfl rfl

end Sys2Proof.Machine
end

section
/-! Proofs for kernels loaded, bound and dropped (R204, R211, R229 to R232, R402). -/

namespace Sys2Proof.Machine

theorem Dev.onKern_congr {d : Dev} {m : MastId} {f g : Kern → Kern} (h : f (d.mast m).kern = g (d.mast m).kern) :
    d.onKern m f = d.onKern m g := by
  simp only [Dev.onKern, Dev.onMast, h]

section
variable {s : State} {ring seq : Nat} {m : MastId} {x : Desc}

/-! ## KERNEL_LOAD -/

section
variable {slot : SlotIn} {h : Nat} (hstarts : Starts s.dev ring seq 0x80 m x) (hperm : x.perm 8 = true)
  (hsound : SlotSound (s.dev.begun m ring seq) m x slot)
include hstarts hperm hsound

theorem answers_kernelLoad_of_sound {d : Dev}
    (hd : (let held := (s.dev.begun m ring seq).heldOut m x ⟨slot.ref, slot.owner, slot.err⟩
      if h < 1 || 4 < h || held.handleBound m h then (held.returnIn m x slot false).complete m x .badState
      else held.slotCheck m x slot (fun st d => d.complete m x st) (fun d =>
        if !(KernelImage.mk slot.bytes).formatOk slot.len then (d.returnIn m x slot false).complete m x .kernelFormat
        else if !(d.mast m).boot.kernelOk ⟨slot.bytes⟩ then (d.returnIn m x slot false).complete m x .kernelSig
        else d.onKern m (fun k => { k with loading := k.loading ++ [(ring, seq, h, ⟨slot.bytes⟩, slot)] }))) = d) :
    Answers (.kernelLoad ring seq slot h) s d := by
  refine answers_of_starts hstarts rfl ?_
  rw [Dev.need_of_perm hperm, Dev.slotHold_of_sound hsound]
  exact hd

theorem answers_kernelLoad_of_badHandle
    (hbad : h < 1 ∨ 4 < h ∨ ((s.dev.begun m ring seq).heldOut m x ⟨slot.ref, slot.owner, slot.err⟩).handleBound m h = true) :
    Answers (.kernelLoad ring seq slot h) s
      ((((s.dev.begun m ring seq).heldOut m x ⟨slot.ref, slot.owner, slot.err⟩).returnIn m x slot false).complete m x .badState) :=
  answers_kernelLoad_of_sound hstarts hperm hsound (if_pos (by simpa [or_assoc] using hbad))

theorem answers_kernelLoad_of_handle (hlow : 1 ≤ h) (hhigh : h ≤ 4)
    (hfree : ((s.dev.begun m ring seq).heldOut m x ⟨slot.ref, slot.owner, slot.err⟩).handleBound m h = false) {d : Dev}
    (hd : (let sc := (s.dev.begun m ring seq).scanned m x slot
      if !(KernelImage.mk slot.bytes).formatOk slot.len then (sc.returnIn m x slot false).complete m x .kernelFormat
      else if !(sc.mast m).boot.kernelOk ⟨slot.bytes⟩ then (sc.returnIn m x slot false).complete m x .kernelSig
      else sc.onKern m (fun k => { k with loading := k.loading ++ [(ring, seq, h, ⟨slot.bytes⟩, slot)] })) = d) :
    Answers (.kernelLoad ring seq slot h) s d := by
  refine answers_kernelLoad_of_sound hstarts hperm hsound ((if_neg ?_).trans ((Dev.slotCheck_of_sound hsound _ _).trans hd))
  simp only [hfree, Bool.or_false, Bool.or_eq_true, decide_eq_true_eq]
  omega

end

/-! ## The image stored -/

theorem answers_kernelLoadDone_of_loaded {h : Nat} {img : KernelImage} {slot : SlotIn} (hserves : Serves s.dev m)
    (hfind : s.dev.findDesc m ring seq = some x) (hdefer : x.defer = none)
    (hload : (s.dev.mast m).kern.loading = [(ring, seq, h, img, slot)]) (hfree : (s.dev.mast m).pen.protect = false)
    (hring : x.ring = ring) (hseq : x.ent.seq = seq) :
    Answers (.kernelLoadDone ring seq) s (((((s.dev.onKern m (fun k => { k with
        handles := tset none k.handles h (some img), loading := [] })).onMast m (fun y =>
      { y with mem := { y.mem with lostKern := y.mem.lostKern.filter (· != h) } })).mirrorKern m).returnIn m x slot
        false).complete m x .ok) := by
  refine answers_of_serves hserves rfl ?_
  simp only [hfind]
  rw [if_neg (by simp [hdefer, hload]), if_neg (by simp [hfree])]
  simp only [Dev.kernelStored, hload, List.find?_cons, hring, hseq, beq_self_eq_true, Bool.and_self]
  rw [Dev.onKern_congr]
  simp [hload]

/-! ## KERNEL_BIND and KERNEL_DROP -/

section
variable {t h : Nat} (hstarts : Starts s.dev ring seq 0x81 m x) (hfree : (s.dev.mast m).pen.protect = false) (hperm : x.perm 8 = true)
  (ht : t < 16) (hkept : ((s.dev.begun m ring seq).mast m).mem.lostKern.contains h = false)
include hstarts hfree hperm hkept

theorem answers_kernelBind_of_bad (hbad : ((s.dev.begun m ring seq).tile t).enabled = false ∨
      h ≠ 0 ∧ (s.dev.begun m ring seq).handle m h = none) :
    Answers (.kernelBind ring seq t h) s ((s.dev.begun m ring seq).complete m x .badState) := by
  refine answers_of_lasting hstarts hfree rfl ?_
  rw [Dev.kernelBind, Dev.need_of_perm hperm, if_neg (ne_true_of_eq_false hkept)]
  refine if_pos ?_
  rcases hbad with hoff | ⟨hh, hempty⟩
  · simp [hoff]
  · simp [hh, hempty]

include ht in
theorem answers_kernelBind_of_good (hon : ((s.dev.begun m ring seq).tile t).enabled = true)
    (hheld : h = 0 ∨ ((s.dev.begun m ring seq).handle m h).isSome = true) :
    Answers (.kernelBind ring seq t h) s (((s.dev.begun m ring seq).onKern m (fun k => { k with
      pend := k.pend ++ [(t, h, x.ring, x.ent.seq, x.acceptedAt)] })).mirrorKern m) := by
  refine answers_of_lasting hstarts hfree rfl ?_
  rw [Dev.kernelBind, Dev.need_of_perm hperm, if_neg (ne_true_of_eq_false hkept)]
  refine if_neg ?_
  rcases hheld with hh | hheld
  · simp [hon, hh, ht]
  · simp [hon, ht, Option.isNone_eq_false_iff.2 hheld]

end

section
variable {h : Nat} (hstarts : Starts s.dev ring seq 0x82 m x) (hfree : (s.dev.mast m).pen.protect = false) (hperm : x.perm 8 = true)
include hstarts hfree hperm

theorem answers_kernelDrop_of_bad (hbad : (s.dev.begun m ring seq).handle m h = none ∨ (s.dev.begun m ring seq).handleBound m h = true) :
    Answers (.kernelDrop ring seq h) s ((s.dev.begun m ring seq).complete m x .badState) := by
  refine answers_of_lasting hstarts hfree rfl ?_
  rw [Dev.kernelDrop, Dev.need_of_perm hperm]
  exact if_pos (by simpa using hbad)

theorem answers_kernelDrop_of_good (hheld : ((s.dev.begun m ring seq).handle m h).isSome = true)
    (hunbound : (s.dev.begun m ring seq).handleBound m h = false) :
    Answers (.kernelDrop ring seq h) s ((((s.dev.begun m ring seq).onKern m (fun k => { k with
      handles := tset none k.handles h none })).mirrorKern m).complete m x .ok) := by
  refine answers_of_lasting hstarts hfree rfl ?_
  rw [Dev.kernelDrop, Dev.need_of_perm hperm]
  exact if_neg (by simp [hunbound, Option.isNone_eq_false_iff.2 hheld])

end

end

/-! ## The bind's boundary -/

theorem answers_kernelBindApply_of_due {s : State} {m : MastId} {t h r q a : Nat} {rest : List (Nat × Nat × Nat × Nat × Nat)}
    (hserves : Serves s.dev m) (hpend : (s.dev.mast m).kern.pend = (t, h, r, q, a) :: rest) (hedge : s.dev.loopEdge t = true)
    (hdue : a + 1000 ≤ s.dev.beat) (hheld : h = 0 ∨ (s.dev.handle m h).isSome = true) :
    let d := ((s.dev.onKern m (fun k => { k with bound := tset 0 k.bound t h, pend := rest })).mirrorKern m).each
      ([0, 1, 2, 3].map (fun j => 4 * t + j)) (fun k d => if d.coreFenced m k then d else d.bindCore m k false)
    Answers (.kernelBindApply t) s (match d.findDesc m r q with
      | some x => d.complete m x .ok
      | none => d) := by
  intro d
  have hnonempty : (h != 0 && (s.dev.handle m h).isNone) = false := by
    rcases hheld with hh | hheld
    · simp [hh]
    · simp [Option.isNone_eq_false_iff.2 hheld]
  refine answers_of_serves hserves rfl ?_
  simp only [hpend, List.find?_cons, beq_self_eq_true]
  rw [if_pos (by simp [hedge, hdue])]
  simp only [hnonempty, Bool.false_or, Bool.false_eq_true, if_false]
  rw [Dev.onKern_congr (g := fun k => { k with bound := tset 0 k.bound t h, pend := rest }) (by simp [hpend])] <;> rfl

/-! ## A core after a bind -/

theorem tget_filter_of_not {α : Type} {dflt : α} {p : Nat → Bool} {a : Nat} (h : p a = false) (t : Tbl α) :
    tget dflt (t.filter (fun e => p e.1)) a = dflt := by
  induction t with
  | nil => rfl
  | cons e t ih =>
    obtain ⟨j, v⟩ := e
    cases hp : p j with
    | false => simpa [List.filter_cons, hp] using ih
    | true =>
      have hne : j ≠ a := fun heq => by simp [heq, h] at hp
      simpa [List.filter_cons, hp, tget, hne] using ih

/-- A run of values written from an address: each is read at its place, and nothing else changes. -/
theorem tget_foldl_tset_range {α : Type} [DecidableEq α] (z : α) (f : Nat → α) (base n : Nat) (t : Tbl α) (a : Nat) :
    tget z ((List.range n).foldl (fun t i => tset z t (base + i) (f i)) t) a =
      if base ≤ a ∧ a < base + n then f (a - base) else tget z t a := by
  induction n with
  | zero => rw [if_neg (by omega)]; rfl
  | succ n ih =>
    rw [List.range_succ, List.foldl_append, List.foldl_cons, List.foldl_nil]
    by_cases hlast : a = base + n
    · subst hlast
      rw [tget_tset_self, if_pos (by omega), Nat.add_sub_cancel_left]
    · rw [tget_tset_ne _ _ _ _ _ hlast, ih]
      exact if_congr (by omega) rfl rfl

theorem Core.mem_bind (c : Core) (g : KernelImage) (a : Nat) : tget 0 (c.bind g).mem a =
    if 0x2E000 ≤ a ∧ a < 0x2E000 + Nat.min g.initLen 0x8000 then g.init.getD (a - 0x2E000) 0
    else tget 0 (c.mem.filter (fun e => e.1 < 0x8000 || 0x2E000 ≤ e.1)) a :=
  tget_foldl_tset_range 0 (fun i => g.init.getD i 0) 0x2E000 _ _ a

theorem Core.mem_bind_state (c : Core) (g : KernelImage) {a : Nat} (hlow : 0x8000 ≤ a) (hhigh : a < 0x2E000) :
    tget 0 (c.bind g).mem a = 0 := by
  rw [Core.mem_bind, if_neg (by omega)]
  refine tget_filter_of_not (p := fun a => a < 0x8000 || 0x2E000 ≤ a) ?_ _
  simp only [Bool.or_eq_false_iff, decide_eq_false_iff_not]
  omega

theorem Core.mem_bind_init (c : Core) (g : KernelImage) {a : Nat} (hlow : 0x2E000 ≤ a)
    (hhigh : a < 0x2E000 + Nat.min g.initLen 0x8000) : tget 0 (c.bind g).mem a = g.init.getD (a - 0x2E000) 0 := by
  rw [Core.mem_bind, if_pos ⟨hlow, hhigh⟩]

/-- Settles O35, descriptor by descriptor, and the bound core. -/
theorem kernelDescriptorsComplete : Obligations.KernelDescriptorsComplete := by
  refine ⟨fun s ring seq m x => ⟨fun slot h hstarts hperm hsound => ⟨fun hbad => ?badHandle, fun hlow hhigh hfree =>
    ⟨fun hformat => ?badFormat, fun hformat hsig => ?badSig, fun hformat hsig => ?load⟩⟩,
    fun h img slot hserves hfind hdefer hload hfree hring hseq => ?stored,
    fun t h hstarts hfree hperm ht hkept => ⟨fun hbad => ?badBind, fun hon hheld => ?bind⟩,
    fun t h r q a rest hserves hpend hedge hdue hheld => ?applied,
    fun h hstarts hfree hperm => ⟨fun hbad => ?badDrop, fun hheld hunbound => ?drop⟩⟩,
    fun c g => ⟨rfl, rfl, rfl, rfl, rfl, rfl, rfl, rfl, rfl, rfl, rfl, rfl, rfl, rfl, rfl, fun a => c.mem_bind_state g,
      fun a => c.mem_bind_init g⟩⟩
  case badHandle => exact answers_kernelLoad_of_badHandle hstarts hperm hsound hbad
  case badFormat => exact answers_kernelLoad_of_handle hstarts hperm hsound hlow hhigh hfree (if_pos (by simp [hformat]))
  case badSig =>
    exact answers_kernelLoad_of_handle hstarts hperm hsound hlow hhigh hfree
      ((if_neg (by simp [hformat])).trans (if_pos (by simp [hsig])))
  case load =>
    exact answers_kernelLoad_of_handle hstarts hperm hsound hlow hhigh hfree
      ((if_neg (by simp [hformat])).trans (if_neg (by simp [hsig])))
  case stored => exact answers_kernelLoadDone_of_loaded hserves hfind hdefer hload hfree hring hseq
  case badBind => exact answers_kernelBind_of_bad hstarts hfree hperm hkept hbad
  case bind => exact answers_kernelBind_of_good hstarts hfree hperm ht hkept hon hheld
  case applied => exact answers_kernelBindApply_of_due hserves hpend hedge hdue hheld
  case badDrop => exact answers_kernelDrop_of_bad hstarts hfree hperm hbad
  case drop => exact answers_kernelDrop_of_good hstarts hfree hperm hheld hunbound

end Sys2Proof.Machine
end

section
/-! The comparators of R266 to R270, and what a write to the monitor settings leaves out. -/

namespace Sys2Proof.Machine

/-! ## The comparators -/

theorem inBand_lit_iff {lo hi : Nat} {s : Samp} (h : s.ovr = false) : inBand true lo hi s = true ↔ lo ≤ s.code := by
  simp [inBand, h]

theorem inBand_dark_iff {lo hi : Nat} {s : Samp} (h : s.ovr = false) : inBand false lo hi s = true ↔ s.code ≤ hi := by
  simp [inBand, h]

theorem inBand_of_ovr {lo hi : Nat} {s : Samp} (h : s.ovr = true) : inBand true lo hi s = true ∧ inBand false lo hi s = false := by
  simp [inBand, h]

theorem comparator_of_second {run : Nat} (h : 0 < run) : comparator true run true = (false, 0, false) := by
  have h : 1 ≤ run := h
  simp [comparator, h]

theorem overRange_iff (pga i : Nat) : overRange pga i = true ↔ 102 * fullScale pga < 100 * i := decide_eq_true_iff

/-- Settles O37: the comparator's transitions, its band, the range and the manual's corrections. -/
theorem comparatorsFollowR270 : Obligations.ComparatorsFollowR270 :=
  ⟨fun _ => ⟨rfl, rfl, rfl⟩, rfl, fun _ => comparator_of_second, fun _ _ _ => inBand_of_ovr,
    fun _ _ _ h => ⟨inBand_lit_iff h, inBand_dark_iff h⟩, overRange_iff, by decide +kernel, by decide +kernel⟩

/-! ## The monitor settings -/

/-- Both masts in READY with the gaff link up, the fore mast holding the pennant; LP_REJ of tile 0 set on both. -/
def rejectedOnBoth : State :=
  { pending := []
    dev := { devReset with
      fore := { mastReset with
        boot := { mastReset.boot with stage := .ready, running := true, usb := true, tunnel := true }
        regs := [(monReg 0, 0x400)]
        pen := { mastReset.pen with holder := true, gaff := true } }
      main := { mastReset with regs := [(monReg 0, 0x400)], pen := { mastReset.pen with gaff := true } } } }

/-- LP_REJ of tile 0 on the main mast after a step. -/
def standbyRejected (o : Host.Outcome State Fault Refusal) : Bool :=
  match o with
  | .next s => fld (s.dev.reg .main (monReg 0)) 10 1 == 1
  | _ => false

/-- Refutes O36: LP_REJ is w1c, and a write of 1 to it clears it on the standby as well where the gaff link is up (R42), which the
settings write of the statement leaves out. -/
theorem not_monitorCompletes : ¬ Obligations.MonitorCompletes := by
  rintro ⟨-, -, -, hwrite⟩
  obtain ⟨-, htaken, -⟩ := hwrite rejectedOnBoth 0 ⟨.fore, .whole, 0x400⟩ ((regInfo (monReg 0)).getD {}) (by decide) (by decide +kernel)
  have hstandby := congrArg standbyRejected (htaken (by decide) (.inl (by decide +kernel)))
  exact absurd hstandby (by decide +kernel)

end Sys2Proof.Machine
end

section
/-! Proofs for loop service: samples, the shipped law, heater codes, budgets and frames that fail (R15, R18, R29, R34 to R37, R198,
R206 to R209). -/

namespace Sys2Proof.Machine

/-! ## What a frame across a stay leaves alone -/

theorem Dev.view_carried {α : Type} {v : Mast → α} (heg : ∀ x e, v { x with eg := e } = v x)
    (hstays : ∀ x l, v { x with stays := l } = v x) (d : Dev) (m : MastId) (t : Nat) (up : Bool) (k : MastId) :
    v ((d.carried m t up).mast k) = v (d.mast k) := by
  unfold Dev.carried Dev.staySlot Dev.moved Dev.onStay
  rw [Dev.view_onMast (fun x => heg x _), Dev.view_pmc heg, Dev.view_onMast (fun x => hstays x _)]

theorem Dev.tile_carried (d : Dev) (m : MastId) (t : Nat) (up : Bool) (u : Nat) : (d.carried m t up).tile u = d.tile u := by
  simp [Dev.carried, Dev.onStay, Dev.staySlot, Dev.moved, Dev.tile]

theorem Dev.beat_carried (d : Dev) (m : MastId) (t : Nat) (up : Bool) : (d.carried m t up).beat = d.beat := by
  simp [Dev.carried, Dev.onStay, Dev.staySlot, Dev.moved]

/-- A change of a core is seen in its mast's cores alone. -/
theorem Dev.view_onCore {α : Type} {v : Mast → α} (hcores : ∀ x c, v { x with cores := c } = v x) (d : Dev) (m : MastId) (k : Nat)
    (f : Core → Core) (j : MastId) : v ((d.onCore m k f).mast j) = v (d.mast j) :=
  Dev.view_onMast (fun x => hcores x _) d m j

theorem Dev.tile_onCore (d : Dev) (m : MastId) (k : Nat) (f : Core → Core) (t : Nat) : (d.onCore m k f).tile t = d.tile t := by
  simp [Dev.onCore, Dev.setCore, Dev.tile]

/-- The codes of a core on their way: its posts gone, a stalled core going on. -/
def Dev.codesSent (d : Dev) (m : MastId) (k : Nat) (run : RunState) : Dev :=
  (d.carried m (k / 4) false).onCore m k (fun c => { c with posts := [], run := run })

theorem Dev.takes_codesSent (d : Dev) (m : MastId) (k t : Nat) (run : RunState) : (d.codesSent m k run).takes m t = d.takes m t := by
  have hepoch : ((d.codesSent m k run).mast m).pen.epoch = (d.mast m).pen.epoch :=
    (Dev.view_onCore (v := fun x => x.pen.epoch) (fun _ _ => rfl) _ m k _ m).trans
      (Dev.view_carried (v := fun x => x.pen.epoch) (fun _ _ => rfl) (fun _ _ => rfl) d m (k / 4) false m)
  simp only [Dev.takes, hepoch]
  rw [Dev.codesSent, Dev.tile_onCore, Dev.tile_carried]

theorem Dev.isFenced_codesSent (d : Dev) (m : MastId) (k : Nat) (run : RunState) (u : FUnit) :
    (d.codesSent m k run).isFenced m u = d.isFenced m u :=
  (Dev.view_onCore (v := fun x => x.flt.fences.any (fun f => f.unit == u)) (fun _ _ => rfl) _ m k _ m).trans
    (Dev.view_carried (v := fun x => x.flt.fences.any (fun f => f.unit == u)) (fun _ _ => rfl) (fun _ _ => rfl) d m (k / 4) false m)

theorem Dev.tile_codesSent (d : Dev) (m : MastId) (k : Nat) (run : RunState) (t : Nat) : (d.codesSent m k run).tile t = d.tile t :=
  (Dev.tile_onCore ..).trans (Dev.tile_carried ..)

theorem Dev.beat_codesSent (d : Dev) (m : MastId) (k : Nat) (run : RunState) : (d.codesSent m k run).beat = d.beat :=
  (Dev.beat_onCore ..).trans (Dev.beat_carried ..)

/-- The cycles a computation of the law takes: free within R198's bounds. -/
def Dev.lawCycles (d : Dev) (k sl : Nat) : Nat := Config.freeNat d.free % (if (d.cell (cellOf k sl)).lp.mode == 2 then 7 else 35)

theorem Dev.lawCycles_le (d : Dev) (k sl : Nat) : d.lawCycles k sl ≤ 34 := by
  unfold Dev.lawCycles
  split <;> omega

theorem Dev.lawCycles_le_of_open {d : Dev} {k sl : Nat} (hmode : (d.cell (cellOf k sl)).lp.mode = 2) : d.lawCycles k sl ≤ 6 := by
  simp only [Dev.lawCycles, hmode, beq_self_eq_true, if_true]
  omega

section
variable {s : State} {m : MastId} (hserves : Serves s.dev m)
include hserves

/-! ## Samples, the law, codes -/

theorem answers_sampleFrame_of_free {t l : Nat} (hclosed : (s.dev.tile t).closed = true) (hl : l < laneCount)
    (htakes : s.dev.takes m t = true) (hfree : CarryFree s.dev m t true)
    (hfresh : ((List.range 16).map (fun i => l / 16 * 16 + i)).filter (fun l => ((s.dev.tile t).cell l).mon.fresh) ≠ []) :
    let lanes := ((List.range 16).map (fun i => l / 16 * 16 + i)).filter (fun l => ((s.dev.tile t).cell l).mon.fresh)
    Answers (.sampleFrame t l) s ((s.dev.carried m t true).each lanes (fun l d =>
      let k := 4 * t + l / 384
      if d.coreFenced m k || (d.mast m).pen.due || ((s.dev.tile t).loopDue && d.liveRun m k == .shipped) then d
      else d.putEntry m k (l % 384))) := by
  refine answers_of_serves hserves rfl ?_
  dsimp only
  rw [if_neg (by simp [hclosed, htakes, hl]), if_neg (by simpa only [List.isEmpty_iff] using hfresh), Dev.carry_of_free hfree]

section
variable {k sl : Nat} (hrun : (s.dev.core m k).run = .shipped) (hissue : s.dev.canIssue m k = true)
  (hentry : (s.dev.core m k).sqProd ≠ (s.dev.core m k).sqCons) (hfence : s.dev.coreFenced m k = false)
  (hslot : (s.dev.core m k).entryH 0 % 512 = sl)
include hrun hissue hentry hfence hslot

theorem answers_loopLaw_of_entry {d : Dev}
    (hd : (({ s.dev with free := s.dev.free + 1 } : Dev).when ((s.dev.cell (cellOf k sl)).lp.mode != 2) (fun d =>
        d.onCell (cellOf k sl) (fun z => { z with lp := (s.dev.lawOn m k sl).1 }))).onCore m k (fun c =>
          let c := { c with sqCons := c.sqCons + 1, spentLoop := c.spentLoop + s.dev.lawCycles k sl }
          if (s.dev.cell (cellOf k sl)).lp.mode == 2 then c
          else c.post ((s.dev.lawOn m k sl).2 + 65536 * sl + 2 ^ 28 * ((s.dev.core m k).entryH 12 % 16))) = d) :
    Answers (.loopLaw k sl) s d := by
  refine answers_of_serves hserves rfl ((if_neg (by simp [hrun, hissue, hentry, hfence, hslot])).trans ?_)
  cases hopen : (s.dev.cell (cellOf k sl)).lp.mode == 2 with
  | true =>
    simp only [Dev.lawCycles, Dev.when, bne, hopen] at hd
    simp only [hopen]
    exact hd
  | false =>
    simp only [Dev.lawCycles, Dev.when, bne, hopen] at hd
    simp only [hopen]
    exact hd

theorem answers_loopLaw_of_closed (hmode : (s.dev.cell (cellOf k sl)).lp.mode ≠ 2) : Answers (.loopLaw k sl) s
    ((({ s.dev with free := s.dev.free + 1 } : Dev).onCell (cellOf k sl) (fun z => { z with lp := (s.dev.lawOn m k sl).1 })).onCore m k
      (fun c => ({ c with sqCons := c.sqCons + 1, spentLoop := c.spentLoop + s.dev.lawCycles k sl } : Core).post
        ((s.dev.lawOn m k sl).2 + 65536 * sl + 2 ^ 28 * (s.dev.core m k |>.entryH 12) % 2 ^ 32))) := by
  refine answers_loopLaw_of_entry hserves hrun hissue hentry hfence hslot ?_
  have htag : 2 ^ 28 * ((s.dev.core m k).entryH 12 % 16) = 2 ^ 28 * (s.dev.core m k).entryH 12 % 2 ^ 32 := by omega
  simp only [Dev.when, bne, beq_eq_false_iff_ne.2 hmode, htag]
  rfl

theorem answers_loopLaw_of_open (hmode : (s.dev.cell (cellOf k sl)).lp.mode = 2) : Answers (.loopLaw k sl) s
    (({ s.dev with free := s.dev.free + 1 } : Dev).onCore m k (fun c =>
      { c with sqCons := c.sqCons + 1, spentLoop := c.spentLoop + s.dev.lawCycles k sl })) := by
  refine answers_loopLaw_of_entry hserves hrun hissue hentry hfence hslot ?_
  simp only [Dev.when, hmode]
  rfl

end

theorem answers_heaterCodeFrame_of_free {k : Nat} (hk : k < 64) (hposts : (s.dev.core m k).posts ≠ [])
    (htakes : s.dev.takes m (k / 4) = true) (hlease : (s.dev.tile (k / 4)).leaseRuns s.dev.beat = true)
    (hfence : s.dev.isFenced m ⟨.tile, k / 4⟩ = false) (hfree : CarryFree s.dev m (k / 4) false) :
    let d := s.dev.carried m (k / 4) false
    let run := if (s.dev.core m k).run == .stalled then d.liveRun m k else (s.dev.core m k).run
    Answers (.heaterCodeFrame k) s ((s.dev.codesSent m k run).each (s.dev.core m k).posts (fun p d => d.takePost m k p)) := by
  intro d run
  refine answers_of_serves hserves rfl ?_
  dsimp only
  rw [if_neg (by simpa [List.isEmpty_iff, hk] using hposts), Dev.carry_of_free hfree]
  refine if_neg ?_
  change ¬ (!(s.dev.codesSent m k run).takes m (k / 4) ||
    !((s.dev.codesSent m k run).tile (k / 4)).leaseRuns (s.dev.codesSent m k run).beat ||
    (s.dev.codesSent m k run).isFenced m ⟨.tile, k / 4⟩) = true
  simp [Dev.takes_codesSent, Dev.isFenced_codesSent, Dev.tile_codesSent, Dev.beat_codesSent, htakes, hlease, hfence]

theorem answers_allowanceSpent_of_other {res cls u : Nat} (hres : res ≠ 0) : Answers (.allowanceSpent res cls u) s
    (if s.dev.waits m res cls u then s.dev
      else (s.dev.pmc m 0x032 [8 * res + cls] 1).onBud m (fun b => { b with waits := b.waits ++ [(res, cls, u)] })) :=
  answers_of_serves hserves rfl (if_neg (by simp [hres]))

/-! ## Frames that fail -/

section
variable {t ft : Nat} (ht : t < 16) (hlow : 1 ≤ ft) (hhigh : ft ≤ 5)
include ht hlow hhigh

theorem answers_stayFrameCrcFail_of_first (hfirst : (s.dev.stay m t).down.again.contains ft = false) :
    Answers (.stayFrameCrcFail t false ft) s (((s.dev.pmc m 0x042 [t] 1).staySlot m t false).onStay m t (fun x =>
      { x with down := { x.down.cmdUse s.dev.beat with again := (s.dev.stay m t).down.again ++ [ft] } })) := by
  refine answers_of_serves hserves rfl ((if_neg (by simp [hlow, hhigh, ht])).trans ((if_neg (by simp)).trans ?_))
  simp only [hhigh, if_true, hfirst, Bool.false_eq_true, if_false]

theorem answers_stayFrameCrcFail_of_second (hsecond : (s.dev.stay m t).down.again.contains ft = true) :
    Answers (.stayFrameCrcFail t true ft) s
      (((s.dev.onStay m t (fun x => { x with down := { x.down with again := x.down.again.erase ft } })).frameLost m t ft).report m t 2 t
        (BitVec.ofNat 32 ft) (some ⟨.tile, t⟩)) :=
  answers_of_serves hserves rfl ((if_neg (by simp only [hsecond]; simp [hlow, hhigh, ht])).trans (if_pos rfl))

end
end

/-! ## Shares -/

section
variable {s : State} {i : Nat} {w : RegWr} {info : RegInfo} (hi : i < 3) (hw : Writable s.dev (0x4400 + 8 * i) w info)
include hi hw

theorem answers_fabBudWrite {d : Dev}
    (hd : (if (shares (s.dev.written (0x4400 + 8 * i) w info)).any (fun x => 100 < x) ||
        100 < (shares (s.dev.written (0x4400 + 8 * i) w info)).sum then s.dev.flag w.mast 0x4418 i
      else s.dev.setReg w.mast (0x4400 + 8 * i)
        (plainWrite info (s.dev.reg w.mast (0x4400 + 8 * i)) (s.dev.written (0x4400 + 8 * i) w info))) = d) :
    Answers (.fabBudWrite (0x4400 + 8 * i) w) s d := by
  have harr : inArr (0x4400 + 8 * i) 0x4400 8 3 = true := by
    simp only [inArr, decide_eq_true_eq]
    omega
  refine answers_of_run rfl ((if_neg (by simp [harr])).trans ((Dev.barWrite_of_writable hw _).trans ?_))
  rw [← hd]
  have hindex : (0x4400 + 8 * i - 0x4400) / 8 = i := by omega
  simp only [hindex]

theorem answers_fabBudWrite_of_fit (hshare : ∀ x ∈ shares (s.dev.written (0x4400 + 8 * i) w info), x ≤ 100)
    (hsum : (shares (s.dev.written (0x4400 + 8 * i) w info)).sum ≤ 100) : Answers (.fabBudWrite (0x4400 + 8 * i) w) s
      (s.dev.setReg w.mast (0x4400 + 8 * i)
        (plainWrite info (s.dev.reg w.mast (0x4400 + 8 * i)) (s.dev.written (0x4400 + 8 * i) w info))) :=
  answers_fabBudWrite hi hw (if_neg (by simpa [hsum] using hshare))

theorem answers_fabBudWrite_of_excess (h : (∃ x ∈ shares (s.dev.written (0x4400 + 8 * i) w info), 100 < x) ∨
    100 < (shares (s.dev.written (0x4400 + 8 * i) w info)).sum) :
    Answers (.fabBudWrite (0x4400 + 8 * i) w) s (s.dev.flag w.mast 0x4418 i) :=
  answers_fabBudWrite hi hw (if_pos (by simpa using h))

end

/-- Settles O38, event by event. -/
theorem loopEventsComplete : Obligations.LoopEventsComplete := by
  refine ⟨fun s m t l hserves hclosed hl htakes hfresh hfree => ?sample,
    fun s m k sl hserves hrun hissue hentry hfence hslot => ⟨s.dev.lawCycles k sl, s.dev.lawCycles_le k sl, fun hmode => ?closed,
      fun hmode => ⟨Dev.lawCycles_le_of_open hmode, ?opened⟩⟩,
    fun s m k hserves hk hposts htakes hlease hfence hfree => ?codes, fun s m hserves => ?deadline,
    fun s i w info hi hw => ⟨fun hshare hsum => ?fit, fun hexcess => ?excess⟩,
    fun s m res cls u hserves hres => ⟨fun hwait => ?waits, fun hwait => ?spent⟩,
    fun s m t ft hserves ht hlow hhigh => ⟨fun hfirst => ?first, fun hsecond => ?second⟩⟩
  case sample => exact answers_sampleFrame_of_free hserves hclosed hl htakes hfree hfresh
  case closed => exact answers_loopLaw_of_closed hserves hrun hissue hentry hfence hslot hmode
  case opened => exact answers_loopLaw_of_open hserves hrun hissue hentry hfence hslot hmode
  case codes => exact answers_heaterCodeFrame_of_free hserves hk hposts htakes hlease hfence hfree
  case deadline => exact answers_of_serves hserves rfl rfl
  case fit => exact answers_fabBudWrite_of_fit hi hw hshare hsum
  case excess => exact answers_fabBudWrite_of_excess hi hw hexcess
  case waits =>
    have h := answers_allowanceSpent_of_other hserves (cls := cls) (u := u) hres
    rw [if_pos hwait] at h
    exact h
  case spent =>
    have h := answers_allowanceSpent_of_other hserves (cls := cls) (u := u) hres
    rw [if_neg (ne_true_of_eq_false hwait)] at h
    exact h
  case first => exact answers_stayFrameCrcFail_of_first hserves ht hlow hhigh hfirst
  case second => exact answers_stayFrameCrcFail_of_second hserves ht hlow hhigh hsecond

end Sys2Proof.Machine
end

section
/-! What the completion of a descriptor and the frames of the command lane leave alone: whatever of a mast is not its registers,
its egress, its host interface and its journal, or its egress and its stays. -/

namespace Sys2Proof.Machine

section
variable {α : Type} {v : Mast → α} (hregs : ∀ x r, v { x with regs := r } = v x) (heg : ∀ x e, v { x with eg := e } = v x)
  (hhif : ∀ x h, v { x with hif := h } = v x) (hpen : ∀ x p, v { x with pen := p } = v x)
  (hstays : ∀ x l, v { x with stays := l } = v x)

theorem Dev.view_emit (d : Dev) (o : Out) (k : MastId) : v ((d.emit o).mast k) = v (d.mast k) := by cases k <;> rfl

include heg in
theorem Dev.view_moved (d : Dev) (m : MastId) (e out inn : Nat) (k : MastId) : v ((d.moved m e out inn).mast k) = v (d.mast k) :=
  Dev.view_onMast (fun x => heg x _) d m k

include heg in
theorem Dev.view_hostOut (d : Dev) (m : MastId) (n : Nat) (k : MastId) : v ((d.hostOut m n).mast k) = v (d.mast k) :=
  (Dev.view_moved heg ..).trans (Dev.view_pmc heg ..)

/-! ## Completion -/

include hhif in
theorem Dev.view_onHif (d : Dev) (m : MastId) (f : Hif → Hif) (k : MastId) : v ((d.onHif m f).mast k) = v (d.mast k) :=
  Dev.view_onMast (fun x => hhif x _) d m k

include hhif in
theorem Dev.view_onRing (d : Dev) (m : MastId) (i : Nat) (f : Ring → Ring) (k : MastId) :
    v ((d.onRing m i f).mast k) = v (d.mast k) := by
  unfold Dev.onRing
  split
  · rfl
  · exact Dev.view_onHif hhif ..

include hhif in
theorem Dev.view_onDesc (d : Dev) (m : MastId) (ring seq : Nat) (f : Desc → Desc) (k : MastId) :
    v ((d.onDesc m ring seq f).mast k) = v (d.mast k) := Dev.view_onHif hhif ..

include heg hhif in
theorem Dev.view_giveSlot (d : Dev) (m : MastId) (x : Desc) (ref kind len ep : Nat) (crcBad trunc inc : Bool) (p : Payload)
    (k : MastId) : v ((d.giveSlot m x ref kind len ep crcBad trunc inc p).mast k) = v (d.mast k) :=
  (Dev.view_onDesc hhif ..).trans ((Dev.view_onHif hhif ..).trans ((Dev.view_hostOut heg ..).trans (d.view_emit ..)))

include heg hhif in
theorem Dev.view_returnSlots (d : Dev) (m : MastId) (x : Desc) (k : MastId) : v ((d.returnSlots m x).mast k) = v (d.mast k) := by
  unfold Dev.returnSlots
  repeat' split
  · rfl
  · rfl
  · exact Dev.view_each (fun _ e => e.view_giveSlot heg hhif ..) _ _

include hpen in
theorem Dev.view_pushJournal (d : Dev) (m : MastId) (j : JEv) (k : MastId) : v ((d.pushJournal m j).mast k) = v (d.mast k) :=
  Dev.view_onMast (fun x => hpen x _) d m k

include hregs hhif in
theorem Dev.view_signalRing (d : Dev) (m : MastId) (i : Nat) (k : MastId) : v ((d.signalRing m i).mast k) = v (d.mast k) := by
  unfold Dev.signalRing
  split
  · rfl
  · exact (Dev.view_onRing hhif ..).trans (Dev.view_msix hregs ..)

include hregs heg hhif hpen in
theorem Dev.view_putRecord (d : Dev) (m : MastId) (i : Nat) (g : Ring) (r : Record) (irq : Bool) (k : MastId) :
    v ((d.putRecord m i g r irq).mast k) = v (d.mast k) := by
  unfold Dev.putRecord
  refine Dev.view_if ((Dev.view_signalRing hregs hhif ..).trans ?_) ?_ <;>
  exact (Dev.view_hostOut heg ..).trans ((Dev.view_pmc heg ..).trans ((Dev.view_onRing hhif ..).trans ((Dev.view_onHif hhif ..).trans
    ((Dev.view_pushJournal hpen ..).trans (Dev.view_emit ..)))))

include hregs heg hhif hpen in
theorem Dev.view_deliver (d : Dev) (m : MastId) (i ctx : Nat) (r : Record) (irq back : Bool) (k : MastId) :
    v ((d.deliver m i ctx r irq back).mast k) = v (d.mast k) := by
  have hback : ∀ b, v ((d.toBacklog m b).mast k) = v (d.mast k) := fun b =>
    (Dev.view_onHif hhif ..).trans (Dev.view_pushJournal hpen ..)
  unfold Dev.deliver
  dsimp only
  split
  · exact Dev.view_if (Dev.view_putRecord hregs heg hhif hpen ..) (hback _)
  · exact hback _

include hhif in
theorem Dev.view_retire (d : Dev) (m : MastId) (x : Desc) (sent : Bool) (k : MastId) :
    v ((d.retire m x sent).mast k) = v (d.mast k) := by
  have hreserved : v ((if x.lost then d else d.onRing m x.cpl (fun q => { q with reserved := q.reserved - 1 })).mast k) = v (d.mast k) :=
    Dev.view_if rfl (Dev.view_onRing hhif ..)
  unfold Dev.retire
  exact Dev.view_if ((Dev.view_onDesc hhif ..).trans hreserved) ((Dev.view_onHif hhif ..).trans hreserved)

include hregs heg hhif hpen in
theorem Dev.view_completeAt (d : Dev) (m : MastId) (x : Desc) (st : Status) (ep : Nat) (tm : Option Stamp) (always : Bool) (k : MastId) :
    v ((d.completeAt m x st ep tm always).mast k) = v (d.mast k) := by
  unfold Dev.completeAt
  exact Dev.view_if ((Dev.view_retire hhif ..).trans (Dev.view_returnSlots heg hhif ..))
    ((Dev.view_retire hhif ..).trans ((Dev.view_deliver hregs heg hhif hpen ..).trans (Dev.view_returnSlots heg hhif ..)))

/-! ## The command lane -/

include hstays in
theorem Dev.view_onStay (d : Dev) (m : MastId) (t : Nat) (f : Stay → Stay) (k : MastId) : v ((d.onStay m t f).mast k) = v (d.mast k) :=
  Dev.view_onMast (fun x => hstays x _) d m k

include heg in
theorem Dev.view_staySlot (d : Dev) (m : MastId) (t : Nat) (up : Bool) (k : MastId) : v ((d.staySlot m t up).mast k) = v (d.mast k) :=
  (Dev.view_moved heg ..).trans (Dev.view_pmc heg ..)

include heg hstays in
theorem Dev.view_leave (d : Dev) (m : MastId) (t : Nat) (f : LaneFrame) (k : MastId) : v ((d.leave m t f).mast k) = v (d.mast k) := by
  unfold Dev.leave
  have hsent : ∀ o g, v ((((d.onStay m t g).emit o).staySlot m t false).mast k) = v (d.mast k) := fun o g =>
    (Dev.view_staySlot heg ..).trans ((Dev.view_emit ..).trans (Dev.view_onStay hstays ..))
  exact Dev.view_if (hsent _ _) ((congrArg v (Dev.mast_onTile ..)).trans (hsent _ _))

include heg hstays in
theorem Dev.view_pump (m : MastId) (t n : Nat) (k : MastId) (d : Dev) : v ((Dev.pump m t n d).mast k) = v (d.mast k) := by
  induction n generalizing d with
  | zero => rfl
  | succ n ih =>
    rw [Dev.pump]
    split
    · rfl
    · exact Dev.view_if ((ih _).trans (Dev.view_leave heg hstays ..)) rfl

include heg hstays in
theorem Dev.view_command (d : Dev) (m : MastId) (t cls : Nat) (words : List Nat) (writes : List (Nat × Tgt × Bool)) (k : MastId) :
    v ((d.command m t cls words writes).mast k) = v (d.mast k) :=
  (Dev.view_pump heg hstays ..).trans (Dev.view_onStay hstays ..)

include heg hstays in
theorem Dev.view_writes (d : Dev) (m : MastId) (ws : List (Nat × Tgt × Bool)) (k : MastId) :
    v ((d.writes m ws).mast k) = v (d.mast k) :=
  Dev.view_each (fun _ e => Dev.view_each (fun _ e => e.view_command heg hstays ..) _ e) _ _

end
end Sys2Proof.Machine
end

section
/-! Proofs for calibration passes (R280, R282, R283, R285, R287, R288, R290, R294). -/

namespace Sys2Proof.Machine

/-! ## Starting -/

theorem answers_calFull_of_brings {s : State} {m : MastId} (h : Brings s.dev m [.powered]) : Answers (.calFull m) s
    ((s.dev.busyWith m .calFull).beginPass m ⟨.full, maskOf (s.dev.busyWith m .calFull).enabledTiles, false, true, true, false⟩) :=
  answers_of_run rfl (Dev.bring_of_brings h _ _)

/-- Nothing of a calibration runs or waits. -/
def CalSt.idle (c : CalSt) : Prop := c.pass = none ∧ c.queue = [] ∧ c.trig = 0

section
variable {s : State} {ring seq tiles : Nat} {dO sh sp nt : Bool} {m : MastId} {x : Desc} (hstarts : Starts s.dev ring seq 0x40 m x)
  (hperm : x.perm 7 = true)
include hstarts hperm

theorem answers_calPass_of_bad (hbad : ¬ ∀ t ∈ bitsOf tiles 16, ((s.dev.begun m ring seq).tile t).enabled = true) :
    Answers (.calPass ring seq tiles dO sh sp nt) s ((s.dev.begun m ring seq).complete m x .badState) := by
  refine answers_of_starts hstarts rfl ?_
  rw [Dev.need_of_perm hperm]
  exact if_pos (by simpa using hbad)

variable (hgood : ∀ t ∈ bitsOf tiles 16, ((s.dev.begun m ring seq).tile t).enabled = true)
include hgood

theorem answers_calPass_of_idle (hidle : ((s.dev.begun m ring seq).cal m).idle) :
    Answers (.calPass ring seq tiles dO sh sp nt) s ((s.dev.begun m ring seq).beginPass m ⟨.desc ring seq, tiles, dO, sh, sp, nt⟩) := by
  obtain ⟨hpass, hqueue, htrig⟩ := hidle
  refine answers_of_starts hstarts rfl ?_
  rw [Dev.need_of_perm hperm]
  exact (if_neg (by simpa using hgood)).trans (if_pos (by simp [hpass, hqueue, htrig]))

theorem answers_calPass_of_busy (hbusy : ¬ ((s.dev.begun m ring seq).cal m).idle) {d : Dev}
    (hd : (if 8 ≤ ((s.dev.begun m ring seq).cal m).queue.length then (s.dev.begun m ring seq).complete m x .calBusy
      else (s.dev.begun m ring seq).onCal m (fun c =>
        { c with queue := c.queue ++ [⟨.desc ring seq, tiles, dO, sh, sp, nt⟩] })) = d) :
    Answers (.calPass ring seq tiles dO sh sp nt) s d := by
  refine answers_of_starts hstarts rfl ?_
  rw [Dev.need_of_perm hperm]
  refine (if_neg (by simpa using hgood)).trans ((if_neg ?_).trans hd)
  simpa [CalSt.idle, and_assoc] using hbusy

end

theorem answers_passStart_of_trig {s : State} {m : MastId} (hserves : Serves s.dev m) (hstage : (s.dev.mast m).boot.stage = .ready)
    (hpass : (s.dev.cal m).pass = none) (htrig : (s.dev.cal m).trig ≠ 0) :
    Answers .passStart s ((s.dev.onCal m (fun c => { c with trig := 0 })).beginPass m
      ⟨.temp, (s.dev.cal m).trig, false, s.dev.effF m 0x4700 1 1 == 1, false, false⟩) :=
  answers_of_serves hserves rfl ((if_neg (by simp [hpass, hstage])).trans (if_pos (by simpa using htrig)))

theorem answers_passStart_of_queue {s : State} {m : MastId} {r : PassReq} {q : List PassReq} (hserves : Serves s.dev m)
    (hstage : (s.dev.mast m).boot.stage = .ready) (hpass : (s.dev.cal m).pass = none) (htrig : (s.dev.cal m).trig = 0)
    (hqueue : (s.dev.cal m).queue = r :: q) :
    Answers .passStart s ((s.dev.onCal m (fun c => { c with queue := q })).beginPass m r) := by
  refine answers_of_serves hserves rfl ((if_neg (by simp [hpass, hstage])).trans ((if_neg (by simp [htrig])).trans ?_))
  simp only [hqueue]

/-! ## The plan -/

/-- A covered cell as a plan leaves it. -/
def Dev.plannedCell (d : Dev) (m : MastId) (plan : List PlanLine) (c : PassCell) : PassCell :=
  match plan.find? (fun (l : PlanLine) => l.cell == c.cell) with
  | some l =>
    if c.method != .sweep then c
    else if d.dark m ((planMates plan l).map PlanLine.cell) c.cell then { c with round := l.round, outcome := some 1 }
    else { c with round := l.round, lend := l.lend }
  | none => c

section
variable {d : Dev} {m : MastId} {plan : List PlanLine} {c : PassCell}

theorem Dev.plannedCell_of_other (h : c.method ≠ .sweep) : d.plannedCell m plan c = c := by
  unfold Dev.plannedCell
  split
  · exact if_pos (by simpa using h)
  · rfl

variable {l : PlanLine} (hsweep : c.method = .sweep) (hline : plan.find? (fun (l : PlanLine) => l.cell == c.cell) = some l)
include hsweep hline

theorem Dev.plannedCell_of_dark (hdark : d.dark m ((planMates plan l).map PlanLine.cell) c.cell = true) :
    d.plannedCell m plan c = { c with round := l.round, outcome := some 1 } := by
  simp [Dev.plannedCell, hline, hsweep, hdark]

theorem Dev.plannedCell_of_lit (hdark : d.dark m ((planMates plan l).map PlanLine.cell) c.cell = false) :
    d.plannedCell m plan c = { c with round := l.round, lend := l.lend } := by
  simp [Dev.plannedCell, hline, hsweep, hdark]

end

/-- The pass with phase A of a tile's one swept cell begun, 18 loop periods long. -/
def Pass.sweptRound (p : Pass) (t : Nat) (c : PassCell) (beat T : Nat) : Pass :=
  { p with
    cells := [c.fresh], round := tset 0 p.round t c.round, begun := tset 0 p.begun t (tget 0 p.begun t + 1)
    phase := tset 0 p.phase t 1, roundBeat := tset 0 p.roundBeat t beat, endBeat := tset 0 p.endBeat t (beat + 18 * T) }

/-- The device with phase A of a tile's one swept cell begun and its lenders' drives on their way. -/
def Dev.sweptLit (d : Dev) (m : MastId) (p : Pass) (t : Nat) (c : PassCell) : Dev :=
  (d.onPass m (fun _ => p.sweptRound t c d.beat (d.T t))).writes m (c.lend.map (fun (g : CellSet) => (g.cell, g.tgt, true)))

/-- The code at which a swept cell is lit: its park code before it is calibrated, else its BAR code. -/
def sweepStart (z : Cell) : Nat := if z.cal.method == 0 then z.drv.P else z.cal.bar

theorem Dev.cal_onCal (d : Dev) (m : MastId) (f : CalSt → CalSt) : (d.onCal m f).cal m = f (d.cal m) := by
  simp [Dev.cal, Dev.onCal]

theorem Dev.pass_onPass (d : Dev) (m : MastId) (f : Pass → Pass) : ((d.onPass m f).cal m).pass = (d.cal m).pass.map f := by
  rw [Dev.onPass, Dev.cal_onCal]

theorem Dev.cal_completeAt (d : Dev) (m : MastId) (x : Desc) (st : Status) (ep : Nat) (tm : Option Stamp) (always : Bool) (k : MastId) :
    (d.completeAt m x st ep tm always).cal k = d.cal k :=
  Dev.view_completeAt (v := Mast.cal) (fun _ _ => rfl) (fun _ _ => rfl) (fun _ _ => rfl) (fun _ _ => rfl) ..

theorem Dev.cal_tel (d : Dev) (m : MastId) (sel : Nat) (r : TelRec) (k : MastId) : (d.tel m sel r).cal k = d.cal k :=
  Dev.view_tel (v := Mast.cal) (fun _ _ => rfl) (fun _ _ => rfl) ..

theorem Dev.cal_writes (d : Dev) (m : MastId) (ws : List (Nat × Tgt × Bool)) (k : MastId) : (d.writes m ws).cal k = d.cal k :=
  Dev.view_writes (v := Mast.cal) (fun _ _ => rfl) (fun _ _ => rfl) ..

theorem Dev.onMast_eq_self {d : Dev} {m : MastId} {f : Mast → Mast} (h : f (d.mast m) = d.mast m) : d.onMast m f = d := by
  cases m <;> simp only [Dev.onMast, Dev.setMast] <;> rw [h] <;> rfl

theorem Dev.onPass_eq_self {d : Dev} {m : MastId} {f : Pass → Pass} {p : Pass} (hpass : (d.cal m).pass = some p) (h : f p = p) :
    d.onPass m f = d := by
  unfold Dev.onPass Dev.onCal
  refine Dev.onMast_eq_self ?_
  have hpass : (d.mast m).cal.pass = some p := hpass
  simp only [hpass, Option.map_some, h]
  rw [← hpass]

/-- What one cell has come to where the DITHER cells that are done end. -/
def Dev.ditherStep (d : Dev) (m : MastId) (which : PassCell → Bool) (c : PassCell) : PassCell :=
  match c.since with
  | some b =>
    let T := d.T (c.cell / laneCount)
    if which c && c.method == .dither && c.outcome.isNone then d.ditherEnd m c (b + 17 * T ≤ d.beat) (b + 68 * T ≤ d.beat) else c
  | none => c

theorem Dev.ditherStep_of_sweep (d : Dev) (m : MastId) (which : PassCell → Bool) {c : PassCell} (h : c.method = .sweep) :
    d.ditherStep m which c = c := by
  unfold Dev.ditherStep
  split
  · exact if_neg (by simp [h])
  · rfl

/-- The bias that phase A of a lit cell gives. -/
def Dev.phaseBias (d : Dev) (m : MastId) (c : PassCell) : Nat := biasOf (d.cell c.cell).htr.inForce (d.epsOf m c.cell c.win)

/-- A lit cell at the end of phase A. -/
def Dev.phaseDone (d : Dev) (m : MastId) (c : PassCell) : PassCell :=
  { c.fresh with raw0 := c.raw0, raw1 := c.raw1, bias := some (d.phaseBias m c) }

theorem Dev.phaseEnd_of_lit {d : Dev} {m : MastId} {c : PassCell} (hovr : c.ovr = false) (hlit : c.lit = true) (free : Nat) :
    d.phaseEnd m 1 free c = d.phaseDone m c := by
  simp [Dev.phaseEnd, hovr, hlit, Dev.phaseDone, Dev.phaseBias]

section
variable {s : State} {m : MastId} (hserves : Serves s.dev m) {p : Pass} (hpass : (s.dev.cal m).pass = some p)
include hserves hpass

theorem answers_passPlanDone_of_ok {plan : List PlanLine} (hplanned : p.planned = false)
    (hwait : ∀ c, c < 4 → s.dev.waits m 0 2 c = false) (hok : s.dev.planOk m (s.dev.covered m p.req) plan = true) :
    let cells := (s.dev.covered m p.req).map (s.dev.plannedCell m plan)
    Answers (.passPlanDone plan) s (s.dev.onCal m (fun c => { c with
      rounds := cells.foldl (fun n c => Nat.max n c.round) 0
      pass := some { p with planned := true, cells := cells, lastEnd := s.dev.beat } })) := by
  refine answers_of_serves hserves rfl ?_
  simp only [hpass]
  refine (if_neg ?_).trans rfl
  have hnone : (List.range 4).any (fun c => s.dev.waits m 0 2 c && (bitsOf p.req.tiles 16).any (fun t => t / 4 == c)) = false := by
    rw [List.any_eq_false]
    intro c hc
    simp [hwait c (List.mem_range.1 hc)]
  simp [hplanned, hnone, hok]

/-! ## Rounds -/

section
variable {t : Nat} {again : List PlanLine} (hplanned : p.planned = true) (hedge : s.dev.watchEdge = true) (hpark : s.dev.pins.parkSeen = false)
  (hphase : tget 0 p.phase t = 0) (htile : bit p.req.tiles t = true) (hwait : s.dev.waits m 0 2 (t / 4) = false)
include hplanned hedge hpark hphase htile hwait

theorem answers_roundStart_of_dither (hsweep : ∀ c ∈ p.cells, c.method ≠ .sweep) :
    Answers (.roundStart t again) s (s.dev.onPass m (fun _ => p.openDither t s.dev.beat)) := by
  have hmine : (p.openDither t s.dev.beat).cells.filter (fun c => c.cell / laneCount == t && c.method == .sweep && c.outcome.isNone) =
      [] := by
    rw [List.filter_eq_nil_iff]
    intro c hc
    obtain ⟨c', hc', rfl⟩ := List.mem_map.1 hc
    have hmethod := hsweep c' hc'
    dsimp only
    split <;> simp [PassCell.fresh, hmethod]
  refine answers_of_serves hserves rfl ?_
  simp only [hpass]
  rw [if_neg (by simp [hplanned, hedge, hpark, hphase, htile, hwait])]
  simp only [hmine]
  rfl

theorem answers_roundStart_of_sweep {c : PassCell} (hbegun : tget 0 p.begun t < 2) (hcells : p.cells = [c])
    (hcell : c.cell / laneCount = t) (hsweep : c.method = .sweep) (houtcome : c.outcome = none) (hnew : c.interrupted = 0)
    (hlive : (s.dev.cell c.cell).drv.live = false) :
    let lit := s.dev.sweptLit m p t c
    Answers (.roundStart t []) s (lit.sweepDrive m [(c.cell, sweepStart (lit.cell c.cell))]) := by
  have hopen : p.openDither t s.dev.beat = p := by
    cases p
    simp_all [Pass.openDither]
  have henter : ∀ mates, s.dev.enterRound m mates [] c = c.fresh := fun mates => by simp [Dev.enterRound, hlive, hnew]
  refine answers_of_serves hserves rfl ?_
  simp only [hpass]
  rw [if_neg (by simp [hplanned, hedge, hpark, hphase, htile, hwait])]
  simp only [hopen, hcells, List.filter_cons, List.filter_nil, hcell, hsweep, houtcome, beq_self_eq_true, Option.isNone_none, Bool.and_self,
    if_true, List.map_cons, List.map_nil, List.min?_singleton, hlive, Bool.not_false, henter]
  rw [if_neg (by simp; omega)]
  have hfresh : (c.fresh.cell / laneCount == t && c.fresh.method == .sweep && c.fresh.outcome.isNone && c.fresh.round == c.round) = true := by
    simp [PassCell.fresh, hcell, hsweep, houtcome]
  simp only [hfresh, if_true, List.flatMap_cons, List.flatMap_nil, List.append_nil]
  rfl

end

/-! ## Ends of phases -/

theorem answers_threshPhaseEnd_of_idle {t : Nat} (hphase : tget 0 p.phase t = 0) (hwait : s.dev.waits m 0 2 (t / 4) = false) :
    Answers (.threshPhaseEnd t) s (s.dev.dithers m (fun c => c.cell / laneCount == t)) := by
  obtain ⟨q, hq, hphase⟩ : ∃ q, ((s.dev.dithers m (fun c => c.cell / laneCount == t)).cal m).pass = some q ∧ tget 0 q.phase t = 0 := by
    simp only [Dev.dithers, Dev.pass_onPass, hpass, Option.map_some]
    exact ⟨_, rfl, hphase⟩
  refine answers_of_serves hserves rfl ((if_neg (by simp [hwait])).trans ?_)
  simp only [hq]
  exact if_pos (by simp [hphase])

theorem answers_threshPhaseEnd_of_lit {t : Nat} {c : PassCell} (hcells : p.cells = [c]) (hcell : c.cell / laneCount = t)
    (hactive : p.active c = true) (hphase : tget 0 p.phase t = 1) (hedge : s.dev.watchEdge = true) (hend : tget 0 p.endBeat t ≤ s.dev.beat)
    (hwait : s.dev.waits m 0 2 (t / 4) = false) (hovr : c.ovr = false) (hlit : c.lit = true) :
    Answers (.threshPhaseEnd t) s ((s.dev.onPass m (fun p => { p with
      cells := [s.dev.phaseDone m c], phase := tset 0 p.phase t 2, endBeat := tset 0 p.endBeat t (s.dev.beat + (s.dev.T t + 1600)) })).onCell c.cell
        (fun z => { z with htr := z.htr.offer 2 (s.dev.phaseBias m c) })) := by
  obtain ⟨⟨hsweep, hround, hmember⟩, houtcome⟩ : (c.method = .sweep ∧ c.round ≠ 0 ∧ tget 0 p.round t = c.round) ∧ c.outcome = none := by
    simpa [Pass.active, Pass.member, hcell, hphase, and_assoc] using hactive
  have hstay : s.dev.dithers m (fun c => c.cell / laneCount == t) = s.dev := by
    refine Dev.onPass_eq_self hpass ?_
    have hstep : s.dev.ditherStep m (fun c => c.cell / laneCount == t) c = c := s.dev.ditherStep_of_sweep m _ hsweep
    have hcells' : p.cells.map (s.dev.ditherStep m (fun c => c.cell / laneCount == t)) = p.cells := by simp [hcells, hstep]
    have hsame : p.cells.any (fun k => (s.dev.ditherStep m (fun c => c.cell / laneCount == t) k).outcome != k.outcome) = false := by
      simp [hcells, hstep]
    change { p with
      cells := p.cells.map (s.dev.ditherStep m (fun c => c.cell / laneCount == t))
      lastEnd := if p.cells.any (fun k => (s.dev.ditherStep m (fun c => c.cell / laneCount == t) k).outcome != k.outcome) then s.dev.beat
        else p.lastEnd } = p
    rw [hcells', hsame]
    rfl
  refine answers_of_serves hserves rfl ((if_neg (by simp [hwait])).trans ?_)
  simp only [hstay, hpass]
  rw [if_neg (by simp [hphase, hedge]; omega)]
  have hmine : (c.cell / laneCount == t && p.active c) = true := by simp [hcell, hactive]
  have hmember : ((s.dev.phaseDone m c).cell / laneCount == t && p.member (s.dev.phaseDone m c)) = true := by
    have hsame : (c.cell / laneCount == t && p.member c) = true := by simpa [Pass.active, houtcome] using hmine
    exact hsame
  have hgoes : (s.dev.phaseDone m c).outcome.isNone = true := by simp [Dev.phaseDone, PassCell.fresh, houtcome]
  simp only [hcells, hphase, hmine, Dev.phaseEnd_of_lit hovr hlit, List.map_cons, List.map_nil, if_true, List.filter_cons, List.filter_nil,
    hmember, hgoes]
  rfl

/-! ## Dwells -/

section
variable {t u : Nat} {raw : List Nat} {ovr refOk : Bool} (halive : (s.dev.tile t).alive = true) (hu : u < 48)
  (hscan : (s.dev.tile t).conv.scanning = false) (hgap : s.dev.gap t = true) (hraw : raw.length = 12)
  (hdwelt : tget 0 p.dwelt (48 * t + u) ≤ s.dev.beat)
include halive hu hscan hgap hraw hdwelt

/-- A dwell in the gap gives the pass what its use brings, and the converter's next gap; a bad reference is reported. -/
theorem answers_dwell_of_gap {use : DwellUse} {d : Dev} (hd : s.dev.dwell m p use (48 * t + u) raw ovr = d) :
    Answers (.dwell t u use raw ovr refOk) s
      (let used := d.onPass m (fun p => { p with dwelt := tset 0 p.dwelt (48 * t + u) (s.dev.beat + 160) })
       if refOk then used
       else used.report m (80 + t) 2 (48 * t + u) (BitVec.ofNat 32 (raw.headD 0)) (some ⟨.converter, 48 * t + u⟩)) := by
  refine answers_of_serves hserves rfl ?_
  simp only [hpass]
  rw [if_neg (by simp [halive, hscan, hgap, hraw]; omega), hd]

end

/-! ## The application boundary -/

theorem answers_applicationBoundary_of_settled {r q : Nat} (hplanned : p.planned = true) (hedge : s.dev.watchEdge = true)
    (hlast : p.lastEnd + 2000 ≤ s.dev.beat) (hcells : ∀ c ∈ p.cells, c.outcome.isSome = true) (hphases : ∀ e ∈ p.phase, e.2 = 0)
    (hsrc : p.req.src = .desc r q) : ∃ d : Dev, Answers .applicationBoundary s d ∧ (d.cal m).pass = none := by
  have hsettled : (p.cells.any (fun c => c.outcome.isNone)) = false := by
    rw [List.any_eq_false]
    intro c hc
    simpa [Option.isSome_iff_ne_none] using hcells c hc
  have hidle : p.phase.any (fun e => e.2 != 0) = false := by
    rw [List.any_eq_false]
    intro e he
    simpa using hphases e he
  refine ⟨_, answers_of_serves hserves rfl rfl, ?_⟩
  simp only [hpass]
  rw [if_neg (by simp [hplanned, hedge, hsettled, hidle]; omega)]
  simp only [hsrc]
  split
  · rw [Dev.cal_completeAt, Dev.cal_tel, Dev.cal_onCal]
  · rw [Dev.cal_tel, Dev.cal_onCal]

end

/-! ## CAL_READ -/

section
variable {s : State} {m : MastId} {ring seq : Nat} {x : Desc}

theorem answers_calRead_of_range {first count : Nat} {slot : SlotOut} (hstarts : Starts s.dev ring seq 0x41 m x) (hperm : x.perm 2 = true)
    (h : count = 0 ∨ 24576 < first + count) : Answers (.calRead ring seq first count slot) s
      (((s.dev.begun m ring seq).settleHold m x slot.ref slot.owner slot.err).complete m x .portInvalid) := by
  refine answers_of_starts hstarts rfl ?_
  rw [Dev.need_of_perm hperm]
  have h : count = 0 ∨ cellCount < first + count := h
  exact if_pos (by simpa using h)

theorem answers_calRead_of_free {first count : Nat} {slot : SlotOut} (hstarts : Starts s.dev ring seq 0x41 m x) (hperm : x.perm 2 = true)
    (hcount : 0 < count) (hrange : first + count ≤ 24576)
    (hkept : ((s.dev.begun m ring seq).settleHold m x slot.ref slot.owner slot.err).calLost m ((List.range count).map (first + ·)) = false)
    (hfree : SlotFree ((s.dev.begun m ring seq).settleHold m x slot.ref slot.owner slot.err) m x slot) :
    Answers (.calRead ring seq first count slot) s
      ((((s.dev.begun m ring seq).settleHold m x slot.ref slot.owner slot.err).heldOut m x slot).onCal m (fun c =>
        { c with reads := c.reads ++ [⟨ring, seq, slot.ref, first, count, [], .unchanged 0, false⟩] })) := by
  refine answers_of_starts hstarts rfl ?_
  rw [Dev.need_of_perm hperm]
  have hrange : first + count ≤ cellCount := hrange
  exact (if_neg (by simp; omega)).trans ((if_neg (ne_true_of_eq_false hkept)).trans (Dev.slotOut_of_free hfree _ _))

theorem answers_calReadDone_of_read {j : ReadJob} {ep : Nat} {ents : List (List Nat)} (hserves : Serves s.dev m)
    (hreads : (s.dev.cal m).reads = [j]) (hring : j.ring = ring) (hseq : j.seq = seq) (hfind : s.dev.findDesc m ring seq = some x)
    (hdata : j.data = .calib ([ep] :: ents)) : Answers (.calReadDone ring seq) s
      (((s.dev.onCal m (fun c => { c with reads := [] })).writeOut m x j.epoch 0x41 (12 * j.count) ep (.calib ents)).complete m x
        .ok) := by
  have hmine : (j.ring == ring && j.seq == seq) = true := by simp [hring, hseq]
  have hnone : s.dev.onCal m (fun c => { c with reads := c.reads.filter (fun k => !(k.ring == ring && k.seq == seq)) }) =
      s.dev.onCal m (fun c => { c with reads := [] }) := by
    have hreads : (s.dev.mast m).cal.reads = [j] := hreads
    simp [Dev.onCal, Dev.onMast, hreads, hring, hseq]
  refine answers_of_serves hserves rfl ?_
  simp only [hreads, List.find?_cons, hmine, hfind, hdata, hnone]

end

/-! ## Outcomes of a DITHER cell -/

section
variable {d : Dev} {m : MastId} {c : PassCell}

theorem Dev.ditherEnd_of_ovr (hovr : c.ovr = true) (late : Bool) : d.ditherEnd m c true late = { c with outcome := some 2 } := by
  simp [Dev.ditherEnd, hovr]

theorem Dev.ditherEnd_of_full (hovr : c.ovr = false) (hwin : c.win.length = 17) (hlogical : (d.cell c.cell).drv.logical.isSome = true)
    (ripe late : Bool) : d.ditherEnd m c ripe late = { c with
      outcome := some 0, bias := some (d.phaseBias m c)
      resid := residOf (d.tile (c.cell / laneCount)).par.kappa (d.epsOf m c.cell c.win), ext := extOf c.seen } := by
  simp [Dev.ditherEnd, hovr, hwin, hlogical, Dev.phaseBias]

theorem Dev.ditherEnd_of_dark (hovr : c.ovr = false) (hwin : c.win.length ≠ 17) (hlit : c.lit = false) (late : Bool) :
    d.ditherEnd m c true late = { c with outcome := some 1 } := by
  simp [Dev.ditherEnd, hovr, hwin, hlit]

theorem Dev.ditherEnd_of_lit (hovr : c.ovr = false) (hwin : c.win.length ≠ 17) (hlit : c.lit = true)
    (hlogical : (d.cell c.cell).drv.logical.isSome = true) (late : Bool) :
    d.ditherEnd m c true late = if late then { c with outcome := some 4 } else c := by
  simp [Dev.ditherEnd, hovr, hwin, hlit, Option.isNone_eq_false_iff.2 hlogical]

end

/-- Settles O39: starting, planning, rounds, phases, dwells, the application boundary, reading, and the outcomes. -/
theorem calibrationPassesComplete : Obligations.CalibrationPassesComplete := by
  refine ⟨fun s m h => ?full, fun s ring seq tiles dO sh sp nt m x hstarts hperm => ⟨fun hbad => ?bad, fun hgood hidle => ?begins,
    fun hgood hbusy hroom => ?queued, fun hgood hbusy hroom => ?refused⟩,
    fun s m hserves hstage hpass => ⟨fun htrig => ?triggered, fun r q htrig hqueue => ?next⟩,
    fun s m p plan hserves hpass hplanned hwait hok => ?plan, fun s m hserves => ⟨?dither, ?sweep, ?phaseIdle, ?phaseLit, ?timeout,
      ?dwellFree, ?dwellSweep, ?boundary, ?read, ?readDone⟩, fun d m c late => ⟨?ovr, ?whole, ?dark, ?lit⟩⟩
  case full => exact answers_calFull_of_brings h
  case bad => exact answers_calPass_of_bad hstarts hperm hbad
  case begins => exact answers_calPass_of_idle hstarts hperm hgood hidle
  case queued => exact answers_calPass_of_busy hstarts hperm hgood hbusy (if_neg (by omega))
  case refused => exact answers_calPass_of_busy hstarts hperm hgood hbusy (if_pos hroom)
  case triggered => exact answers_passStart_of_trig hserves hstage hpass htrig
  case next => exact answers_passStart_of_queue hserves hstage hpass htrig hqueue
  case plan =>
    refine ⟨_, List.length_map .., answers_passPlanDone_of_ok hserves hpass hplanned hwait hok, fun i c hc => ⟨fun hother => ?_,
      fun l hsweep hline hdark => ?_, fun l hsweep hline hdark => ?_⟩⟩
    · simp [hc, Dev.plannedCell_of_other hother]
    · simp [hc, Dev.plannedCell_of_dark hsweep hline hdark]
    · simp [hc, Dev.plannedCell_of_lit hsweep hline hdark]
  case dither =>
    intro p t again hpass hplanned hedge hpark hphase htile hwait hsweep
    exact answers_roundStart_of_dither hserves hpass hplanned hedge hpark hphase htile hwait hsweep
  case sweep =>
    intro p t c hpass hplanned hedge hpark hphase htile hwait hbegun hcells hcell hsweep houtcome hnew hlive
    refine ⟨_, p.sweptRound t c s.dev.beat (s.dev.T t), answers_roundStart_of_sweep hserves hpass hplanned hedge hpark hphase htile hwait
      hbegun hcells hcell hsweep houtcome hnew hlive, ?_, ?_, ?_, ?_, ?_, rfl⟩
    · rw [Dev.sweepDrive, Dev.cal_writes, Dev.sweptLit, Dev.cal_writes, Dev.pass_onPass, hpass]
      rfl
    all_goals simp [Pass.sweptRound]
  case phaseIdle => exact fun p t hpass hphase hwait => answers_threshPhaseEnd_of_idle hserves hpass hphase hwait
  case phaseLit =>
    intro p t c hpass hcells hcell hactive hphase hedge hend hwait hovr hlit
    refine ⟨_, { p with
      cells := [s.dev.phaseDone m c], phase := tset 0 p.phase t 2, endBeat := tset 0 p.endBeat t (s.dev.beat + (s.dev.T t + 1600)) },
      answers_threshPhaseEnd_of_lit hserves hpass hcells hcell hactive hphase hedge hend hwait hovr hlit, ?_, ?_, ?_, rfl⟩
    · rw [Dev.cal, Dev.mast_onCell]
      exact (Dev.pass_onPass ..).trans (congrArg (Option.map _) hpass)
    · simp
    · simp [Nat.add_assoc]
  case timeout => exact fun cell => answers_of_serves hserves rfl rfl
  case dwellFree =>
    intro p t u raw ovr halive hu hscan hgap hpass hraw hdwelt hfree used
    have hdwell : ∀ use refOk d, s.dev.dwell m p use (48 * t + u) raw ovr = d → _ := fun use refOk d =>
      answers_dwell_of_gap hserves hpass (use := use) (refOk := refOk) (d := d) halive hu hscan hgap hraw hdwelt
    refine ⟨hdwell .sweep true s.dev (by simp [Dev.dwell, hfree]), fun hno => hdwell .trim true s.dev (by simp [Dev.dwell, hfree, hno]),
      fun htrim => hdwell .trim true _ (by simp only [Dev.dwell, hfree, htrim]; rfl), hdwell .offset true _ (by simp only [Dev.dwell, hfree]),
      hdwell .sweep false s.dev (by simp [Dev.dwell, hfree])⟩
  case dwellSweep =>
    intro p t u raw ovr c halive hu hscan hgap hpass hraw hdwelt hsweep
    exact answers_dwell_of_gap hserves hpass (refOk := true) halive hu hscan hgap hraw hdwelt (by simp only [Dev.dwell, hsweep])
  case boundary =>
    intro p r q hpass hplanned hedge hlast hcells hphases hsrc
    exact answers_applicationBoundary_of_settled hserves hpass hplanned hedge hlast hcells hphases hsrc
  case read =>
    intro ring seq first count slot x hstarts hperm
    exact ⟨answers_calRead_of_range hstarts hperm, answers_calRead_of_free hstarts hperm⟩
  case readDone =>
    intro ring seq j x ep ents hreads hring hseq hfind hdata
    exact answers_calReadDone_of_read hserves hreads hring hseq hfind hdata
  case ovr => exact fun hovr => Dev.ditherEnd_of_ovr hovr late
  case whole => exact fun ripe hovr hwin hlogical => Dev.ditherEnd_of_full hovr hwin hlogical ripe late
  case dark => exact fun hovr hwin hlit => Dev.ditherEnd_of_dark hovr hwin hlit late
  case lit =>
    exact fun hovr hwin hlit hlogical => ⟨Dev.ditherEnd_of_lit hovr hwin hlit hlogical true, Dev.ditherEnd_of_lit hovr hwin hlit hlogical false⟩

end Sys2Proof.Machine
end

section
/-! Proofs for receipts, certificates and keys (R435 to R446, R495). -/

namespace Sys2Proof.Machine

/-! ## RECEIPT -/

/-- The device with a receipt's slot held. -/
def Dev.receiptHeld (d : Dev) (m : MastId) (x : Desc) (slot : SlotOut) : Dev :=
  (d.settleHold m x slot.ref slot.owner slot.err).heldOut m x slot

section
variable {s : State} {ring seq : Nat} {m : MastId} {x : Desc}

section
variable {slot : SlotOut} {nonce : BitVec 256} (hstarts : Starts s.dev ring seq 0x70 m x) (hperm : x.perm 5 = true)
include hstarts hperm

theorem answers_receipt_of_future {e : Nat} (hfuture : ((s.dev.begun m ring seq).fab m).epoch < e) (hne : e ≠ 2 ^ 64 - 1) :
    Answers (.receipt ring seq e slot nonce) s
      (((s.dev.begun m ring seq).settleHold m x slot.ref slot.owner slot.err).complete m x .mapEpoch) := by
  refine answers_of_starts hstarts rfl ?_
  rw [Dev.need_of_perm hperm]
  simp only [beq_iff_eq, hne, if_false]
  exact if_pos (by simp [hfuture])

theorem answers_receipt_of_current {c : Ctx}
    (hkept : ((s.dev.begun m ring seq).settleHold m x slot.ref slot.owner slot.err).epochLost m ((s.dev.begun m ring seq).fab m).epoch =
      false)
    (hfree : SlotFree ((s.dev.begun m ring seq).settleHold m x slot.ref slot.owner slot.err) m x slot)
    (hsize : 624 ≤ ((s.dev.begun m ring seq).receiptHeld m x slot).slotSize m (refWin slot.ref))
    (hctx : ((s.dev.begun m ring seq).receiptHeld m x slot).ctx m x.ctx = some c) {d : Dev}
    (hd : (let held := (s.dev.begun m ring seq).receiptHeld m x slot
      let c1 := c.refill (held.regF m 0x9008 0 8) (held.regF m 0x9008 8 8) held.beat
      if c1.tokens < 2 ^ 20 || 17 ≤ (held.mast m).sec.length then
        ((held.setCtx m x.ctx (some c1)).complete m x .receiptRate).count m 0x9010 32 16 1
      else (held.setCtx m x.ctx (some { c1 with tokens := c1.tokens - 2 ^ 20 })).onSec m (fun l =>
        l ++ [⟨ring, seq, ((s.dev.begun m ring seq).fab m).epoch, nonce⟩])) = d) :
    Answers (.receipt ring seq (2 ^ 64 - 1) slot nonce) s d := by
  refine answers_of_starts hstarts rfl ?_
  rw [Dev.receiptHeld] at hsize hctx hd
  rw [Dev.need_of_perm hperm]
  simp only [beq_self_eq_true, if_true, Dev.fab_settleHold]
  rw [if_neg (by simp [hkept]), Dev.slotOut_of_free hfree]
  refine (if_neg (Nat.not_lt.2 hsize)).trans ?_
  simp only [hctx, Option.map_some]
  exact hd

end

/-! ## The receipt signed -/

@[simp] theorem Dev.fab_count (d : Dev) (m : MastId) (off lo w n : Nat) (k : MastId) : (d.count m off lo w n).fab k = d.fab k := by
  unfold Dev.count
  exact Dev.view_setRegF (v := Mast.fab) (fun _ _ => rfl) ..

/-- The device after the receipt `j` of the descriptor `x` is signed (R437). -/
def Dev.signReceipt (d : Dev) (m : MastId) (j : RcptJob) (x : Desc) : Dev :=
  d.sign (d.receiptBytes m x.ctx j) (fun sig d1 =>
    let d2 := d1.count m 0x9010 0 32 1
    let time := if j.epoch == 0 then none else (d2.fab m).strikeOf j.epoch
    (d2.writeOut m x (x.slots.headD 0) 0x70 560 j.epoch (.receipt (d.receiptBytes m x.ctx j) sig.1 sig.2)).completeAt m x .ok
      j.epoch time false)

theorem Dev.signReceipt_eq (d : Dev) (m : MastId) (j : RcptJob) (x : Desc) :
    let sig := ecdsaSign Config.identityKey (Config.signNonce d.free % (ecN - 1) + 1) (d.receiptBytes m x.ctx j)
    d.signReceipt m j x = ((({ d with free := d.free + 1 } : Dev).count m 0x9010 0 32 1).writeOut m x (x.slots.headD 0) 0x70 560
      j.epoch (.receipt (d.receiptBytes m x.ctx j) sig.1 sig.2)).completeAt m x .ok j.epoch
        (if j.epoch = 0 then none else (d.fab m).strikeOf j.epoch) false := by
  have hfab : (({ d with free := d.free + 1 } : Dev).count m 0x9010 0 32 1).fab m = d.fab m := Dev.fab_count ..
  unfold Dev.signReceipt Dev.sign
  dsimp only
  rw [hfab]
  simp only [beq_iff_eq]

theorem answers_receiptSigned_of_first {j : RcptJob} {rest : List RcptJob} (hserves : Serves s.dev m)
    (hsec : (s.dev.mast m).sec = j :: rest) (hfind : s.dev.findDesc m j.ring j.seq = some x) :
    let d1 := s.dev.onSec m (fun _ => rest)
    let body := d1.receiptBytes m x.ctx j
    let sig := ecdsaSign Config.identityKey (Config.signNonce s.dev.free % (ecN - 1) + 1) body
    Answers .receiptSigned s (((({ d1 with free := d1.free + 1 } : Dev).count m 0x9010 0 32 1).writeOut m x (x.slots.headD 0) 0x70 560
      j.epoch (.receipt body sig.1 sig.2)).completeAt m x .ok j.epoch
        (if j.epoch = 0 then none else (d1.fab m).strikeOf j.epoch) false) := by
  intro d1 body sig
  have hfind : d1.findDesc m j.ring j.seq = some x := by
    have hhif : d1.hif m = s.dev.hif m := by cases m <;> rfl
    rw [Dev.findDesc, hhif]
    exact hfind
  refine answers_of_serves hserves rfl ?_
  simp only [hsec]
  change (match d1.findDesc m j.ring j.seq with
    | none => d1
    | some x => d1.signReceipt m j x) = _
  rw [hfind]
  have hfree : d1.free = s.dev.free := by cases m <;> rfl
  have hsign := Dev.signReceipt_eq d1 m j x
  rw [hfree] at hsign
  exact hsign.trans (by simp only [sig, body, hfree])

/-! ## Certificates -/

theorem answers_identRead_of_free {slot : SlotOut} (hstarts : Starts s.dev ring seq 0x71 m x)
    (hfree : SlotFree (s.dev.begun m ring seq) m x slot) :
    let held := (s.dev.begun m ring seq).heldOut m x slot
    Answers (.identRead ring seq slot) s (if held.slotSize m (refWin slot.ref) < 64 + certsLen then held.complete m x .slotRange
      else (held.writeOut m x slot.ref 0x71 certsLen (held.fab m).epoch (.certs [Config.certDer 0, Config.certDer 1])).complete m x
        .ok) :=
  answers_of_starts hstarts rfl (Dev.slotOut_of_free hfree _ _)

/-! ## Keys -/

theorem answers_keyProgram_of_open {slot : SlotIn} (hstarts : Starts s.dev ring seq 0x73 m x) (hperm : x.perm 9 = true)
    (hopen : (((s.dev.begun m ring seq).settleHold m x slot.ref slot.owner slot.err).mast m).pen.protect = false) :
    Answers (.keyProgram ring seq slot) s
      (((s.dev.begun m ring seq).settleHold m x slot.ref slot.owner slot.err).complete m x .badState) := by
  refine answers_of_starts hstarts rfl ?_
  rw [Dev.need_of_perm hperm]
  exact if_pos (by simp [hopen])

section
variable {slot : SlotIn} (hperm : x.perm 9 = true)
  (hprotect : (((s.dev.begun m ring seq).settleHold m x slot.ref slot.owner slot.err).mast m).pen.protect = true)
  (hsound : SlotSound ((s.dev.begun m ring seq).settleHold m x slot.ref slot.owner slot.err) m x slot)
include hperm hprotect hsound

theorem answers_keyProgram_of_sound (hstarts : Starts s.dev ring seq 0x73 m x) (hkind : slot.kind = 0x73) (hlen : slot.len = 97) :
    let back := (((s.dev.begun m ring seq).settleHold m x slot.ref slot.owner slot.err).scanned m x slot).returnIn m x slot false
    Answers (.keyProgram ring seq slot) s
      (match (back.mast m).boot.programStatus (fieldAt slot.bytes 96 1) (keyRecOf slot.bytes) with
        | some st => back.complete m x st
        | none => back.burnKeys m x (.program (fieldAt slot.bytes 96 1) (keyRecOf slot.bytes))) := by
  refine answers_of_starts hstarts rfl ?_
  rw [Dev.need_of_perm hperm]
  exact (if_neg (by simp [hprotect])).trans ((Dev.slotIn_of_sound hsound _ _).trans (if_neg (by simp [hkind, hlen])))

theorem answers_keyRevoke_of_sound (hstarts : Starts s.dev ring seq 0x72 m x) (hkind : slot.kind = 0x72) (hlen : slot.len = 128)
    (hbytes : slot.bytes.length = 128) :
    let back := (((s.dev.begun m ring seq).settleHold m x slot.ref slot.owner slot.err).scanned m x slot).returnIn m x slot false
    Answers (.keyRevoke ring seq slot) s (match back.revokeStatus m (revokePay slot.bytes) with
      | some st => back.complete m x st
      | none => back.burnKeys m x (.revoke (revokePay slot.bytes).target)) := by
  refine answers_of_starts hstarts rfl ?_
  rw [Dev.need_of_perm hperm]
  exact (if_neg (by simp [hprotect])).trans ((Dev.slotIn_of_sound hsound _ _).trans (if_neg (by simp [hkind, hlen, hbytes])))

end
end

/-- Settles O41, descriptor by descriptor. -/
theorem trustCompletes : Obligations.TrustCompletes := by
  intro s ring seq m x
  refine ⟨fun e slot nonce hstarts hperm hfuture hne => ?future, fun slot nonce c hstarts hperm hkept hfree hsize hctx =>
    ⟨fun htokens => ?rate, fun htokens hroom => ?wait⟩, fun j rest hserves hsec hfind => ?signed,
    fun slot hstarts hfree => ⟨fun hsize => ?small, fun hsize => ?ident⟩,
    fun slot hstarts hperm => ⟨fun hopen => ?unprotected, fun hprotect hsound hkind hlen => ?program⟩,
    fun slot hstarts hperm hprotect hsound hkind hlen hbytes => ?revoke⟩
  case future => exact answers_receipt_of_future hstarts hperm hfuture hne
  case rate =>
    exact answers_receipt_of_current hstarts hperm hkept hfree hsize hctx (if_pos (Bool.or_eq_true_iff.2 (.inl (decide_eq_true htokens))))
  case wait =>
    exact answers_receipt_of_current hstarts hperm hkept hfree hsize hctx (if_neg (fun h => (Bool.or_eq_true_iff.1 h).elim
      (fun h => Nat.not_lt.2 htokens (of_decide_eq_true h)) (fun h => Nat.not_le.2 hroom (of_decide_eq_true h))))
  case signed => exact answers_receiptSigned_of_first hserves hsec hfind
  case small =>
    have h := answers_identRead_of_free hstarts hfree
    dsimp only at h
    rw [if_pos hsize] at h
    exact h
  case ident =>
    have h := answers_identRead_of_free hstarts hfree
    dsimp only at h
    rw [if_neg (Nat.not_lt.2 hsize)] at h
    exact h
  case unprotected => exact answers_keyProgram_of_open hstarts hperm hopen
  case program => exact answers_keyProgram_of_sound hperm hprotect hsound hstarts hkind hlen
  case revoke => exact answers_keyRevoke_of_sound hperm hprotect hsound hstarts hkind hlen hbytes

end Sys2Proof.Machine
end

section
/-! Proofs for the PTP messages, losses, edges and registers of time (R310 to R318, R321). -/

namespace Sys2Proof.Machine

theorem Dev.onTim_congr {d : Dev} {m : MastId} {f g : Tim → Tim} (h : f (d.tim m) = g (d.tim m)) : d.onTim m f = d.onTim m g := by
  have h' : f (d.mast m).tim = g (d.mast m).tim := h
  simp only [Dev.onTim, Dev.onMast, h']

section
variable {s : State} {m : MastId} {p : Nat}

/-! ## Sync and Follow_Up -/

theorem answers_syncMessage_of_takes {g : SyncMsg} (htakes : s.dev.ptpTakes m p g.domain g.logInterval (-7) 1 (-4) = true) :
    Answers (.syncMessage m p g) s (if g.twoStep then
      s.dev.onTim m (fun t => { t with syncs := tset none t.syncs p (some ⟨g.seq, s.dev.ptpStamp g.ns, g.correction⟩) })
      else s.dev.synced m p (s.dev.ptpStamp g.ns) (1000 * g.origin) (corrPs g.correction) g.corr) :=
  answers_of_run rfl (if_neg (by simp [htakes]))

theorem answers_followUp_of_waiting {g : SyncWait} (hwaits : tget none (s.dev.tim m).syncs p = some g)
    (hon : s.dev.ptpOn m p = true) (o : Nat) (c corr : Int) :
    Answers (.followUp m p g.seq o c corr) s ((s.dev.onTim m (fun t => { t with syncs := tset none t.syncs p none })).synced m p g.rx
      (1000 * o) (corrPs (g.correction + c)) corr) := by
  refine answers_of_run rfl ?_
  simp only [hwaits]
  exact if_neg (by simp [hon])

/-! ## Announce -/

theorem answers_announceMessage_of_takes {g : AnnounceMsg}
    (htakes : s.dev.ptpTakes m p g.domain g.logInterval (-3) 3 (-3) = true) :
    Answers (.announceMessage m p g) s ((s.dev.onTim m (fun t => { t with
      best := tset none t.best p (some (g.rank, g.gm)), annAt := tset (0, 0) t.annAt p (s.dev.beat, g.logInterval) })).reselect m) :=
  answers_of_run rfl (if_neg (by simp [htakes]))

/-- The device that has forgotten the masters silent for three intervals. -/
def Dev.forgotten (d : Dev) (m : MastId) : Dev :=
  d.onTim m (fun t => { t with best := ([0, 1].filter ((d.tim m).silent d.beat)).foldl (fun b p => tset none b p none) t.best })

theorem answers_announceReceiptTimeout {d : Dev}
    (hd : (if !([0, 1].filter ((s.dev.tim m).silent s.dev.beat)).contains (s.dev.tim m).port then s.dev.forgotten m
      else if (s.dev.forgotten m).serving == some m && (s.dev.forgotten m).src m == 1 then (s.dev.forgotten m).holdover m
      else s.dev.forgotten m) = d) : Answers (.announceReceiptTimeout m) s d :=
  answers_of_run rfl hd

/-! ## Delay_Req and Delay_Resp -/

theorem answers_delayReq_of_first (hon : s.dev.ptpOn m p = true) (hfirst : (s.dev.tim m).reqAt.find? (fun e => e.1 == p) = none)
    (hen : s.dev.regF m (0x6000 + 0x40 * p) 0 1 ≠ 0) (hlink : tget false (s.dev.mast m).eg.link p = true) (ns : Nat) :
    let q := tget 0 (s.dev.tim m).reqSeq p
    Answers (.delayReq m p ns) s ((s.dev.onTim m (fun t => { t with
      reqAt := tset 0 t.reqAt p (s.dev.beat + 1), reqTx := tset none t.reqTx p (some (q, s.dev.ptpStamp ns))
      reqSeq := tset 0 t.reqSeq p ((q + 1) % 65536) })).emit (.delayReq m p q (rhuDiv (-(s.dev.asym m p) * 65536) 1000))) := by
  refine answers_of_run rfl ?_
  simp only [hfirst]
  exact if_neg (by simp [hon, hen, hlink])

theorem answers_delayResp_of_asked {q : Nat} {tx msd : Int} (hon : s.dev.ptpOn m p = true)
    (hreq : tget none (s.dev.tim m).reqTx p = some (q, tx)) (hmsd : tget none (s.dev.tim m).msd p = some msd) (rcv : Nat) (c l : Int) :
    Answers (.delayResp m p q rcv c l) s (s.dev.onTim m (fun t => { t with
      reqLog := tset 0 t.reqLog p l, reqTx := tset none t.reqTx p none
      mpd := tset 0 t.mpd p (rhuDiv (msd + (1000 * rcv - tx - corrPs c)) 2) })) := by
  refine answers_of_run rfl ?_
  simp only [hreq]
  exact (if_neg (by simp [hon])).trans (Dev.onTim_congr (by simp only [hmsd]))

/-! ## Holdover's end and PPS_IN -/

theorem answers_holdoverEnd_of_qualified {b : Nat} (hgm : (s.dev.tim m).gmAt = some b) (hstate : (s.dev.tim m).state = .holdover)
    (hqual : b + 10000000 * s.dev.effF m 0x5008 48 8 ≤ s.dev.beat)
    (hbest : (tget none (s.dev.tim m).best (s.dev.tim m).port).isSome = true) :
    Answers (.holdoverEnd m) s (s.dev.onTim m (fun t => { t with state := .acquiring, gmAt := none, run := 0 })) := by
  refine answers_of_run rfl ?_
  simp only [hgm]
  exact if_pos (by simp [hstate, hqual, hbest])

theorem answers_ppsInEdge_of_source (hserves : Serves s.dev m) (hsrc : s.dev.src m = 2) (ns : Nat) (c : Int) :
    Answers (.ppsInEdge ns c) s
      (((s.dev.onTim m (fun t => { t with ppsAt := s.dev.beat })).acquire m).servo m (ppsOffset (s.dev.now.ns + ns % 100 / 4 * 4)) c) :=
  answers_of_serves hserves rfl (if_neg (by simp [hsrc]))

theorem answers_ppsInLoss_of_late (hserves : Serves s.dev m) (hsrc : s.dev.src m = 2)
    (hlate : (s.dev.tim m).ppsAt + 20000000 ≤ s.dev.beat) : Answers .ppsInLoss s (s.dev.holdover m) :=
  answers_of_serves hserves rfl (if_pos (by simp [hsrc, hlate]))

/-! ## Steps of the timebase and PPS_OUT -/

theorem Dev.tim_stepTime (d : Dev) (m : MastId) (t : Stamp) :
    (d.stepTime m t).tim m = { d.tim m with steps := ((d.tim m).steps + 1) % 256, step := none } := by
  have hpeer (d : Dev) (f : Tim → Tim) : (d.onTim (peerOf m) f).tim m = d.tim m := by cases m <;> rfl
  unfold Dev.stepTime
  rw [Dev.tim_report_none, Dev.tim_onTim]
  split
  · rw [hpeer]
    rfl
  · rfl

/-- What PPS_OUT does to the timebase: at most its end. -/
theorem Dev.tim_pps (d : Dev) (m : MastId) : ∃ o, (d.pps m).tim m = { d.tim m with ppsOut := o } := by
  unfold Dev.pps
  split
  · exact ⟨_, Dev.tim_onTim ..⟩
  · exact ⟨_, rfl⟩

theorem Dev.tim_ppsMoved (d : Dev) (m : MastId) (was : Nat) : ∃ o, (d.ppsMoved m was).tim m = { d.tim m with ppsOut := o } := by
  unfold Dev.ppsMoved
  split
  · obtain ⟨o, ho⟩ := Dev.tim_pps (({ d with pins := { d.pins with ppsOut := false } } : Dev).onTim m (fun t => { t with ppsOut := none })) m
    exact ⟨o, by rw [ho, Dev.tim_onTim]; rfl⟩
  · exact Dev.tim_pps d m

theorem answers_timebaseStep_of_due {k : Int} {b : Nat} (hserves : Serves s.dev m) (hstep : (s.dev.tim m).step = some (k, b))
    (hedge : s.dev.now.ns % 80000 = 0) (hdue : b + 1000 ≤ s.dev.beat) :
    Answers .timebaseStep s ((s.dev.stepTime m (moveLabel s.dev.now (80000 * k))).ppsMoved m s.dev.now.ns) := by
  refine answers_of_serves hserves rfl ?_
  simp only [hstep]
  exact if_pos (by simp [hedge, hdue])

/-- The device with PPS_OUT fallen. -/
def Dev.ppsFallen (d : Dev) (m : MastId) : Dev :=
  let e := d.onTim m (fun t => { t with ppsOut := none })
  { e with pins := { e.pins with ppsOut := false } }

theorem answers_ppsOutEnd_of_due {b : Nat} (hserves : Serves s.dev m) (hout : (s.dev.tim m).ppsOut = some b) (hdue : b ≤ s.dev.beat) :
    Answers .ppsOutEnd s (s.dev.ppsFallen m) := by
  refine answers_of_serves hserves rfl ?_
  simp only [hout]
  exact if_pos hdue

end

/-! ## Registers -/

theorem answers_timCtlWrite_of_writable {s : State} {w : RegWr} {info : RegInfo} (hw : Writable s.dev 0x5000 w info) :
    let v := s.dev.written 0x5000 w info
    let old := s.dev.reg w.mast 0x5000
    let v1 := if fld v 2 2 = 3 then setFld v 2 2 (fld old 2 2) else v
    let v2 := if fld v1 4 2 = 3 then setFld v1 4 2 (fld old 4 2) else v1
    Answers (.timCtlWrite w) s (s.dev.setReg w.mast 0x5000 (plainWrite info old v2)) := by
  refine answers_of_run rfl ((Dev.barWrite_of_writable hw _).trans ?_)
  simp only [beq_iff_eq]

theorem answers_timSet_of_writable {s : State} {w : RegWr} {info : RegInfo} (hw : Writable s.dev 0x5020 w info) {d : Dev}
    (hd : (if w.half == .whole && (s.dev.src w.mast == 0 || s.dev.src w.mast == 2) then
      s.dev.onTim w.mast (fun t => { t with setSec := some (fld (s.dev.written 0x5020 w info) 0 48) }) else s.dev) = d) :
    Answers (.timSet w) s d :=
  answers_of_run rfl ((Dev.barWrite_of_writable hw _).trans hd)

theorem answers_timPtpWrite_of_writable {s : State} {p : Nat} {w : RegWr} {info : RegInfo} (hp : p < 2)
    (hw : Writable s.dev (ptpReg p) w info) (hprofile : fld (s.dev.written (ptpReg p) w info) 1 2 < 2)
    (hmech : fld (s.dev.written (ptpReg p) w info) 3 2 < 3) :
    let r := plainWrite info (s.dev.reg w.mast (ptpReg p)) (s.dev.written (ptpReg p) w info)
    Answers (.timPtpWrite p w) s (if ptpValid r then s.dev.setReg w.mast (ptpReg p) r else s.dev) := by
  refine answers_of_run rfl ((if_neg (Nat.not_le.2 hp)).trans ((Dev.barWrite_of_writable hw _).trans ?_))
  have hmech : (fld (s.dev.written (ptpReg p) w info) 3 2 == 3) = false := by simpa using Nat.ne_of_lt hmech
  simp only [if_neg (Nat.not_le.2 hprofile), hmech, Bool.false_eq_true, if_false]

/-- Settles O42, command by command. -/
theorem timeCommandsComplete : Obligations.TimeCommandsComplete := by
  refine ⟨fun s m p g htakes => ⟨fun htwo => ?twoStep, fun hone => ?oneStep⟩, fun s m p g o c corr hwaits hon => ?followUp,
    fun d m p rx o c corr => ⟨fun h => ?servo, fun h => ?kept⟩, fun s m p g htakes => ?announce,
    fun s m p ns hon hfirst hen hlink => ?delayReq, fun s m p q rcv tx c l msd hon hreq hmsd => ?delayResp,
    fun s m => ⟨fun hport => ?otherSilent, fun hport hserving hsrc => ?selectedSilent⟩,
    fun s m b hgm hstate hqual hbest => ?holdoverEnd, fun s m ns c hserves hsrc => ?ppsEdge,
    fun s m hserves hsrc hlate => ?ppsLoss, fun s m k b hserves hstep hedge hdue => ?step,
    fun s m b hserves hout hdue => ?ppsEnd, fun s w info hw => ?timCtl,
    fun s w info hw => ⟨fun hwhole hsrc => ?timSet, fun h => ?timSetRefused⟩, fun s p w info hp hw hprofile hmech => ?timPtp⟩
  case twoStep => simpa only [htwo, if_true] using answers_syncMessage_of_takes htakes
  case oneStep => simpa only [hone, Bool.false_eq_true, if_false] using answers_syncMessage_of_takes htakes
  case followUp => exact answers_followUp_of_waiting hwaits hon o c corr
  case servo => exact (if_pos h).trans (by rw [Dev.tim_onTim])
  case kept => exact if_neg (by rw [h]; exact Bool.false_ne_true)
  case announce => exact answers_announceMessage_of_takes htakes
  case delayReq => exact answers_delayReq_of_first hon hfirst hen hlink ns
  case delayResp => exact answers_delayResp_of_asked hon hreq hmsd rcv c l
  case otherSilent => exact answers_announceReceiptTimeout (if_pos (by simpa only [Bool.not_eq_true', List.contains_eq_mem,
      decide_eq_false_iff_not] using hport))
  case selectedSilent =>
    exact answers_announceReceiptTimeout ((if_neg (by
      simpa only [Bool.not_eq_true', List.contains_eq_mem, decide_eq_false_iff_not, not_not] using hport)).trans (if_pos (by
      simpa only [Bool.and_eq_true, beq_iff_eq] using ⟨hserving, hsrc⟩)))
  case holdoverEnd => exact answers_holdoverEnd_of_qualified hgm hstate hqual hbest
  case ppsEdge => exact answers_ppsInEdge_of_source hserves hsrc ns c
  case ppsLoss => exact answers_ppsInLoss_of_late hserves hsrc hlate
  case step =>
    obtain ⟨o, htim⟩ := Dev.tim_ppsMoved (s.dev.stepTime m (moveLabel s.dev.now (80000 * k))) m s.dev.now.ns
    rw [Dev.tim_stepTime] at htim
    have hclock := (Dev.clock_ppsMoved (s.dev.stepTime m (moveLabel s.dev.now (80000 * k))) m s.dev.now.ns).trans
      (Dev.clock_stepTime ..)
    exact ⟨_, answers_timebaseStep_of_due hserves hstep hedge hdue, congrArg Prod.snd hclock,
      congrArg Prod.fst hclock, by rw [htim], by rw [htim]⟩
  case ppsEnd => exact ⟨_, answers_ppsOutEnd_of_due hserves hout hdue, rfl, congrArg Tim.ppsOut (Dev.tim_onTim ..)⟩
  case timCtl => exact answers_timCtlWrite_of_writable hw
  case timSet => exact answers_timSet_of_writable hw (if_pos (by simpa [hwhole] using hsrc))
  case timSetRefused =>
    refine answers_timSet_of_writable hw (if_neg ?_)
    rcases h with h | h | h <;> simp [h]
  case timPtp => exact answers_timPtpWrite_of_writable hp hw hprofile hmech

end Sys2Proof.Machine
end

section
/-! Proofs for the Halyard bus (R322 to R328). -/

namespace Sys2Proof.Machine

/-! ## Symbols (R325) -/

/-- A symbol's fields without its parity bit. -/
def symFields (kind age fine : Nat) : Nat := 1 + 2 * kind + 8 * (age % 256) + 2048 * (fine % 16)

theorem symFields_lt {kind : Nat} (hkind : kind < 4) (age fine : Nat) : symFields kind age fine < 2 ^ 15 := by
  unfold symFields
  omega

/-- The number of ones among the low bits of a word. -/
def onesBelow (v : BitVec 16) (n : Nat) : Nat := ((List.range n).filter (fun i => v.getLsbD i)).length

theorem onesBelow_succ (v : BitVec 16) (n : Nat) : onesBelow v (n + 1) = onesBelow v n + if v.getLsbD n then 1 else 0 := by
  unfold onesBelow
  rw [List.range_succ, List.filter_append, List.length_append, List.filter_singleton]
  cases v.getLsbD n <;> rfl

theorem onesBelow_congr {v w : BitVec 16} {n : Nat} (h : ∀ i < n, v.getLsbD i = w.getLsbD i) : onesBelow v n = onesBelow w n := by
  unfold onesBelow
  rw [List.filter_congr (fun i hi => h i (List.mem_range.1 hi))]

/-- The parity bit stands above the fields: it makes the number of ones even and changes no field. -/
theorem mkSym_spec {kind : Nat} (hkind : kind < 4) (age fine : Nat) :
    onesBelow (mkSym kind age fine) 16 % 2 = 0 ∧ (mkSym kind age fine).toNat % 2 ^ 15 = symFields kind age fine := by
  have hlt := symFields_lt hkind age fine
  have hv : (BitVec.ofNat 16 (symFields kind age fine)).toNat = symFields kind age fine :=
    Nat.mod_eq_of_lt (hlt.trans (by decide))
  have htop : (BitVec.ofNat 16 (symFields kind age fine)).getLsbD 15 = false := by
    rw [BitVec.getLsbD, hv]
    exact Nat.testBit_lt_two_pow hlt
  change onesBelow (if onesBelow (BitVec.ofNat 16 (symFields kind age fine)) 15 % 2 == 0 then BitVec.ofNat 16 (symFields kind age fine)
      else BitVec.ofNat 16 (symFields kind age fine) ||| 0x8000) 16 % 2 = 0 ∧
    (if onesBelow (BitVec.ofNat 16 (symFields kind age fine)) 15 % 2 == 0 then BitVec.ofNat 16 (symFields kind age fine)
      else BitVec.ofNat 16 (symFields kind age fine) ||| 0x8000).toNat % 2 ^ 15 = _
  split
  · next heven =>
    rw [onesBelow_succ, htop, hv]
    exact ⟨by simpa using heven, Nat.mod_eq_of_lt hlt⟩
  · next hodd =>
    have hlow (i : Nat) (hi : i < 15) : (BitVec.ofNat 16 (symFields kind age fine) ||| 0x8000).getLsbD i =
        (BitVec.ofNat 16 (symFields kind age fine)).getLsbD i := by
      rw [BitVec.getLsbD_or]
      have : (0x8000 : BitVec 16).getLsbD i = false := by interval_cases i <;> rfl
      rw [this, Bool.or_false]
    have htop : (BitVec.ofNat 16 (symFields kind age fine) ||| 0x8000).getLsbD 15 = true := by
      rw [BitVec.getLsbD_or]
      exact Bool.or_true _
    rw [onesBelow_succ, htop, onesBelow_congr hlow]
    refine ⟨?_, ?_⟩
    · have : onesBelow (BitVec.ofNat 16 (symFields kind age fine)) 15 % 2 ≠ 0 := by simpa using hodd
      simp only [if_true]
      omega
    · rw [BitVec.toNat_or, hv, Nat.or_mod_two_pow, Nat.mod_eq_of_lt hlt]
      exact Nat.or_zero _

theorem mkSym_fields {kind : Nat} (hkind : kind < 4) (age fine : Nat) :
    (mkSym kind age fine).toNat % 2 = 1 ∧ ((mkSym kind age fine).extractLsb' 1 2).toNat = kind ∧
    ((mkSym kind age fine).extractLsb' 3 8).toNat = age % 256 ∧ ((mkSym kind age fine).extractLsb' 11 4).toNat = fine % 16 := by
  have h := (mkSym_spec hkind age fine).2
  unfold symFields at h
  simp only [BitVec.extractLsb'_toNat, Nat.shiftRight_eq_div_pow]
  omega

theorem symOk_mkSym {kind : Nat} (hkind : kind < 4) (age fine : Nat) : symOk (mkSym kind age fine) kind = true := by
  obtain ⟨hstart, hk, -, -⟩ := mkSym_fields hkind age fine
  have heven := (mkSym_spec hkind age fine).1
  have hstart : (mkSym kind age fine).getLsbD 0 = true := by simpa [BitVec.getLsbD] using hstart
  unfold onesBelow at heven
  simp only [symOk, hstart, heven, hk, beq_self_eq_true, Bool.and_self]

section
variable {s : State} {m : MastId} (hserves : Serves s.dev m) (hen : s.dev.halEn m = true)
include hserves hen

/-! ## The clock -/

theorem answers_halyardClockLoss_of_follower (hfollows : s.dev.halLeader m = false) :
    let d := s.dev.onHal m (fun h => { h with lock := false })
    Answers .halyardClockLoss s (if d.src m = 3 then d.holdover m else d) := by
  refine answers_of_serves hserves rfl ((if_neg (by simp [hen, hfollows])).trans ?_)
  simp only [beq_iff_eq]

theorem answers_halyardClockLock_of_follower (hfollows : s.dev.halLeader m = false) (rate : Int) :
    let e := s.dev.onHal m (fun h => { h with lock := true })
    Answers (.halyardClockLock rate) s (if e.src m = 3 then ((e.acquire m).onTim m (fun t =>
      { t with rate := clampI (-rateLimit) rateLimit rate })).halLocks m else e) := by
  refine answers_of_serves hserves rfl ((if_neg (by simp [hen, hfollows])).trans ?_)
  simp only [beq_iff_eq]

/-! ## Symbols received -/

theorem answers_halyardTriggerSymbol_of_other {y : BitVec 16} {k : Nat} (hy : y ≠ 0) (hk : k < 8) (hother : k ≠ s.dev.halId m) {d : Dev}
    (hd : (if !symOk y 1 then s.dev.count m 0x5070 16 16 1 else
      let t := slotStart (stampNs s.dev.now) k - 100 * (y.extractLsb' 3 8).toNat + (y.extractLsb' 11 4).toNat * 25 / 4
      s.dev.gleanEvent m .halyard (s.dev.beatOf (stampOf t)) (stampOf t) none k) = d) : Answers (.halyardTriggerSymbol y k) s d :=
  answers_of_serves hserves rfl ((if_neg (by simp [hen, show y ≠ 0#16 from hy, hk, hother])).trans hd)

section
variable {y : BitVec 16} (hfollows : s.dev.halLeader m = false) (hy : y ≠ 0)
include hfollows hy

theorem answers_halyardTimeCode_of_bad (hbad : symOk y 2 = false ∨ y.getLsbD 14 = true) :
    Answers (.halyardTimeCode y) s (s.dev.count m 0x5070 16 16 1) :=
  answers_of_serves hserves rfl ((if_neg (by simp [hen, hfollows, show y ≠ 0#16 from hy])).trans (if_pos (by simpa using hbad)))

theorem answers_halyardTimeCode_of_next (hok : symOk y 2 = true) (htop : y.getLsbD 14 = false)
    (hnext : (y.extractLsb' 11 3).toNat = (s.dev.mast m).hal.chunks.length) (hroom : (s.dev.mast m).hal.chunks.length < 7) :
    Answers (.halyardTimeCode y) s (s.dev.onHal m (fun h =>
      { h with chunks := (s.dev.mast m).hal.chunks ++ [(y.extractLsb' 3 8).toNat] })) := by
  refine answers_of_serves hserves rfl ((if_neg (by simp [hen, hfollows, show y ≠ 0#16 from hy])).trans ((if_neg (by rw [hok, htop]; decide)).trans ?_))
  simp only [hnext, beq_self_eq_true, if_true]
  exact if_pos (by simpa using Nat.succ_lt_succ hroom)

end

/-! ## Symbols sent -/

theorem answers_halyardSlot_of_timeCode (hleads : s.dev.halLeader m = true) (hslot : stampNs s.dev.now % 16000 = 12800) :
    Answers .halyardSlot s (s.dev.emit (.symbol (timeSym (stampNs s.dev.now)))) := by
  have hedge : stampNs s.dev.now % 1600 = 0 := by omega
  exact answers_of_serves hserves rfl ((if_neg (by simp [hen, hleads, hedge])).trans (if_pos (by simp [hleads, hslot])))

/-- The device with the one trigger that waited taken from the queue. -/
def Dev.triggerTaken (d : Dev) (m : MastId) : Dev :=
  (d.onHal m (fun h => { h with pend := h.pend.filter (fun e => !(e.1 + 2 ≤ d.beat)) })).count m 0x5070 32 16 0

theorem answers_halyardSlot_of_trigger {b : Nat} {t : Stamp} (hlocked : s.dev.halLeader m = true ∨ (s.dev.mast m).hal.lock = true)
    (hedge : stampNs s.dev.now % 1600 = 0) (hslot : stampNs s.dev.now % 16000 / 1600 = s.dev.halId m) (hnot : s.dev.halId m ≠ 8)
    (hpend : (s.dev.mast m).hal.pend = [(b, t)]) (hdue : b + 2 ≤ s.dev.beat) :
    Answers .halyardSlot s ((s.dev.triggerTaken m).emit (.symbol (mkSym 1
      ((stampNs s.dev.now - stampNs t / 100 * 100) / 100) (t.ns % 100 * 4 / 25)))) := by
  have hguard : ¬ (!s.dev.halEn m || stampNs s.dev.now % 1600 != 0 || (!s.dev.halLeader m && !(s.dev.mast m).hal.lock)) = true := by
    rcases hlocked with h | h <;> simp [hen, hedge, h]
  have hfilter : (s.dev.mast m).hal.pend.filter (fun e => e.1 + 2 ≤ s.dev.beat) = [(b, t)] := by simp [hpend, hdue]
  refine answers_of_serves hserves rfl ((if_neg hguard).trans ((if_neg (by simp [hslot, hnot])).trans ((if_neg (by simp [hslot])).trans ?_)))
  simp only [hfilter]
  rfl

end

theorem Dev.pend_triggerTaken {d : Dev} {m : MastId} {b : Nat} {t : Stamp} (hpend : (d.mast m).hal.pend = [(b, t)])
    (hdue : b + 2 ≤ d.beat) : ((d.triggerTaken m).mast m).hal.pend = [] := by
  have h : ((d.triggerTaken m).mast m).hal = { (d.mast m).hal with pend := (d.mast m).hal.pend.filter (fun e => !(e.1 + 2 ≤ d.beat)) } := by
    cases m <;> rfl
  rw [h]
  simp [hpend, hdue]

theorem Dev.out_triggerTaken (d : Dev) (m : MastId) : (d.triggerTaken m).out = d.out := by cases m <;> rfl

/-- Settles O44, clause by clause. -/
theorem halyardCompletes : Obligations.HalyardCompletes := by
  refine ⟨fun s m hserves hen hfollows => ⟨?loss, fun rate => ⟨fun hsrc => ?lockOther, fun hsrc => ?lockSource⟩⟩,
    fun s m y k hserves hen hy hk hother => ⟨fun hbad => ?badTrigger, fun hok => ?trigger⟩,
    fun s m y hserves hen hfollows hy => ⟨fun hbad => ?badCode, fun hok htop hnext hroom => ?code⟩,
    fun s m hserves hen hleads hslot => ?timeCode, fun s m b t hserves hen hlocked hedge hslot hnot hpend hdue => ?ownSlot,
    fun kind age fine hkind => ?symbols, by decide⟩
  case loss => exact answers_halyardClockLoss_of_follower hserves hen hfollows
  case lockOther => simpa only [if_neg hsrc] using answers_halyardClockLock_of_follower hserves hen hfollows rate
  case lockSource => simpa only [if_pos hsrc] using answers_halyardClockLock_of_follower hserves hen hfollows rate
  case badTrigger => exact answers_halyardTriggerSymbol_of_other hserves hen hy hk hother (if_pos (by simp [hbad]))
  case trigger => exact answers_halyardTriggerSymbol_of_other hserves hen hy hk hother (if_neg (by simp [hok]))
  case badCode => exact answers_halyardTimeCode_of_bad hserves hen hfollows hy hbad
  case code => exact answers_halyardTimeCode_of_next hserves hen hfollows hy hok htop hnext hroom
  case timeCode => exact answers_halyardSlot_of_timeCode hserves hen hleads hslot
  case ownSlot =>
    exact ⟨s.dev.triggerTaken m, answers_halyardSlot_of_trigger hserves hen hlocked hedge hslot hnot hpend hdue,
      Dev.pend_triggerTaken hpend hdue, Dev.out_triggerTaken ..⟩
  case symbols =>
    have hlt : kind < 4 := by omega
    obtain ⟨-, -, hage, hfine⟩ := mkSym_fields hlt age fine
    exact ⟨symOk_mkSym hlt age fine, hage, hfine⟩

end Sys2Proof.Machine
end

section
/-! Proofs for captures and the flight record (R335 to R353). -/

namespace Sys2Proof.Machine

/-! ## CAP_ARM -/

/-- The device with the slots of a capture settled. -/
def Dev.capSettled (d : Dev) (m : MastId) (x : Desc) (slot : SlotOut) (ow : List Nat) (ns : Nat) : Dev :=
  d.each (List.range ns) (fun i d => d.settleHold m x (slot.ref + i) (ow.getD i 0) slot.err)

/-- Blocks that `ns` slots of `size` bytes hold: the first of them `cap0`, any other `capN` (R342). -/
def capBlocks0 (size th n : Nat) : Nat := (size - 64 - 832) / blockBytes th n
def capBlocksN (size th n : Nat) : Nat := (size - 64) / blockBytes th n
def capBlocks (size th n ns : Nat) : Nat := capBlocks0 size th n + (ns - 1) * capBlocksN size th n

/-- The unit that CAP_ARM without a time arms on slots of `size` bytes (R341, R342). -/
def armedUnit (ring seq ce sd th f n pre post ref ns size last : Nat) : Unit_ :=
  let fits := blockCount th sd pre post ≤ capBlocks size th n ns
  { state := .armed, owner := some (ring, seq), causeEn := ce, startDiv := sd, thin := th, first := f
    count := n, pre := pre, post := if fits then post else clampPost th sd pre (capBlocks size th n ns), clamp := !fits
    at_ := none, slots := (List.range ns).map (ref + ·), cap0 := capBlocks0 size th n, capN := capBlocksN size th n
    events := [], halId := 0, cause := last, trigBeat := 0, trigTime := ⟨0, 0⟩, trigEpoch := 0, div := sd, next := 0, gap := false
    anyGap := false, rateStep := false, stepAt := none, slotIx := 0, kept := [], cancelled := false }

theorem armedUnit_fits {ring seq ce sd th f n pre post ref ns size last : Nat}
    (h : blockCount th sd pre post ≤ capBlocks size th n ns) :
    (armedUnit ring seq ce sd th f n pre post ref ns size last).post = post ∧
      (armedUnit ring seq ce sd th f n pre post ref ns size last).clamp = false := by
  simp [armedUnit, h]

theorem armedUnit_clamped {ring seq ce sd th f n pre post ref ns size last : Nat}
    (h : capBlocks size th n ns < blockCount th sd pre post) :
    (armedUnit ring seq ce sd th f n pre post ref ns size last).post = clampPost th sd pre (capBlocks size th n ns) ∧
      (armedUnit ring seq ce sd th f n pre post ref ns size last).clamp = true := by
  simp [armedUnit, Nat.not_le.2 h]

section
variable {s : State} {ring seq u ce sd th f n pre post ns : Nat} {m : MastId} {x : Desc} {slot : SlotOut} {ow : List Nat} {at_ : Stamp}
  (hstarts : Starts s.dev ring seq 0x50 m x) (hperm : x.perm 3 = true)
include hstarts hperm

theorem answers_capArm_of_busy (hbusy : ((s.dev.begun m ring seq).capSettled m x slot ow ns).unitIdle m u = false) :
    Answers (.capArm ring seq u ce sd th f n pre post slot ow ns at_) s
      (((s.dev.begun m ring seq).capSettled m x slot ow ns).complete m x .capBusy) := by
  refine answers_of_starts hstarts rfl ?_
  rw [Dev.need_of_perm hperm]
  exact if_pos (by rw [Dev.capSettled] at hbusy; rw [hbusy]; rfl)

variable (hidle : ((s.dev.begun m ring seq).capSettled m x slot ow ns).unitIdle m u = true)
include hidle

theorem answers_capArm_of_noLanes (hlanes : n = 0 ∨ 24576 < f + n) :
    Answers (.capArm ring seq u ce sd th f n pre post slot ow ns at_) s
      (((s.dev.begun m ring seq).capSettled m x slot ow ns).complete m x .portInvalid) := by
  have hlanes : n = 0 ∨ cellCount < f + n := hlanes
  rw [Dev.capSettled] at hidle
  refine answers_of_starts hstarts rfl ?_
  rw [Dev.need_of_perm hperm]
  exact (if_neg (by rw [hidle]; decide)).trans (if_pos (by
    rcases hlanes with h | h
    · rw [h]; rfl
    · rw [decide_eq_true h, Bool.or_true, Bool.true_or]))

variable (hn : 0 < n) (hend : f + n ≤ 24576)
  (hall : ∀ t, t < 16 → (((s.dev.begun m ring seq).capSettled m x slot ow ns).tile t).enabled = true)
include hn hend hall

omit hstarts hperm hidle in
/-- Lanes in range on enabled tiles pass the check of CAP_ARM. -/
theorem capArm_lanes_pass :
    (n == 0 || decide (cellCount < f + n) || (List.range 16).any (fun t =>
      !(((s.dev.begun m ring seq).capSettled m x slot ow ns).tile t).enabled && decide (t * laneCount < f + n) &&
        decide (f < (t + 1) * laneCount))) = false := by
  have hend : ¬ cellCount < f + n := Nat.not_lt.2 hend
  have hany : (List.range 16).any (fun t =>
      !(((s.dev.begun m ring seq).capSettled m x slot ow ns).tile t).enabled && decide (t * laneCount < f + n) &&
        decide (f < (t + 1) * laneCount)) = false := by
    refine List.any_eq_false.2 (fun t ht => ?_)
    rw [hall t (List.mem_range.1 ht)]
    exact Bool.false_ne_true
  rw [hany, decide_eq_false hend, beq_eq_false_iff_ne.2 (Nat.ne_of_gt hn)]
  rfl

theorem answers_capArm_of_badSettings
    (hbad : ce = 0 ∨ 8 < sd ∨ 7 < th ∨ ((s.dev.begun m ring seq).capSettled m x slot ow ns).depth m ≤ pre) :
    Answers (.capArm ring seq u ce sd th f n pre post slot ow ns at_) s
      (((s.dev.begun m ring seq).capSettled m x slot ow ns).complete m x .capRange) := by
  have hpass := capArm_lanes_pass hn hend hall
  rw [Dev.capSettled] at hidle hbad hpass
  refine answers_of_starts hstarts rfl ?_
  rw [Dev.need_of_perm hperm]
  refine (if_neg (by rw [hidle]; decide)).trans ((if_neg (Bool.eq_false_iff.1 hpass)).trans (if_pos ?_))
  simp only [Bool.or_eq_true, beq_iff_eq, decide_eq_true_eq]
  rcases hbad with h | h | h | h <;> simp only [h, true_or, or_true]

theorem answers_capArm_of_armed (hcause : ce ≠ 0) (hsd : sd ≤ 8) (hth : th ≤ 7)
    (hpre : pre < ((s.dev.begun m ring seq).capSettled m x slot ow ns).depth m) (htime : bit ce 2 = false) (hlost : x.lost = false)
    (herr : slot.err = false) (hslots : ((s.dev.begun m ring seq).capSettled m x slot ow ns).slotsBad m x slot.ref ow ns = none)
    (hns : 0 < ns) (hcap0 : 0 < capBlocks0 ((s.dev.begun m ring seq).slotSize m (refWin slot.ref)) th n)
    (hcapN : 0 < capBlocksN ((s.dev.begun m ring seq).slotSize m (refWin slot.ref)) th n)
    (hroom : blockCount th sd pre 0 ≤ capBlocks ((s.dev.begun m ring seq).slotSize m (refWin slot.ref)) th n ns) :
    let d := (s.dev.begun m ring seq).capSettled m x slot ow ns
    Answers (.capArm ring seq u ce sd th f n pre post slot ow ns at_) s
      ((d.each ((List.range ns).map (slot.ref + ·)) (fun r d => d.holdSlot m x r)).setUnit m u
        (armedUnit ring seq ce sd th f n pre post slot.ref ns ((s.dev.begun m ring seq).slotSize m (refWin slot.ref))
          (match d.unit m u with
            | some v => v.cause
            | none => 0))) := by
  have hpass := capArm_lanes_pass hn hend hall
  rw [Dev.capSettled] at hidle hpass hpre hslots ⊢
  refine answers_of_starts hstarts rfl ?_
  rw [Dev.need_of_perm hperm]
  refine (if_neg (by rw [hidle]; decide)).trans ((if_neg (Bool.eq_false_iff.1 hpass)).trans ((if_neg ?settings).trans
    ((if_neg (by rw [hlost]; decide)).trans ((if_neg (by rw [herr]; decide)).trans ?_))))
  case settings =>
    rw [htime]
    simp only [Bool.or_eq_true, beq_iff_eq, decide_eq_true_eq, Bool.false_and, Bool.false_eq_true, or_false, not_or]
    exact ⟨⟨⟨hcause, Nat.not_lt.2 hsd⟩, Nat.not_lt.2 hth⟩, Nat.not_le.2 hpre⟩
  rw [hslots]
  refine (if_neg (by rw [htime]; exact Bool.false_ne_true)).trans ((if_neg ?room).trans ?_)
  case room =>
    simp only [Bool.or_eq_true, beq_iff_eq, decide_eq_true_eq, not_or]
    exact ⟨⟨⟨Nat.ne_of_gt hns, Nat.ne_of_gt hcap0⟩, Nat.ne_of_gt hcapN⟩, Nat.not_lt.2 hroom⟩
  rw [htime]
  rfl

end

/-! ## Events, CAP_FIRE and CAP_CANCEL -/

theorem answers_captureTimeEvent_of_armed {s : State} {m : MastId} {k : Nat} {u : Unit_} {t : Stamp} (hserves : Serves s.dev m)
    (hunit : s.dev.unit m k = some u) (hat : u.at_ = some t) (harmed : u.state = .armed) (hdue : stampNs t ≤ stampNs s.dev.now)
    (hbus : s.dev.effF m 0x4800 1 1 = 0) :
    Answers (.captureTimeEvent k) s (s.dev.setUnit m k { u with at_ := none, events := u.events ++ [(.time, s.dev.beat, s.dev.now, 0)] }) := by
  have heff (y : Unit_) : (s.dev.setUnit m k y).effF m 0x4800 1 1 = 0 := by rw [← hbus]; cases m <;> rfl
  refine answers_of_serves hserves rfl ?_
  simp only [hunit, hat, harmed]
  exact (if_neg (by simpa using hdue)).trans (if_neg (by rw [heff]; exact Bool.false_ne_true))

section
variable {s : State} {ring seq k : Nat} {m : MastId} {x : Desc} {u : Unit_} (hperm : x.perm 3 = true)
  (hunit : (s.dev.begun m ring seq).unit m k = some u)
include hperm hunit

theorem answers_capFire_of_unit (hstarts : Starts s.dev ring seq 0x51 m x) :
    let d := s.dev.begun m ring seq
    Answers (.capFire ring seq k) s (if u.state = .armed ∧ bit u.causeEn 5 = true then
      (d.setUnit m k { u with events := u.events ++ [(.host, x.acceptedAt, d.stampAt x.acceptedAt, 0)] }).complete m x .ok
      else d.complete m x .badState) := by
  refine answers_of_starts hstarts rfl ?_
  rw [Dev.need_of_perm hperm]
  simp only [hunit, Bool.and_eq_true, beq_iff_eq]

/-- The device after a CAP_CANCEL of the unit `u` (R346). -/
def Dev.capCancel (d : Dev) (m : MastId) (x : Desc) (k : Nat) (u : Unit_) : Dev :=
  match u.state with
  | .idle => d.complete m x .badState
  | .armed => (d.endCapture m k .capCancelled false).complete m x .ok
  | .running => (d.setUnit m k { u with
      post := Nat.min u.post ((d.beat - d.watchStart u.trigBeat) / 200), cancelled := true }).complete m x .ok
  | .draining => (d.endCapture m k .capCancelled false).complete m x .ok

theorem answers_capCancel_of_unit (hstarts : Starts s.dev ring seq 0x52 m x) :
    Answers (.capCancel ring seq k) s ((s.dev.begun m ring seq).capCancel m x k u) := by
  refine answers_of_starts hstarts rfl ?_
  rw [Dev.need_of_perm hperm]
  simp only [hunit]
  rfl

end

/-! ## Triggers and delivery -/

section
variable {s : State} {m : MastId} {k : Nat} {u : Unit_} (hserves : Serves s.dev m)
include hserves

theorem answers_trigOutEnd_of_due {e : Nat} (hout : (s.dev.mast m).gln.trigOut = some e) (hdue : e ≤ s.dev.beat) :
    Answers .trigOutEnd s (({ s.dev with pins := { s.dev.pins with trigOut := false } } : Dev).onGln m (fun g =>
      { g with trigOut := none })) := by
  refine answers_of_serves hserves rfl ?_
  simp only [hout]
  exact if_pos hdue

variable (hunit : s.dev.unit m k = some u)
include hunit

/-- The unit that settled the event `(cs, b, t, i)`. -/
def Dev.settledUnit (d : Dev) (m : MastId) (u : Unit_) (cs : Cause) (b : Nat) (t : Stamp) (i : Nat) : Unit_ :=
  { u with
    state := .running, cause := maskOf [causeBit cs], trigBeat := b, trigTime := stampOf (stampNs t)
    halId := if cs = .halyard then i else 0
    trigEpoch := (d.fab m).epochAt b, div := u.startDiv, next := -(u.pre : Int) }

theorem answers_triggerSettle_of_event {b i : Nat} {cs : Cause} {t : Stamp} (hevent : u.events = [(cs, b, t, i)])
    (harmed : u.state = .armed) (hdue : b + 200 ≤ s.dev.beat) :
    let d := s.dev.setUnit m k (s.dev.settledUnit m u cs b t i)
    Answers (.triggerSettle k) s (if d.effF m 0x4800 6 1 = 1 then
      ({ d with pins := { d.pins with trigOut := true } } : Dev).onGln m (fun g => { g with trigOut := some (s.dev.beat + 10) })
      else d) := by
  have hmin : (u.events.map (fun e => e.2.1)).min? = some b := by rw [hevent]; rfl
  have hfilter : u.events.filter (fun e => e.2.1 == b) = [(cs, b, t, i)] := by simp [hevent]
  have hhal : ((([(cs, b, t, i)] : List (Cause × Nat × Stamp × Nat)).find? (fun e => e.1 == .halyard)).map (fun e => e.2.2.2)).getD 0 =
      if cs = .halyard then i else 0 := by cases cs <;> rfl
  have hbeat (y : Unit_) : (s.dev.setUnit m k y).beat = s.dev.beat := by cases m <;> rfl
  refine answers_of_serves hserves rfl ?_
  simp only [hunit, hmin]
  refine (if_neg (by simp [harmed, hdue])).trans ?_
  simp only [hfilter, hhal, beq_iff_eq, List.map_cons, List.map_nil, List.min?_singleton, Option.getD_some, hbeat]
  rfl

theorem answers_captureWatchRead_of_frame (hstate : u.state = .running ∨ u.state = .draining) (hthin : u.thin = 0)
    (hpost : u.kept? u.next ≤ (u.post : Int)) {f : Frame} (hframe : s.dev.frameOf m u (u.kept? u.next) = some f)
    (hfree : HbmFree s.dev m 4 (1 + (12 * u.count + 63) / 64)) :
    let d := s.dev.hbmUsed m 4 (1 + (12 * u.count + 63) / 64)
    Answers (.captureWatchRead k) s (d.putBlock m k u (d.block u [f] f) (u.kept? u.next + 1)) := by
  have hon : ¬ ((u.state != .running && u.state != .draining) || decide ((u.post : Int) < u.kept? u.next)) = true := by
    rw [decide_eq_false (Int.not_lt.2 hpost)]
    rcases hstate with h | h <;> rw [h] <;> decide
  refine answers_of_serves hserves rfl ?_
  simp only [hunit]
  refine (if_neg hon).trans ?_
  simp only [hframe]
  refine (if_pos (by rw [hthin]; rfl)).trans ?_
  rw [Nat.one_mul]
  exact Dev.hbmGo_of_free hfree _

theorem answers_captureWatchRead_of_missing (hstate : u.state = .running ∨ u.state = .draining)
    (hpost : u.kept? u.next ≤ (u.post : Int)) (hframe : s.dev.frameOf m u (u.kept? u.next) = none)
    (hpending : s.dev.framePending m u (u.kept? u.next) = false) :
    Answers (.captureWatchRead k) s (s.dev.setUnit m k { u with next := u.kept? u.next + 1, gap := true }) := by
  have hon : ¬ ((u.state != .running && u.state != .draining) || decide ((u.post : Int) < u.kept? u.next)) = true := by
    rw [decide_eq_false (Int.not_lt.2 hpost)]
    rcases hstate with h | h <;> rw [h] <;> decide
  refine answers_of_serves hserves rfl ?_
  simp only [hunit]
  refine (if_neg hon).trans ?_
  simp only [hframe]
  exact if_neg (by rw [hpending]; exact Bool.false_ne_true)

theorem answers_captureRateStep_of_late (hrunning : u.state = .running) (hedge : s.dev.watchEdge = true)
    (hlate : s.dev.depth m < 2 * s.dev.lag m u) (hfirst : u.stepAt = none) (hdiv : u.div < 8) :
    Answers (.captureRateStep k) s (s.dev.setUnit m k { u with div := u.div + 1, rateStep := true, stepAt := some s.dev.beat }) := by
  refine answers_of_serves hserves rfl ?_
  simp only [hunit, hfirst]
  exact if_pos (by simp [hrunning, hedge, hlate, hdiv])

theorem answers_captureStop_of_end (hrunning : u.state = .running)
    (hend : s.dev.watchStart u.trigBeat + 200 * (u.post + 1) ≤ s.dev.beat) :
    Answers (.captureStop k) s (s.dev.setUnit m k { u with state := .draining }) := by
  refine answers_of_serves hserves rfl ?_
  simp only [hunit]
  exact if_pos (by simp [hrunning, hend])

theorem answers_captureDrainEnd_of_last (hdraining : u.state = .draining) (hlast : (u.post : Int) < u.kept? u.next) :
    Answers (.captureDrainEnd k) s (s.dev.endCapture m k u.status false) := by
  refine answers_of_serves hserves rfl ?_
  simp only [hunit]
  exact if_pos (by simp [hdraining, hlast])

end

/-! ## The flight record -/

section
variable {s : State} {m : MastId} {f : Frame} (hserves : Serves s.dev m) (hbuild : (s.dev.mast m).gln.build = some f)
include hserves hbuild

theorem answers_flightRecordFrame_of_granted (hfree : HbmFree s.dev m 3 (1 + 288 * s.dev.enabledTiles.length)) :
    Answers .flightRecordFrame s (((s.dev.hbmUsed m 3 (1 + 288 * s.dev.enabledTiles.length)).putFrame m f).frameTel m f) := by
  refine answers_of_serves hserves rfl ?_
  simp only [hbuild]
  exact Dev.hbmGo_of_free hfree _

theorem answers_frameDropped_of_late (hlate : f.beat + 399 ≤ s.dev.beat) :
    Answers .frameDropped s ((s.dev.onGln m (fun g => { g with gap := true, build := none })).flag m 0x4808 33) := by
  refine answers_of_serves hserves rfl ?_
  simp only [hbuild]
  exact if_pos hlate

end

/-- Settles O45, event by event. -/
theorem capturesComplete : Obligations.CapturesComplete := by
  refine ⟨fun s ring seq u ce sd th f n pre post ns m x slot ow at_ hstarts hperm => ⟨fun hbusy => ?busy, fun hidle hlanes => ?lanes,
      fun hidle hn hend hall hbad => ?settings, fun hidle hn hend hall hcause hsd hth hpre htime hlost herr hslots hns => ?armed⟩,
    fun s m ns hserves => ?trigIn, fun s m k u t hserves hunit hat harmed hdue hbus => ?timeEvent,
    fun s ring seq k m x u hperm => ⟨fun hstarts hunit => ?fire,
      fun hstarts hunit => ⟨fun hidle => ?cancelIdle, fun h => ?cancelEnds, fun hrunning => ?cancelRunning⟩⟩,
    fun s m k b i u cs t hserves hunit hevent harmed hdue => ?settle, fun s m e hserves hout hdue => ?trigOutEnd,
    fun s m k u hserves hunit hstate hthin hpost => ⟨fun f hframe hfree => ?read, fun hframe hpending => ?missing⟩,
    fun s m k u hserves hunit => ⟨fun hrunning hedge hlate hfirst hdiv => ?rateStep, fun hrunning hend => ?stop,
      fun hdraining hlast => ?drainEnd⟩,
    fun s m f hserves hbuild => ⟨fun hfree => ?record, fun hlate => ?dropped⟩⟩
  case busy => exact answers_capArm_of_busy hstarts hperm hbusy
  case lanes => exact answers_capArm_of_noLanes hstarts hperm hidle hlanes
  case settings => exact answers_capArm_of_badSettings hstarts hperm hidle hn hend hall hbad
  case armed =>
    intro blk cap0 capN C hcap0 hcapN hroom
    exact ⟨_, answers_capArm_of_armed hstarts hperm hidle hn hend hall hcause hsd hth hpre htime hlost herr hslots hns hcap0 hcapN hroom,
      rfl, rfl, rfl, rfl, rfl, rfl, rfl, armedUnit_fits, armedUnit_clamped⟩
  case trigIn => exact answers_of_serves hserves rfl rfl
  case timeEvent => exact answers_captureTimeEvent_of_armed hserves hunit hat harmed hdue hbus
  case fire => exact answers_capFire_of_unit hperm hunit hstarts
  case cancelIdle => simpa only [Dev.capCancel, hidle] using answers_capCancel_of_unit hperm hunit hstarts
  case cancelEnds =>
    have hcancel := answers_capCancel_of_unit hperm hunit hstarts
    rcases h with h | h <;> simpa only [Dev.capCancel, h] using hcancel
  case cancelRunning => simpa only [Dev.capCancel, hrunning] using answers_capCancel_of_unit hperm hunit hstarts
  case settle => exact answers_triggerSettle_of_event hserves hunit hevent harmed hdue
  case trigOutEnd => exact answers_trigOutEnd_of_due hserves hout hdue
  case read => exact answers_captureWatchRead_of_frame hserves hunit hstate hthin hpost hframe hfree
  case missing => exact answers_captureWatchRead_of_missing hserves hunit hstate hpost hframe hpending
  case rateStep => exact answers_captureRateStep_of_late hserves hunit hrunning hedge hlate hfirst hdiv
  case stop => exact answers_captureStop_of_end hserves hunit hrunning hend
  case drainEnd => exact answers_captureDrainEnd_of_last hserves hunit hdraining hlast
  case record => exact answers_flightRecordFrame_of_granted hserves hbuild hfree
  case dropped => exact answers_frameDropped_of_late hserves hbuild hlate

end Sys2Proof.Machine
end

section
/-! Proofs for streams, shapes, packets and the calendar (R354 to R366). -/

namespace Sys2Proof.Machine

section
variable {s : State} {ring seq i : Nat} {m : MastId} {x : Desc} (hopen : (s.dev.mast m).pen.protect = false)
include hopen

/-! ## STREAM_OPEN and STREAM_CLOSE -/

section
variable {slot : SlotIn} (hstarts : Starts s.dev ring seq 0x60 m x) (hperm : x.perm 6 = true)
include hstarts hperm

theorem answers_streamOpen_of_open
    (hstream : (((s.dev.begun m ring seq).settleHold m x slot.ref slot.owner slot.err).stream m i).isSome = true) :
    Answers (.streamOpen ring seq i slot) s
      (((s.dev.begun m ring seq).settleHold m x slot.ref slot.owner slot.err).complete m x .badState) := by
  refine answers_of_lasting hstarts hopen rfl ?_
  rw [Dev.streamOpenBody, Dev.need_of_perm hperm]
  exact if_pos hstream

theorem answers_streamOpen_of_sound {d : Dev}
    (hstream : ((s.dev.begun m ring seq).settleHold m x slot.ref slot.owner slot.err).stream m i = none)
    (hsound : SlotSound ((s.dev.begun m ring seq).settleHold m x slot.ref slot.owner slot.err) m x slot)
    (hkind : slot.kind = 0x60) (hlen : slot.len = 64) (hzero : streamResvZero slot.bytes = true)
    (hd : (let b := (((s.dev.begun m ring seq).settleHold m x slot.ref slot.owner slot.err).scanned m x slot).returnIn m x slot false
      let e := streamDefOf slot.bytes
      if b.streamOk m e = false then b.complete m x .streamInvalid
      else
        let y := Stream.fresh e x.ctx b.nextWatch (tget 0 (b.mast m).eg.V e.port) b.beat
        (b.setStream m i (some (if e.ipfix then y.addTemplate (b.regF m 0x6080 0 32) b.beat b.now (b.fab m).epoch else y))).complete m x
          .ok) = d) : Answers (.streamOpen ring seq i slot) s d := by
  refine answers_of_lasting hstarts hopen rfl ?_
  rw [Dev.streamOpenBody, Dev.need_of_perm hperm]
  refine (if_neg (by rw [hstream]; exact Bool.false_ne_true)).trans ((Dev.slotIn_of_sound hsound _ _).trans ((if_pos hzero).trans ?_))
  simp only [hkind, hlen, bne_self_eq_false, Bool.not_true, Bool.false_or, Bool.not_eq_true']
  exact hd

end

section
variable {y : Stream} (hstarts : Starts s.dev ring seq 0x61 m x) (hperm : x.perm 6 = true)
  (hstream : (s.dev.begun m ring seq).stream m i = some y)
include hstarts hperm hstream

theorem answers_streamClose_of_other (howner : y.owner ≠ x.ctx) (hadmin : x.perm 9 = false) :
    Answers (.streamClose ring seq i) s ((s.dev.begun m ring seq).complete m x .notPermitted) := by
  refine answers_of_lasting hstarts hopen rfl ?_
  rw [Dev.streamCloseBody, Dev.need_of_perm hperm]
  simp only [hstream]
  exact if_pos (by simp [howner, hadmin])

theorem answers_streamClose_of_permitted (hmine : y.owner = x.ctx ∨ x.perm 9 = true) :
    Answers (.streamClose ring seq i) s (if y.closing.isSome then (s.dev.begun m ring seq).complete m x .badState
      else (s.dev.begun m ring seq).closeStream m i (some (x.ring, x.ent.seq))) := by
  refine answers_of_lasting hstarts hopen rfl ?_
  rw [Dev.streamCloseBody, Dev.need_of_perm hperm]
  simp only [hstream]
  exact if_neg (by rcases hmine with h | h <;> simp [h])

end

/-! ## SHAPE_SET -/

section
variable {k rate burst wt : Nat} (hstarts : Starts s.dev ring seq 0x62 m x) (hperm : x.perm 9 = true)
include hstarts hperm

theorem answers_shapeSet_of_ring {r : Ring} (hkind : k % 2 = 0) (hring : (s.dev.begun m ring seq).ring m i = some r)
    (hcmd : r.hasCmd = true) :
    let d := s.dev.begun m ring seq
    Answers (.shapeSet ring seq k i rate burst wt) s (if wt = 0 then d.complete m x .streamInvalid
      else (d.onRing m i (fun r => { r with weight := wt, newShape := some (rate, burst) })).complete m x .ok) := by
  refine answers_of_lasting hstarts hopen rfl ?_
  rw [Dev.shapeSetBody, Dev.need_of_perm hperm]
  simp only [hkind, hring, hcmd, beq_self_eq_true, if_true, Bool.not_true, Bool.false_eq_true, if_false, beq_iff_eq]

theorem answers_shapeSet_of_stream {y : Stream} (hkind : k % 2 = 1) (hstream : (s.dev.begun m ring seq).stream m i = some y) :
    let d := s.dev.begun m ring seq
    Answers (.shapeSet ring seq k i rate burst wt) s
      (if wt = 0 ∨ burst < frameBytes y.defn (d.mtu m y.defn.port) then d.complete m x .streamInvalid
       else (d.setStream m i (some { y with weight := wt, newShape := some (rate, Nat.min burst 16777216) })).complete m x .ok) := by
  refine answers_of_lasting hstarts hopen rfl ?_
  rw [Dev.shapeSetBody, Dev.need_of_perm hperm]
  refine (if_neg (by rw [hkind]; decide)).trans ?_
  simp only [hstream, Bool.or_eq_true, beq_iff_eq, decide_eq_true_eq]

end
end

/-! ## Streams under way -/

section
variable {s : State} {m : MastId} {i : Nat} {y : Stream} (hserves : Serves s.dev m) (hstream : s.dev.stream m i = some y)
include hserves hstream

theorem answers_streamCloseDrained_of_sent {c : Nat × Option (Nat × Nat)} {b : Nat} (hclosing : y.closing = some c)
    (hstop : y.stopAt = some b) (hdue : b ≤ s.dev.beat) (hsent : y.pkts = []) :
    Answers (.streamCloseDrained i) s (s.dev.endStream m i c.2) := by
  refine answers_of_serves hserves rfl ?_
  simp only [hstream, hclosing, hstop]
  exact if_pos (by simp [hdue, hsent])

theorem answers_streamCloseTimeout_of_due {c : Nat × Option (Nat × Nat)} (hclosing : y.closing = some c) (hdue : c.1 ≤ s.dev.beat) :
    Answers (.streamCloseTimeout i) s (s.dev.endStream m i c.2) := by
  refine answers_of_serves hserves rfl ?_
  simp only [hstream, hclosing]
  exact if_pos hdue

theorem answers_packetCloseTimeout_of_stream :
    Answers (.packetCloseTimeout i) s (s.dev.setStream m i (some { y with
      pkts := y.pkts.map (fun p => if p.openedAt + 200 ≤ s.dev.beat then p.close s.dev.now else p) })) := by
  refine answers_of_serves hserves rfl ?_
  simp only [hstream]

theorem answers_templateResend_of_due (hipfix : y.defn.ipfix = true) (hstop : y.stopAt = none)
    (hdue : y.tmplAt + s.dev.regF m 0x6080 32 16 * 10000000 ≤ s.dev.beat) :
    Answers (.templateResend i) s (s.dev.setStream m i (some (y.addTemplate (s.dev.regF m 0x6080 0 32) s.dev.beat s.dev.now
      (s.dev.fab m).epoch))) := by
  refine answers_of_serves hserves rfl ?_
  simp only [hstream]
  exact if_pos (by simp [hipfix, hstop, hdue])

end

/-! ## Ports and the calendar -/

theorem answers_portTransmit_of_running {s : State} {m : MastId} {p : Nat} (hserves : Serves s.dev m) (hen : s.dev.ethEn m p = true)
    (hlink : tget false (s.dev.mast m).eg.link p = true) (hfence : s.dev.isFenced m ⟨.eth, p⟩ = false) {d : Dev}
    (hd : (match (s.dev.consultPort m p).portWinner m p with
      | none => s.dev.consultPort m p
      | some (i, t) => match (s.dev.consultPort m p).stream m i with
        | none => s.dev.consultPort m p
        | some y => match y.head with
          | none => s.dev.consultPort m p
          | some h => (s.dev.consultPort m p).sendPacket m p i t y h.1 h.2) = d) : Answers (.portTransmit p) s d := by
  refine answers_of_serves hserves rfl (Eq.trans (if_neg ?_) hd)
  simp [hen, hlink, hfence]

section
variable {s : State} {m : MastId} (hserves : Serves s.dev m) (htick : s.dev.now.ns % 1000 = 0) (hrings : (s.dev.hif m).rings = [])
include hserves htick hrings

theorem answers_calendarTick_of_stream {i : Nat} {y : Stream} {v : Nat} (hstreams : (s.dev.mast m).eg.streams = [(i, some y)])
    (hwheel : y.wheel = some v) (hdue : v ≤ stampNs s.dev.now) (hstream : s.dev.stream m i = some y) :
    Answers .calendarTick s (s.dev.setStream m i (some { y.refill s.dev.beat with wheel := none })) := by
  refine answers_of_serves hserves rfl ((if_neg (by simp [htick])).trans ?_)
  simp only [hrings, hstreams, List.map_nil, List.map_cons, Dev.each, List.foldl_nil, List.foldl_cons, hstream, hwheel]
  exact if_pos (decide_eq_true hdue)

theorem answers_calendarTick_of_empty (hstreams : (s.dev.mast m).eg.streams = []) : Answers .calendarTick s s.dev := by
  refine answers_of_serves hserves rfl ((if_neg (by simp [htick])).trans ?_)
  simp only [hrings, hstreams, List.map_nil, Dev.each, List.foldl_nil]

end

/-- Settles O46, clause by clause. -/
theorem egressCompletes : Obligations.EgressCompletes := by
  refine ⟨fun s ring seq i slot m x hstarts hopen hperm => ⟨fun hstream => ?openBusy,
      fun hstream hsound hkind hlen hzero => ⟨fun hbad => ?openInvalid, fun hok hplain => ?opened⟩⟩,
    fun s ring seq i m x y hstarts hopen hperm hstream => ⟨fun howner hadmin => ?closeOther, fun hmine hclosing => ?closeTwice,
      fun hmine hclosing => ?close⟩,
    fun s m i y c hserves hstream hclosing => ⟨fun b hstop hdue hsent => ?drained, fun hdue => ?timeout⟩,
    fun s ring seq k i rate burst wt m x hstarts hopen hperm => ⟨fun r hkind hring hcmd => ?shapeRing, fun y hkind hstream => ?shapeStream⟩,
    fun s m i y hserves hstream => ⟨?packet, fun hipfix hstop hdue => ?template⟩,
    fun s m p i t y h hserves hen hlink hfence => ⟨fun hnone => ?idlePort, fun hwin hstream hhead => ?send⟩,
    fun s m hserves htick hrings => ⟨fun i y hstreams ⟨v, hwheel, hdue⟩ hstream => ?tick, fun hstreams => ?idleTick⟩⟩
  case openBusy => exact answers_streamOpen_of_open (by simpa using hopen) hstarts hperm hstream
  case openInvalid =>
    exact answers_streamOpen_of_sound (by simpa using hopen) hstarts hperm hstream hsound hkind hlen hzero (if_pos hbad)
  case opened =>
    refine answers_streamOpen_of_sound (by simpa using hopen) hstarts hperm hstream hsound hkind hlen hzero
      ((if_neg (by rw [hok]; exact Bool.true_eq_false.mp)).trans ?_)
    rw [hplain]
    rfl
  case closeOther => exact answers_streamClose_of_other (by simpa using hopen) hstarts hperm hstream howner hadmin
  case closeTwice =>
    have h := answers_streamClose_of_permitted (by simpa using hopen) hstarts hperm hstream hmine
    rwa [if_pos hclosing] at h
  case close =>
    have h := answers_streamClose_of_permitted (by simpa using hopen) hstarts hperm hstream hmine
    rwa [hclosing] at h
  case drained => exact answers_streamCloseDrained_of_sent hserves hstream hclosing hstop hdue hsent
  case timeout => exact answers_streamCloseTimeout_of_due hserves hstream hclosing hdue
  case shapeRing => exact answers_shapeSet_of_ring (by simpa using hopen) hstarts hperm hkind hring hcmd
  case shapeStream => exact answers_shapeSet_of_stream (by simpa using hopen) hstarts hperm hkind hstream
  case packet => exact answers_packetCloseTimeout_of_stream hserves hstream
  case template => exact answers_templateResend_of_due hserves hstream hipfix hstop hdue
  case idlePort => exact answers_portTransmit_of_running hserves hen hlink hfence (by rw [hnone])
  case send => exact answers_portTransmit_of_running hserves hen hlink hfence (by simp only [hwin, hstream, hhead])
  case tick => exact answers_calendarTick_of_stream hserves htick hrings hstreams hwheel hdue hstream
  case idleTick => exact answers_calendarTick_of_empty hserves htick hrings hstreams

end Sys2Proof.Machine
end

section
/-! Proofs for the Ethernet ports, bandwidth windows and counters (R359, R360, R367 to R374). -/

namespace Sys2Proof.Machine

/-! ## Port registers -/

section
variable {s : State} {p : Nat} {w : RegWr} {info : RegInfo} (hp : p < 2)
include hp

theorem answers_ethPortWrite_of_control (hw : Writable s.dev (0x6000 + 0x40 * p) w info) :
    let off := 0x6000 + 0x40 * p
    let old := s.dev.reg w.mast off
    let v := s.dev.written off w info
    Answers (.ethPortWrite off w) s (s.dev.setReg w.mast off (plainWrite info old
      (if fld old 0 1 = 1 ∨ fld v 16 14 < 1280 ∨ 9000 < fld v 16 14 then setFld v 16 14 (fld old 16 14) else v))) := by
  have hat : inArr (0x6000 + 0x40 * p) (0x6000 + 0) 0x40 2 = true := decide_eq_true (by omega)
  refine answers_of_run rfl ((if_pos hat).trans ((Dev.barWrite_of_writable hw _).trans ?_))
  simp only [Bool.or_eq_true, beq_iff_eq, decide_eq_true_eq, or_assoc]

theorem answers_ethPortWrite_of_address {k : Nat} (hk : k < 4) (hw : Writable s.dev (0x6008 + 0x40 * p + 8 * k) w info) :
    let off := 0x6008 + 0x40 * p + 8 * k
    Answers (.ethPortWrite off w) s (if s.dev.ethEn w.mast p = true then s.dev
      else s.dev.setReg w.mast off (plainWrite info (s.dev.reg w.mast off) (s.dev.written off w info))) := by
  have hcontrol : ¬ inArr (0x6008 + 0x40 * p + 8 * k) (0x6000 + 0) 0x40 2 = true := fun h => by
    have := of_decide_eq_true h
    omega
  have hport : ¬ inArr (0x6008 + 0x40 * p + 8 * k) (0x6000 + 0x28) 0x40 2 = true := fun h => by
    have := of_decide_eq_true h
    omega
  have haddress : (inArr (0x6008 + 0x40 * p + 8 * k) (0x6000 + 8) 0x40 2 || inArr (0x6008 + 0x40 * p + 8 * k) (0x6000 + 0x10) 0x40 2 ||
      inArr (0x6008 + 0x40 * p + 8 * k) (0x6000 + 0x18) 0x40 2 || inArr (0x6008 + 0x40 * p + 8 * k) (0x6000 + 0x20) 0x40 2) = true := by
    simp only [inArr, Bool.or_eq_true, decide_eq_true_eq]
    omega
  have hindex : (0x6008 + 0x40 * p + 8 * k - 0x6000) / 0x40 = p := by omega
  refine answers_of_run rfl ((if_neg hcontrol).trans ((if_neg hport).trans ((if_pos haddress).trans
    ((Dev.barWrite_of_writable hw _).trans ?_))))
  simp only [hindex]

end

/-! ## Frames and links -/

theorem answers_ethFrameReceive_of_up {s : State} {m : MastId} {p : Nat} (hp : p < 2) (hen : s.dev.ethEn m p = true)
    (hlink : tget false (s.dev.mast m).eg.link p = true) (n : Nat) (f : EthFrame) {d : Dev}
    (hd : (let c := (s.dev.pmc m 0x071 [p] n).moved m (49 + p) 0 n
      match f with
      | .ptp => c
      | .otherFrame => c.count m (ethReg p + 0x30) 0 32 1
      | .badFcs => c.count m (ethReg p + 0x30) 32 32 1) = d) : Answers (.ethFrameReceive m p n f) s d :=
  answers_of_run rfl (Eq.trans (if_neg (by simp [hp, hen, hlink])) hd)

section
variable {s : State} {m : MastId} {p : Nat} (hp : p < 2)
include hp

theorem answers_ethernetLinkLost_of_up (hlink : tget false (s.dev.mast m).eg.link p = true) :
    Answers (.ethernetLinkLost m p) s ((s.dev.setLink m p false).report m (198 + p) 1 p 0 none) :=
  answers_of_run rfl (if_pos (by simp [hp, hlink]))

theorem answers_ethernetLinkUp_of_enabled (hen : s.dev.ethEn m p = true) : Answers (.ethernetLinkUp m p) s (s.dev.setLink m p true) :=
  answers_of_run rfl (if_pos (by simp [hp, hen]))

theorem answers_rsFecErrorLimit_of_over {n : Nat} (hn : 1000 < n) :
    Answers (.rsFecErrorLimit m p n) s ((s.dev.report m (198 + p) 2 p (BitVec.ofNat 32 n) (some ⟨.eth, p⟩)).ethFenced m
      (some ⟨.eth, p⟩)) :=
  answers_of_run rfl (if_pos (by simp [hp, hn]))

end

/-! ## Bandwidth windows -/

/-- The bytes of interface `i` counted in a window: those that the rows moved, and those of HBM (R374). -/
def Egress.moved (e : Egress) (hbm : List (Nat × Nat)) (i : Nat) : Nat × Nat :=
  let add := if 16 ≤ i && i < 48 then hbm.getD (i - 16) (0, 0) else (0, 0)
  let v := tget (0, 0) e.bwNow i
  (v.1 + add.1, v.2 + add.2)

/-- The counters of a mast at a window's end. -/
def Egress.windowEnd (e : Egress) (hbm : List (Nat × Nat)) (win : Nat) (now : Stamp) : Egress :=
  { e with
    bw := (List.range 51).foldl (fun t i => tset (0, 0) t i (mbps (e.moved hbm i).1 win, mbps (e.moved hbm i).2 win)) []
    bwEnd := now, bwNow := [] }

theorem tget_bw_windowEnd (e : Egress) (hbm : List (Nat × Nat)) (win : Nat) (now : Stamp) {i : Nat} (hi : i < 51) :
    tget (0, 0) (e.windowEnd hbm win now).bw i = (mbps (e.moved hbm i).1 win, mbps (e.moved hbm i).2 win) := by
  have h := tget_foldl_tset_range (0, 0) (fun i => (mbps (e.moved hbm i).1 win, mbps (e.moved hbm i).2 win)) 0 51 [] i
  simp only [Nat.zero_add, Nat.sub_zero] at h
  rw [Egress.windowEnd, h, if_pos ⟨Nat.zero_le i, hi⟩]

theorem answers_bandwidthWindowEnd_of_edge {s : State} {m : MastId} (hbm : List (Nat × Nat)) (hwin : s.dev.effF m 0xC000 0 16 ≠ 0)
    (hedge : s.dev.now.ns % (s.dev.effF m 0xC000 0 16 * 20000) = 0) :
    Answers (.bandwidthWindowEnd m hbm) s (s.dev.onEg m (fun e => e.windowEnd hbm (s.dev.effF m 0xC000 0 16) s.dev.now)) :=
  answers_of_run rfl (if_neg (by simp [hwin, hedge]))

/-! ## Snapshots -/

theorem answers_counterSnap_of_free {s : State} {ring seq : Nat} {slot : SlotOut} {clear : Bool} {m : MastId} {x : Desc}
    (hstarts : Starts s.dev ring seq 0x63 m x) (hperm : x.perm 4 = true) (hfree : SlotFree (s.dev.begun m ring seq) m x slot) :
    Answers (.counterSnap ring seq slot clear) s
      (((s.dev.begun m ring seq).heldOut m x slot).onEg m (fun e => { e with snap := e.snap ++ [(ring, seq, slot.ref, clear)] })) := by
  refine answers_of_starts hstarts rfl ?_
  rw [Dev.need_of_perm hperm]
  exact Dev.slotOut_of_free hfree _ _

theorem answers_counterSnapLatch_of_one {s : State} {m : MastId} {j : Nat × Nat × Nat × Bool} (hserves : Serves s.dev m)
    (hsnap : (s.dev.mast m).eg.snap = [j]) (hedge : s.dev.now.ns % 20000 = 19900) :
    Answers .counterSnapLatch s ((s.dev.onEg m (fun e =>
      if j.2.2.2 then { e with snap := [], ctr := [], wrap := [] } else { e with snap := [] })).giveSnapshot m
        (nextLabel s.dev.now) (s.dev.snapshot m) j) := by
  refine answers_of_serves hserves rfl ((if_neg (by simp [hedge, hsnap])).trans ?_)
  simp only [hsnap, List.any_cons, List.any_nil, Bool.or_false, Dev.each, List.foldl_cons, List.foldl_nil, Dev.now_onEg]

/-! ## Counter selection -/

section
variable {s : State} {k : Nat} {w : RegWr} {info : RegInfo} (hk : k < 256) (hw : Writable s.dev (0xC800 + 8 * k) w info)
include hk hw

theorem answers_pmcSelWrite_of_unlisted (hbad : pmcSelOk (s.dev.written (0xC800 + 8 * k) w info) = false) :
    Answers (.pmcSelWrite k w) s (s.dev.flag w.mast 0xC008 32) :=
  answers_of_run rfl ((if_neg (Nat.not_le.2 hk)).trans ((Dev.barWrite_of_writable hw _).trans (if_pos (by simp [hbad]))))

theorem answers_pmcSelWrite_of_listed (hok : pmcSelOk (s.dev.written (0xC800 + 8 * k) w info) = true) :
    let off := 0xC800 + 8 * k
    Answers (.pmcSelWrite k w) s ((s.dev.setReg w.mast off (plainWrite info (s.dev.reg w.mast off) (s.dev.written off w info))).onEg
      w.mast (fun e => { e with selWritten := if e.selWritten.contains k then e.selWritten else e.selWritten ++ [k] })) :=
  answers_of_run rfl ((if_neg (Nat.not_le.2 hk)).trans ((Dev.barWrite_of_writable hw _).trans (if_neg (by simp [hok]))))

end

/-- The selection is among those to take up. -/
theorem contains_selWritten (l : List Nat) (k : Nat) : (if l.contains k then l else l ++ [k]).contains k = true := by
  split
  · assumption
  · exact List.contains_iff_mem.2 (List.mem_append_right l (List.mem_singleton_self k))

/-- Settles O47, clause by clause. -/
theorem portsAndCountersComplete : Obligations.PortsAndCountersComplete := by
  refine ⟨fun s p w info hp hw => ?control, fun s p k w info hp hk hw => ?address, fun s m p n hp hen hlink => ⟨?ptp, ?other, ?badFcs⟩,
    fun s m p hp => ⟨fun hlink => ?linkLost, fun hen => ?linkUp, fun n hn => ?rsFec⟩,
    fun s m hbm hwin hedge => ?bandwidth, fun s ring seq slot clear m x hstarts hperm hfree => ?snap,
    fun s m j hserves hsnap hedge => ?latch, fun s k w info hk hw => ⟨fun hbad => ?unlisted, fun hok => ?listed⟩⟩
  case control => exact answers_ethPortWrite_of_control hp hw
  case address => exact answers_ethPortWrite_of_address hp hk hw
  case ptp => exact answers_ethFrameReceive_of_up hp hen hlink n .ptp rfl
  case other =>
    exact answers_ethFrameReceive_of_up hp hen hlink n .otherFrame (by rw [show ethReg p + 0x30 = 0x6030 + 0x40 * p by unfold ethReg; omega])
  case badFcs =>
    exact answers_ethFrameReceive_of_up hp hen hlink n .badFcs (by rw [show ethReg p + 0x30 = 0x6030 + 0x40 * p by unfold ethReg; omega])
  case linkLost => exact answers_ethernetLinkLost_of_up hp hlink
  case linkUp => exact answers_ethernetLinkUp_of_enabled hp hen
  case rsFec => exact answers_rsFecErrorLimit_of_over hp hn
  case bandwidth =>
    refine ⟨_, answers_bandwidthWindowEnd_of_edge hbm hwin hedge, ?_, ?_, fun i hi => ?_⟩
    all_goals rw [Dev.onEg, Dev.mast_onMast]
    · rfl
    · rfl
    · rw [tget_bw_windowEnd _ _ _ _ hi]
      simp only [Egress.moved, Bool.and_eq_true, decide_eq_true_eq]
  case snap => exact answers_counterSnap_of_free hstarts hperm hfree
  case latch => exact answers_counterSnapLatch_of_one hserves hsnap hedge
  case unlisted => exact answers_pmcSelWrite_of_unlisted hk hw hbad
  case listed =>
    refine ⟨_, answers_pmcSelWrite_of_listed hk hw hok, ?_, ?_⟩
    · rw [Dev.onEg, Dev.mast_onMast]
      exact contains_selWritten ..
    · rw [Dev.onEg, Dev.reg, Dev.mast_onMast]
      exact Dev.reg_setReg ..

end Sys2Proof.Machine
end

section
/-! Proofs for fault reports, Winnow tests and the fault registers (R377 to R392, R498). -/

namespace Sys2Proof.Machine

/-! ## The order of a cycle's reports (R379) -/

/-- Logging in order is an insertion sort. -/
theorem logOrder_eq_insertionSort (l : List FaultMsg) : logOrder l = l.insertionSort (fun a b => logsFirst a b = true) := by
  induction l with
  | nil => rfl
  | cons r l ih => rw [List.insertionSort_cons_eq_take_drop, ← ih, logOrder]; simp only [Bool.decide_eq_true, decide_not]

theorem logsFirst_iff (a b : FaultMsg) : logsFirst a b = true ↔ b.sev < a.sev ∨ (a.sev = b.sev ∧ a.source ≤ b.source) := by
  simp only [logsFirst, Bool.or_eq_true, Bool.and_eq_true, decide_eq_true_eq, beq_iff_eq]

theorem logOrder_sorted (l : List FaultMsg) : (logOrder l).Pairwise (fun a b => logsFirst a b = true) := by
  have htotal : Std.Total (fun a b : FaultMsg => logsFirst a b = true) := ⟨fun a b => by simp only [logsFirst_iff]; omega⟩
  have htrans : IsTrans FaultMsg (fun a b => logsFirst a b = true) := ⟨fun a b c => by simp only [logsFirst_iff]; omega⟩
  rw [logOrder_eq_insertionSort]
  exact List.pairwise_insertionSort _ l

theorem logOrder_perm (l : List FaultMsg) : (logOrder l).Perm l := by
  rw [logOrder_eq_insertionSort]
  exact List.perm_insertionSort _ l

/-! ## Reports -/

theorem answers_faultReport_of_listed {s : State} {m : MastId} {l : List FaultMsg} (hrunning : (s.dev.mast m).boot.stage ≠ .reset)
    (hlisted : l.all reportListed = true) :
    Answers (.faultReport m l) s ((s.dev.reports m l).each l (fun r d => d.ethFenced m r.fence)) :=
  answers_of_run rfl (if_neg (by simp [hrunning, hlisted]))

theorem Dev.reports_one_of_lasting {d : Dev} {m : MastId} {r : FaultMsg} {u : FUnit} (hfence : r.fence = some u)
    (hlasting : d.isLasting m u = true) : d.reports m [r] = d.count m 0x7008 48 16 1 := by
  simp [Dev.reports, Dev.logAll, logOrder, Dev.each, hfence, hlasting]

theorem Dev.reports_one_of_unit {d : Dev} {m : MastId} {r : FaultMsg} {u : FUnit} (hfence : r.fence = some u)
    (hlasting : d.isLasting m u = false) :
    d.reports m [r] = ((d.logFault m r.source r.sev r.unit r.detail).fence m u r.source).classify m u := by
  simp [Dev.reports, Dev.logAll, logOrder, Dev.each, hfence, hlasting]

theorem Dev.reports_one_of_no_unit {d : Dev} {m : MastId} {r : FaultMsg} (hfence : r.fence = none) :
    d.reports m [r] = d.logFault m r.source r.sev r.unit r.detail := by
  simp [Dev.reports, Dev.logAll, logOrder, Dev.each, hfence]

theorem answers_faultVectorHoldoffEnd_of_due {s : State} {m : MastId} {b : Nat} (hat : (s.dev.flt m).irqAt = some b)
    (hdue : b + 100 ≤ s.dev.beat) :
    Answers (.faultVectorHoldoffEnd m) s (if (s.dev.flt m).irqPend then
      (s.dev.msix m 0).onFlt m (fun f => { f with irqAt := some s.dev.beat, irqPend := false })
      else s.dev.onFlt m (fun f => { f with irqAt := none })) := by
  refine answers_of_run rfl ?_
  simp only [hat]
  exact if_neg (Nat.not_lt.2 hdue)

theorem answers_pcieErrorCompletion_of_listed {s : State} {m : MastId} {k : Nat} (hserves : Serves s.dev m) (hk : k ≤ 5) (i : Nat) :
    Answers (.pcieErrorCompletion k i) s ((if k == 4 && i == 0xFFFF then s.dev.onHif m (fun h => { h with polled := false })
      else s.dev).pcieErr m k i) :=
  answers_of_serves hserves rfl (if_neg (Nat.not_lt.2 hk))

/-! ## Winnow tests -/

theorem answers_winnowTestStart_of_one {s : State} {m : MastId} {u : FUnit} (hedge : s.dev.watchEdge = true)
    (hqueue : (s.dev.flt m).queue = [u]) (hrunning : (s.dev.flt m).running = []) :
    Answers (.winnowTestStart m) s
      (s.dev.onFlt m (fun f => { f with queue := [], running := [⟨u, s.dev.beat, s.dev.testBeats u, false, false, []⟩] })) := by
  have hfree : s.dev.tileFree m u = true := by
    unfold Dev.tileFree
    rw [hrunning]
    cases unitTile u <;> rfl
  have hqueue' : (s.dev.mast m).flt.queue = [u] := hqueue
  have hrunning' : (s.dev.mast m).flt.running = [] := hrunning
  refine answers_of_run rfl ((if_pos hedge).trans ?_)
  rw [hqueue]
  simp only [Dev.startTests]
  rw [if_pos (by simp [hrunning, hfree])]
  simp [Dev.onFlt, Dev.onMast, hqueue', hrunning']

section
variable {s : State} {m : MastId} {t : Test} {rest : List Test} (hrunning : (s.dev.flt m).running = t :: rest)
include hrunning

theorem Dev.find_running : (s.dev.flt m).running.find? (fun r => r.unit == t.unit) = some t := by
  rw [hrunning]
  exact List.find?_cons_of_pos (beq_self_eq_true _)

theorem answers_winnowTestEnd_of_due {seen : List Int} (hdue : t.start + t.dur ≤ s.dev.beat)
    (hshare : s.dev.winnowWaits m t.unit = false) {d : Dev}
    (hd : (match s.dev.testOutcome t seen with
      | some true => (s.dev.withdraw m t.unit).transient m t.unit
      | some false => (s.dev.withdraw m t.unit).lasting m t.unit 0
      | none => s.dev) = d) : Answers (.winnowTestEnd m t.unit seen) s d := by
  refine answers_of_run rfl ?_
  simp only [Dev.find_running hrunning]
  exact Eq.trans (if_neg (by simp [hdue, hshare])) hd

theorem answers_winnowTestTimeout_of_due (hdue : t.start + 8 * t.dur ≤ s.dev.beat) :
    Answers (.winnowTestTimeout m t.unit) s ((s.dev.withdraw m t.unit).lasting m t.unit 32) := by
  refine answers_of_run rfl ?_
  simp only [Dev.find_running hrunning]
  exact if_neg (Nat.not_lt.2 hdue)

end

/-! ## Registers -/

section
variable {s : State} {w : RegWr} {info : RegInfo} (hw : Writable s.dev 0x70C0 w info)
include hw

theorem answers_fltFenceCmd_of_no_kind (hkind : kindOf (fld (s.dev.written 0x70C0 w info) 0 4) = none) :
    Answers (.fltFenceCmd w) s (s.dev.flag w.mast 0x7008 2) := by
  refine answers_of_run rfl ((Dev.barWrite_of_writable hw _).trans ?_)
  simp only [hkind]

theorem answers_fltFenceCmd_of_kind {k : UnitKind} (hkind : kindOf (fld (s.dev.written 0x70C0 w info) 0 4) = some k) :
    let u : FUnit := ⟨k, fld (s.dev.written 0x70C0 w info) 8 16⟩
    Answers (.fltFenceCmd w) s (if k = .ctx ∨ unitCount k ≤ u.idx ∨ ∀ f ∈ (s.dev.flt w.mast).fences, f.unit = u → f.lasting = false then
      s.dev.flag w.mast 0x7008 2 else s.dev.retest w.mast u) := by
  refine answers_of_run rfl ((Dev.barWrite_of_writable hw _).trans ?_)
  simp only [hkind]
  refine if_congr ?_ rfl rfl
  simp only [Bool.or_eq_true, beq_iff_eq, decide_eq_true_eq, Bool.not_eq_true', List.any_eq_false, Bool.and_eq_true, or_assoc, not_and,
    Bool.not_eq_true]

end

theorem Dev.retest_of_room {d : Dev} {m : MastId} {u : FUnit} (htest : d.underTest m u = false) (hroom : (d.flt m).queue.length < 64) :
    d.retest m u = d.onFlt m (fun f => { f with queue := f.queue ++ [u] }) :=
  (if_neg (by rw [htest]; exact Bool.false_ne_true)).trans (if_neg (Nat.not_le.2 hroom))

theorem answers_fltFirstClr_of_writable {s : State} {w : RegWr} {info : RegInfo} (hw : Writable s.dev 0x7018 w info) :
    Answers (.fltFirstClr w) s (if fld (s.dev.written 0x7018 w info) 0 1 = 1 then s.dev.onFlt w.mast (fun f => { f with first := none })
      else s.dev) := by
  refine answers_of_run rfl ((Dev.barWrite_of_writable hw _).trans ?_)
  simp only [beq_iff_eq]

theorem answers_fltPendWrite_of_writable {s : State} {i : Nat} {w : RegWr} {info : RegInfo} (hi : i < 4)
    (hw : Writable s.dev (0x7080 + 8 * i) w info) :
    Answers (.fltPendWrite i w) s (s.dev.setReg w.mast (0x7080 + 8 * i) (plainWrite info (s.dev.reg w.mast (0x7080 + 8 * i))
      (s.dev.written (0x7080 + 8 * i) w info))) :=
  answers_of_run rfl ((if_neg (Nat.not_le.2 hi)).trans (Dev.barWrite_of_writable hw _))

/-- Settles O48, clause by clause. -/
theorem faultsComplete : Obligations.FaultsComplete := by
  refine ⟨fun s m l hrunning hlisted => ?report, fun d m r => ⟨fun u hfence hlasting => ?suppressed, fun u hfence hlasting => ?unit,
      fun hfence => ?noUnit⟩, fun l => ⟨logOrder_sorted l, logOrder_perm l⟩,
    fun s m b hat hdue => ⟨fun hpend => ?vectorAgain, fun hpend => ?vectorIdle⟩,
    fun s m k i hserves hk => ⟨fun hother => ?pcieOther, fun hkind hindex => ?pciePoll⟩,
    fun s m u hedge hqueue hrunning => ?testStart,
    fun s m t rest hrunning => ⟨fun seen hdue hshare => ⟨fun hpass => ?testPasses, fun hfail => ?testFails⟩, fun hdue => ?timeout⟩,
    fun s w info hw => ⟨fun hkind => ?noKind, fun k hkind hctx hidx ⟨f, hf, hunit, hlasting⟩ => ?retest, fun k hkind hbad => ?refused⟩,
    fun s w info hw => ?first, fun s i w info hi hw => ?pend⟩
  case report => exact answers_faultReport_of_listed hrunning hlisted
  case suppressed => exact Dev.reports_one_of_lasting hfence hlasting
  case unit => exact Dev.reports_one_of_unit hfence hlasting
  case noUnit => exact Dev.reports_one_of_no_unit hfence
  case vectorAgain =>
    have h := answers_faultVectorHoldoffEnd_of_due hat hdue
    rwa [if_pos hpend] at h
  case vectorIdle =>
    have h := answers_faultVectorHoldoffEnd_of_due hat hdue
    rwa [if_neg (by rw [hpend]; exact Bool.false_ne_true)] at h
  case pcieOther =>
    have h := answers_pcieErrorCompletion_of_listed hserves hk i
    rwa [if_neg (by simpa [or_iff_not_imp_left] using hother)] at h
  case pciePoll =>
    have h := answers_pcieErrorCompletion_of_listed hserves hk i
    rwa [if_pos (by simp [hkind, hindex])] at h
  case testStart => exact answers_winnowTestStart_of_one hedge hqueue hrunning
  case testPasses => exact answers_winnowTestEnd_of_due hrunning hdue hshare (by rw [hpass])
  case testFails => exact answers_winnowTestEnd_of_due hrunning hdue hshare (by rw [hfail])
  case timeout => exact answers_winnowTestTimeout_of_due hrunning hdue
  case noKind => exact answers_fltFenceCmd_of_no_kind hw hkind
  case retest =>
    have h := answers_fltFenceCmd_of_kind hw hkind
    dsimp only at h
    rw [if_neg (not_or.2 ⟨hctx, not_or.2 ⟨Nat.not_le.2 hidx, fun hall => Bool.false_ne_true ((hall f hf hunit).symm.trans hlasting)⟩⟩)] at h
    exact ⟨h, fun htest hroom => Dev.retest_of_room htest hroom ▸ h⟩
  case refused =>
    have h := answers_fltFenceCmd_of_kind hw hkind
    dsimp only at h
    rwa [if_pos hbad] at h
  case first => exact answers_fltFirstClr_of_writable hw
  case pend => exact answers_fltPendWrite_of_writable hi hw

end Sys2Proof.Machine
end

section
/-! Proofs for memory errors, rebuilds and scrubs, default-target accesses, the CRC units and REFCLK (R449 to R466, R482). -/

namespace Sys2Proof.Machine

theorem Dev.onMem_congr {d : Dev} {m : MastId} {f g : Mem → Mem} (h : f (d.mast m).mem = g (d.mast m).mem) : d.onMem m f = d.onMem m g := by
  simp only [Dev.onMem, Dev.onMast, h]

/-! ## SRAM -/

/-- The device with the poison of the words written since taken away. -/
def Dev.cleaned (d : Dev) (m : MastId) (b : Nat) (written : List Nat) : Dev :=
  d.onMem m (fun x => { x with poison := x.poison.filter (fun p => !(p.1 == b && written.contains p.2)) })

theorem Dev.loseOp_of_sheaf {d : Dev} {m : MastId} {ring seq : Nat} {y : Sheaf}
    (hsheaf : (d.fab m).sheafs.find? (fun y => y.owner == some (ring, seq)) = some y) (hdecided : y.decided = false) :
    d.loseOp m ring seq = d.abortSheaf m y.key .memLost := by
  unfold Dev.loseOp
  rw [hsheaf]
  exact if_neg (by rw [hdecided]; exact Bool.false_ne_true)

section
variable {s : State} {m : MastId} {b w : Nat} (hb : b < 64) (hw : w < 131072) (written : List Nat)
include hb hw

theorem answers_sramEccError_of_corrected :
    Answers (.sramEccError m b w .corrected none written) s
      (((s.dev.cleaned m b written).count m 0xB028 32 16 1).report m 197 0 b (BitVec.ofNat 32 b) none) :=
  answers_of_run rfl (if_neg (by simp [hb, hw]))

theorem answers_sramEccError_of_uncorrectable :
    Answers (.sramEccError m b w .uncorrectable none written) s (((s.dev.cleaned m b written).onMem m (fun x =>
      { x with poison := if x.poison.contains (b, w) then x.poison else x.poison ++ [(b, w)] })).report m 196 3 b (BitVec.ofNat 32 b)
        (some ⟨.sram, b⟩)) :=
  answers_of_run rfl (if_neg (by simp [hb, hw]))

variable (hpoison : ((s.dev.cleaned m b written).mast m).mem.poison.contains (b, w) = true)
include hpoison

theorem answers_sramEccError_of_poisoned :
    Answers (.sramEccError m b w .poisoned none written) s ((s.dev.cleaned m b written).count m 0xB028 48 16 1) :=
  answers_of_run rfl ((if_neg (by simp [hb, hw])).trans (if_pos hpoison))

theorem answers_sramEccError_of_needed {ring seq : Nat} {y : Sheaf} (hholder : s.dev.holder = some m)
    (hsheaf : ((s.dev.cleaned m b written).fab m).sheafs.find? (fun y => y.owner == some (ring, seq)) = some y)
    (hdecided : y.decided = false) :
    Answers (.sramEccError m b w .poisoned (some (ring, seq)) written) s
      (((s.dev.cleaned m b written).count m 0xB028 48 16 1).abortSheaf m y.key .memLost) := by
  have hholder : ((s.dev.cleaned m b written).count m 0xB028 48 16 1).holder = some m := by
    rw [← hholder]
    cases m <;> rfl
  have hsheaf : (((s.dev.cleaned m b written).count m 0xB028 48 16 1).fab m).sheafs.find? (fun y => y.owner == some (ring, seq)) = some y := by
    rw [Dev.fab_count]
    exact hsheaf
  refine answers_of_run rfl ((if_neg (by simp [hb, hw])).trans ((if_pos hpoison).trans ((if_pos (by rw [← hholder]; exact beq_self_eq_true _)).trans ?_)))
  exact Dev.loseOp_of_sheaf hsheaf hdecided

end

/-! ## HBM and scrubs -/

theorem answers_hbmEccError_of_channel {s : State} {m : MastId} {c : Nat} (hc : c < 32) (a : BitVec 38) (uncorrectable : Bool) :
    Answers (.hbmEccError m c a uncorrectable) s (if uncorrectable then
      s.dev.report m (164 + c) 2 c (a.extractLsb' 6 32) (some ⟨.hbm, c⟩) else s.dev.hbmCorrected m c a) :=
  answers_of_run rfl (if_neg (Nat.not_le.2 hc))

theorem answers_memoryScrub_of_one {s : State} {m : MastId} {c b : Nat} (hc : c < 32) (hb : b < 64) (a : BitVec 38) :
    Answers (.memoryScrub m [(c, a)] [b]) s ((s.dev.hbmCorrected m c a).sramCorrected m b) := by
  refine answers_of_run rfl ?_
  have hchannel : [(c, a)].filter (fun e => decide (e.1 < 32)) = [(c, a)] := List.filter_cons_of_pos (decide_eq_true hc)
  have hbank : [b].filter (fun b => decide (b < 64)) = [b] := List.filter_cons_of_pos (decide_eq_true hb)
  simp only [hchannel, hbank]
  rfl

/-! ## The Yard -/

theorem answers_defaultTargetAccess {s : State} {m : MastId} (w : Bool) (k : Nat) (a : BitVec 38) :
    let d := ((s.dev.emit (.yardError m k w)).report m 202 2 0 (a.setWidth 32) none).count m 0xB010 16 16 1
    Answers (.defaultTargetAccess m k w a) s (if d.regF m 0xB010 5 1 = 1 then d else (((d.setReg m 0xB008 (a.setWidth 64)).setRegF m
      0xB010 0 4 k).setRegF m 0xB010 4 1 (if w then 1 else 0)).setRegF m 0xB010 5 1 1) := by
  refine answers_of_run rfl ?_
  simp only [beq_iff_eq]
  cases w <;> rfl

theorem answers_yrdErrClr_of_writable {s : State} {w : RegWr} {info : RegInfo} (hw : Writable s.dev 0xB018 w info) :
    Answers (.yrdErrClr w) s (if fld (s.dev.written 0xB018 w info) 0 1 = 1 then
      (s.dev.setReg w.mast 0xB008 0).setRegF w.mast 0xB010 0 6 0 else s.dev) := by
  refine answers_of_run rfl ((Dev.barWrite_of_writable hw _).trans ?_)
  simp only [beq_iff_eq]

/-! ## The scan engine -/

theorem answers_crcScanStart_of_one {s : State} {m : MastId} {r : ScanReq} (hidle : (s.dev.mast m).mem.scan = none)
    (hscans : (s.dev.mast m).mem.scans = [r]) :
    Answers (.crcScanStart m) s (s.dev.onMem m (fun x => { x with scan := some r, scans := [] })) :=
  answers_of_run rfl (Dev.onMem_congr (by simp [hidle, hscans, nextScan]))

theorem answers_crcScanDone_of_read {s : State} {m : MastId} {r : ScanReq} {l : List Byte} (hscan : (s.dev.mast m).mem.scan = some r)
    (hlen : l.length = r.len) :
    Answers (.crcScanDone m l) s ((s.dev.onMem m (fun x => { x with scan := none })).emit (.crc m (crc32c l))) := by
  refine answers_of_run rfl ?_
  simp only [hscan]
  exact if_neg (by simp [hlen])

/-- Settles O49, clause by clause. -/
theorem memoryAndYardComplete : Obligations.MemoryAndYardComplete := by
  refine ⟨fun s m b w written hb hw => ⟨?corrected, ?uncorrectable, fun hpoison => ⟨?poisoned, fun ring seq y hholder hsheaf hdecided => ?needed⟩⟩,
    fun s m c a hc => ⟨?hbmLost, ?hbmCorrected⟩, fun s m => ⟨answers_of_run rfl rfl, answers_of_run rfl rfl⟩,
    fun s m c b a hc hb => ?scrub, fun s m w k a => ⟨fun hheld => ?targetHeld, fun hfirst => ?targetFirst⟩,
    fun s w info hw => ?clear, fun s m b => answers_of_run rfl rfl,
    fun s m => ⟨answers_of_run rfl rfl, fun v => answers_of_run rfl rfl, fun v => answers_of_run rfl rfl,
      fun v => answers_of_run rfl rfl, answers_of_run rfl rfl⟩,
    fun s m r hidle hscans => ?scanStart, fun s m r l hscan hlen => ?scanDone,
    fun s m => ⟨answers_of_run rfl rfl, fun hrefclk => ?refclk⟩⟩
  case corrected => exact answers_sramEccError_of_corrected hb hw written
  case uncorrectable => exact answers_sramEccError_of_uncorrectable hb hw written
  case poisoned => exact answers_sramEccError_of_poisoned hb hw written hpoison
  case needed => exact answers_sramEccError_of_needed hb hw written hpoison hholder hsheaf hdecided
  case hbmLost => exact answers_hbmEccError_of_channel hc a true
  case hbmCorrected => exact answers_hbmEccError_of_channel hc a false
  case scrub => exact answers_memoryScrub_of_one hc hb a
  case targetHeld =>
    have h := answers_defaultTargetAccess (s := s) (m := m) w k a
    dsimp only at h
    rwa [if_pos hheld] at h
  case targetFirst =>
    have h := answers_defaultTargetAccess (s := s) (m := m) w k a
    dsimp only at h
    rwa [if_neg (by rw [hfirst]; decide)] at h
  case clear => exact answers_yrdErrClr_of_writable hw
  case scanStart => exact answers_crcScanStart_of_one hidle hscans
  case scanDone => exact answers_crcScanDone_of_read hscan hlen
  case refclk => exact answers_of_run rfl (if_neg (by rw [hrefclk]; exact Bool.false_ne_true))

end Sys2Proof.Machine
end

section
/-! What a lasting effect of a descriptor leaves of a mast's pennant state (R401, R402): all but what its journal sends and what
the fence of a tile asks for. A lemma about an operation that takes a continuation asks the same of the continuation. -/

namespace Sys2Proof.Machine

/-- A mast's pennant state but for its journal's sending, PROTECTED and a handover asked for. -/
def Pen.kept (p : Pen) : Pen := { p with toSend := [], jseq := 0, busy := none, busyAt := 0, protect := false }

def Dev.penKept (d : Dev) (k : MastId) : Pen := (d.mast k).pen.kept

theorem Dev.penKept_congr {d e : Dev} (hfore : d.fore = e.fore) (hmain : d.main = e.main) : d.penKept = e.penKept := by
  funext k
  cases k
  · exact congrArg (fun x => x.pen.kept) hfore
  · exact congrArg (fun x => x.pen.kept) hmain

theorem Dev.penKept_onMast_of_kept {f : Mast → Mast} (hf : ∀ x, (f x).pen.kept = x.pen.kept) (d : Dev) (m : MastId) :
    (d.onMast m f).penKept = d.penKept := funext fun k => Dev.view_onMast (v := fun x => x.pen.kept) hf d m k

@[simp] theorem Dev.penKept_onMast {f : Mast → Mast} (hf : ∀ x, (f x).pen = x.pen) (d : Dev) (m : MastId) :
    (d.onMast m f).penKept = d.penKept := Dev.penKept_onMast_of_kept (fun x => congrArg Pen.kept (hf x)) d m

theorem Dev.penKept_onPen {f : Pen → Pen} (hf : ∀ p, (f p).kept = p.kept) (d : Dev) (m : MastId) :
    (d.onPen m f).penKept = d.penKept := Dev.penKept_onMast_of_kept (fun x => hf x.pen) d m

@[simp] theorem Dev.penKept_protect (d : Dev) (m : MastId) (b : Bool) :
    (d.onPen m (fun p => { p with protect := b })).penKept = d.penKept := by
  refine Dev.penKept_onPen ?_ d m
  exact fun _ => rfl

@[simp] theorem Dev.penKept_busy (d : Dev) (m : MastId) (b : Option Nat) (n : Nat) :
    (d.onPen m (fun p => { p with busy := b, busyAt := n })).penKept = d.penKept := by
  refine Dev.penKept_onPen ?_ d m
  exact fun _ => rfl

@[simp] theorem Dev.penKept_onFab (d : Dev) (m : MastId) (f : Fab → Fab) : (d.onFab m f).penKept = d.penKept := by simp [Dev.onFab]

/-! ### Folds, tiles, outputs, free values, registers -/

@[simp] theorem Dev.penKept_ite {p : Prop} [Decidable p] (a b : Dev) :
    (if p then a else b).penKept = if p then a.penKept else b.penKept := apply_ite Dev.penKept p a b

@[simp] theorem Dev.penKept_foldl {α : Type} {f : Dev → α → Dev} (hf : ∀ d x, (f d x).penKept = d.penKept) (l : List α)
    (d : Dev) :
    (l.foldl f d).penKept = d.penKept := by
  induction l generalizing d with
  | nil => rfl
  | cons a r ih => exact (ih (f d a)).trans (hf d a)

@[simp] theorem Dev.penKept_each {α : Type} {f : α → Dev → Dev} (hf : ∀ x d, (f x d).penKept = d.penKept) (l : List α)
    (d : Dev) :
    (d.each l f).penKept = d.penKept := Dev.penKept_foldl (fun d x => hf x d) l d

@[simp] theorem Dev.penKept_when {f : Dev → Dev} (hf : ∀ d, (f d).penKept = d.penKept) (d : Dev) (b : Bool) :
    (d.when b f).penKept = d.penKept := by simp [Dev.when, hf]

@[simp] theorem Dev.penKept_setTile (d : Dev) (t : Nat) (x : Tile) : (d.setTile t x).penKept = d.penKept :=
  Dev.penKept_congr rfl rfl

@[simp] theorem Dev.penKept_onTile (d : Dev) (t : Nat) (f : Tile → Tile) :
    (d.onTile t f).penKept = d.penKept := by simp [Dev.onTile]

@[simp] theorem Dev.penKept_onCell (d : Dev) (c : Nat) (f : Cell → Cell) :
    (d.onCell c f).penKept = d.penKept := by simp [Dev.onCell]

@[simp] theorem Dev.penKept_emit (d : Dev) (o : Out) : (d.emit o).penKept = d.penKept := Dev.penKept_congr rfl rfl

@[simp] theorem Dev.penKept_drawNat {d : Dev} {k : Nat → Dev → Dev} (hk : ∀ x d, (k x d).penKept = d.penKept) :
    (d.drawNat k).penKept = d.penKept := (hk _ _).trans (Dev.penKept_congr rfl rfl)

@[simp] theorem Dev.penKept_drawBool {d : Dev} {k : Bool → Dev → Dev} (hk : ∀ x d, (k x d).penKept = d.penKept) :
    (d.drawBool k).penKept = d.penKept := (hk _ _).trans (Dev.penKept_congr rfl rfl)

@[simp] theorem Dev.penKept_setReg (d : Dev) (m : MastId) (off : Nat) (v : Reg64) :
    (d.setReg m off v).penKept = d.penKept := by simp [Dev.setReg]

@[simp] theorem Dev.penKept_setRegF (d : Dev) (m : MastId) (off lo w v : Nat) :
    (d.setRegF m off lo w v).penKept = d.penKept := by simp [Dev.setRegF]

@[simp] theorem Dev.penKept_count (d : Dev) (m : MastId) (off lo w k : Nat) :
    (d.count m off lo w k).penKept = d.penKept := by simp [Dev.count]

/-! ### Counters and parts of a mast -/

@[simp] theorem Dev.penKept_pmc (d : Dev) (m : MastId) (ev : Nat) (insts : List Nat) (k : Nat) :
    (d.pmc m ev insts k).penKept = d.penKept :=
  funext fun j => Dev.view_pmc (v := fun x => x.pen.kept) (fun _ _ => rfl) d m ev insts k j

@[simp] theorem Dev.penKept_moved (d : Dev) (m : MastId) (e out inn : Nat) :
    (d.moved m e out inn).penKept = d.penKept := by simp [Dev.moved]

@[simp] theorem Dev.penKept_hostIn (d : Dev) (m : MastId) (n : Nat) :
    (d.hostIn m n).penKept = d.penKept := by simp [Dev.hostIn]

@[simp] theorem Dev.penKept_hostOut (d : Dev) (m : MastId) (n : Nat) :
    (d.hostOut m n).penKept = d.penKept := by simp [Dev.hostOut]

@[simp] theorem Dev.penKept_staySlot (d : Dev) (m : MastId) (t : Nat) (up : Bool) :
    (d.staySlot m t up).penKept = d.penKept := by simp [Dev.staySlot]

@[simp] theorem Dev.penKept_onHif (d : Dev) (m : MastId) (f : Hif → Hif) :
    (d.onHif m f).penKept = d.penKept := by simp [Dev.onHif]

@[simp] theorem Dev.penKept_onFlt (d : Dev) (m : MastId) (f : Flt → Flt) :
    (d.onFlt m f).penKept = d.penKept := by simp [Dev.onFlt]

@[simp] theorem Dev.penKept_onEg (d : Dev) (m : MastId) (f : Egress → Egress) :
    (d.onEg m f).penKept = d.penKept := by simp [Dev.onEg]

@[simp] theorem Dev.penKept_onGln (d : Dev) (m : MastId) (f : Glean → Glean) :
    (d.onGln m f).penKept = d.penKept := by simp [Dev.onGln]

@[simp] theorem Dev.penKept_onBoot (d : Dev) (m : MastId) (f : Boot → Boot) :
    (d.onBoot m f).penKept = d.penKept := by simp [Dev.onBoot]

@[simp] theorem Dev.penKept_onCal (d : Dev) (m : MastId) (f : CalSt → CalSt) :
    (d.onCal m f).penKept = d.penKept := by simp [Dev.onCal]

@[simp] theorem Dev.penKept_onPass (d : Dev) (m : MastId) (f : Pass → Pass) :
    (d.onPass m f).penKept = d.penKept := by simp [Dev.onPass]

@[simp] theorem Dev.penKept_onKern (d : Dev) (m : MastId) (f : Kern → Kern) :
    (d.onKern m f).penKept = d.penKept := by simp [Dev.onKern]

/-! ### Rings, records, slots -/

@[simp] theorem Dev.penKept_msix (d : Dev) (m : MastId) (v : Nat) : (d.msix m v).penKept = d.penKept := by simp [Dev.msix]

@[simp] theorem Dev.penKept_setRing (d : Dev) (m : MastId) (i : Nat) (r : Option Ring) :
    (d.setRing m i r).penKept = d.penKept := by simp [Dev.setRing]

@[simp] theorem Dev.penKept_onRing (d : Dev) (m : MastId) (i : Nat) (f : Ring → Ring) :
    (d.onRing m i f).penKept = d.penKept := by
  unfold Dev.onRing
  split <;> simp

@[simp] theorem Dev.penKept_setCtx (d : Dev) (m : MastId) (k : Nat) (c : Option Ctx) :
    (d.setCtx m k c).penKept = d.penKept := by simp [Dev.setCtx]

@[simp] theorem Dev.penKept_onDesc (d : Dev) (m : MastId) (ring seq : Nat) (f : Desc → Desc) :
    (d.onDesc m ring seq f).penKept = d.penKept := by simp [Dev.onDesc]

@[simp] theorem Dev.penKept_pushJournal (d : Dev) (m : MastId) (j : JEv) :
    (d.pushJournal m j).penKept = d.penKept := by
  unfold Dev.pushJournal
  refine Dev.penKept_onMast_of_kept ?_ d m
  exact fun _ => rfl

@[simp] theorem Dev.penKept_signalRing (d : Dev) (m : MastId) (i : Nat) : (d.signalRing m i).penKept = d.penKept := by
  unfold Dev.signalRing
  split <;> simp

@[simp] theorem Dev.penKept_putRecord (d : Dev) (m : MastId) (i : Nat) (g : Ring) (r : Record) (irq : Bool) :
    (d.putRecord m i g r irq).penKept = d.penKept := by simp [Dev.putRecord]

@[simp] theorem Dev.penKept_toBacklog (d : Dev) (m : MastId) (b : BackRec) :
    (d.toBacklog m b).penKept = d.penKept := by simp [Dev.toBacklog]

@[simp] theorem Dev.penKept_deliver (d : Dev) (m : MastId) (i ctx : Nat) (r : Record) (irq back : Bool) :
    (d.deliver m i ctx r irq back).penKept = d.penKept := by
  unfold Dev.deliver
  split <;> simp

@[simp] theorem Dev.penKept_retire (d : Dev) (m : MastId) (x : Desc) (sent : Bool) :
    (d.retire m x sent).penKept = d.penKept := by simp [Dev.retire]

@[simp] theorem Dev.penKept_onSlots (d : Dev) (m : MastId) (x : Desc) (f : List Nat → List Nat) :
    (d.onSlots m x f).penKept = d.penKept := by simp [Dev.onSlots]

@[simp] theorem Dev.penKept_giveSlot (d : Dev) (m : MastId) (x : Desc) (ref kind len ep : Nat) (crcBad trunc inc : Bool)
    (p : Payload) :
    (d.giveSlot m x ref kind len ep crcBad trunc inc p).penKept = d.penKept := by simp [Dev.giveSlot]

@[simp] theorem Dev.penKept_holdSlot (d : Dev) (m : MastId) (x : Desc) (ref : Nat) :
    (d.holdSlot m x ref).penKept = d.penKept := by simp [Dev.holdSlot]

@[simp] theorem Dev.penKept_unhold (d : Dev) (m : MastId) (x : Desc) (ref : Nat) :
    (d.unhold m x ref).penKept = d.penKept := by simp [Dev.unhold]

@[simp] theorem Dev.penKept_settleHold (d : Dev) (m : MastId) (x : Desc) (ref owner : Nat) (err : Bool) :
    (d.settleHold m x ref owner err).penKept = d.penKept := by simp [Dev.settleHold]

@[simp] theorem Dev.penKept_returnSlots (d : Dev) (m : MastId) (x : Desc) : (d.returnSlots m x).penKept = d.penKept := by
  unfold Dev.returnSlots
  split <;> simp

@[simp] theorem Dev.penKept_returnIn (d : Dev) (m : MastId) (x : Desc) (s : SlotIn) (crcBad : Bool) :
    (d.returnIn m x s crcBad).penKept = d.penKept := by simp [Dev.returnIn]

@[simp] theorem Dev.penKept_completeAt (d : Dev) (m : MastId) (x : Desc) (st : Status) (ep : Nat) (tm : Option Stamp)
    (always : Bool) :
    (d.completeAt m x st ep tm always).penKept = d.penKept := by simp [Dev.completeAt]

@[simp] theorem Dev.penKept_complete (d : Dev) (m : MastId) (x : Desc) (st : Status) :
    (d.complete m x st).penKept = d.penKept := by simp [Dev.complete]

@[simp] theorem Dev.penKept_need {d : Dev} {m : MastId} {x : Desc} {b : Nat} {k : Dev → Dev} (hk : ∀ d,
    (k d).penKept = d.penKept) :
    (d.need m x b k).penKept = d.penKept := by simp [Dev.need, hk]

@[simp] theorem Dev.penKept_queueScan (d : Dev) (m : MastId) (master qos len : Nat) :
    (d.queueScan m master qos len).penKept = d.penKept :=
  Dev.penKept_onMast_of_kept (fun x => by split <;> rfl) d m

/-! ### Command lanes and telemetry -/

@[simp] theorem Dev.penKept_onStay (d : Dev) (m : MastId) (t : Nat) (f : Stay → Stay) :
    (d.onStay m t f).penKept = d.penKept := by simp [Dev.onStay]

@[simp] theorem Dev.penKept_unlane (d : Dev) (m : MastId) (t : Nat) (p : LaneFrame → Bool) :
    (d.unlane m t p).penKept = d.penKept := by simp [Dev.unlane]

@[simp] theorem Dev.penKept_leave (d : Dev) (m : MastId) (t : Nat) (f : LaneFrame) :
    (d.leave m t f).penKept = d.penKept := by simp [Dev.leave]

@[simp] theorem Dev.penKept_pump (d : Dev) (m : MastId) (t n : Nat) : (Dev.pump m t n d).penKept = d.penKept := by
  induction n generalizing d with
  | zero => rfl
  | succ n ih =>
    unfold Dev.pump
    split
    · rfl
    · split
      · simp [ih]
      · rfl

@[simp] theorem Dev.penKept_command (d : Dev) (m : MastId) (t cls : Nat) (words : List Nat) (writes : List
    (Nat × Tgt × Bool)) :
    (d.command m t cls words writes).penKept = d.penKept := by simp [Dev.command]

@[simp] theorem Dev.penKept_writes (d : Dev) (m : MastId) (ws : List (Nat × Tgt × Bool)) :
    (d.writes m ws).penKept = d.penKept := by simp [Dev.writes]

@[simp] theorem Dev.penKept_setStream (d : Dev) (m : MastId) (s : Nat) (x : Option Stream) :
    (d.setStream m s x).penKept = d.penKept := by simp [Dev.setStream]

@[simp] theorem Dev.penKept_queueTel (d : Dev) (m : MastId) (s : Nat) (r : TelRec) :
    (d.queueTel m s r).penKept = d.penKept := by
  unfold Dev.queueTel
  split <;> simp

@[simp] theorem Dev.penKept_tel (d : Dev) (m : MastId) (sel : Nat) (r : TelRec) : (d.tel m sel r).penKept = d.penKept := by
  unfold Dev.tel
  exact Dev.penKept_foldl (fun _ _ => by split <;> simp) _ _

@[simp] theorem Dev.penKept_gleanEvent (d : Dev) (m : MastId) (c : Cause) (beat : Nat) (t : Stamp) (cell : Option Nat)
    (hal : Nat) :
    (d.gleanEvent m c beat t cell hal).penKept = d.penKept := by simp [Dev.gleanEvent]

/-! ### Sheafs -/

@[simp] theorem Dev.penKept_onSheaf (d : Dev) (m : MastId) (k : SKey) (f : Sheaf → Sheaf) :
    (d.onSheaf m k f).penKept = d.penKept := by simp [Dev.onSheaf]

@[simp] theorem Dev.penKept_dropSheaf (d : Dev) (m : MastId) (k : SKey) : (d.dropSheaf m k).penKept = d.penKept := by
  simp [Dev.dropSheaf]

@[simp] theorem Dev.penKept_restage (d : Dev) (m : MastId) : (d.restage m).penKept = d.penKept := by simp [Dev.restage]

@[simp] theorem Dev.penKept_disarm (d : Dev) (m : MastId) (w : SheafWork) :
    (d.disarm m w).penKept = d.penKept := by simp [Dev.disarm]

@[simp] theorem Dev.penKept_abortSheaf (d : Dev) (m : MastId) (k : SKey) (st : Status) :
    (d.abortSheaf m k st).penKept = d.penKept := by
  simp only [Dev.abortSheaf]
  split
  · rfl
  · split
    · simp
    · split <;> simp

@[simp] theorem Dev.penKept_abortWhere (d : Dev) (m : MastId) (p : Sheaf → Bool) (st : Status) :
    (d.abortWhere m p st).penKept = d.penKept := by simp [Dev.abortWhere]

/-! ### Faults, fences, passes of calibration -/

@[simp] theorem Dev.penKept_withdraw (d : Dev) (m : MastId) (u : FUnit) :
    (d.withdraw m u).penKept = d.penKept := by simp [Dev.withdraw]

@[simp] theorem Dev.penKept_log (d : Dev) (m : MastId) (source sev kind unit : Nat) (ep : Nat) (t : Stamp)
    (info : BitVec 32) :
    (d.log m source sev kind unit ep t info).penKept = d.penKept := by simp [Dev.log]

@[simp] theorem Dev.penKept_logUnit (d : Dev) (m : MastId) (source kind : Nat) (u : FUnit) (flags : Nat) :
    (d.logUnit m source kind u flags).penKept = d.penKept := by simp [Dev.logUnit]

@[simp] theorem Dev.penKept_faultIrq (d : Dev) (m : MastId) (sev : Nat) : (d.faultIrq m sev).penKept = d.penKept := by
  unfold Dev.faultIrq
  split
  · split <;> simp
  · rfl

@[simp] theorem Dev.penKept_logFault (d : Dev) (m : MastId) (source sev unit : Nat) (detail : BitVec 32) :
    (d.logFault m source sev unit detail).penKept = d.penKept := by simp [Dev.logFault]

@[simp] theorem Dev.penKept_undo (d : Dev) (m : MastId) (x : Sheaf) :
    (d.undo m x).penKept = d.penKept := by simp [Dev.undo]

@[simp] theorem Dev.penKept_placeHeal (d : Dev) (m : MastId) (source : Nat) (unit : FUnit) :
    (d.placeHeal m source unit).penKept = d.penKept := by
  simp [Dev.placeHeal]

@[simp] theorem Dev.penKept_staleShadow (d : Dev) (m : MastId) :
    (d.staleShadow m).penKept = d.penKept := by simp [Dev.staleShadow]

@[simp] theorem Dev.penKept_healFor (d : Dev) (m : MastId) (u : FUnit) (source : Nat) :
    (d.healFor m u source).penKept = d.penKept := by simp [Dev.healFor]

@[simp] theorem Dev.penKept_writeBack (d : Dev) (m : MastId) (cells : List Nat) :
    (d.writeBack m cells).penKept = d.penKept := by simp [Dev.writeBack]

@[simp] theorem Dev.penKept_roundEnd (d : Dev) (m : MastId) (cells : List PassCell) :
    (d.roundEnd m cells).penKept = d.penKept := by
  simp only [Dev.roundEnd, Dev.penKept_writeBack]
  exact Dev.penKept_each (fun _ _ => by split <;> simp) _ _

@[simp] theorem Dev.penKept_shutRounds (d : Dev) (m : MastId) : (d.shutRounds m).penKept = d.penKept := by
  unfold Dev.shutRounds
  split <;> simp

@[simp] theorem Dev.penKept_leaveRound (d : Dev) (m : MastId) (p : Pass) (gone : PassCell → Bool) :
    (d.leaveRound m p gone).penKept = d.penKept := by simp [Dev.leaveRound]

@[simp] theorem Dev.penKept_skipFenced (d : Dev) (m : MastId) (u : FUnit) : (d.skipFenced m u).penKept = d.penKept := by
  unfold Dev.skipFenced
  split <;> simp

@[simp] theorem Dev.penKept_keepHeld (d : Dev) (m : MastId) (r : Nat) :
    (d.keepHeld m r).penKept = d.penKept := by simp [Dev.keepHeld]

@[simp] theorem Dev.penKept_dropCopy (d : Dev) (m : MastId) (channel : Nat) :
    (d.dropCopy m channel).penKept = d.penKept := by simp [Dev.dropCopy]

@[simp] theorem Dev.penKept_fenceHbm (d : Dev) (m : MastId) (channel : Nat) :
    (d.fenceHbm m channel).penKept = d.penKept := by simp [Dev.fenceHbm]

@[simp] theorem Dev.penKept_fenceEffect (d : Dev) (m : MastId) (u : FUnit) (source : Nat) :
    (d.fenceEffect m u source).penKept = d.penKept := by
  unfold Dev.fenceEffect
  split <;> simp

@[simp] theorem Dev.penKept_fence (d : Dev) (m : MastId) (u : FUnit) (source : Nat) :
    (d.fence m u source).penKept = d.penKept := by simp [Dev.fence]

@[simp] theorem Dev.penKept_lasting (d : Dev) (m : MastId) (u : FUnit) (flags : Nat) :
    (d.lasting m u flags).penKept = d.penKept := by simp [Dev.lasting]

@[simp] theorem Dev.penKept_classify (d : Dev) (m : MastId) (u : FUnit) :
    (d.classify m u).penKept = d.penKept := by simp [Dev.classify]

@[simp] theorem Dev.penKept_report (d : Dev) (m : MastId) (source sev unit : Nat) (detail : BitVec 32)
    (fence : Option FUnit) :
    (d.report m source sev unit detail fence).penKept = d.penKept := by
  unfold Dev.report
  split <;> simp

@[simp] theorem Dev.penKept_pcieErr (d : Dev) (m : MastId) (kind index : Nat) :
    (d.pcieErr m kind index).penKept = d.penKept := by simp [Dev.pcieErr]

/-! ### Payload slots -/

@[simp] theorem Dev.penKept_slotOut {d : Dev} {m : MastId} {x : Desc} {s : SlotOut} {fail : Status → Dev → Dev}
    {k : Dev → Dev}
    (hfail : ∀ x d, (fail x d).penKept = d.penKept) (hk : ∀ d, (k d).penKept = d.penKept) :
    (d.slotOut m x s fail k).penKept = d.penKept := by
  unfold Dev.slotOut
  split
  · exact hfail _ _
  · split
    · simp [hfail]
    · split <;> simp [hfail, hk]

@[simp] theorem Dev.penKept_slotHold {d : Dev} {m : MastId} {x : Desc} {s : SlotIn} {fail : Status → Dev → Dev}
    {k : Dev → Dev}
    (hfail : ∀ x d, (fail x d).penKept = d.penKept) (hk : ∀ d, (k d).penKept = d.penKept) :
    (d.slotHold m x s fail k).penKept = d.penKept := by simp [Dev.slotHold, hfail, hk]

@[simp] theorem Dev.penKept_slotCheck {d : Dev} {m : MastId} {x : Desc} {s : SlotIn} {fail : Status → Dev → Dev}
    {k : Dev → Dev}
    (hfail : ∀ x d, (fail x d).penKept = d.penKept) (hk : ∀ d, (k d).penKept = d.penKept) :
    (d.slotCheck m x s fail k).penKept = d.penKept := by simp [Dev.slotCheck, hfail, hk]

@[simp] theorem Dev.penKept_slotIn {d : Dev} {m : MastId} {x : Desc} {s : SlotIn} {fail : Status → Dev → Dev} {k : Dev → Dev}
    (hfail : ∀ x d, (fail x d).penKept = d.penKept) (hk : ∀ d, (k d).penKept = d.penKept) :
    (d.slotIn m x s fail k).penKept = d.penKept := by simp [Dev.slotIn, hfail, hk]

/-! ### Commands that last -/

@[simp] theorem Dev.penKept_deliverHeld (d : Dev) (m : MastId) (j : Nat) : (d.deliverHeld m j).penKept = d.penKept := by
  simp only [Dev.deliverHeld]
  exact (Dev.penKept_each (fun _ _ => by split <;> simp) _ _).trans (by simp)

@[simp] theorem Dev.penKept_deliverTo (d : Dev) (m : MastId) (i : Nat) (e : RingEntry) :
    (d.deliverTo m i e).penKept = d.penKept := by simp [Dev.deliverTo]

@[simp] theorem Dev.penKept_register (d : Dev) (m : MastId) (i : Nat) (e : RingEntry) :
    (d.register m i e).penKept = d.penKept := by simp [Dev.register]

@[simp] theorem Dev.penKept_openCtx (d : Dev) (m : MastId) (k : Nat) (e : CtxEntry) :
    (d.openCtx m k e).penKept = d.penKept := by simp [Dev.openCtx]

@[simp] theorem Dev.penKept_ctxOpenBody (d : Dev) (index : Nat) (ent : Option CtxEntry) (m : MastId) (x : Desc) :
    (d.ctxOpenBody index ent m x).penKept = d.penKept := by
  unfold Dev.ctxOpenBody
  split <;> simp

@[simp] theorem Dev.penKept_closeSheafs (d : Dev) (m : MastId) (k : Nat) (p : Sheaf → Bool) :
    (d.closeSheafs m k p).penKept = d.penKept := by simp [Dev.closeSheafs]

@[simp] theorem Dev.penKept_waitOn (d : Dev) (m : MastId) (x : Desc) (w : Wait) :
    (d.waitOn m x w).penKept = d.penKept := by simp [Dev.waitOn]

@[simp] theorem Dev.penKept_ctxRebindBody (d : Dev) (index : Nat) (m : MastId) (x : Desc) :
    (d.ctxRebindBody index m x).penKept = d.penKept := by
  unfold Dev.ctxRebindBody
  exact Dev.penKept_need fun _ => by split <;> simp

@[simp] theorem Dev.penKept_stopRings (d : Dev) (m : MastId) (k : Nat) (atOnce : Bool) :
    (d.stopRings m k atOnce).penKept = d.penKept := by simp [Dev.stopRings]

@[simp] theorem Dev.penKept_ctxCloseBody (d : Dev) (index : Nat) (dbs : List Doorbell) (m : MastId) (x : Desc) :
    (d.ctxCloseBody index dbs m x).penKept = d.penKept := by simp [Dev.ctxCloseBody]

@[simp] theorem Dev.penKept_ctxCloseForceBody (d : Dev) (index : Nat) (m : MastId) (x : Desc) :
    (d.ctxCloseForceBody index m x).penKept = d.penKept := by simp [Dev.ctxCloseForceBody]

@[simp] theorem Dev.penKept_closeStream (d : Dev) (m : MastId) (s : Nat) (owner : Option (Nat × Nat)) :
    (d.closeStream m s owner).penKept = d.penKept := by
  unfold Dev.closeStream
  split <;> simp

@[simp] theorem Dev.penKept_ringRegBody (d : Dev) (index : Nat) (ent : Option RingEntry) (m : MastId) (x : Desc) :
    (d.ringRegBody index ent m x).penKept = d.penKept := by
  unfold Dev.ringRegBody
  split <;> simp

@[simp] theorem Dev.penKept_ringUnregBody (d : Dev) (index : Nat) (force : Bool) (m : MastId) (x : Desc) :
    (d.ringUnregBody index force m x).penKept = d.penKept := by
  unfold Dev.ringUnregBody
  exact Dev.penKept_need fun _ => by split <;> simp

@[simp] theorem Dev.penKept_mirrorKern (d : Dev) (m : MastId) : (d.mirrorKern m).penKept = d.penKept := by
  unfold Dev.mirrorKern
  split
  · exact Dev.penKept_onMast_of_kept (fun x => by unfold Mast.takeKern; split <;> rfl) _ _
  · rfl

@[simp] theorem Dev.penKept_kernelStored (d : Dev) (m : MastId) (x : Desc) : (d.kernelStored m x).penKept = d.penKept := by
  unfold Dev.kernelStored
  split <;> simp

@[simp] theorem Dev.penKept_kernelBind (d : Dev) (tile handle : Nat) (m : MastId) (x : Desc) :
    (d.kernelBind tile handle m x).penKept = d.penKept := by simp [Dev.kernelBind]

@[simp] theorem Dev.penKept_kernelDrop (d : Dev) (handle : Nat) (m : MastId) (x : Desc) :
    (d.kernelDrop handle m x).penKept = d.penKept := by simp [Dev.kernelDrop]

@[simp] theorem Dev.penKept_topoSwap (d : Dev) (slot : SlotIn) (m : MastId) (x : Desc) :
    (d.topoSwap slot m x).penKept = d.penKept := by
  unfold Dev.topoSwap
  refine Dev.penKept_need fun _ => Dev.penKept_slotIn (fun _ _ => by simp) fun _ => ?_
  simp only
  split
  · simp
  · split
    · simp
    · split <;> simp

@[simp] theorem Dev.penKept_streamOpenBody (d : Dev) (stream : Nat) (slot : SlotIn) (m : MastId) (x : Desc) :
    (d.streamOpenBody stream slot m x).penKept = d.penKept := by
  unfold Dev.streamOpenBody
  exact Dev.penKept_need fun _ => by simp

@[simp] theorem Dev.penKept_streamCloseBody (d : Dev) (stream : Nat) (m : MastId) (x : Desc) :
    (d.streamCloseBody stream m x).penKept = d.penKept := by
  unfold Dev.streamCloseBody
  refine Dev.penKept_need fun d => ?_
  cases d.stream m stream <;> simp

@[simp] theorem Dev.penKept_shapeSetBody (d : Dev) (kind index rate burst weight : Nat) (m : MastId) (x : Desc) :
    (d.shapeSetBody kind index rate burst weight m x).penKept = d.penKept := by
  unfold Dev.shapeSetBody
  refine Dev.penKept_need fun _ => ?_
  split <;> split <;> simp

@[simp] theorem Dev.penKept_burnt (d : Dev) (m : MastId) (x : Desc) (i : Burn) :
    (d.burnt m x i).penKept = d.penKept := by simp [Dev.burnt]

@[simp] theorem Dev.penKept_mirrorTables (d : Dev) (m : MastId) :
    (d.mirrorTables m).penKept = d.penKept := by simp [Dev.mirrorTables]

@[simp] theorem Dev.penKept_lastingEffect (d : Dev) (m : MastId) (x : Desc) (i : Instr) :
    (d.lastingEffect m x i).penKept = d.penKept := by
  unfold Dev.lastingEffect
  split <;> simp

@[simp] theorem Dev.penKept_undefer (d : Dev) (m : MastId) (ring seq : Nat) :
    (d.undefer m ring seq).penKept = d.penKept := by
  unfold Dev.undefer
  split
  · rfl
  · split
    · split <;> simp
    · simp

@[simp] theorem Dev.penKept_judgeProtect (d : Dev) : d.judgeProtect.penKept = d.penKept := by
  unfold Dev.judgeProtect
  split <;> simp

end Sys2Proof.Machine
end

section
/-! Proofs for leases, mirrors, the journal and the gaff link (R396 to R403, R413). -/

namespace Sys2Proof.Machine

/-! ## The lease -/

section
variable {s : State} {m : MastId} {t b : Nat} (hserves : Serves s.dev m)
include hserves

theorem answers_renewalSend_of_edge (hedge : s.dev.now.ns % 25000 = 0) :
    Answers .renewalSend s ((s.dev.each s.dev.enabledTiles (fun t d =>
      (d.unlane m t (fun f => f.cls == 2)).command m t 2 [s.dev.beat + 1000] [])).onPen m (fun p =>
        { p with sent := some s.dev.beat, lastFull := if (s.dev.stagedTiles m).isEmpty then s.dev.beat else p.lastFull })) :=
  answers_of_serves hserves rfl (if_neg (by simp [hedge]))

theorem answers_renewalFrame_of_taken (hsent : (s.dev.pen m).sent = some b) (htakes : s.dev.takes m t = true)
    (hruns : (s.dev.tile t).leaseRuns s.dev.beat = true) (hwaits : s.dev.waiting m t 2 [b + 1000] = false)
    (hgone : (s.dev.stay m t).gone ≠ some b) :
    Answers (.renewalFrame t) s (s.dev.onTile t (fun x => { x with link := { x.link with leaseEnd := b + 1000 } })) := by
  refine answers_of_serves hserves rfl ?_
  simp only [hsent]
  exact if_pos (by simp [htakes, hruns, hwaits, hgone])

theorem answers_renewalAck_of_free (hsent : (s.dev.pen m).sent = some b) (htakes : s.dev.takes m t = true)
    (hend : (s.dev.tile t).link.leaseEnd = b + 1000) (hfirst : tget 0 (s.dev.pen m).acks t ≠ b + 1000) (hfree : UpFree s.dev m t 2) :
    let d := (s.dev.arrived m t).onPen m (fun p => { p with acks := tset 0 p.acks t (b + 1000) })
    Answers (.renewalAck t) s (if (d.stagedTiles m).all (fun t => tget 0 (d.pen m).acks t == b + 1000) then
      d.onPen m (fun p => { p with lastFull := b }) else d) := by
  refine answers_of_serves hserves rfl ?_
  simp only [hsent]
  exact (if_neg (by simp [htakes, hend])).trans ((if_neg (by simpa using hfirst)).trans (Dev.upGo_of_free hfree _))

theorem answers_holderSelfStop_of_late (hstaged : s.dev.stagedTiles m ≠ []) (hlate : (s.dev.pen m).lastFull + 900 ≤ s.dev.beat) :
    Answers .holderSelfStop s (s.dev.onPen m (fun p => { p with stopped := true })) :=
  answers_of_serves hserves rfl (if_pos (by simp [hstaged, hlate]))

theorem answers_mirrorAcknowledgement_of_linked (hgaff : (s.dev.pen m).gaff = true) (hruns : s.dev.runs (peerOf m) = true)
    (ring seq : Nat) : Answers (.mirrorAcknowledgement ring seq) s (s.dev.undefer m ring seq) :=
  answers_of_serves hserves rfl (if_pos (by simp [hgaff, hruns]))

theorem answers_gaffLinkDown_of_halted :
    Answers (.gaffLinkDown true) s ((((s.dev.onBoot (peerOf m) (fun b => { b with stage := .halted })).report m 203 2 0 1
      none).judgeProtect).saveDone m) :=
  answers_of_run rfl ((if_pos rfl).trans (Dev.act_of_serves hserves _))

end

theorem answers_leaseEnd_of_ended {s : State} {t : Nat} (halive : (s.dev.tile t).alive = true) (hen : (s.dev.tile t).enabled = true)
    (hended : (s.dev.tile t).leaseRuns s.dev.beat = false) :
    Answers (.leaseEnd t) s (s.dev.onTile t (fun x => ({ x with imm := [], parkW := none } : Tile).mapCells (fun c =>
      { c with htr := { c.htr with next := none } }))) :=
  answers_of_run rfl (if_neg (by simp [halive, hen, hended]))

/-! ## What the standby is told -/

section
variable {s : State} {m : MastId} (hholder : s.dev.holder = some m)
include hholder

theorem answers_idleFrame_of_alive {t : Nat} (hruns : s.dev.runs (peerOf m) = true) (halive : (s.dev.tile t).alive = true)
    (hen : (s.dev.tile t).enabled = true) :
    let ended := !(s.dev.tile t).leaseRuns s.dev.beat
    Answers (.idleFrame t) s (s.dev.onPen (peerOf m) (fun p => { p with
      seen := if ended then p.seen.filter (· != t) else p.seen.filter (· != t) ++ [t]
      ended := if ended then p.ended.filter (· != t) ++ [t] else p.ended.filter (· != t)
      idle := tset (0, 0) p.idle t ((s.dev.tile t).link.pen, (s.dev.tile t).link.leaseEnd - s.dev.beat) })) := by
  refine answers_of_run rfl ?_
  simp only [Dev.standby_of_holder hholder]
  exact if_neg (by simp [hruns, halive, hen])

section
variable (hgaff : (s.dev.pen m).gaff = true) (hruns : s.dev.runs (peerOf m) = true)
include hgaff hruns

theorem answers_gaffMirror_of_sent {g : Snap} (hsent : (s.dev.pen m).mirrorOut = some g) :
    Answers .gaffMirror s (((s.dev.onPen m (fun p => { p with mirrorOut := none })).onMast (peerOf m) (fun x =>
      x.adopt (peerOf m) g s.dev.beat)).judgeProtect) := by
  refine answers_of_run rfl ?_
  simp only [hholder, hsent]
  exact if_neg (by simp [hgaff, hruns])

theorem answers_journalEntry_of_sent {e : JEnt} {r : List JEnt} (hsent : (s.dev.pen m).toSend = e :: r) :
    Answers .journalEntry s ((s.dev.onPen m (fun p => { p with toSend := r })).onMast (peerOf m) (fun x =>
      { x with hif := x.hif.replay e, pen := { x.pen with journal := x.pen.journal ++ [e] } })) := by
  refine answers_of_run rfl ?_
  simp only [hholder, hsent]
  exact if_neg (by simp [hgaff, hruns])

end

/-! ## Rejoining -/

omit hholder in
/-- The pennant state with which a mast rejoins the holder whose own is `p` (R403). -/
def Pen.rejoined (x p : Pen) : Pen :=
  { x with
    epoch := p.epoch, holderIdx := p.holderIdx, cause := p.cause, last := p.last, stopped := false, busy := none
    yielding := false, released := false, journal := [], toSend := [], mirrorOut := none, seen := [], ended := []
    claimAt := none }

/-- The device in which the standby of the holder `m` has taken a whole mirror. -/
def Dev.rejoined (d : Dev) (m : MastId) : Dev :=
  (d.onMast (peerOf m) (fun x => ({ x with pen := x.pen.rejoined (d.pen m) } : Mast).adopt (peerOf m) (d.mirrorOf m) d.beat)).onPen m
    (fun p => { p with toSend := [] })

theorem answers_standbyRejoin_of_linked (hserves : Serves s.dev m) (hgaff : (s.dev.pen m).gaff = true)
    (hruns : s.dev.runs (peerOf m) = true) : Answers .standbyRejoin s (s.dev.rejoined m).judgeProtect := by
  refine answers_of_run rfl ?_
  simp only [hholder]
  have hserving : s.dev.serving = some m := hserves
  exact if_neg (by simp [hgaff, hruns, hserving])

omit hholder in
theorem Dev.pen_rejoined (d : Dev) (m : MastId) : (d.rejoined m).pen (peerOf m) =
    { (d.pen (peerOf m)).rejoined (d.pen m) with mirrorBeat := some d.beat, snapBeat := (d.mirrorOf m).beat } := by
  cases m <;> rfl

/-! ## The gaff link -/

theorem answers_gaffLinkTrained_of_down (hdown : s.dev.fore.pen.gaff = false) (hfore : s.dev.runs .fore = true)
    (hmain : s.dev.runs .main = true) :
    Answers .gaffLinkTrained s (((s.dev.onPen .fore (fun p => { p with gaff := true, gaffUpAt := s.dev.beat })).onPen .main (fun p =>
      { p with gaff := true, gaffUpAt := s.dev.beat })).onPen m (fun p => { p with ctlSync := some (s.dev.reg m 0xA000) })) := by
  have hholder : ((s.dev.onPen .fore (fun p => { p with gaff := true, gaffUpAt := s.dev.beat })).onPen .main (fun p =>
      { p with gaff := true, gaffUpAt := s.dev.beat })).holder = some m := hholder
  refine answers_of_run rfl ((if_neg (by simp [hdown, hfore, hmain])).trans ?_)
  simp only [hholder]
  cases m <;> rfl

end

theorem answers_gaffLinkDown_of_up {s : State} (hup : s.dev.fore.pen.gaff = true) :
    let down := fun (p : Pen) => { p with gaff := false, gaffDownAt := s.dev.beat }
    let d := (s.dev.onPen .fore down).onPen .main down
    let e := (d.each ([MastId.fore, MastId.main].filter d.runs) (fun m d => d.report m 203 2 0 0 none)).judgeProtect
    Answers (.gaffLinkDown false) s (e.act (fun m => e.saveDone m)) :=
  answers_of_run rfl ((if_neg Bool.false_ne_true).trans (if_neg (by simp [hup])))

theorem answers_penCtlWrite_of_writable {s : State} {w : RegWr} {info : RegInfo} (hw : Writable s.dev 0xA000 w info) :
    let r := plainWrite info (s.dev.reg w.mast 0xA000) (s.dev.written 0xA000 w info)
    let d := s.dev.setReg w.mast 0xA000 r
    Answers (.penCtlWrite w) s (if (d.pen w.mast).gaff then d.onPen w.mast (fun p => { p with ctlSync := some r }) else d) :=
  answers_of_run rfl (Dev.barWrite_of_writable hw _)

theorem answers_penCtlSync_of_fore {s : State} {v : Reg64} (hfore : s.dev.fore.pen.ctlSync = some v)
    (hmain : s.dev.main.pen.ctlSync = none) (hgaff : s.dev.fore.pen.gaff = true) (hruns : s.dev.runs .main = true) :
    Answers .penCtlSync s ((s.dev.onPen .fore (fun p => { p with ctlSync := none })).setReg .main 0xA000 v) := by
  have hfore : (s.dev.pen .fore).ctlSync = some v := hfore
  have hmain : (((s.dev.onPen .fore (fun p => { p with ctlSync := none })).setReg .main 0xA000 v).pen .main).ctlSync = none := hmain
  have hlinked : (((s.dev.onPen .fore (fun p => { p with ctlSync := none })).pen .fore).gaff &&
      (s.dev.onPen .fore (fun p => { p with ctlSync := none })).runs .main) = true := Bool.and_eq_true_iff.2 ⟨hgaff, hruns⟩
  refine answers_of_run rfl ?_
  simp only [Dev.each, List.foldl_cons, List.foldl_nil, hfore, peerOf, hlinked, if_true, hmain]

/-- Settles O51, clause by clause. -/
theorem leaseAndMirrorComplete : Obligations.LeaseAndMirrorComplete := by
  refine ⟨fun s m hserves => ⟨fun hedge => ?renewal, fun t b hsent htakes hruns hwaits hgone => ?frame,
      fun t b hsent htakes hend hfirst hfree => ?ack, fun hstaged hlate => ?selfStop, fun ring seq hgaff hruns => ?mirrorAck, ?halted⟩,
    fun s t halive hen hended => ?leaseEnd,
    fun s m hholder => ⟨fun t hruns halive hen => ?idle, fun g hsent hgaff hruns => ?mirror, fun e r hsent hgaff hruns => ?journal,
      fun hserves hgaff hruns => ?rejoin, fun hdown hfore hmain => ?trained⟩,
    fun s hup => ?down, fun s w info hw => ?penCtl, fun s v hfore hmain hgaff hruns => ?sync⟩
  case renewal => exact answers_renewalSend_of_edge hserves hedge
  case frame => exact answers_renewalFrame_of_taken hserves hsent htakes hruns hwaits hgone
  case ack => exact answers_renewalAck_of_free hserves hsent htakes hend hfirst hfree
  case selfStop => exact answers_holderSelfStop_of_late hserves hstaged hlate
  case mirrorAck => exact answers_mirrorAcknowledgement_of_linked hserves hgaff hruns ring seq
  case halted => exact answers_gaffLinkDown_of_halted hserves
  case leaseEnd => exact answers_leaseEnd_of_ended halive hen hended
  case idle => exact answers_idleFrame_of_alive hholder hruns halive hen
  case mirror => exact answers_gaffMirror_of_sent hholder hgaff hruns hsent
  case journal => exact answers_journalEntry_of_sent hholder hgaff hruns hsent
  case rejoin =>
    have hkept : ((s.dev.rejoined m).judgeProtect.pen (peerOf m)).kept = ((s.dev.rejoined m).pen (peerOf m)).kept :=
      congrFun (Dev.penKept_judgeProtect _) (peerOf m)
    rw [Dev.pen_rejoined] at hkept
    exact ⟨_, answers_standbyRejoin_of_linked hholder hserves hgaff hruns, (congrArg Pen.epoch hkept :), (congrArg Pen.holderIdx hkept :),
      (congrArg Pen.stopped hkept :), (congrArg Pen.journal hkept :), (congrArg Pen.mirrorBeat hkept :)⟩
  case trained => exact answers_gaffLinkTrained_of_down hholder hdown hfore hmain
  case down => exact answers_gaffLinkDown_of_up hup
  case penCtl => exact answers_penCtlWrite_of_writable hw
  case sync => exact answers_penCtlSync_of_fore hfore hmain hgaff hruns

end Sys2Proof.Machine
end

section
/-! Proofs for power domains, temperatures, trips and PMBus (R414 to R432, R485). -/

namespace Sys2Proof.Machine

/-! ## What leaves the tiles alone -/

theorem Dev.tiles_ite {p : Prop} [Decidable p] {d e : Dev} {l : Tbl Tile} (hd : d.tiles = l) (he : e.tiles = l) :
    (if p then d else e).tiles = l := by
  split
  · exact hd
  · exact he

theorem Dev.tiles_each {α : Type} {f : α → Dev → Dev} (hf : ∀ x d, (f x d).tiles = d.tiles) (l : List α) (d : Dev) :
    (d.each l f).tiles = d.tiles := by
  unfold Dev.each
  induction l generalizing d with
  | nil => rfl
  | cons a r ih => exact (ih (f a d)).trans (hf a d)

@[simp] theorem Dev.tiles_msix (d : Dev) (m : MastId) (v : Nat) : (d.msix m v).tiles = d.tiles :=
  Dev.tiles_ite (Dev.tiles_setRegF ..) rfl

@[simp] theorem Dev.tiles_log (d : Dev) (m : MastId) (source sev kind unit ep : Nat) (t : Stamp) (info : BitVec 32) :
    (d.log m source sev kind unit ep t info).tiles = d.tiles := by
  unfold Dev.log
  exact Dev.tiles_ite (by simp) (by simp)

@[simp] theorem Dev.tiles_faultIrq (d : Dev) (m : MastId) (sev : Nat) : (d.faultIrq m sev).tiles = d.tiles := by
  unfold Dev.faultIrq
  repeat' split
  all_goals simp

@[simp] theorem Dev.tiles_gleanEvent (d : Dev) (m : MastId) (c : Cause) (beat : Nat) (t : Stamp) (cell : Option Nat) (hal : Nat) :
    (d.gleanEvent m c beat t cell hal).tiles = d.tiles := by
  unfold Dev.gleanEvent
  exact Dev.tiles_ite (by simp) (by simp)

@[simp] theorem Dev.tiles_queueTel (d : Dev) (m : MastId) (i : Nat) (r : TelRec) : (d.queueTel m i r).tiles = d.tiles := by
  unfold Dev.queueTel
  split
  · rfl
  · exact Dev.tiles_ite (by simp) (by simp)

@[simp] theorem Dev.tiles_tel (d : Dev) (m : MastId) (sel : Nat) (r : TelRec) : (d.tel m sel r).tiles = d.tiles := by
  unfold Dev.tel
  refine Dev.tiles_each (f := fun i d => match d.stream m i with
    | some x => if x.defn.sel.getLsbD sel && !x.defn.ipfix && x.produces d.beat then d.queueTel m i r else d
    | none => d) (fun i d => ?_) _ d
  split
  · exact Dev.tiles_ite (Dev.tiles_queueTel ..) rfl
  · rfl

@[simp] theorem Dev.tiles_logFault (d : Dev) (m : MastId) (source sev unit : Nat) (detail : BitVec 32) :
    (d.logFault m source sev unit detail).tiles = d.tiles := by
  unfold Dev.logFault
  rw [Dev.tiles_tel]
  refine Dev.tiles_ite ((Dev.tiles_gleanEvent ..).trans ?_) ?_
  all_goals
    rw [Dev.tiles_pmc, Dev.tiles_faultIrq]
    exact Dev.tiles_ite (by simp) (by simp)

@[simp] theorem Dev.tiles_setLevel (d : Dev) (m : MastId) (l : Nat) : (d.setLevel m l).tiles = d.tiles :=
  (Dev.tiles_logFault ..).trans (Dev.tiles_onPwr ..)

@[simp] theorem Dev.tiles_hover (d : Dev) (m : MastId) : (d.hover m).tiles = d.tiles := by
  unfold Dev.hover
  exact Dev.tiles_ite (by simp) (by simp)

@[simp] theorem Dev.tiles_restage (d : Dev) (m : MastId) : (d.restage m).tiles = d.tiles :=
  Dev.tiles_each (fun _ _ => Dev.tiles_onFab ..) _ _

@[simp] theorem Dev.tiles_restartRecord (d : Dev) (m : MastId) : (d.restartRecord m).tiles = d.tiles := Dev.tiles_onGln ..

theorem Dev.tile_of_tiles {d e : Dev} (h : d.tiles = e.tiles) (t : Nat) : d.tile t = e.tile t := by rw [Dev.tile, Dev.tile, h]

theorem Dev.tile_onTile_ne (d : Dev) {t u : Nat} (h : u ≠ t) (f : Tile → Tile) : (d.onTile t f).tile u = d.tile u :=
  Dev.tile_setTile_ne _ _ _ _ h

/-- An update of several tiles changes each of them once. -/
theorem Dev.tile_onTiles_of_mem {f : Nat → Tile → Tile} {ts : List Nat} (hnodup : ts.Nodup) {t : Nat} (ht : t ∈ ts) (d : Dev) :
    (d.onTiles ts f).tile t = f t (d.tile t) := by
  have hother (ts : List Nat) (hnot : t ∉ ts) (d : Dev) : (d.onTiles ts f).tile t = d.tile t := by
    unfold Dev.onTiles
    induction ts generalizing d with
    | nil => rfl
    | cons u r ih =>
      obtain ⟨hne, hr⟩ := not_or.1 (mt List.mem_cons.2 hnot)
      exact (ih hr _).trans (Dev.tile_onTile_ne d hne _)
  unfold Dev.onTiles
  induction ts generalizing d with
  | nil => exact absurd ht List.not_mem_nil
  | cons u r ih =>
    obtain ⟨hu, hr⟩ := List.nodup_cons.1 hnodup
    rcases List.mem_cons.1 ht with rfl | ht
    · exact (hother r hu _).trans (Dev.tile_setTile ..)
    · exact (ih hr ht _).trans (congrArg (f t) (Dev.tile_onTile_ne d (fun (h : t = u) => hu (h ▸ ht)) _))

/-! ## Domains -/

theorem inrush_le (q : Nat) : inrush q ≤ 30 := by
  unfold inrush
  repeat' split
  all_goals omega

theorem letIn_one (q : Nat) : letIn 80 [q] = ([q], []) := if_pos ((inrush_le q).trans (by decide))

theorem answers_admissionSlot_of_one {s : State} {q : Nat} (hslot : s.dev.aon.slotAt ≤ s.dev.beat) (hqueue : s.dev.aon.queue = [q]) :
    Answers .admissionSlot s { s.dev with aon := { s.dev.aon with
      queue := [], waking := s.dev.aon.waking ++ [(q, s.dev.beat + 500)], slotAt := s.dev.beat + 1000, late := [] } } := by
  refine answers_of_run rfl ((if_neg (Nat.not_lt.2 hslot)).trans ?_)
  simp only [hqueue, letIn_one]
  rfl

theorem answers_domainAlive_of_due {s : State} {k b : Nat} (hk : k < 16) (hwaking : s.dev.aon.waking = [(k, b)]) (hdue : b ≤ s.dev.beat) :
    Answers (.domainAlive k) s
      { s.dev with aon := { s.dev.aon with waking := [], on := s.dev.aon.on ||| (msk k 1).setWidth 48 } } := by
  refine answers_of_run rfl ((if_neg (by simp [hwaking, hdue])).trans ?_)
  have hdom : ¬ 16 ≤ k := Nat.not_le.2 hk
  simp [hwaking, hdom]

section
variable {s : State} {t : Nat} (hedge : s.dev.watchEdge = true)
include hedge

/-- The device with a tile that came into service after POWERED, its cells OPEN. -/
def Dev.tileServed (d : Dev) (m : MastId) (t : Nat) : Dev :=
  ((d.enableTile m t).onTile t (fun x => ({ x with ramp := 0 } : Tile).mapCells (fun c =>
    { c with lp := { c.lp with mode := 2, openCode := 0 }, cal := calNone }))).restartRecord m

theorem answers_tileEnabled_of_powered {m : MastId} (hserves : Serves s.dev m) (halive : (s.dev.tile t).alive = true)
    (hcal : (s.dev.tile t).selfcal = none) (hen : (s.dev.tile t).enabled = false) (hstage : (s.dev.mast m).boot.stage = .powered) :
    Answers (.tileEnabled t) s (s.dev.tileServed m t) := by
  refine answers_of_serves hserves rfl ((if_neg (by simp [hedge, halive, hcal, hen, hstage, Stage.powered?])).trans ?_)
  simp only [hstage]
  rfl

/-- The device with a tile gone off: its state and its requests back to reset. -/
def Dev.tileGone (d : Dev) (t : Nat) : Dev :=
  let dom := 16 + 2 * t
  { d.setTile t tileReset with aon := { d.aon with
    on := d.aon.on &&& ~~~ ((msk dom 2).setWidth 48), queue := d.aon.queue.filter (· != dom)
    waking := d.aon.waking.filter (fun w => w.1 != dom), late := d.aon.late.filter (· != dom) } }

theorem answers_tileDisable_of_asked (ht : t < 16) (hasked : (s.dev.tile t).disabling = true) :
    Answers (.tileDisable t) s ((s.dev.tileGone t).act (fun m =>
      if (s.dev.tile t).enabled then ((s.dev.tileGone t).restage m).restartRecord m else s.dev.tileGone t)) :=
  answers_of_run rfl (if_neg (by simp [hedge, ht, hasked]))

end

theorem Dev.tiles_act {d : Dev} {f : MastId → Dev} (hf : ∀ m, (f m).tiles = d.tiles) : (d.act f).tiles = d.tiles := by
  unfold Dev.act
  split
  · rfl
  · exact hf _

theorem Dev.tile_tileGone (d : Dev) (t : Nat) : (d.tileGone t).tile t = tileReset := Dev.tile_setTile d t tileReset

theorem Dev.mode_tileServed (d : Dev) (m : MastId) (t l : Nat) : (((d.tileServed m t).tile t).cell l).lp.mode = 2 := by
  rw [Dev.tileServed, Dev.tile_of_tiles (Dev.tiles_restartRecord ..), Dev.onTile, Dev.tile_setTile, Tile.cell_mapCells]

/-! ## Sprints, levels and junction temperature -/

theorem Dev.onPwr_congr {d : Dev} {m : MastId} {f g : Pwr → Pwr} (h : f (d.mast m).pwr = g (d.mast m).pwr) : d.onPwr m f = d.onPwr m g := by
  simp only [Dev.onPwr, Dev.onMast, h]

section
variable {s : State} {m : MastId} (hserves : Serves s.dev m)
include hserves

theorem answers_sprintLimit_of_over {b : Nat} (hedge : s.dev.watchEdge = true) (hsprint : (s.dev.mast m).pwr.sprint = some b)
    (hover : b + 2000000 ≤ s.dev.beat) : Answers .sprintLimit s (s.dev.endSprint m true) :=
  answers_of_serves hserves rfl (if_pos (by simp [hedge, Dev.sprintOver, hsprint, hover]))

theorem answers_sprintWaitEnd_of_due {b : Nat} (hwait : (s.dev.mast m).pwr.waitUntil = some b) (hdue : b ≤ s.dev.beat) :
    Answers .sprintWaitEnd s (s.dev.onPwr m (fun x => { x with waitUntil := none })) :=
  answers_of_serves hserves rfl (by
    unfold Dev.endWait
    refine Dev.onPwr_congr ?_
    simp only [hwait]
    exact if_pos hdue)

theorem answers_hoverDwellEnd_of_full {n : Nat} (hdwell : (s.dev.mast m).pwr.dwell = some n) (hfull : 1000 ≤ n) :
    Answers .hoverDwellEnd s (s.dev.setLevel m ((s.dev.mast m).pwr.level - 1)) := by
  refine answers_of_serves hserves rfl ?_
  simp only [hdwell]
  exact if_pos hfull

theorem answers_junctionWarningClear_of_cool {b : Nat} (hcool : (s.dev.mast m).pwr.jcool = some b) (hdue : b + 10000000 ≤ s.dev.beat) :
    Answers .junctionWarningClear s (s.dev.onPwr m (fun x => { x with jwarn := false })) := by
  refine answers_of_serves hserves rfl ?_
  simp only [hcool]
  exact if_pos hdue

section
variable {tj : Int} (htrip : s.dev.aon.tripped = none)
include htrip

theorem answers_junctionSample_of_hot (htj : 10000 ≤ tj) (hwarn : (s.dev.mast m).pwr.jwarn = false) :
    Answers (.junctionSample tj) s
      ((s.dev.onPwr m (fun x => { x with tj := tj, jwarn := true, jcool := none })).report m 206 2 0 6 none) := by
  have hcool : ¬ tj ≤ 9800 := by omega
  refine answers_of_run rfl ?_
  simp only [htrip, Option.isSome_none, Bool.false_eq_true, if_false]
  refine (Dev.act_of_serves hserves _).trans ((if_pos (by simp [htj, hwarn])).trans ?_)
  simp [htj, hwarn, hcool]

theorem answers_junctionSample_of_cool (htj : tj ≤ 9800) (hcool : (s.dev.mast m).pwr.jcool = none) :
    Answers (.junctionSample tj) s (s.dev.onPwr m (fun x => { x with tj := tj, jwarn := x.jwarn, jcool := some s.dev.beat })) := by
  have hhot : ¬ 10000 ≤ tj := by omega
  refine answers_of_run rfl ?_
  simp only [htrip, Option.isSome_none, Bool.false_eq_true, if_false]
  refine (Dev.act_of_serves hserves _).trans ((if_neg (by simp [hhot])).trans ?_)
  refine Dev.onPwr_congr ?_
  simp [htj, hhot, hcool]

end

/-! ## PMBus and temperatures -/

theorem answers_pmbusPoll_of_due {b : Nat} (r : List (Nat × Option Nat)) (hat : (s.dev.mast m).pwr.pmbAt = some b)
    (hdue : b + 1000000 ≤ s.dev.beat) :
    Answers (.pmbusPoll r) s ((s.dev.pmbusRead m r).onPwr m (fun x => { x with pmbAt := some s.dev.beat })) := by
  refine answers_of_serves hserves rfl ?_
  simp only [hat]
  exact if_pos (decide_eq_true hdue)

omit hserves in
/-- A mast that serves goes on serving whatever the tiles hold. -/
theorem Dev.serves_onTiles {d : Dev} (hserves : Serves d m) (ts : List Nat) (f : Nat → Tile → Tile) : Serves (d.onTiles ts f) m := by
  unfold Dev.onTiles
  induction ts generalizing d with
  | nil => exact hserves
  | cons t r ih => exact ih (d := d.onTile t (f t)) hserves

/-- The device after a reading of every alive tile's temperature. -/
def Dev.readTemps (d : Dev) (m : MastId) (sens : List (List Int)) : Dev :=
  let e := d.onTiles d.aliveTiles (fun t x => x.reading ((sens.getD t []).take 4))
  let trig := (List.range 16).filter (fun t => bit (e.cal m).trig t || e.trigDue m t)
  (e.onCal m (fun c => { c with trig := maskOf trig })).hover m

theorem answers_temperatureUpdate_of_edge (sens : List (List Int)) (hedge : s.dev.now.ns % 1000000 = 0) :
    Answers (.temperatureUpdate sens) s (s.dev.readTemps m sens) := by
  have hserves : Serves (s.dev.onTiles s.dev.aliveTiles (fun t x => x.reading ((sens.getD t []).take 4))) m :=
    Dev.serves_onTiles hserves _ _
  exact answers_of_run rfl ((if_neg (by simp [hedge])).trans (Dev.act_of_serves hserves _))

end

theorem Dev.temp_readTemps (d : Dev) (m : MastId) (sens : List (List Int)) {t : Nat} (ht : t < 16) (halive : (d.tile t).alive = true) :
    ((d.readTemps m sens).tile t).temp = rhuDiv ((sens.getD t []).take 4).sum 4 := by
  have hmem : t ∈ d.aliveTiles := List.mem_filter.2 ⟨List.mem_range.2 ht, halive⟩
  have hnodup : d.aliveTiles.Nodup := List.nodup_range.filter _
  rw [Dev.readTemps, Dev.tile_of_tiles ((Dev.tiles_hover ..).trans (Dev.tiles_onCal ..)), Dev.tile_onTiles_of_mem hnodup hmem]
  rfl

/-! ## The heater rail and trips -/

theorem answers_pwrHtrWrite_of_writable {s : State} {w : RegWr} {info : RegInfo} (hw : Writable s.dev 0x8008 w info) :
    let v := s.dev.written 0x8008 w info
    let old := s.dev.reg w.mast 0x8008
    let cont := if 1000 ≤ fld v 0 20 ∧ fld v 0 20 ≤ 60000 then fld v 0 20 else fld old 0 20
    let spr := if cont ≤ fld v 20 20 ∧ fld v 20 20 ≤ 96000 then fld v 20 20 else Nat.max (fld old 20 20) cont
    Answers (.pwrHtrWrite w) s (s.dev.setReg w.mast 0x8008 (setFld (setFld (plainWrite info old v) 0 20 cont) 20 20 spr)) := by
  refine answers_of_run rfl ((Dev.barWrite_of_writable hw _).trans ?_)
  simp only [Bool.and_eq_true, decide_eq_true_eq]

theorem answers_thermalTrip_of_first {s : State} (hfirst : s.dev.aon.tripped = none) :
    ∃ d, Answers .thermalTrip s d ∧ d.beat = 0 ∧ d.now = ⟨0, 0⟩ ∧ d.tiles = [] ∧ d.aon.tripped = some 0 ∧
      d.aon.trips = satAdd 16 s.dev.aon.trips 1 ∧ d.aon.on = 0 ∧ d.fore.regs = s.dev.fore.reset.regs ∧
      d.main.regs = s.dev.main.reset.regs :=
  ⟨_, answers_of_run rfl (if_neg (by simp [hfirst])), rfl, rfl, rfl, rfl, rfl, rfl, rfl, rfl⟩

/-- The device with the NOR devices off. -/
def Dev.norCut (d : Dev) : Dev :=
  let cut := fun (b : Boot) => { b with nor := { b.nor with job := none } }
  let e := (d.onBoot .fore cut).onBoot .main cut
  { e with aon := { e.aon with norOn := false } }

theorem answers_norHoldupEnd_of_due {s : State} {b : Nat} (htrip : s.dev.aon.tripped = some b) (hdue : b + 20000 ≤ s.dev.beat) :
    ∃ d, Answers .norHoldupEnd s d ∧ d.aon.norOn = false ∧ d.fore.boot.nor.job = none ∧ d.main.boot.nor.job = none := by
  have hanswers : Answers .norHoldupEnd s s.dev.norCut := by
    refine answers_of_run rfl ?_
    simp only [htrip]
    exact if_pos hdue
  exact ⟨_, hanswers, rfl, rfl, rfl⟩

theorem answers_thermalRestart_of_cool {s : State} {b : Nat} (sel : BitVec 2) (htrip : s.dev.aon.tripped = some b)
    (hpin : s.dev.pins.poresetN = true) (hcool : 10001 ≤ s.dev.aon.cool) :
    Answers (.thermalRestart sel) s (({ s.dev with aon := { s.dev.aon with
      tripped := none, last := true, norOn := true, cool := 0 } } : Dev).powerUp sel) :=
  answers_of_run rfl (if_neg (by simp [htrip, hpin, Nat.not_lt.2 hcool]))

/-- Settles O53, clause by clause. -/
theorem powerCompletes : Obligations.PowerCompletes := by
  refine ⟨fun s q hslot hqueue => ?admission, fun s k b hk hwaking hdue => ?alive,
    fun s m t hserves hedge halive hcal hen hstage => ?enabled, fun s t hedge ht hasked => ?disabled,
    fun s m hserves => ⟨fun b hedge hsprint hover => ?sprint, fun b hwait hdue => ?wait, fun n hdwell hfull => ?dwell,
      fun b hcool hdue => ?warningClear, fun tj htrip => ⟨fun htj hwarn => ?hot, fun htj hcool => ?cool⟩,
      fun r => answers_of_serves hserves rfl rfl, fun r b hat hdue => ?poll, fun sens hedge => ?temperatures⟩,
    fun s w info hw => ?heater, fun s hfirst => ?trip, fun s b htrip hdue => ?nor, fun s b sel htrip hpin hcool => ?restart⟩
  case admission => exact answers_admissionSlot_of_one hslot hqueue
  case alive => exact answers_domainAlive_of_due hk hwaking hdue
  case enabled =>
    exact ⟨_, answers_tileEnabled_of_powered hedge hserves halive hcal hen hstage, fun l => Dev.mode_tileServed s.dev m t l⟩
  case disabled =>
    refine ⟨_, answers_tileDisable_of_asked hedge ht hasked, ?_⟩
    rw [Dev.tile_of_tiles (Dev.tiles_act fun m => Dev.tiles_ite (by simp) rfl), Dev.tile_tileGone]
  case sprint => exact answers_sprintLimit_of_over hserves hedge hsprint hover
  case wait => exact answers_sprintWaitEnd_of_due hserves hwait hdue
  case dwell => exact answers_hoverDwellEnd_of_full hserves hdwell hfull
  case warningClear => exact answers_junctionWarningClear_of_cool hserves hcool hdue
  case hot => exact answers_junctionSample_of_hot hserves htrip htj hwarn
  case cool => exact answers_junctionSample_of_cool hserves htrip htj hcool
  case poll => exact answers_pmbusPoll_of_due hserves r hat hdue
  case temperatures =>
    exact ⟨_, answers_temperatureUpdate_of_edge hserves sens hedge, fun t ht halive => Dev.temp_readTemps s.dev m sens ht halive⟩
  case heater => exact answers_pwrHtrWrite_of_writable hw
  case trip => exact answers_thermalTrip_of_first hfirst
  case nor => exact answers_norHoldupEnd_of_due htrip hdue
  case restart => exact answers_thermalRestart_of_cool sel htrip hpin hcool

end Sys2Proof.Machine
end
